-- ==== Sys2Proof/Word.lean ====
section
/-!
DEFINITION. Words of the Ulirra and their plainest arithmetic (spec/01 R11, spec/02 R41).
-/
namespace Sys2Proof

abbrev Byte := BitVec 8
abbrev Word := BitVec 32
abbrev DWord := BitVec 64

/-- The signed value of the low `w` bits of `v` (spec/05 R103, Sext). -/
def sext (w v : Nat) : Int :=
  let u := v % 2 ^ w
  if u < 2 ^ (w - 1) then (u : Int) else (u : Int) - (2 : Int) ^ w

/-- The low `w` bits of an integer, as a natural number. -/
def low (w : Nat) (i : Int) : Nat := (i % (2 : Int) ^ w).toNat

/-- Bits `hi` down to `lo` of `v` (spec/00 R4). -/
def bits (v hi lo : Nat) : Nat := v / 2 ^ lo % 2 ^ (hi + 1 - lo)

/-- Bit `i` of `v`. -/
def bit (v i : Nat) : Bool := v / 2 ^ i % 2 == 1

end Sys2Proof
end

