-- ==== Sys2Proof/Machine/Float.lean ====
section
/-!
DEFINITION. Numbers and exact arithmetic (spec/02): the floating-point formats, exact values, rounding with flags,
and the correctly rounded functions. Every function computes with natural numbers, so the kernel can run it.
-/
namespace Sys2Proof.Machine

/-- The floating-point formats of R43, but for the scale format E8M0. -/
inductive FloatFmt where
  | f64
  | f32
  | f16
  | bf16
  | e4m3
  | e5m2
  | e2m1
  deriving DecidableEq, Repr

/-- A decoded float: a NaN (signalling or not), an infinity, or (-1)^neg * m * 2^e. -/
inductive FloatVal where
  | nan (signalling : Bool)
  | inf (neg : Bool)
  | fin (neg : Bool) (m : Nat) (e : Int)
  deriving DecidableEq, Repr

/-- A finite exact value: its magnitude is m * 2^e, or, with `sticky`, lies strictly between m * 2^e and (m+1) * 2^e. -/
structure ExactVal where
  neg : Bool
  m : Nat
  e : Int
  sticky : Bool := false
  deriving DecidableEq, Repr

/-- What an operation yields before rounding. -/
inductive RawResult where
  | nan (flags : Nat)
  | inf (neg : Bool) (flags : Nat)
  | exact (v : ExactVal)
  deriving DecidableEq, Repr

/-! FLAGS bits (R17). -/

def flagNV : Nat := 1
def flagDZ : Nat := 2
def flagOF : Nat := 4
def flagUF : Nat := 8
def flagNX : Nat := 16
def flagSAT : Nat := 32

/-! The columns of R43. -/

def FloatFmt.expBits : FloatFmt → Nat
  | .f64 => 11 | .f32 => 8 | .f16 => 5 | .bf16 => 8 | .e4m3 => 4 | .e5m2 => 5 | .e2m1 => 2

def FloatFmt.fracBits : FloatFmt → Nat
  | .f64 => 52 | .f32 => 23 | .f16 => 10 | .bf16 => 7 | .e4m3 => 3 | .e5m2 => 2 | .e2m1 => 1

def FloatFmt.bias : FloatFmt → Nat
  | .f64 => 1023 | .f32 => 127 | .f16 => 15 | .bf16 => 127 | .e4m3 => 7 | .e5m2 => 15 | .e2m1 => 1

def FloatFmt.width (f : FloatFmt) : Nat := 1 + f.expBits + f.fracBits

/-- The magnitude bits of the largest finite value. -/
def FloatFmt.maxFinite : FloatFmt → Nat
  | .f64 => 0x7FEFFFFFFFFFFFFF | .f32 => 0x7F7FFFFF | .f16 => 0x7BFF | .bf16 => 0x7F7F
  | .e4m3 => 0x7E | .e5m2 => 0x7B | .e2m1 => 7

/-- The magnitude bits of infinity, where the format has one. -/
def FloatFmt.infBits : FloatFmt → Option Nat
  | .f64 => some 0x7FF0000000000000 | .f32 => some 0x7F800000 | .f16 => some 0x7C00 | .bf16 => some 0x7F80
  | .e4m3 => none | .e5m2 => some 0x7C | .e2m1 => none

/-- The canonical NaN (R43); E2M1 has none, and a NaN converted to it gives +0 (R50). -/
def canonNaN : FloatFmt → Nat
  | .f64 => 0x7FF8000000000000 | .f32 => 0x7FC00000 | .f16 => 0x7E00 | .bf16 => 0x7FC0
  | .e4m3 => 0x7F | .e5m2 => 0x7E | .e2m1 => 0

/-- The sign bit's weight. -/
def FloatFmt.signBit (f : FloatFmt) : Nat := 2 ^ (f.width - 1)

/-- The value of a bit pattern (R43, R46). -/
def floatVal (f : FloatFmt) (b : Nat) : FloatVal :=
  let neg := bit b (f.width - 1)
  let F := f.fracBits
  let ef := bits b (F + f.expBits - 1) F
  let fr := b % 2 ^ F
  let top := 2 ^ f.expBits - 1
  let number :=
    if ef == 0 then FloatVal.fin neg fr (1 - (f.bias : Int) - F)
    else FloatVal.fin neg (2 ^ F + fr) ((ef : Int) - f.bias - F)
  match f with
  | .e2m1 => number
  | .e4m3 => if ef == top && fr == 7 then .nan false else number
  | _ =>
    if ef == top then
      if fr == 0 then .inf neg else .nan (!(bit fr (F - 1)))
    else number

/-- The value of an E8M0 scale: a power of two, or NaN (R43). -/
def e8m0Val (b : Nat) : FloatVal :=
  if b % 256 == 255 then .nan false else .fin false 1 ((b % 256 : Nat) - 127)

/-- The bits of a magnitude under a sign. -/
def withSign (f : FloatFmt) (neg : Bool) (mag : Nat) : Nat := if neg then f.signBit + mag else mag

/-! ## Rounding (R49, R50, R53) -/

/-- Whether the magnitude rounds up, from the remainder `rem` of 2^s and the sticky bit. -/
def roundsUp (mode g : Nat) (neg odd : Bool) (rem s : Nat) (sticky : Bool) : Bool :=
  let half := 2 ^ s
  let inexact := rem != 0 || sticky
  match mode with
  | 0 => decide (2 * rem > half) || (2 * rem == half && (sticky || odd))
  | 1 => false
  | 2 => inexact && neg
  | 3 => inexact && !neg
  | 4 => decide (2 * rem ≥ half) && inexact
  | _ => decide (rem * 65536 / 2 ^ s + g ≥ 65536)

/-- `v` rounded to a multiple of 2^q: the multiple and whether it differs from `v`. -/
def roundAt (mode g : Nat) (v : ExactVal) (q : Int) : Nat × Bool :=
  let s := q - v.e
  if s ≤ 0 then (v.m * 2 ^ (-s).toNat, v.sticky)
  else
    let n := s.toNat
    let k := v.m / 2 ^ n
    let rem := v.m % 2 ^ n
    let up := roundsUp mode g v.neg (k % 2 == 1) rem n v.sticky
    (if up then k + 1 else k, rem != 0 || v.sticky)

/-- Whether the mode rounds toward zero for a sign (R50). -/
def towardZero (mode : Nat) (neg : Bool) : Bool :=
  mode == 1 || (mode == 2 && !neg) || (mode == 3 && neg)

/-- What an overflow delivers (R50). -/
def overflowBits (f : FloatFmt) (mode : Nat) (sat neg : Bool) : Nat :=
  match f with
  | .e4m3 => if sat then withSign f neg f.maxFinite else canonNaN f
  | .e2m1 => withSign f neg f.maxFinite
  | _ =>
    if sat || towardZero mode neg then withSign f neg f.maxFinite
    else withSign f neg (f.infBits.getD 0)

/-- RoundF of a finite exact value (R47, R49, R50, R53): the result bits and the flags. -/
def roundExact (f : FloatFmt) (mode : Nat) (sat : Bool) (g : Nat) (v : ExactVal) : Nat × Nat :=
  if v.m == 0 && !v.sticky then (withSign f v.neg 0, 0)
  else
    let F := f.fracBits
    let L : Int := (Nat.log2 v.m : Int) + 1
    let qFree := v.e + L - (F + 1)
    let qMin : Int := 1 - (f.bias : Int) - F
    let q := max qFree qMin
    let (k, inexact) := roundAt mode g v q
    let mag := ((q + F + f.bias - 1) * (2 : Int) ^ F + k).toNat
    if mag > f.maxFinite then (overflowBits f mode sat v.neg, flagOF + flagNX)
    else
      let (kf, _) := roundAt mode g v qFree
      -- tiny: the result rounded with an unbounded exponent range is below 2^(1 - bias)
      let tiny := decide (qFree < qMin) && decide (kf < 2 ^ (1 - (f.bias : Int) - qFree).toNat)
      (withSign f v.neg mag, (if inexact then flagNX else 0) + (if tiny && inexact then flagUF else 0))

/-- RoundF of a raw result in float arithmetic: NaN and infinity as they stand (R46, R50). -/
def roundRaw (f : FloatFmt) (mode : Nat) (sat : Bool) (g : Nat) : RawResult → Nat × Nat
  | .nan fl => (canonNaN f, fl)
  | .inf neg fl => (withSign f neg (f.infBits.getD 0), fl)
  | .exact v => roundExact f mode sat g v

/-- A conversion that rounds (R50): what NaN and infinite inputs give, and RoundF otherwise. -/
def roundConv (f : FloatFmt) (mode : Nat) (sat : Bool) (g : Nat) : FloatVal → Nat × Nat
  | .nan s =>
    match f with
    | .e2m1 => (0, flagNV)
    | _ => (canonNaN f, if s then flagNV else 0)
  | .inf neg =>
    match f with
    | .e2m1 => (withSign f neg f.maxFinite, 0)
    | .e4m3 => if sat then (withSign f neg f.maxFinite, 0) else (canonNaN f, flagNV)
    | _ => if sat then (withSign f neg f.maxFinite, 0) else (withSign f neg (f.infBits.getD 0), 0)
  | .fin neg m e => roundExact f mode sat g (ExactVal.mk neg m e false)

/-- An exact conversion (R147): an infinite input is the infinity of its target and sets no flag. -/
def exactConv (f : FloatFmt) : FloatVal → Nat × Nat
  | .nan s => (canonNaN f, if s then flagNV else 0)
  | .inf neg => (withSign f neg (f.infBits.getD 0), 0)
  | .fin neg m e => roundExact f 0 false 0 (ExactVal.mk neg m e false)

/-! ## Exact arithmetic -/

/-- The signed integer of a value on the grid 2^q, for q at or below its exponent. -/
def onGrid (neg : Bool) (m : Nat) (e q : Int) : Int :=
  let k : Int := (m * 2 ^ (e - q).toNat : Nat)
  if neg then -k else k

/-- The exact sum of two finite values; a zero sum is -0 for equal negative zeros and, otherwise, in RDN (R143). -/
def exactAdd (mode : Nat) (n1 : Bool) (m1 : Nat) (e1 : Int) (n2 : Bool) (m2 : Nat) (e2 : Int) : ExactVal :=
  let q := min e1 e2
  let s := onGrid n1 m1 e1 q + onGrid n2 m2 e2 q
  if s == 0 then
    let neg := if m1 == 0 && m2 == 0 && n1 == n2 then n1 else mode == 2
    ExactVal.mk neg 0 0 false
  else ExactVal.mk (decide (s < 0)) s.natAbs q false

def anySignalling : List FloatVal → Bool
  | [] => false
  | .nan true :: _ => true
  | _ :: vs => anySignalling vs

def anyNaN : List FloatVal → Bool
  | [] => false
  | .nan _ :: _ => true
  | _ :: vs => anyNaN vs

/-- The flags of a NaN operand (R47). -/
def nanFlags (vs : List FloatVal) : Nat := if anySignalling vs then flagNV else 0

/-- A + B (R143). -/
def rawAdd (mode : Nat) : FloatVal → FloatVal → RawResult
  | .inf n1, .inf n2 => if n1 == n2 then .inf n1 0 else .nan flagNV
  | .inf n1, .fin _ _ _ => .inf n1 0
  | .fin _ _ _, .inf n2 => .inf n2 0
  | .fin n1 m1 e1, .fin n2 m2 e2 => .exact (exactAdd mode n1 m1 e1 n2 m2 e2)
  | a, b => .nan (nanFlags [a, b])

/-- A * B (R143). -/
def rawMul : FloatVal → FloatVal → RawResult
  | .inf n1, .inf n2 => .inf (n1 != n2) 0
  | .inf n1, .fin n2 m _ => if m == 0 then .nan flagNV else .inf (n1 != n2) 0
  | .fin n1 m _, .inf n2 => if m == 0 then .nan flagNV else .inf (n1 != n2) 0
  | .fin n1 m1 e1, .fin n2 m2 e2 => .exact (ExactVal.mk (n1 != n2) (m1 * m2) (e1 + e2) false)
  | a, b => .nan (nanFlags [a, b])

/-- A * B + C with one rounding (R143, R47). -/
def rawFma (mode : Nat) (a b c : FloatVal) : RawResult :=
  match rawMul a b with
  | .nan fl =>
    if anyNaN [a, b] then .nan (nanFlags [a, b, c]) else .nan fl
  | .inf n _ =>
    match c with
    | .nan s => .nan (if s then flagNV else 0)
    | .inf nc => if n == nc then .inf n 0 else .nan flagNV
    | .fin _ _ _ => .inf n 0
  | .exact p =>
    match c with
    | .nan s => .nan (if s then flagNV else 0)
    | .inf nc => .inf nc 0
    | .fin nc mc ec => .exact (exactAdd mode p.neg p.m p.e nc mc ec)

/-- The value negated. -/
def FloatVal.negate : FloatVal → FloatVal
  | .nan s => .nan s
  | .inf n => .inf (!n)
  | .fin n m e => .fin (!n) m e

/-- Order of two numbers: a < b (both not NaN); -0 equals +0. -/
def FloatVal.lt : FloatVal → FloatVal → Bool
  | .inf n, .inf k => n && !k
  | .inf n, .fin _ _ _ => n
  | .fin _ _ _, .inf k => !k
  | .fin n1 m1 e1, .fin n2 m2 e2 =>
    let q := min e1 e2
    decide (onGrid n1 m1 e1 q < onGrid n2 m2 e2 q)
  | _, _ => false

def FloatVal.isNeg : FloatVal → Bool
  | .nan _ => false
  | .inf n => n
  | .fin n _ _ => n

/-- fmin and fmax (R48) over bit patterns. -/
def floatMinMax (f : FloatFmt) (isMax : Bool) (a b : Nat) : Nat × Nat :=
  let va := floatVal f a
  let vb := floatVal f b
  if anyNaN [va, vb] then (canonNaN f, nanFlags [va, vb])
  else if va.lt vb then (if isMax then b else a, 0)
  else if vb.lt va then (if isMax then a else b, 0)
  -- equal: they differ at most in the sign of a zero
  else if isMax then (if va.isNeg then b else a, 0) else (if va.isNeg then a else b, 0)

/-! ## Division and roots (R55) -/

/-- The quotient of two positive values to 128 bits or more, with the sticky bit. -/
def exactDiv (neg : Bool) (m1 : Nat) (e1 : Int) (m2 : Nat) (e2 : Int) : ExactVal :=
  let sh := 128 + Nat.log2 m2
  let num := m1 * 2 ^ sh
  ExactVal.mk neg (num / m2) (e1 - e2 - sh) (num % m2 != 0)

/-- A / B as IEEE 754-2019 division (R55). -/
def rawDiv : FloatVal → FloatVal → RawResult
  | .inf _, .inf _ => .nan flagNV
  | .inf n1, .fin n2 _ _ => .inf (n1 != n2) 0
  | .fin n1 _ _, .inf n2 => .exact (ExactVal.mk (n1 != n2) 0 0 false)
  | .fin n1 m1 e1, .fin n2 m2 e2 =>
    if m2 == 0 then (if m1 == 0 then .nan flagNV else .inf (n1 != n2) flagDZ)
    else if m1 == 0 then .exact (ExactVal.mk (n1 != n2) 0 0 false)
    else .exact (exactDiv (n1 != n2) m1 e1 m2 e2)
  | a, b => .nan (nanFlags [a, b])

/-- Newton's iteration for the integer square root, from above. -/
def isqrtLoop (n : Nat) : Nat → Nat → Nat
  | 0, x => x
  | fuel + 1, x =>
    let y := (x + n / x) / 2
    if y < x then isqrtLoop n fuel y else x

/-- The floor of the square root. -/
def isqrt (n : Nat) : Nat := if n == 0 then 0 else isqrtLoop n 512 (2 ^ (Nat.log2 n / 2 + 1))

/-- A positive value with an even exponent. -/
def evenExp (m : Nat) (e : Int) : Nat × Int := if e % 2 == 0 then (m, e) else (2 * m, e - 1)

/-- The square root (R55). -/
def rawSqrt : FloatVal → RawResult
  | .nan s => .nan (if s then flagNV else 0)
  | .inf n => if n then .nan flagNV else .inf false 0
  | .fin n m e =>
    if m == 0 then .exact (ExactVal.mk n 0 0 false)
    else if n then .nan flagNV
    else
      let (m2, e2) := evenExp m e
      let big := m2 * 2 ^ 256
      let r := isqrt big
      .exact (ExactVal.mk false r (e2 / 2 - 128) (r * r != big))

/-- The reciprocal square root (R55). -/
def rawRsqrt : FloatVal → RawResult
  | .nan s => .nan (if s then flagNV else 0)
  | .inf n => if n then .nan flagNV else .exact (ExactVal.mk false 0 0 false)
  | .fin n m e =>
    if m == 0 then .inf n flagDZ
    else if n then .nan flagNV
    else
      let (m2, e2) := evenExp m e
      let r := isqrt (2 ^ 320 / m2)
      .exact (ExactVal.mk false r (-(e2 / 2) - 160) (r * r * m2 != 2 ^ 320))

/-! ## The transcendental functions (R55)

Each is computed in fixed point with w fraction bits as an interval [lo, hi]; the precision doubles until the interval
lies inside one cell of the wanted grid, so that the rounding of R49 and R53 sees the exact result. -/

/-- Sum of t, t*r/1, ... : the Taylor terms of e^r with w fraction bits. -/
def expTerms (w r : Nat) : Nat → Nat → Nat → Nat
  | 0, _, _ => 0
  | fuel + 1, k, t => if t == 0 then 0 else t + expTerms w r fuel (k + 1) (t * r / 2 ^ w / k)

/-- atan(1/q) or atanh(1/q) with w fraction bits: q^-(2k+1)/(2k+1), alternating when `alt`. -/
def atanTerms (q2 : Nat) (alt : Bool) : Nat → Nat → Nat → Bool → Int
  | 0, _, _, _ => 0
  | fuel + 1, k, p, s =>
    if p == 0 then 0
    else
      let t : Int := (p / (2 * k + 1) : Nat)
      (if s then -t else t) + atanTerms q2 alt fuel (k + 1) (p / q2) (if alt then !s else s)

/-- ln 2 = 2 atanh(1/3), with w fraction bits, low by less than 2^9 units. -/
def ln2Fix (w : Nat) : Nat := (2 * atanTerms 9 false (w + 2) 0 (2 ^ w / 3) false).toNat

/-- pi = 16 atan(1/5) - 4 atan(1/239), with w fraction bits and w guard error below 2^16 units. -/
def piFix (w : Nat) : Nat :=
  let v := w + 64
  ((16 * atanTerms 25 true (v + 2) 0 (2 ^ v / 5) false - 4 * atanTerms (239 * 239) true (v + 2) 0 (2 ^ v / 239) false)
    / (2 : Int) ^ 64).toNat

/-- A dyadic magnitude m * 2^e in fixed point with w fraction bits, rounded down. -/
def toFix (w m : Nat) (e : Int) : Nat :=
  let s := e + w
  if s ≥ 0 then m * 2 ^ s.toNat else m / 2 ^ (-s).toNat

/-- The error allowance, in units, of one evaluation with w fraction bits. -/
def fixErr (w : Nat) : Nat := 16 * w + 65536

/-- e^(-y) for y = m * 2^e: an interval with w fraction bits after the factor 2^(-n). -/
def expNeg (w m : Nat) (e : Int) : Nat × Nat × Nat :=
  let v := w + 32
  let y := toFix v m e
  let l := ln2Fix (v + 32) / 2 ^ 32
  let n := y / l + 1
  let r := n * l - y
  let x := expTerms v r (v + 8) 1 (2 ^ v)
  let err := fixErr v * (n + 2) / 2 ^ 32 + 2
  let c := x / 2 ^ 32
  (n, c - err, c + err)

/-- The interval of (ln of p/2^w) with w fraction bits, for p between 0.7 and 1.5 times 2^w: 2 atanh((p-1)/(p+1)). -/
def atanhSeries (w z2 : Nat) : Nat → Nat → Nat → Nat
  | 0, _, _ => 0
  | fuel + 1, k, p => if p == 0 then 0 else p / (2 * k + 1) + atanhSeries w z2 fuel (k + 1) (p * z2 / 2 ^ w)

/-- sin of a fixed-point angle: alternating Taylor terms a^(2k+1)/(2k+1)!. -/
def sinTerms (w a2 : Nat) : Nat → Nat → Nat → Bool → Int
  | 0, _, _, _ => 0
  | fuel + 1, k, t, s =>
    if t == 0 then 0
    else (if s then -(t : Int) else (t : Int)) + sinTerms w a2 fuel (k + 2) (t * a2 / 2 ^ w / ((k + 1) * (k + 2))) (!s)

/-- What one evaluation gives: an interval of integers on the grid 2^q. -/
structure FixInterval where
  lo : Nat
  hi : Nat
  q : Int
  deriving DecidableEq, Repr

/-- The value, when the interval determines it to within its guard bits. -/
def settle (g : Nat) (neg : Bool) (i : FixInterval) : Option ExactVal :=
  let a := i.lo / 2 ^ g
  let b := i.hi / 2 ^ g
  if a == b && i.lo % 2 ^ g != 0 then some (ExactVal.mk neg a (i.q + g) true) else none

/-- Doubling precision until the interval settles. -/
def zivLoop (neg : Bool) (f : Nat → FixInterval) : Nat → Nat → ExactVal
  | 0, w => let i := f w; ExactVal.mk neg i.lo i.q true
  | fuel + 1, w =>
    match settle 40 neg (f w) with
    | some v => v
    | none => zivLoop neg f fuel (2 * w)

/-- Slightly above (`up`) or below one half-open unit: the values 1 + tiny and 1 - tiny, times 2^e. -/
def nearOne (neg up : Bool) (e : Int) : ExactVal :=
  if up then ExactVal.mk neg (2 ^ 140) (e - 140) true else ExactVal.mk neg (2 ^ 140 - 1) (e - 140) true

/-- A positive value too small for every format, and one too large. -/
def tinyVal (neg : Bool) : ExactVal := ExactVal.mk neg (2 ^ 100) (-6000) true
def hugeVal (neg : Bool) : ExactVal := ExactVal.mk neg (2 ^ 100) 6000 true

/-- The exponent of the leading bit of m * 2^e. -/
def topExp (m : Nat) (e : Int) : Int := (Nat.log2 m : Int) + e

/-- 2^f for a fraction with w bits: e^(f ln 2). -/
def exp2Frac (w m : Nat) (e : Int) : FixInterval :=
  let v := w + 32
  let f := toFix v m e % 2 ^ v
  let l := ln2Fix (v + 32) / 2 ^ 32
  let x := expTerms v (f * l / 2 ^ v) (v + 8) 1 (2 ^ v) / 2 ^ 32
  let err := fixErr v / 2 ^ 32 * 4 + 4
  FixInterval.mk (x - err) (x + err) (-(w : Int))

/-- 2^x (R55). -/
def rawExp2 : FloatVal → RawResult
  | .nan s => .nan (if s then flagNV else 0)
  | .inf n => if n then .exact (ExactVal.mk false 0 0 false) else .inf false 0
  | .fin n m e =>
    if m == 0 then .exact (ExactVal.mk false 1 0 false)
    else if topExp m e ≥ 13 then .exact (if n then tinyVal false else hugeVal false)
    else if topExp m e < -145 then .exact (nearOne false (!n) 0)
    else if e ≥ 0 then
      let k : Int := (m * 2 ^ e.toNat : Nat)
      .exact (ExactVal.mk false 1 (if n then -k else k) false)
    else
      let d := 2 ^ (-e).toNat
      let whole := m / d
      let frac := m % d
      if frac == 0 then .exact (ExactVal.mk false 1 (if n then -(whole : Int) else whole) false)
      else
        -- a negative x is -(whole + 1) + (1 - frac)
        let fr := if n then d - frac else frac
        let k : Int := if n then -((whole : Int) + 1) else whole
        let v := zivLoop false (fun w => exp2Frac w fr e) 7 320
        .exact (ExactVal.mk false v.m (v.e + k) v.sticky)

/-- log2 of a positive value that is no power of two. -/
def log2Interval (m : Nat) (e : Int) (w : Nat) : Bool × FixInterval :=
  let v := w + 64
  let t := Nat.log2 m
  -- the mantissa p in [1, 2), brought into [0.75, 1.5)
  let p0 := toFix v m (-(t : Int))
  let high := decide (2 * p0 ≥ 3 * 2 ^ v)
  let p := if high then p0 / 2 else p0
  let k : Int := e + t + (if high then 1 else 0)
  let below := decide (p < 2 ^ v)
  let num := if below then 2 ^ v - p else p - 2 ^ v
  let z := num * 2 ^ v / (p + 2 ^ v)
  let ln := 2 * atanhSeries v (z * z / 2 ^ v) (v + 8) 0 z
  let frac : Int := (ln * 2 ^ v / (ln2Fix (v + 32) / 2 ^ 32) : Nat)
  let total := k * (2 : Int) ^ v + (if below then -frac else frac)
  let err : Int := fixErr v * 8
  let a := total.natAbs
  (decide (total < 0), FixInterval.mk ((a - err.toNat) / 2 ^ 32) ((a + err.toNat) / 2 ^ 32 + 1) (32 - (v : Int)))

/-- log2 x (R55). -/
def rawLog2 : FloatVal → RawResult
  | .nan s => .nan (if s then flagNV else 0)
  | .inf n => if n then .nan flagNV else .inf false 0
  | .fin n m e =>
    if m == 0 then .inf true flagDZ
    else if n then .nan flagNV
    else if m == 2 ^ Nat.log2 m then
      let k := topExp m e
      .exact (ExactVal.mk (decide (k < 0)) k.natAbs 0 false)
    else
      let neg := (log2Interval m e 128).1
      .exact (zivLoop neg (fun w => (log2Interval m e w).2) 7 384)

/-- sin(pi d) for a small positive d = m * 2^e at or below 1/4. -/
def sinpiInterval (m : Nat) (e : Int) (w0 : Nat) : FixInterval :=
  let w := w0 + (-(topExp m e)).toNat
  let v := w + 64
  let a := piFix v * toFix v m e / 2 ^ v
  let s := sinTerms v (a * a / 2 ^ v) (v + 8) 1 a false
  let err := fixErr v * 4
  let c := s.toNat
  FixInterval.mk ((c - err) / 2 ^ 32) ((c + err) / 2 ^ 32 + 1) (32 - (v : Int))

/-- cos(pi d) for a positive d at or below 1/4: the square root of 1 - sin^2 is avoided by the Taylor terms of cos. -/
def cospiInterval (m : Nat) (e : Int) (w : Nat) : FixInterval :=
  let v := w + 64
  let a := piFix v * toFix v m e / 2 ^ v
  let c := (sinTerms v (a * a / 2 ^ v) (v + 8) 0 (2 ^ v) false).toNat
  let err := fixErr v * 4
  FixInterval.mk ((c - err) / 2 ^ 32) ((c + err) / 2 ^ 32 + 1) (32 - (v : Int))

/-- sin(pi d), 0 < d ≤ 1/4. -/
def sinSmall (neg : Bool) (m : Nat) (e : Int) : ExactVal :=
  zivLoop neg (fun w => sinpiInterval m e w) 7 256

/-- cos(pi d), 0 < d ≤ 1/4. -/
def cosSmall (neg : Bool) (m : Nat) (e : Int) : ExactVal :=
  if topExp m e < -75 then nearOne neg false 0 else zivLoop neg (fun w => cospiInterval m e w) 7 320

/-- sin(pi j/4 + ...): the value at the fraction r / 2^k of a whole turn of 2, with 0 ≤ r < 2 * 2^k and k ≥ 2. -/
def sinTurn (k r : Nat) : ExactVal :=
  let half := 2 ^ k           -- the angle pi
  let neg0 := decide (r ≥ half)
  let t := r % half           -- in [0, pi)
  let u := if 2 * t > half then half - t else t   -- in [0, pi/2], sin is symmetric
  if u == 0 then ExactVal.mk false 0 0 false
  else if 2 * u == half then ExactVal.mk neg0 1 0 false
  else if 4 * u ≤ half then sinSmall neg0 u (-(k : Int))
  else cosSmall neg0 (half / 2 - u) (-(k : Int))

/-- x modulo 2 as a fraction r / 2^k with k ≥ 2, for x = m * 2^e. -/
def turnOf (m : Nat) (e : Int) : Nat × Nat :=
  let k := max 2 (-e).toNat
  (k, (m * 2 ^ ((k : Int) + e).toNat) % (2 * 2 ^ k))

/-- sin(pi x) (R55): an integer gives +0 for n ≥ 0 and -0 for n < 0 and for -0. -/
def rawSinpi : FloatVal → RawResult
  | .nan s => .nan (if s then flagNV else 0)
  | .inf _ => .nan flagNV
  | .fin n m e =>
    if m == 0 then .exact (ExactVal.mk n 0 0 false)
    else if e > 0 then .exact (ExactVal.mk n 0 0 false)
    else
      let (k, r) := turnOf m e
      let v := sinTurn k r
      if v.m == 0 then .exact (ExactVal.mk n 0 0 false)
      else .exact (ExactVal.mk (v.neg != n) v.m v.e v.sticky)

/-- cos(pi x) (R55): n + 1/2 gives +0. -/
def rawCospi : FloatVal → RawResult
  | .nan s => .nan (if s then flagNV else 0)
  | .inf _ => .nan flagNV
  | .fin _ m e =>
    if m == 0 || decide (e > 0) then .exact (ExactVal.mk false 1 0 false)
    else
      let (k, r) := turnOf m e
      if topExp m e < -75 then .exact (nearOne false false 0)
      else
      -- cos a = sin (a + pi/2)
      let v := sinTurn k ((r + 2 ^ (k - 1)) % (2 * 2 ^ k))
      if v.m == 0 then .exact (ExactVal.mk false 0 0 false) else .exact v

/-- (1 - t)/(1 + t) with t = e^(-y), y = m * 2^e. -/
def tanhInterval (m : Nat) (e : Int) (w : Nat) : FixInterval :=
  let v := w + 64
  let (n, lo, hi) := expNeg v m e
  let one := 2 ^ v
  let tLo := lo / 2 ^ n
  let tHi := hi / 2 ^ n + 1
  FixInterval.mk ((one - tHi) * 2 ^ w / (one + tHi)) ((one - tLo) * 2 ^ w / (one + tLo) + 1) (-(w : Int))

/-- tanh x (R55). -/
def rawTanh : FloatVal → RawResult
  | .nan s => .nan (if s then flagNV else 0)
  | .inf n => .exact (ExactVal.mk n 1 0 false)
  | .fin n m e =>
    if m == 0 then .exact (ExactVal.mk n 0 0 false)
    else if topExp m e < -60 then .exact (ExactVal.mk n (m * 2 ^ 64 - 1) (e - 64) true)
    else if topExp m e ≥ 7 then .exact (nearOne n false 0)
    else .exact (zivLoop n (fun w => tanhInterval m (e + 1) w) 7 320)

/-- 1/(1 + t) or t/(1 + t), with t = e^(-y). -/
def sigmInterval (neg : Bool) (m : Nat) (e : Int) (w : Nat) : FixInterval :=
  let v := w + 64
  let (n, lo, hi) := expNeg v m e
  let one := 2 ^ v * 2 ^ n
  if neg then FixInterval.mk (lo * 2 ^ w * 2 ^ n / (one + lo)) (hi * 2 ^ w * 2 ^ n / (one + hi) + 1) (-(w : Int) - n)
  else FixInterval.mk (one * 2 ^ w / (one + hi)) (one * 2 ^ w / (one + lo) + 1) (-(w : Int))

/-- 1/(1 + e^(-x)) (R55). -/
def rawSigm : FloatVal → RawResult
  | .nan s => .nan (if s then flagNV else 0)
  | .inf n => .exact (ExactVal.mk false (if n then 0 else 1) 0 false)
  | .fin n m e =>
    if m == 0 then .exact (ExactVal.mk false 1 (-1) false)
    else if topExp m e < -145 then .exact (nearOne false (!n) (-1))
    else if topExp m e ≥ 10 then .exact (if n then tinyVal false else nearOne false false 0)
    else if !n && decide (topExp m e ≥ 8) then .exact (nearOne false false 0)
    else .exact (zivLoop false (fun w => sigmInterval n m e w) 7 320)

/-- 1/x (R55). -/
def rawRcp (a : FloatVal) : RawResult := rawDiv (.fin false 1 0) a

/-! ## Integral rounding and integer conversions -/

/-- The integer that a finite value rounds to, as a magnitude, and whether it is inexact (R146, R51). -/
def roundInt (mode g : Nat) (neg : Bool) (m : Nat) (e : Int) : Nat × Bool :=
  roundAt mode g (ExactVal.mk neg m e false) 0

/-- frnd (R146). -/
def floatRoundIntegral (f : FloatFmt) (mode g : Nat) (b : Nat) : Nat × Nat :=
  match floatVal f b with
  | .nan s => (canonNaN f, if s then flagNV else 0)
  | .inf _ => (b, 0)
  | .fin neg m e =>
    if m == 0 || decide (e ≥ 0) then (b, 0)
    else
      let (k, inexact) := roundInt mode g neg m e
      ((roundExact f 0 false 0 (ExactVal.mk neg k 0 false)).1, if inexact then flagNX else 0)

/-- A float to an integer of width w (R51): clamped, with NV when out of range. -/
def floatToInt (w : Nat) (signed : Bool) (mode g : Nat) : FloatVal → Nat × Nat
  | .nan _ => (0, flagNV)
  | .inf n =>
    let hi : Int := if signed then 2 ^ (w - 1) - 1 else 2 ^ w - 1
    let lo : Int := if signed then -(2 ^ (w - 1)) else 0
    (low w (if n then lo else hi), flagNV)
  | .fin neg m e =>
    let hi : Int := if signed then 2 ^ (w - 1) - 1 else 2 ^ w - 1
    let lo : Int := if signed then -(2 ^ (w - 1)) else 0
    let (k, inexact) := roundInt mode g neg m e
    let v : Int := if neg then -(k : Int) else k
    if v > hi then (low w hi, flagNV)
    else if v < lo then (low w lo, flagNV)
    else (low w v, if inexact then flagNX else 0)

/-- An integer as a float value. -/
def intVal (i : Int) : FloatVal := .fin (decide (i < 0)) i.natAbs 0

/-- The class bit of fclass (R145). -/
def floatClass (f : FloatFmt) (b : Nat) : Nat :=
  match floatVal f b with
  | .nan s => if s then 256 else 512
  | .inf n => if n then 1 else 128
  | .fin n m _ =>
    if m == 0 then (if n then 8 else 16)
    else if m < 2 ^ f.fracBits then (if n then 4 else 32)
    else (if n then 2 else 64)

/-- The outcome of fcmp for a condition code (R95, R144). -/
def floatCompare (cond : Nat) (a b : FloatVal) : Bool × Nat :=
  if anyNaN [a, b] then (cond == 1, if cond ≥ 2 then flagNV else nanFlags [a, b])
  else
    let l := a.lt b
    let gt := b.lt a
    (match cond with
      | 0 => !l && !gt
      | 1 => l || gt
      | 2 => l
      | 3 => !gt
      | 4 => gt
      | _ => !l, 0)

/-! ## Stochastic rounding bits (R52) -/

def mix64 (z0 : Nat) : Nat :=
  let M := 2 ^ 64
  let z := z0 % M
  let z := z ^^^ (z >>> 29)
  let z := z * 0x8F2C6B1D4E73A5C9 % M
  let z := z ^^^ (z >>> 31)
  let z := z * 0xE3B60D9527AF418B % M
  z ^^^ (z >>> 33)

/-- SRBits without its side effect: the draw for a seed, the level indices, the count n and the stage. -/
def srBits (seed i0 i1 i2 i3 n stage : Nat) : Nat :=
  let h := mix64 (seed ^^^ (i0 % 2 ^ 32) ^^^ ((i1 % 2 ^ 32) * 2 ^ 32))
  let h := mix64 (h ^^^ (i2 % 2 ^ 32) ^^^ ((i3 % 2 ^ 32) * 2 ^ 32))
  mix64 (h ^^^ n % 2 ^ 64 ^^^ (stage * 2 ^ 62 % 2 ^ 64))

/-- The 16 bits that element k of a draw uses (R53). -/
def srElem (draw k : Nat) : Nat := draw / 2 ^ (16 * k) % 65536

/-! ## TW2 weights (R60 to R62) -/

/-- The magnitude pattern of a row of R61, as levels of coordinates 0 to 3. -/
def tw2Pattern : Nat → List Nat
  | 0 => [1,1,1,1] | 1 => [2,1,1,1] | 2 => [1,2,1,1] | 3 => [1,1,2,1] | 4 => [1,1,1,2]
  | 5 => [2,2,1,1] | 6 => [2,1,2,1] | 7 => [2,1,1,2] | 8 => [1,2,2,1] | 9 => [1,2,1,2]
  | 10 => [1,1,2,2] | 11 => [2,2,2,1] | 12 => [2,2,1,2] | 13 => [2,1,2,2] | 14 => [1,2,2,2]
  | 15 => [2,2,2,2] | 16 => [3,1,1,1] | 17 => [1,3,1,1] | 18 => [1,1,3,1] | 19 => [1,1,1,3]
  | 20 => [3,2,1,1] | 21 => [3,1,2,1] | 22 => [3,1,1,2] | 23 => [2,3,1,1] | 24 => [1,3,2,1]
  | 25 => [1,3,1,2] | 26 => [2,1,3,1] | 27 => [1,2,3,1] | 28 => [1,1,3,2] | 29 => [2,1,1,3]
  | 30 => [1,2,1,3] | _ => [1,1,2,3]

/-- The sign and level of coordinate n (0 to 3) of a code (R60). -/
def tw2Coord (code n : Nat) : Bool × Nat :=
  let pat := tw2Pattern (code / 8 % 32)
  let h := fun k => ((2 * pat.getD k 1 - 1 : Nat) : Int)
  let s := fun k => if bit code k then -(h k) else h k
  let sum := s 0 + s 1 + s 2 + h 3
  let neg := if n < 3 then bit code n else decide (sum % 4 ≠ 0)
  (neg, pat.getD n 1)

/-- Decode.TW2: the exact weight of coordinate n of a code under a map, before the scale (R62, R68). -/
def tw2Weight (map code n : Nat) : FloatVal :=
  let (neg, level) := tw2Coord code n
  let v := floatVal .e4m3 (bits map (8 * level - 1) (8 * level - 8))
  if neg then v.negate else v

end Sys2Proof.Machine
end

