-- ==== Sys2Proof/Syntax.lean ====
section
/-!
DEFINITION. The abstract syntax of every step of the device: scalar instructions (spec/04 R85 to R89), lane words
(spec/04 R90 to R99), and the steps of engines, the Treadle, software's registers and the outside, which have no
encoding (spec/95). Register numbers and codes are natural numbers whose ranges WellFormed.lean states.
-/
namespace Sys2Proof

/-- The fields of a lane word other than OPC (spec/04 R90): operand codes D, A, B and C, the guard PG, U, the block
bit B, E, T and X. -/
structure LaneWord where
  d : Nat
  a : Nat
  b : Nat
  c : Nat
  pg : Nat
  u : Bool
  blk : Bool
  e : Nat
  t : Nat
  x : Nat
  deriving DecidableEq, Repr

/-- The operations carried between devices (spec/22 R437). -/
inductive FabricOp where
  | read
  | write
  | atomAdd
  | atomAnd
  | atomOr
  | atomXor
  | atomMinS
  | atomMaxS
  | atomMinU
  | atomMaxU
  | swap
  | compareSwap
  deriving DecidableEq, Repr

/-- An inbound request of a peer (spec/22 R436, R437, R438); `data` holds the bytes of a write, or the operand of an
atomic followed by the expected value of a compare-and-swap. `off` lists the bytes of a write that its byte enables leave
out (R437). -/
structure FabricRequest where
  dom : Nat
  src : Nat
  op : FabricOp
  addr : Nat
  size : Nat
  data : List Byte
  off : List Nat := []
  deriving DecidableEq, Repr

/-- The agent whose access a broken flit carried (spec/22 R435): of a shuttle with the number of the access; the Treadle's at the walk of a queue, or for a launch or a
COPY block that it has admitted. -/
inductive FlitAgent where
  | shuttle (sh acc : Nat)
  | command (cmd : Nat)
  | treadle (q : Nat)
  | treadleBlock (id : Nat)
  | hart (h : Nat) (addr : Nat) (write : Bool)
  | inbound (pcie : Bool)
  deriving DecidableEq, Repr

/-- Whose outbound access met an error completion (spec/22 R438). -/
inductive FabricSender where
  | shuttle (sh : Nat)
  | command (cmd : Nat)
  | signal (sh : Nat)
  deriving DecidableEq, Repr

/-- What an SPDM request asks for (spec/22 R443, R447): a measurement block, the chain of certificate slot 0, or the keys
of the IDE stream of a function. -/
inductive SpdmRequest where
  | measurement (index : Nat)
  | certificate
  | ideSetup (fn : Nat)
  deriving DecidableEq, Repr

/-- What an access of a firmware hart does besides a plain load or store (spec/22 R444): load-reserved, store-conditional, or an
atomic operation by its code. -/
inductive HartOp where
  | plain
  | lr
  | sc
  | amo (f : Nat)
  deriving DecidableEq, Repr

/-- A firmware hart's load or store (spec/22 R444): the value of a store, or the integer register of a load and whether
the load extends the sign. -/
structure HartAccess where
  hart : Nat
  addr : Nat
  size : Nat
  write : Bool
  value : Nat
  rd : Nat := 0
  signed : Bool := false
  op : HartOp := .plain
  deriving DecidableEq, Repr

/-- The links whose CRC errors are retried (spec/20 R430). -/
inductive Link where
  | pcie
  | ualink
  | dieLink
  deriving DecidableEq, Repr

/-- The causes of throttling (spec/22 R453). -/
inductive ThrottleCause where
  | boardPower
  | coldPlate
  | current
  deriving DecidableEq, Repr

/-- The device's steps: one constructor per row of spec/opcode_table.json. -/
inductive Instr where
  /-- SMOV (R107). Copies scalar register sY into sX. -/
  | smov (x y : Nat)
  /-- SADD (R107). Adds sY to sX modulo 2^32. -/
  | sadd (x y : Nat)
  /-- SSUB (R107). Subtracts sY from sX modulo 2^32. -/
  | ssub (x y : Nat)
  /-- SAND (R107). Bitwise and of sX with sY into sX. -/
  | sand (x y : Nat)
  /-- SOR (R107). Bitwise or of sX with sY into sX. -/
  | sor (x y : Nat)
  /-- SXOR (R107). Bitwise exclusive or of sX with sY into sX. -/
  | sxor (x y : Nat)
  /-- SSHL (R107). Shifts sX left logically by bits 4:0 of sY. -/
  | sshl (x y : Nat)
  /-- SSHR (R107). Shifts sX right logically by bits 4:0 of sY. -/
  | sshr (x y : Nat)
  /-- SSRA (R107). Shifts sX right arithmetically by bits 4:0 of sY. -/
  | ssra (x y : Nat)
  /-- SMUL (R107). Writes the low 32 bits of sX times sY to sX. -/
  | smul (x y : Nat)
  /-- SMULH (R107). Writes the high 32 bits of the signed product of sX and sY to sX. -/
  | smulh (x y : Nat)
  /-- SMULHU (R107). Writes the high 32 bits of the unsigned product of sX and sY to sX. -/
  | smulhu (x y : Nat)
  /-- SDIV (R107). Signed quotient of sX by sY under R56. -/
  | sdiv (x y : Nat)
  /-- SDIVU (R107). Unsigned quotient of sX by sY under R56. -/
  | sdivu (x y : Nat)
  /-- SREM (R107). Signed remainder of sX by sY under R56. -/
  | srem (x y : Nat)
  /-- SREMU (R107). Unsigned remainder of sX by sY under R56. -/
  | sremu (x y : Nat)
  /-- SMIN (R107). Signed minimum of sX and sY into sX. -/
  | smin (x y : Nat)
  /-- SMAX (R107). Signed maximum of sX and sY into sX. -/
  | smax (x y : Nat)
  /-- SMINU (R107). Unsigned minimum of sX and sY into sX. -/
  | sminu (x y : Nat)
  /-- SMAXU (R107). Unsigned maximum of sX and sY into sX. -/
  | smaxu (x y : Nat)
  /-- SSLT (R107). Writes 1 to sX if sX is less than sY signed, else 0. -/
  | sslt (x y : Nat)
  /-- SSLTU (R107). Writes 1 to sX if sX is less than sY unsigned, else 0. -/
  | ssltu (x y : Nat)
  /-- SSEQ (R107). Writes 1 to sX if sX equals sY, else 0. -/
  | sseq (x y : Nat)
  /-- SNOT (R107). Writes the bitwise complement of sY to sX. -/
  | snot (x y : Nat)
  /-- SCLZ (R107). Writes the count of leading zero bits of sY to sX. -/
  | sclz (x y : Nat)
  /-- SPOPC (R107). Writes the count of one bits of sY to sX. -/
  | spopc (x y : Nat)
  /-- SBREV (R107). Writes sY with its bit order reversed to sX. -/
  | sbrev (x y : Nat)
  /-- SNEG (R107). Writes 0 minus sY to sX. -/
  | sneg (x y : Nat)
  /-- SMOV64 (R108). Copies the pair at sY into the pair at sX. -/
  | smov64 (x y : Nat)
  /-- SADD64 (R108). Adds pair sY to pair sX modulo 2^64. -/
  | sadd64 (x y : Nat)
  /-- SSUB64 (R108). Subtracts pair sY from pair sX modulo 2^64. -/
  | ssub64 (x y : Nat)
  /-- SSHL64 (R108). Shifts pair sX left logically by bits 5:0 of sY. -/
  | sshl64 (x y : Nat)
  /-- SSHR64 (R108). Shifts pair sX right logically by bits 5:0 of sY. -/
  | sshr64 (x y : Nat)
  /-- SSRA64 (R108). Shifts pair sX right arithmetically by bits 5:0 of sY. -/
  | ssra64 (x y : Nat)
  /-- SMUL64 (R108). Writes the low 64 bits of the product of pairs sX and sY to pair sX. -/
  | smul64 (x y : Nat)
  /-- SLI (R109). Loads a sign-extended immediate into sX. -/
  | sli (x : Nat) (imm : Int)
  /-- SLI64 (R109). Loads a sign-extended immediate into the pair sX. -/
  | sli64 (x : Nat) (imm : Int)
  /-- SADDI (R109). Adds an immediate to sX. -/
  | saddi (x : Nat) (imm : Int)
  /-- SANDI (R109). Bitwise and of sX with an immediate. -/
  | sandi (x : Nat) (imm : Int)
  /-- SORI (R109). Bitwise or of sX with an immediate. -/
  | sori (x : Nat) (imm : Int)
  /-- SXORI (R109). Bitwise exclusive or of sX with an immediate. -/
  | sxori (x : Nat) (imm : Int)
  /-- SSHLI (R109). Shifts sX left logically by an immediate amount 0 to 31. -/
  | sshli (x : Nat) (imm : Int)
  /-- SSHRI (R109). Shifts sX right logically by an immediate amount 0 to 31. -/
  | sshri (x : Nat) (imm : Int)
  /-- SSRAI (R109). Shifts sX right arithmetically by an immediate amount 0 to 31. -/
  | ssrai (x : Nat) (imm : Int)
  /-- SSLTIU (R109). Writes 1 to sX if sX is below the immediate unsigned, else 0. -/
  | ssltiu (x : Nat) (imm : Int)
  /-- SADDI64 (R109). Adds a sign-extended immediate to the pair sX. -/
  | saddi64 (x : Nat) (imm : Int)
  /-- SXT (R87). Prefix that widens the immediate, offset or word offset of the following word into one instruction. -/
  | sxt (h body : Nat)
  /-- SLD (R112). Issues a 4-byte scalar load that empties sX and fills it when the data arrives. -/
  | sld (x y : Nat) (off : Int)
  /-- SLD64 (R112). Issues an 8-byte scalar load into a pair as a producer. -/
  | sld64 (x y : Nat) (off : Int)
  /-- SLD128 (R112). Issues a 16-byte scalar load into four registers as a producer. -/
  | sld128 (x y : Nat) (off : Int)
  /-- SST (R113). Stores sX as 4 bytes, reading the data at issue and not waiting for performance. -/
  | sst (x y : Nat) (off : Int)
  /-- SST64 (R113). Stores the pair sX as 8 bytes. -/
  | sst64 (x y : Nat) (off : Int)
  /-- SST128 (R113). Stores four registers from sX as 16 bytes. -/
  | sst128 (x y : Nat) (off : Int)
  /-- SLDACQ (R289). Scalar acquire load that reads at the home, invalidates unowned copies and then fills sX. -/
  | sldacq (x y : Nat) (off : Int)
  /-- SSTREL (R289). Scalar release store performed after every earlier access of the stream. -/
  | sstrel (x y : Nat) (off : Int)
  /-- SATOM (R295). Scalar atomic that waits for the old value and writes it to sX. -/
  | satom (x y f ord aop t z : Nat)
  /-- SBR (R116). Branches unconditionally to PC plus the offset. -/
  | sbr (off : Int)
  /-- SBZ (R116). Branches when sX is zero. -/
  | sbz (x : Nat) (off : Int)
  /-- SBNZ (R116). Branches when sX is nonzero. -/
  | sbnz (x : Nat) (off : Int)
  /-- SBLZ (R116). Branches when sX is negative. -/
  | sblz (x : Nat) (off : Int)
  /-- SBGEZ (R116). Branches when sX is zero or positive. -/
  | sbgez (x : Nat) (off : Int)
  /-- SCALL (R116). Writes Next to sX and branches. -/
  | scall (x : Nat) (off : Int)
  /-- SJR (R116). Jumps to the offset held in sX. -/
  | sjr (x : Nat)
  /-- SJR_L (R116). Jumps to the offset in sY and writes Next to sX. -/
  | sjrL (x y : Nat)
  /-- SLOOP (R118). Decrements sX and branches while the result is nonzero. -/
  | sloop (x : Nat) (off : Int)
  /-- SFET (R119). Writes 1 to sX if sY is full, else 0, without waiting. -/
  | sfet (x y : Nat)
  /-- SWFULL (R119). Waits until sX is full. -/
  | swfull (x : Nat)
  /-- SEMPT (R119). Makes sX empty with no producer, waiting first for a pending fill. -/
  | sempt (x : Nat)
  /-- SIDX (R206). Writes the shuttle's index of a uniform level to sX. -/
  | sidx (x k : Nat)
  /-- SMAPQ (R207). Reads a mapping register into sX. -/
  | smapq (x sel : Nat)
  /-- SRGNB (R176). Opens the region of a level, setting its SEQ index to the first combination. -/
  | srgnb (k : Nat)
  /-- SRGNE (R176). Advances a level's SEQ index and loops, or closes the region. -/
  | srgne (k : Nat)
  /-- SBAR (R179). Arrives at a level barrier after draining and waits for release, splitting SEQ phases. -/
  | sbar (k id : Nat)
  /-- SFENCE_SC (R290). Takes a place in the total order of SC fences as a release and acquire. -/
  | sfenceSc (k : Nat)
  /-- SFENCE_ACQREL (R290). Acts as a release followed by an acquire. -/
  | sfenceAcqrel
  /-- SFENCE_REL (R290). Acts as a release. -/
  | sfenceRel
  /-- SFENCE_ACQ (R290). Acts as an acquire. -/
  | sfenceAcq
  /-- SIRB (R422). Marks a region boundary, writing a resume record and making the shuttle IN. -/
  | sirb (id : Nat)
  /-- SIRC (R422). Marks a region boundary that also records the counter register. -/
  | sirc (x id : Nat)
  /-- LRUN (R21). Copies the argument window, empties the output window and appends a lane block to the lane queue. -/
  | lrun (x y n entry : Nat)
  /-- LSYNC (R25). Waits until the lane queue is empty and its blocks' accesses are performed. -/
  | lsync
  /-- SSHARE (R24). Waits for an empty lane queue and copies scalars into the lane-shared registers. -/
  | sshare (x y f : Nat)
  /-- SCOLL (R215). Collective reduction over a level instance in logical order. -/
  | scoll (x y k op : Nat)
  /-- SPRFX (R215). Collective exclusive prefix over a level instance. -/
  | sprfx (x y k op : Nat)
  /-- SSLIDE (R216). Collective slide of elements across the threads of an instance. -/
  | sslide (x y k width fill : Nat) (d : Int)
  /-- SBCAST (R215). Collective broadcast of one thread's value to the instance. -/
  | sbcast (x y k rank : Nat)
  /-- SPAWN (R217). Creates a new shuttle on a free context slot of the core, or reports none. -/
  | spawn (x y n target : Nat)
  /-- SELCT (R213). Writes 1 in the shuttle holding the first thread of a level instance. -/
  | selct (x k : Nat)
  /-- SSETFMT (R19). Writes FMT from sX. -/
  | ssetfmt (x : Nat)
  /-- SCPY (R352). Checks a copy descriptor, registers its ranges and starts the copy. -/
  | scpy (x y : Nat) (restart : Bool) (r : Nat)
  /-- SWAITC (R353). Waits until a counter reaches a target, then acquires. -/
  | swaitc (x y : Nat)
  /-- SSIG (R354). Sends an add or store signal to a local or peer word. -/
  | ssig (x y op : Nat) (ord loc : Bool) (d sreg : Nat)
  /-- STHD (R355). Defines a tile handle from an operand block. -/
  | sthd (x y h : Nat)
  /-- SMMA (R358). Queues a matrix multiply-accumulate into an accumulator tile. -/
  | smma (x y sreg : Nat) (own zero pair : Bool) (tile : Nat)
  /-- SMACQ (R360). Waits for a tile's token and acquires. -/
  | smacq (own : Bool) (tile : Nat)
  /-- SMREL (R360). Passes a tile's token to the unit as a release. -/
  | smrel (own : Bool) (tile : Nat)
  /-- SMLD (R361). Queues a load of an accumulator tile from memory. -/
  | smld (x y tile sreg : Nat) (e : Int) (bf own : Bool)
  /-- SMST (R361). Queues a store of an accumulator tile to memory with narrowing. -/
  | smst (x y tile sreg : Nat) (e : Int) (own : Bool)
  /-- SSCAN (R364). Checks and issues a scan tile of a Selvage chain. -/
  | sscan (x y c : Nat) (first last : Bool)
  /-- SSCW (R365). Waits until a chain's completion passes the core, then acquires. -/
  | sscw (x c : Nat)
  /-- SACC (R366). Starts a dynamic access slice for the shuttle's threads. -/
  | sacc (x y q : Nat)
  /-- SBANK_SCR (R367). Converts a bank-table entry to SCRATCH mode. -/
  | sbankScr (x e : Nat)
  /-- SBANK_FIFO (R367). Converts a bank-table entry to FIFO mode with a geometry. -/
  | sbankFifo (x y e : Nat)
  /-- SBANK_REL (R367). Releases a bank-table entry's bank to the pool. -/
  | sbankRel (x e : Nat)
  /-- SBANK_TAKE (R367). Takes a pool bank into an unassigned entry. -/
  | sbankTake (x y : Nat) (fifo : Bool) (e : Nat)
  /-- SLAUNCH (R369). Checks and starts a device-side child launch. -/
  | slaunch (x y : Nat)
  /-- SARM (R370). Arms or disarms a mailbox tag for launches. -/
  | sarm (x y tag count : Nat)
  /-- STRAP (R124). Raises a software trap with a code. -/
  | strap (code : Int)
  /-- STRAP_RET (R37). Returns from the trap handler and resumes the streams. -/
  | strapRet
  /-- SBRK (R126). Stops the shuttle and posts a breakpoint entry when debug is enabled. -/
  | sbrk
  /-- SEXIT (R127). Ends the shuttle after draining its lane queue and accesses. -/
  | sexit
  /-- SCSR_R (R128). Reads a CSR into sX. -/
  | scsrR (x csr : Nat)
  /-- SCSR_W (R128). Writes sX to a CSR, updating TW2 maps on the team's cores under R129. -/
  | scsrW (x csr : Nat)
  /-- SYIELD (R130). Has no architectural effect; withdraws the shuttle from issue briefly. -/
  | syield
  /-- SNOP (R130). Has no effect. -/
  | snop
  /-- SCYC (R131). Reads the core's 64-bit cycle counter into a pair. -/
  | scyc (x : Nat)
  /-- ADD (R137). Lane integer add with optional clamp. -/
  | add (w : LaneWord)
  /-- SUB (R137). Lane integer subtract with optional clamp. -/
  | sub (w : LaneWord)
  /-- MUL (R137). Lane integer multiply with optional clamp. -/
  | mul (w : LaneWord)
  /-- MULH (R137). Lane high half of the exact product. -/
  | mulh (w : LaneWord)
  /-- MAD (R137). Lane multiply-add with exact sum and optional clamp. -/
  | mad (w : LaneWord)
  /-- AND (R137). Lane bitwise and. -/
  | and (w : LaneWord)
  /-- OR (R137). Lane bitwise or. -/
  | or (w : LaneWord)
  /-- XOR (R137). Lane bitwise exclusive or. -/
  | xor (w : LaneWord)
  /-- LOP3 (R138). Lane three-input truth-table logic. -/
  | lop3 (w : LaneWord)
  /-- SHL (R137). Lane shift left, clamping with SAT. -/
  | shl (w : LaneWord)
  /-- SHR (R137). Lane logical shift right. -/
  | shr (w : LaneWord)
  /-- SRA (R137). Lane arithmetic shift right. -/
  | sra (w : LaneWord)
  /-- MIN (R137). Lane integer minimum. -/
  | min (w : LaneWord)
  /-- MAX (R137). Lane integer maximum. -/
  | max (w : LaneWord)
  /-- ABS (R137). Lane integer absolute value. -/
  | abs (w : LaneWord)
  /-- NEG (R137). Lane integer negation. -/
  | neg (w : LaneWord)
  /-- CLZ (R137). Lane count of leading zero bits. -/
  | clz (w : LaneWord)
  /-- POPC (R137). Lane count of one bits. -/
  | popc (w : LaneWord)
  /-- BREV (R137). Lane bit reversal. -/
  | brev (w : LaneWord)
  /-- BFE (R139). Lane bit-field extract. -/
  | bfe (w : LaneWord)
  /-- BFI (R139). Lane bit-field insert. -/
  | bfi (w : LaneWord)
  /-- SEL (R140). Lane select by predicate. -/
  | sel (w : LaneWord)
  /-- CMP (R140). Lane integer comparison writing a predicate. -/
  | cmp (w : LaneWord)
  /-- DIV (R137). Lane integer quotient under R56. -/
  | div (w : LaneWord)
  /-- REM (R137). Lane integer remainder under R56. -/
  | rem (w : LaneWord)
  /-- ADDSAT (R137). Lane saturating add. -/
  | addsat (w : LaneWord)
  /-- SUBSAT (R137). Lane saturating subtract. -/
  | subsat (w : LaneWord)
  /-- DP2 (R58). Lane two-element dot product with accumulator, reduced once. -/
  | dp2 (w : LaneWord)
  /-- DP4 (R58). Lane four-element dot product with accumulator, reduced once. -/
  | dp4 (w : LaneWord)
  /-- SHRR (R141). Lane rounding shift with optional narrowing. -/
  | shrr (w : LaneWord)
  /-- MOV (R137). Lane register move. -/
  | mov (w : LaneWord)
  /-- MOVI (R137). Lane move of the X field value. -/
  | movi (w : LaneWord)
  /-- PLOP (R138). Lane predicate truth-table logic. -/
  | plop (w : LaneWord)
  /-- FADD (R143). Lane float add rounded once. -/
  | fadd (w : LaneWord)
  /-- FSUB (R143). Lane float subtract rounded once. -/
  | fsub (w : LaneWord)
  /-- FMUL (R143). Lane float multiply rounded once. -/
  | fmul (w : LaneWord)
  /-- FMA (R143). Lane fused multiply-add rounded once. -/
  | fma (w : LaneWord)
  /-- FMIN (R48). Lane IEEE minimum. -/
  | fmin (w : LaneWord)
  /-- FMAX (R48). Lane IEEE maximum. -/
  | fmax (w : LaneWord)
  /-- FNEG (R143). Lane float negation. -/
  | fneg (w : LaneWord)
  /-- FABS (R143). Lane float absolute value. -/
  | fabs (w : LaneWord)
  /-- FCMP (R144). Lane float comparison writing a predicate. -/
  | fcmp (w : LaneWord)
  /-- FCLASS (R145). Lane one-hot float class mask. -/
  | fclass (w : LaneWord)
  /-- FRND (R146). Lane round to an integral value. -/
  | frnd (w : LaneWord)
  /-- FRCP (R55). Lane correctly rounded reciprocal. -/
  | frcp (w : LaneWord)
  /-- FRSQ (R55). Lane correctly rounded reciprocal square root. -/
  | frsq (w : LaneWord)
  /-- FSQRT (R55). Lane correctly rounded square root. -/
  | fsqrt (w : LaneWord)
  /-- FDIV (R55). Lane correctly rounded division. -/
  | fdiv (w : LaneWord)
  /-- FEXP2 (R55). Lane correctly rounded 2^x. -/
  | fexp2 (w : LaneWord)
  /-- FLOG2 (R55). Lane correctly rounded log2 x. -/
  | flog2 (w : LaneWord)
  /-- FSINPI (R55). Lane correctly rounded sin(pi x). -/
  | fsinpi (w : LaneWord)
  /-- FCOSPI (R55). Lane correctly rounded cos(pi x). -/
  | fcospi (w : LaneWord)
  /-- FTANH (R55). Lane correctly rounded tanh x. -/
  | ftanh (w : LaneWord)
  /-- FSIGM (R55). Lane correctly rounded logistic sigmoid. -/
  | fsigm (w : LaneWord)
  /-- FCSGN (R143). Lane copy of the sign of B onto the magnitude of A. -/
  | fcsgn (w : LaneWord)
  /-- CVT (R148). Lane conversion between types. -/
  | cvt (w : LaneWord)
  /-- PACK (R150). Lane packing of two sources into a packed type. -/
  | pack (w : LaneWord)
  /-- UNPK (R149). Lane extraction and exact widening of one element. -/
  | unpk (w : LaneWord)
  /-- TW2D (R151). Lane decode of two TW2 weights under the current map. -/
  | tw2d (w : LaneWord)
  /-- LD (R153). Lane load that empties its destination and fills it on arrival. -/
  | ld (w : LaneWord)
  /-- ST (R153). Lane store reading its data at issue. -/
  | st (w : LaneWord)
  /-- ATOM (R294). Lane atomic at the home returning the old value. -/
  | atom (w : LaneWord)
  /-- RED (R296). Lane reduction into an update-only copy without a result. -/
  | red (w : LaneWord)
  /-- PF (R297). Lane prefetch of a line into the cluster L1. -/
  | pf (w : LaneWord)
  /-- CLN (R297). Lane clean that writes owned dirty words home and invalidates the copy. -/
  | cln (w : LaneWord)
  /-- TBEG (R300). Begins a transaction attempt, writing its status. -/
  | tbeg (w : LaneWord)
  /-- TEND (R301). Resolves the transactions ending here in logical order and commits survivors. -/
  | tend (w : LaneWord)
  /-- TABT (R306). Aborts the thread's transaction explicitly. -/
  | tabt (w : LaneWord)
  /-- TSTS (R306). Writes the transaction state of the thread. -/
  | tsts (w : LaneWord)
  /-- BRA (R202). Lane relative branch that splits or moves frontier entries. -/
  | bra (w : LaneWord)
  /-- BRR (R202). Lane indirect branch to per-thread targets. -/
  | brr (w : LaneWord)
  /-- LCALL (R202). Lane call writing the link and branching. -/
  | lcall (w : LaneWord)
  /-- LEND (R198). Ends the lane block for its entry; the block completes when every entry has ended. -/
  | lend (w : LaneWord)
  /-- LIDX (R205). Writes the thread's index of a level. -/
  | lidx (w : LaneWord)
  /-- LSHB (R208). Writes the address of the thread's copy of shared storage. -/
  | lshb (w : LaneWord)
  /-- LVOTE (R209). Votes a predicate over the executing threads. -/
  | lvote (w : LaneWord)
  /-- XISSUE (R219). Issues the words held in the threads' registers, grouped by equal word. -/
  | xissue (w : LaneWord)
  /-- LFMT (R204). Changes the FMT of the executing threads' entry. -/
  | lfmt (w : LaneWord)
  /-- RDFLG (R157). Writes FLAGS to a register. -/
  | rdflg (w : LaneWord)
  /-- CLRFLG (R157). Clears FLAGS bits by a mask. -/
  | clrflg (w : LaneWord)
  /-- LNOP (R155). Lane no-operation. -/
  | lnop (w : LaneWord)
  /-- LTRAP (R156). Raises a lane software trap with a code and reported value. -/
  | ltrap (w : LaneWord)
  /-- ACCRD (R362). Reads one accumulator tile element. -/
  | accrd (w : LaneWord)
  /-- ACCWR (R362). Writes one accumulator tile element. -/
  | accwr (w : LaneWord)
  /-- BPERM (R210). Reads a value from another beat of the shuttle. -/
  | bperm (w : LaneWord)
  /-- PRODUCER_FILL (R29). The arriving value of a load or atomic fills its destination registers. -/
  | producerFill (sh id : Nat)
  /-- TEAM_TERMINATION (R412). Stops the team, drains its engine work, frees its resources and completes the launch. -/
  | teamTermination (team : Nat)
  /-- FIFO_POP (R245). A pop waiting at a FIFO bank takes the oldest filled slot. -/
  | fifoPop (sh id : Nat)
  /-- FIFO_PUSH (R245). A push waiting at a FIFO bank writes a slot once one is free. -/
  | fifoPush (sh id : Nat)
  /-- COPY_WAITER_WAKE (R247). A copy parked on a full FIFO bank is woken as a slot frees. -/
  | copyWaiterWake (cmd : Nat)
  /-- TRANSLATION_WALK (R262). A two-stage page walk ends with a translation or a fault. -/
  | translationWalk (sh id : Nat)
  /-- FAULT_REPLAY (R263). After resolution each faulting access is translated again and performed. -/
  | faultReplay (fn id : Nat)
  /-- TRANSACTION_COMMIT (R279). A surviving log is validated at the commit units and its writes take effect or it aborts. -/
  | transactionCommit (sh beat : Nat)
  /-- SERIAL_TOKEN_GRANT (R300). A waiting thread receives the function's serial token and begins a serial attempt. -/
  | serialTokenGrant (fn : Nat)
  /-- TXN_LOG_ROOM_GRANT (R304). A tbeg waiting for log room begins its attempt when an attempt of the cluster ends. -/
  | txnLogRoomGrant (cluster : Nat)
  /-- COPY_ENGINE_GRANT (R322). A waiting or paused command takes a free copy engine of its partition. -/
  | copyEngineGrant (part : Nat)
  /-- COPY_SEGMENT (R316). The engine translates, checks and moves one segment of a copy. -/
  | copySegment (cmd : Nat)
  /-- COPY_BUDGET_PAUSE (R322). A command of an exhausted function pauses and gives up its engine. -/
  | copyBudgetPause (cmd : Nat)
  /-- COPY_COMPLETE (R318). After its last segment a copy adds its increment to its counter. -/
  | copyComplete (cmd : Nat)
  /-- OPERAND_FETCH (R324). The fetcher copies a handle operand into its stage FIFO. -/
  | operandFetch (op : Nat) (sideB : Bool)
  /-- ACCESS_STREAM_PUSH (R326). An access slice stream reads an element and pushes it into a thread's queue. -/
  | accessStreamPush (stream : Nat)
  /-- MATRIX_OP_RETIRE (R334). A matrix operation finishes and retires. -/
  | matrixOpRetire (core : Nat)
  /-- SCAN_TILE_RUN (R339). The scan unit computes a tile's in-tile combine. -/
  | scanTileRun (tile : Nat)
  /-- CARRY_RECEIPT (R342). A tile receives its carry, writes its outputs and sends its carry on. -/
  | carryReceipt (tile : Nat)
  /-- CHAIN_COMPLETION (R345). The chain's completion travels the ring past each core. -/
  | chainCompletion (chain core : Nat)
  /-- QBIND_UNBIND (R390). A QBIND write with OP 1 unbinds a queue. -/
  | qbindUnbind (fn q : Nat)
  /-- BLOCK_ADMIT (R384). The walk reads and admits the block at its position. -/
  | blockAdmit (q : Nat)
  /-- PROLOGUE_RUN (R392). The prologue engine runs a launch's prologue and reads its outcome. -/
  | prologueRun (launch : Nat)
  /-- LAUNCH_MAP (R171). The mapper computes a launch's mapping. -/
  | launchMap (launch : Nat)
  /-- TEAM_DISPATCH (R396). At a dispatch opportunity the partition places the next team of the highest-priority launch. -/
  | teamDispatch (part : Nat)
  /-- TEAM_SAVE (R428). A team drains and writes its whole state to its team-state area. -/
  | teamSave (team : Nat)
  /-- TEAM_DISCARD (R424). A team is discarded back to its shuttles' region records. -/
  | teamDiscard (team : Nat)
  /-- MAILBOX_MESSAGE (R439). An inbound mailbox write is stored in the next free slot or refused. -/
  | mailboxMessage (dom src tag : Nat) (payload : List Byte)
  /-- MAILBOX_FIRE (R370). A waiting mailbox message with an armed tag fires a launch. -/
  | mailboxFire (fn : Nat)
  /-- INBOUND_FABRIC_REQUEST (R438). An inbound UALink request is delivered and performed or refused. -/
  | inboundFabricRequest (r : FabricRequest)
  /-- HOST_BAR2_ACCESS (R440). A host read or write through BAR2 is performed at its home. -/
  | hostBar2Access (fn off size : Nat) (write : Bool) (data : List Byte)
  /-- BLOAD_LOAD (R403). A BLOAD write with OP 0 makes the loader engine check and load a bolt. -/
  | bloadLoad (fn addr : Nat)
  /-- BLOAD_UNLOAD (R403). A BLOAD write with OP 1 unloads a bolt once none of its launches is pending. -/
  | bloadUnload (fn addr : Nat)
  /-- KEY_SLOT_CHANGE_COMPLETE (R446). After write-back the slot takes its new key and BUSY clears. -/
  | keySlotChangeComplete (fn : Nat)
  /-- BUDGET_UNIT_CHARGE (R419). Each 2^20 cycles a core or engine charges one budget unit to a function. -/
  | budgetUnitCharge (fn : Nat)
  /-- SLICE_END (R420). The running function's slice ends and the next eligible function is chosen. -/
  | sliceEnd (part : Nat)
  /-- UNASSIGNED_OPCODE (R89). A scalar or lane word with an unassigned OP, OPC or function, or a fetch beyond the end of its section, raises an illegal-instruction trap. -/
  | unassignedOpcode (sub : Nat)
  /-- L2_REMAP_COMPLETE (R253). After write-back the new L2BM or HSEED takes effect and held accesses proceed. -/
  | l2RemapComplete (fn : Nat)
  /-- TINV_COMPLETE (R265). An invalidation completes once no structure holds the translation and its accesses are performed. -/
  | tinvComplete (fn : Nat)
  /-- FQRES_UNRECOVERABLE (R416). An FQRES write with OUTCOME 1 terminates the team. -/
  | fqresUnrecoverable (fn id : Nat)
  /-- UALINK_ERROR_COMPLETION (R438). An error completion returned by a peer ends the sender's access as non-replayable, terminating its team or faulting its command. -/
  | ualinkErrorCompletion (sender : FabricSender) (addr : Nat)
  /-- FLIT_PARITY_ERROR (R435). A network flit parity error is a machine check for the carried agent. -/
  | flitParityError (agent : FlitAgent) (die : Nat)
  /-- HART_MEMORY_ACCESS (R444). A firmware hart's load or store to the complex's physical map is performed at its home, or raises an access-fault exception. -/
  | hartMemoryAccess (r : HartAccess)
  /-- KEYCTL_LOAD (R446). A KEYCTL write with OP 0 loads KEYDATA into a key slot. -/
  | keyctlLoad (fn slot : Nat)
  /-- KEYCTL_DRAW (R446). A KEYCTL write with OP 1 draws a random key into a slot. -/
  | keyctlDraw (fn slot : Nat)
  /-- PDESC_WRITE (R417). A write to PDESC or PDESCX defines a partition if its checks pass. -/
  | pdescWrite (p : Nat) (ext : Bool) (v : Nat)
  /-- MEM_SHARE_WRITE (R418). A write to MEMB or MEMS sets a function's share unless misaligned or overlapping. -/
  | memShareWrite (fn : Nat) (size : Bool) (v : Nat)
  /-- FDOM_WRITE (R436). A write to FDOM sets the fabric domain unless duplicated. -/
  | fdomWrite (fn v : Nat)
  /-- ERRS_WRITE (R414). A write to ERRS sets the ring size and resets ERRH and ERRT. -/
  | errsWrite (fn v : Nat)
  /-- FQS_WRITE (R415). A write to FQS sets the fault-queue size and resets FQH and FQT. -/
  | fqsWrite (fn v : Nat)
  /-- REGISTER_WRITE (R389). A write to a register without a row of its own. -/
  | registerWrite (addr v : Nat)
  /-- FUNCTION_LEVEL_RESET (R442). A VF FLR resets the function's queues, teams, bolts, attestation and keys. -/
  | functionLevelReset (fn : Nat)
  /-- PF_FLR (R442). A PF FLR resets every function and every partition descriptor. -/
  | pfFlr
  /-- POWERSTATE_D3HOT_WRITE (R453). A D3hot request enters D3hot only when every function is idle. -/
  | powerstateD3hotWrite
  /-- D3HOT_EXIT (R453). Leaving D3hot restarts the firmware complex with memory kept. -/
  | d3hotExit
  /-- D3COLD_POWER_REMOVAL (R453). Removal of power loses all state except flash, fuses and lease store. -/
  | d3coldPowerRemoval
  /-- THROTTLE_EVENT (R453). A power, temperature or current cause lowers the compute clock. -/
  | throttleEvent (cause : ThrottleCause) (clock : Nat)
  /-- GETSTATE (R449). Lease command returning the state, LSEQ and BOOTFAIL bit. -/
  | getstate
  /-- SCRUB (R449). Lease command incrementing LSEQ and starting a scrub. -/
  | scrub
  /-- GETRECORD (R451). Lease command returning the last scrub record. -/
  | getrecord (piece : Nat)
  /-- SETLESSEE (R449). Lease command storing a lessee key hash. -/
  | setlessee (hash : BitVec 384)
  /-- RELEASE (R449). Lease command releasing reset so the boot ROM runs and the state becomes RUN. -/
  | release
  /-- RECOVER (R449). Lease command resetting the device with the recovery flag set. -/
  | recover
  /-- POWER_ON (R449). At power-on the lease controller restarts an interrupted scrub or proceeds to boot. -/
  | powerOn
  /-- LINK_CRC_ERROR (R430). A frame failing CRC or LCRC on PCIe, UALink or a die link is retried and its retry counter incremented. -/
  | linkCrcError (link : Link)
  /-- THROTTLE_CAUSE_CLEARED (R453). A throttling cause clears and its PWRSTAT bit is cleared, so the compute clock may step back up. -/
  | throttleCauseCleared (cause : ThrottleCause)
  /-- QUEUE_NOTIFY (R387). A write to a queue's notify register prompts its walk. -/
  | queueNotify (fn q : Nat)
  /-- IDE_INTEGRITY_FAILURE (R443). A TLP failing IDE is dropped and its stream becomes insecure. -/
  | ideIntegrityFailure (fn : Nat)
  /-- SPDM_REQUEST (R447). The device answers an SPDM request with signed measurements. -/
  | spdmRequest (r : SpdmRequest)
  /-- BCMD_REFILL (R419). Writing 1 to BCMD refills the function's budget balance. -/
  | bcmdRefill (fn : Nat)
  /-- L2BM_WRITE (R253). A write to L2BM holds accesses and writes back the function's lines. -/
  | l2bmWrite (fn v : Nat)
  /-- HSEED_WRITE (R253). A write to an HSEED register holds accesses and writes back the context's lines. -/
  | hseedWrite (fn k v : Nat)
  /-- TINV_WRITE (R264). A write to TINV starts a translation invalidation. -/
  | tinvWrite (fn v : Nat)
  /-- REEVALUATION_TICK (R385). Held counters and WAITMEM words are read again at least every 65,536 hub cycles. -/
  | reevaluationTick
  /-- SCRUB_COMPLETE (R450). The scrub ends, the record is written and the state becomes CLEAN. -/
  | scrubComplete
  /-- QBIND_BIND (R390). A QBIND write with OP 0 binds a queue from its QCB. -/
  | qbindBind (fn qcb q : Nat)
  /-- FQRES_REPLAY (R416). An FQRES write with OUTCOME 0 resolves an entry for replay or resume. -/
  | fqresReplay (fn id : Nat)
  deriving DecidableEq, Repr

end Sys2Proof
end

