-- ==== Sys2Proof/Machine/LaneMap.lean ====
section
/-!
DEFINITION. The lane opcode map (spec/04 R90 to R99) with the checks of R100 that a lane word alone decides: check 1
(SUB 0) and check 2 (SUB 1).
-/
namespace Sys2Proof

/-- The layouts of X (R94). -/
inductive XLayout where
  | int (lut : Bool) (sel : Nat)
  | flt (rnd cond : Bool)
  | conv
  | mem (ords : List Nat)
  | atomic (ords : List Nat)
  | lit
  | offset
  | zero
  | level
  | handle
  | vote
  | quiet
  | acc
  | whole
  deriving DecidableEq, Repr

/-- What the D field names (R92, R97). -/
inductive DstKind where
  | vec
  | vecOnly (zOk outOk : Bool)
  | pred
  | none
  | quietPred
  deriving DecidableEq, Repr

/-- A row of the lane opcode map (R97): accepted T codes, X layout, the SAT bit, the destination, how many of the
sources A, B, C it lists, and whether U is SUB 1 (R99). -/
structure LaneRow where
  ts : List Nat
  lay : XLayout
  sat : Bool
  dst : DstKind
  srcs : Nat
  noU : Bool
  deriving DecidableEq, Repr

namespace Machine

/-! The sets of T codes (R93). -/

def tsInt : List Nat := [0, 1, 2, 3, 4, 5, 6, 7]
def tsFl : List Nat := [8, 9, 10, 11, 12]
def tsW : List Nat := [0, 1, 6, 7]

def intRow (ts : List Nat) (sat : Bool) (srcs : Nat) : LaneRow :=
  LaneRow.mk ts (.int false 0) sat .vec srcs false

def fltRow (rnd sat : Bool) (srcs : Nat) : LaneRow := LaneRow.mk tsFl (.flt rnd false) sat .vec srcs false

def ctlRow (lay : XLayout) (dst : DstKind) (srcs : Nat) (noU : Bool) : LaneRow := LaneRow.mk [0] lay false dst srcs noU

/-- The lane opcode map (R97). -/
def laneRow : Nat → Option LaneRow
  | 0x001 => some (intRow tsInt true 2)
  | 0x002 => some (intRow tsInt true 2)
  | 0x003 => some (intRow tsInt true 2)
  | 0x004 => some (intRow tsInt false 2)
  | 0x005 => some (intRow tsInt true 3)
  | 0x006 => some (intRow [15, 6, 7] false 2)
  | 0x007 => some (intRow [15, 6, 7] false 2)
  | 0x008 => some (intRow [15, 6, 7] false 2)
  | 0x009 => some (LaneRow.mk [15] (.int true 0) false .vec 3 false)
  | 0x00A => some (intRow tsInt true 2)
  | 0x00B => some (intRow tsInt false 2)
  | 0x00C => some (intRow tsInt false 2)
  | 0x00D => some (intRow tsInt false 2)
  | 0x00E => some (intRow tsInt false 2)
  | 0x00F => some (intRow [0, 2, 4, 6] true 1)
  | 0x010 => some (intRow [0, 2, 4, 6] true 1)
  | 0x011 => some (intRow [15, 7] false 1)
  | 0x012 => some (intRow [15, 7] false 1)
  | 0x013 => some (intRow [15, 7] false 1)
  | 0x014 => some (intRow [0, 1] false 2)
  | 0x015 => some (intRow [15] false 3)
  | 0x016 => some (LaneRow.mk [15, 7] (.int false 2) false .vec 2 false)
  | 0x017 => some (LaneRow.mk tsW (.int false 1) false .pred 2 false)
  | 0x018 => some (intRow tsInt false 2)
  | 0x019 => some (intRow tsInt false 2)
  | 0x01A => some (intRow tsInt false 2)
  | 0x01B => some (intRow tsInt false 2)
  | 0x01C => some (intRow [2, 3] true 3)
  | 0x01D => some (intRow [4, 5] true 3)
  | 0x01E => some (intRow [0, 1, 2, 3] true 3)
  | 0x01F => some (intRow [15, 7] false 1)
  | 0x020 => some (LaneRow.mk [15, 6, 7] .whole false .vec 0 false)
  | 0x021 => some (LaneRow.mk [15] (.int true 0) false .pred 3 false)
  | 0x040 => some (fltRow true true 2)
  | 0x041 => some (fltRow true true 2)
  | 0x042 => some (fltRow true true 2)
  | 0x043 => some (fltRow true true 3)
  | 0x044 => some (fltRow false false 2)
  | 0x045 => some (fltRow false false 2)
  | 0x046 => some (fltRow false false 1)
  | 0x047 => some (fltRow false false 1)
  | 0x048 => some (LaneRow.mk [8, 12] (.flt false true) false .pred 2 false)
  | 0x049 => some (LaneRow.mk [8, 12] (.flt false false) false .vec 1 false)
  | 0x04A => some (fltRow true false 1)
  | 0x04B => some (fltRow true true 1)
  | 0x04C => some (fltRow true true 1)
  | 0x04D => some (fltRow true true 1)
  | 0x04E => some (fltRow true true 2)
  | 0x04F => some (fltRow true true 1)
  | 0x050 => some (fltRow true true 1)
  | 0x051 => some (fltRow true true 1)
  | 0x052 => some (fltRow true true 1)
  | 0x053 => some (fltRow true true 1)
  | 0x054 => some (fltRow true true 1)
  | 0x055 => some (fltRow false false 2)
  | 0x080 => some (LaneRow.mk [0, 1, 2, 3, 4, 5, 6, 7, 8, 9, 10, 11, 12, 13, 14] .conv true .vec 1 false)
  | 0x081 => some (LaneRow.mk [2, 3, 4, 5, 10, 11, 13, 14] .conv true .vec 2 false)
  | 0x082 => some (LaneRow.mk [0, 1, 8] .conv false .vec 1 false)
  | 0x083 => some (LaneRow.mk [8, 10, 11] .conv false .vec 2 false)
  | 0x0A0 => some (LaneRow.mk [0, 1, 2, 3, 4] (.mem [0, 1]) false (.vecOnly true true) 2 false)
  | 0x0A1 => some (LaneRow.mk [0, 1, 2, 3, 4] (.mem [0, 2]) false .none 3 false)
  | 0x0A2 => some (LaneRow.mk [0, 1, 6, 7, 8, 12, 15] (.atomic [0, 1, 2]) false (.vecOnly true true) 3 false)
  | 0x0A3 => some (LaneRow.mk [0, 1, 6, 7, 8, 12, 15] (.atomic [0, 2]) false .none 3 false)
  | 0x0A4 => some (LaneRow.mk [0] (.mem [0]) false .none 2 false)
  | 0x0A5 => some (LaneRow.mk [0] (.mem [0]) false .none 2 false)
  | 0x0E0 => some (ctlRow .lit (.vecOnly true false) 0 true)
  | 0x0E1 => some (ctlRow .lit .none 0 true)
  | 0x0E2 => some (ctlRow .lit .none 1 true)
  | 0x0E3 => some (ctlRow .lit (.vecOnly false false) 0 true)
  | 0x0F0 => some (ctlRow .offset .none 0 true)
  | 0x0F1 => some (ctlRow .lit .none 1 true)
  | 0x0F2 => some (ctlRow .offset (.vecOnly true false) 0 true)
  | 0x0F3 => some (ctlRow .zero .none 0 true)
  | 0x0F4 => some (ctlRow .level .vec 0 false)
  | 0x0F5 => some (ctlRow .handle .vec 0 false)
  | 0x0F6 => some (ctlRow .vote .vec 0 true)
  | 0x0F7 => some (ctlRow .quiet .quietPred 1 true)
  | 0x0F8 => some (ctlRow .lit .none 1 true)
  | 0x0F9 => some (ctlRow .zero .vec 0 false)
  | 0x0FA => some (ctlRow .lit .none 1 false)
  | 0x0FB => some (ctlRow .zero .none 0 false)
  | 0x0FC => some (ctlRow .lit .none 2 false)
  | 0x110 => some (ctlRow .acc (.vecOnly true true) 1 false)
  | 0x111 => some (ctlRow .acc .none 2 false)
  | 0x120 => some (ctlRow .lit .vec 2 true)
  | _ => none

/-- The constructor of an assigned OPC. -/
def laneCtor : Nat → LaneWord → Option Instr
  | 0x001, w => some (.add w) | 0x002, w => some (.sub w) | 0x003, w => some (.mul w) | 0x004, w => some (.mulh w)
  | 0x005, w => some (.mad w) | 0x006, w => some (.and w) | 0x007, w => some (.or w) | 0x008, w => some (.xor w)
  | 0x009, w => some (.lop3 w) | 0x00A, w => some (.shl w) | 0x00B, w => some (.shr w) | 0x00C, w => some (.sra w)
  | 0x00D, w => some (.min w) | 0x00E, w => some (.max w) | 0x00F, w => some (.abs w) | 0x010, w => some (.neg w)
  | 0x011, w => some (.clz w) | 0x012, w => some (.popc w) | 0x013, w => some (.brev w) | 0x014, w => some (.bfe w)
  | 0x015, w => some (.bfi w) | 0x016, w => some (.sel w) | 0x017, w => some (.cmp w) | 0x018, w => some (.div w)
  | 0x019, w => some (.rem w) | 0x01A, w => some (.addsat w) | 0x01B, w => some (.subsat w) | 0x01C, w => some (.dp2 w)
  | 0x01D, w => some (.dp4 w) | 0x01E, w => some (.shrr w) | 0x01F, w => some (.mov w) | 0x020, w => some (.movi w)
  | 0x021, w => some (.plop w)
  | 0x040, w => some (.fadd w) | 0x041, w => some (.fsub w) | 0x042, w => some (.fmul w) | 0x043, w => some (.fma w)
  | 0x044, w => some (.fmin w) | 0x045, w => some (.fmax w) | 0x046, w => some (.fneg w) | 0x047, w => some (.fabs w)
  | 0x048, w => some (.fcmp w) | 0x049, w => some (.fclass w) | 0x04A, w => some (.frnd w) | 0x04B, w => some (.frcp w)
  | 0x04C, w => some (.frsq w) | 0x04D, w => some (.fsqrt w) | 0x04E, w => some (.fdiv w) | 0x04F, w => some (.fexp2 w)
  | 0x050, w => some (.flog2 w) | 0x051, w => some (.fsinpi w) | 0x052, w => some (.fcospi w)
  | 0x053, w => some (.ftanh w) | 0x054, w => some (.fsigm w) | 0x055, w => some (.fcsgn w)
  | 0x080, w => some (.cvt w) | 0x081, w => some (.pack w) | 0x082, w => some (.unpk w) | 0x083, w => some (.tw2d w)
  | 0x0A0, w => some (.ld w) | 0x0A1, w => some (.st w) | 0x0A2, w => some (.atom w) | 0x0A3, w => some (.red w)
  | 0x0A4, w => some (.pf w) | 0x0A5, w => some (.cln w)
  | 0x0E0, w => some (.tbeg w) | 0x0E1, w => some (.tend w) | 0x0E2, w => some (.tabt w) | 0x0E3, w => some (.tsts w)
  | 0x0F0, w => some (.bra w) | 0x0F1, w => some (.brr w) | 0x0F2, w => some (.lcall w) | 0x0F3, w => some (.lend w)
  | 0x0F4, w => some (.lidx w) | 0x0F5, w => some (.lshb w) | 0x0F6, w => some (.lvote w) | 0x0F7, w => some (.xissue w)
  | 0x0F8, w => some (.lfmt w) | 0x0F9, w => some (.rdflg w) | 0x0FA, w => some (.clrflg w) | 0x0FB, w => some (.lnop w)
  | 0x0FC, w => some (.ltrap w)
  | 0x110, w => some (.accrd w) | 0x111, w => some (.accwr w) | 0x120, w => some (.bperm w)
  | _, _ => none

/-- The OPC and the fields of a lane instruction. -/
def laneOf : Instr → Option (Nat × LaneWord)
  | .add w => some (0x001, w) | .sub w => some (0x002, w) | .mul w => some (0x003, w) | .mulh w => some (0x004, w)
  | .mad w => some (0x005, w) | .and w => some (0x006, w) | .or w => some (0x007, w) | .xor w => some (0x008, w)
  | .lop3 w => some (0x009, w) | .shl w => some (0x00A, w) | .shr w => some (0x00B, w) | .sra w => some (0x00C, w)
  | .min w => some (0x00D, w) | .max w => some (0x00E, w) | .abs w => some (0x00F, w) | .neg w => some (0x010, w)
  | .clz w => some (0x011, w) | .popc w => some (0x012, w) | .brev w => some (0x013, w) | .bfe w => some (0x014, w)
  | .bfi w => some (0x015, w) | .sel w => some (0x016, w) | .cmp w => some (0x017, w) | .div w => some (0x018, w)
  | .rem w => some (0x019, w) | .addsat w => some (0x01A, w) | .subsat w => some (0x01B, w) | .dp2 w => some (0x01C, w)
  | .dp4 w => some (0x01D, w) | .shrr w => some (0x01E, w) | .mov w => some (0x01F, w) | .movi w => some (0x020, w)
  | .plop w => some (0x021, w)
  | .fadd w => some (0x040, w) | .fsub w => some (0x041, w) | .fmul w => some (0x042, w) | .fma w => some (0x043, w)
  | .fmin w => some (0x044, w) | .fmax w => some (0x045, w) | .fneg w => some (0x046, w) | .fabs w => some (0x047, w)
  | .fcmp w => some (0x048, w) | .fclass w => some (0x049, w) | .frnd w => some (0x04A, w) | .frcp w => some (0x04B, w)
  | .frsq w => some (0x04C, w) | .fsqrt w => some (0x04D, w) | .fdiv w => some (0x04E, w) | .fexp2 w => some (0x04F, w)
  | .flog2 w => some (0x050, w) | .fsinpi w => some (0x051, w) | .fcospi w => some (0x052, w)
  | .ftanh w => some (0x053, w) | .fsigm w => some (0x054, w) | .fcsgn w => some (0x055, w)
  | .cvt w => some (0x080, w) | .pack w => some (0x081, w) | .unpk w => some (0x082, w) | .tw2d w => some (0x083, w)
  | .ld w => some (0x0A0, w) | .st w => some (0x0A1, w) | .atom w => some (0x0A2, w) | .red w => some (0x0A3, w)
  | .pf w => some (0x0A4, w) | .cln w => some (0x0A5, w)
  | .tbeg w => some (0x0E0, w) | .tend w => some (0x0E1, w) | .tabt w => some (0x0E2, w) | .tsts w => some (0x0E3, w)
  | .bra w => some (0x0F0, w) | .brr w => some (0x0F1, w) | .lcall w => some (0x0F2, w) | .lend w => some (0x0F3, w)
  | .lidx w => some (0x0F4, w) | .lshb w => some (0x0F5, w) | .lvote w => some (0x0F6, w) | .xissue w => some (0x0F7, w)
  | .lfmt w => some (0x0F8, w) | .rdflg w => some (0x0F9, w) | .clrflg w => some (0x0FA, w) | .lnop w => some (0x0FB, w)
  | .ltrap w => some (0x0FC, w)
  | .accrd w => some (0x110, w) | .accwr w => some (0x111, w) | .bperm w => some (0x120, w)
  | _ => none

/-! ## Fields of X -/

def xRnd (x : Nat) : Nat := x % 8
def xSat (x : Nat) : Bool := bit x 3
def xSt (x : Nat) : Nat := bits x 13 10
def xElem (x : Nat) : Nat := bits x 15 14
def xLut (x : Nat) : Nat := bits x 11 4
def xOrd (x : Nat) : Nat := bits x 28 27
def xScale (x : Nat) : Nat := bits x 26 24
def xAop (x : Nat) : Nat := bits x 23 16

/-- The (T, ST) pairings of cvt, pack and unpk, with whether the pairing is exact (R148 to R151). -/
def convPair (opc t st : Nat) : Option Bool :=
  let ints := tsW
  match opc with
  | 0x080 =>
    if ints.contains t && ints.contains st then (if t == st then none else some true)
    else if ints.contains t && (st == 8 || st == 12) then some false
    else if t == 8 && (ints.contains st || st == 12) then some false
    else if t == 12 && (st == 6 || st == 7) then some false
    else if t == 12 && (st == 0 || st == 1 || st == 8) then some true
    else if (t == 10 || t == 11) && st == 9 then some false
    else if t == 9 && (st == 10 || st == 11) then some true
    else if (t == 10 && st == 11) || (t == 11 && st == 10) then some false
    else if (t == 13 && st == 14) || (t == 14 && st == 13) then some false
    else if (t == 9 || t == 10 || t == 11) && (st == 13 || st == 14) then some true
    else none
  | 0x081 =>
    if (t == 2 || t == 3) && (st == 0 || st == 1) then some true
    else if (t == 4 || t == 5) && (st == 2 || st == 3) then some true
    else if (t == 10 || t == 11) && st == 8 then some false
    else if (t == 13 || t == 14) && (st == 9 || st == 10 || st == 11) then some false
    else none
  | 0x082 =>
    if t == 0 && (st == 2 || st == 4) then some true
    else if t == 1 && (st == 3 || st == 5) then some true
    else if t == 8 && (st == 10 || st == 11 || st == 13 || st == 14) then some true
    else none
  | _ => some (t == 8)

/-- The largest ELEM a conversion word accepts (R148 to R151). -/
def elemMax (opc t st : Nat) : Nat :=
  match opc with
  | 0x080 => if (t == 9 || t == 10 || t == 11) && (st == 13 || st == 14) then 1 else 0
  | 0x082 => if st == 2 || st == 3 || st == 10 || st == 11 then 1 else 3
  | 0x083 => 3
  | _ => 0

/-- The combinations of AOP and T (R98); AOP 8 to 255 are none. -/
def aopAccepts (isRed : Bool) (aop t : Nat) : Bool :=
  if aop == 0 then tsW.contains t
  else if aop == 1 || aop == 2 then tsW.contains t || t == 8 || t == 12
  else if aop ≤ 5 then t == 15 || t == 7
  else if aop ≤ 7 then !isRed && (t == 15 || t == 7)
  else false

/-- A word whose literal operand takes the whole of X (R75, R94, R96). -/
def usesLiteral (w : LaneWord) : Bool := w.a == 789 || w.b == 789 || w.c == 789

/-- Whether 789 is legal as a source (R96). -/
def literalOk (opc : Nat) (row : LaneRow) : Bool :=
  match row.lay with
  | .int _ _ => opc != 0x009 && opc != 0x016 && opc != 0x017 && opc != 0x021
  | .flt _ cond => !cond
  | .lit => true
  | _ => false

/-- The number of sources that the word lists: shrr takes C for the packed types only (R97). -/
def listedSrcs (opc : Nat) (row : LaneRow) (w : LaneWord) : Nat := if opc == 0x01E && w.t < 2 then 2 else row.srcs

/-- Check 1 of R100 on an assigned lane word: T, the pairing, AOP. -/
def laneUnassigned (opc : Nat) (row : LaneRow) (w : LaneWord) : Bool :=
  !row.ts.contains w.t ||
  (match row.lay with
    | .conv => opc != 0x083 && (convPair opc w.t (xSt w.x)).isNone
    | .atomic _ => !aopAccepts (opc == 0x0A3) (xAop w.x) w.t
    | _ => false)

/-- The bits of X that the layout reserves (R94), for a word with no literal. -/
def xReserved (opc : Nat) (row : LaneRow) (w : LaneWord) : Bool :=
  let x := w.x
  match row.lay with
  | .int lut sel =>
    x / 2 ^ 12 != 0 || (!lut && xLut x != 0) || (!row.sat && xSat x) ||
    (match sel with
      | 0 => x % 8 != 0
      | 1 => decide (x % 8 ≥ 6)
      | _ => false)
  | .flt rnd cond =>
    let n := row.srcs
    -- ABS of A, B, C are bits 7, 8, 9 and NEG are bits 4, 5, 6
    x / 2 ^ 10 != 0 || (decide (n < 3) && (bit x 9 || bit x 6)) || (decide (n < 2) && (bit x 8 || bit x 5)) ||
    (!row.sat && xSat x) ||
    (if cond then decide (x % 8 ≥ 6) else if rnd then decide (x % 8 ≥ 6) else x % 8 != 0)
  | .conv =>
    let exact := (convPair opc w.t (xSt x)).getD false
    x / 2 ^ 16 != 0 || bits x 9 4 != 0 || decide (x % 8 ≥ 6) || (!row.sat && xSat x) || (exact && x % 8 != 0) ||
    (opc == 0x083 && xSt x != 0) || decide (xElem x > elemMax opc w.t (xSt x))
  | .mem ords => !ords.contains (xOrd x)
  | .atomic ords => !ords.contains (xOrd x)
  | .lit => x != 0
  | .offset => false
  | .zero => x != 0
  | .level => x / 4 != 0
  | .handle => x / 2 ^ 16 != 0
  | .vote => x / 32 != 0 || x % 4 == 3
  | .quiet => x / 2 != 0
  | .acc => x / 64 != 0
  | .whole => false

/-- The rounding mode is SR (R54, R99). -/
def selectsSR (row : LaneRow) (w : LaneWord) : Bool :=
  match row.lay with
  | .flt true _ => !usesLiteral w && w.x % 8 == 5
  | .conv => w.x % 8 == 5
  | _ => false

/-- Check 2 of R100 on the word alone; bit 32 is checked where the word is cut into fields. -/
def laneReserved (opc : Nat) (row : LaneRow) (w : LaneWord) : Bool :=
  w.pg == 15 || (w.u && (row.noU || selectsSR row w)) || (opc == 0x0F3 && w.pg != 7) ||
  (!(literalOk opc row && usesLiteral w) && xReserved opc row w)

/-- The field ranges of R90. -/
def laneFields (w : LaneWord) : Bool :=
  decide (w.d < 1024) && decide (w.a < 1024) && decide (w.b < 1024) && decide (w.c < 1024) && decide (w.pg < 16) &&
  decide (w.e < 8) && decide (w.t < 16) && decide (w.x < 2 ^ 32)

/-- A lane word that passes checks 1 and 2. -/
def laneWellFormed (opc : Nat) (w : LaneWord) : Bool :=
  laneFields w &&
  (match laneRow opc with
    | none => false
    | some row => !laneUnassigned opc row w && !laneReserved opc row w)

end Machine
end Sys2Proof
end

