-- ==== Sys2Proof/WellFormed.lean ====
section
/-!
DEFINITION. Well-formed instructions: every field within the range its encoding gives it (spec/04 R85, R86, R90), and
no reserved combination. Events have no encoding and are always well formed.
-/
namespace Sys2Proof

/-- A scalar register number. -/
def wfReg (n : Nat) : Bool := decide (n < 1024)

/-- An unprefixed 15-bit immediate or branch offset. -/
def wfImm15 (i : Int) : Bool := decide (-16384 ≤ i) && decide (i < 16384)

/-- An unprefixed word offset of a scalar memory form. -/
def wfOff5 (i : Int) : Bool := decide (0 ≤ i) && decide (i < 32)

/-- An 8-bit signed exponent. -/
def wfInt8 (i : Int) : Bool := decide (-128 ≤ i) && decide (i < 128)

/-- The CSR numbers of R128. -/
def knownCsr (n : Nat) : Bool := n == 0 || n == 1 || (decide (16 ≤ n) && decide (n < 24)) || n == 32

/-- The types of satom (R295, R98). -/
def satomAccepts (aop t : Nat) : Bool :=
  if aop ≤ 2 then t == 0 || t == 1 || t == 6 || t == 7 else aop ≤ 7 && (t == 15 || t == 7)

/-- Well-formedness of an instruction. -/
def Instr.wf : Instr → Bool
  | .smov x y | .sadd x y | .ssub x y | .sand x y | .sor x y | .sxor x y | .sshl x y | .sshr x y | .ssra x y
  | .smul x y | .smulh x y | .smulhu x y | .sdiv x y | .sdivu x y | .srem x y | .sremu x y | .smin x y | .smax x y
  | .sminu x y | .smaxu x y | .sslt x y | .ssltu x y | .sseq x y | .snot x y | .sclz x y | .spopc x y | .sbrev x y
  | .sneg x y | .smov64 x y | .sadd64 x y | .ssub64 x y | .sshl64 x y | .sshr64 x y | .ssra64 x y | .smul64 x y
  | .sfet x y | .swaitc x y | .slaunch x y | .sjrL x y => wfReg x && wfReg y
  | .sli x i | .sli64 x i | .saddi x i | .sandi x i | .sori x i | .sxori x i | .sshli x i | .sshri x i | .ssrai x i
  | .ssltiu x i | .saddi64 x i => wfReg x && wfImm15 i
  | .sxt h body => decide (h < 2 ^ 25) && decide (body < 2 ^ 32)
  | .sld x y o | .sld64 x y o | .sld128 x y o | .sst x y o | .sst64 x y o | .sst128 x y o | .sldacq x y o
  | .sstrel x y o => wfReg x && wfReg y && wfOff5 o
  | .satom x y f ord aop t z =>
    wfReg x && wfReg y && decide (f < 32) && decide (ord < 3) && satomAccepts aop t && wfReg z
  | .sbr o => wfImm15 o
  | .sbz x o | .sbnz x o | .sblz x o | .sbgez x o | .scall x o | .sloop x o => wfReg x && wfImm15 o
  | .sjr x | .swfull x | .sempt x | .ssetfmt x | .scyc x => wfReg x
  | .sidx x k | .selct x k => wfReg x && decide (k < 4)
  | .smapq x q => wfReg x && decide (q < 32)
  | .srgnb k | .srgne k | .sfenceSc k => decide (k < 4)
  | .sbar k id => decide (k < 4) && decide (id < 16)
  | .sirb id => decide (id < 16384)
  | .sirc x id => wfReg x && decide (id < 16384)
  | .lrun x y n entry => wfReg x && wfReg y && decide (n ≤ 8) && decide (entry < 2 ^ 32)
  | .sshare x y f => wfReg x && wfReg y && decide (f < 32)
  | .scoll x y k op | .sprfx x y k op => wfReg x && wfReg y && decide (k < 4) && decide (op < 8)
  | .sslide x y k width fill d =>
    wfReg x && wfReg y && decide (k < 4) && decide (width < 3) && wfReg fill && decide (-32768 ≤ d) && decide (d < 32768)
  | .sbcast x y k rank => wfReg x && wfReg y && decide (k < 4) && wfReg rank
  | .spawn x y n target => wfReg x && wfReg y && decide (1 ≤ n) && decide (n ≤ 8) && decide (target < 2 ^ 32)
  | .scpy x y restart r => wfReg x && wfReg y && wfReg r && (restart || r == 0)
  | .ssig x y op _ loc d sreg => wfReg x && wfReg y && decide (op < 2) && wfReg d && wfReg sreg && (!loc || d == 0)
  | .sthd x y h => wfReg x && wfReg y && decide (h < 16)
  | .smma x y sreg _ _ _ tile => wfReg x && wfReg y && wfReg sreg && decide (tile < 32)
  | .smacq _ tile | .smrel _ tile => decide (tile < 32)
  | .smld x y tile sreg e _ _ => wfReg x && wfReg y && decide (tile < 32) && wfReg sreg && wfInt8 e
  | .smst x y tile sreg e _ => wfReg x && wfReg y && decide (tile < 32) && wfReg sreg && wfInt8 e
  | .sscan x y c _ _ => wfReg x && wfReg y && decide (c < 16)
  | .sscw x c => wfReg x && decide (c < 16)
  | .sacc x y q => wfReg x && wfReg y && decide (q < 4)
  | .sbankScr x e | .sbankRel x e => wfReg x && decide (e < 16)
  | .sbankFifo x y e => wfReg x && wfReg y && decide (e < 16)
  | .sbankTake x y fifo e => wfReg x && wfReg y && decide (e < 16) && (fifo || y == 0)
  | .sarm x y tag count => wfReg x && wfReg y && decide (tag < 65536) && decide (count < 65536)
  | .strap code => wfImm15 code
  | .scsrR x csr => wfReg x && knownCsr csr
  | .scsrW x csr => wfReg x && knownCsr csr && csr != 32
  | i =>
    match Machine.laneOf i with
    | some (opc, w) => Machine.laneWellFormed opc w
    | none => true

end Sys2Proof
end

