-- ==== Sys2Proof/Decode.lean ====
section
/-!
DEFINITION. The decoder, total on any words, and the encoder (spec/04). A word the map does not assign is refused as
`unassigned` (R100 check 1, SUB 0), a reserved bit or value as `reserved` (check 2, SUB 1), and a two-word form or a
prefix without its next word as `short` (SUB 0, R87, R88).
-/
namespace Sys2Proof

/-- Why a word is no instruction. -/
inductive DecodeError where
  | unassigned
  | reserved
  | short
  deriving DecidableEq, Repr

/-- The SUB code of a decoding error (R100). -/
def DecodeError.sub : DecodeError → Nat
  | .unassigned => 0
  | .reserved => 1
  | .short => 0

/-! ## Scalar words (R85) -/

def opOf (w : Nat) : Nat := w / 2 ^ 25 % 128
def xOf (w : Nat) : Nat := w / 2 ^ 15 % 1024
def yOf (w : Nat) : Nat := w / 2 ^ 5 % 1024
def fnOf (w : Nat) : Nat := w % 32
def immOf (w : Nat) : Int := sext 15 (w % 2 ^ 15)

/-- An instruction, unless a reserved field is nonzero. -/
def need (ok : Bool) (i : Instr) : Except DecodeError Instr := if ok then .ok i else .error .reserved

/-- A form with a second word. -/
def withNext (nxt : Option Nat) (k : Nat → Except DecodeError Instr) : Except DecodeError Instr :=
  match nxt with
  | none => .error .short
  | some v => k (v % 2 ^ 32)

/-- SALU (R107). -/
def decodeSalu (x y : Nat) : Nat → Except DecodeError Instr
  | 0 => .ok (.smov x y) | 1 => .ok (.sadd x y) | 2 => .ok (.ssub x y) | 3 => .ok (.sand x y) | 4 => .ok (.sor x y)
  | 5 => .ok (.sxor x y) | 6 => .ok (.sshl x y) | 7 => .ok (.sshr x y) | 8 => .ok (.ssra x y) | 9 => .ok (.smul x y)
  | 10 => .ok (.smulh x y) | 11 => .ok (.smulhu x y) | 12 => .ok (.sdiv x y) | 13 => .ok (.sdivu x y)
  | 14 => .ok (.srem x y) | 15 => .ok (.sremu x y) | 16 => .ok (.smin x y) | 17 => .ok (.smax x y)
  | 18 => .ok (.sminu x y) | 19 => .ok (.smaxu x y) | 20 => .ok (.sslt x y) | 21 => .ok (.ssltu x y)
  | 22 => .ok (.sseq x y) | 23 => .ok (.snot x y) | 24 => .ok (.sclz x y) | 25 => .ok (.spopc x y)
  | 26 => .ok (.sbrev x y) | 27 => .ok (.sneg x y)
  | _ => .error .unassigned

/-- SALU64 (R108). -/
def decodeSalu64 (x y : Nat) : Nat → Except DecodeError Instr
  | 0 => .ok (.smov64 x y) | 1 => .ok (.sadd64 x y) | 2 => .ok (.ssub64 x y) | 3 => .ok (.sshl64 x y)
  | 4 => .ok (.sshr64 x y) | 5 => .ok (.ssra64 x y) | 6 => .ok (.smul64 x y)
  | _ => .error .unassigned

/-- satom's second word (R295). -/
def decodeSatom (x y f v : Nat) : Except DecodeError Instr :=
  let ord := bits v 28 27
  let aop := bits v 23 16
  let t := bits v 13 10
  if !satomAccepts aop t then .error .unassigned
  else need (bits v 31 29 == 0 && bits v 26 24 == 0 && bits v 15 14 == 0 && ord != 3) (.satom x y f ord aop t (v % 1024))

/-- sfence (R290). -/
def decodeSfence (x y fn : Nat) : Except DecodeError Instr :=
  let k := fn % 4
  let z := x == 0 && y == 0
  match fn / 4 with
  | 0 => need z (.sfenceSc k)
  | 1 => need (z && k == 0) .sfenceAcqrel
  | 2 => need (z && k == 0) .sfenceRel
  | 3 => need (z && k == 0) .sfenceAcq
  | _ => .error .unassigned

/-- sbank (R367). -/
def decodeSbank (x y fn v : Nat) : Except DecodeError Instr :=
  let e := v % 16
  let mode := bit v 4
  let z := v / 32 == 0
  match fn with
  | 0 => need (z && !mode && y == 0) (.sbankScr x e)
  | 1 => need (z && !mode) (.sbankFifo x y e)
  | 2 => need (z && !mode && y == 0) (.sbankRel x e)
  | 3 => need (z && (mode || y == 0)) (.sbankTake x y mode e)
  | _ => .error .unassigned

/-- A scalar word and, where a form takes one, its second word or prefixed word (R87, R89). -/
def decodeScalar (w : Nat) (nxt : Option Nat) : Except DecodeError Instr :=
  let x := xOf w
  let y := yOf w
  let fn := fnOf w
  let imm := immOf w
  match opOf w with
  | 0x01 => decodeSalu x y fn
  | 0x02 => decodeSalu64 x y fn
  | 0x04 => .ok (.sli x imm)
  | 0x05 => .ok (.sli64 x imm)
  | 0x06 => .ok (.saddi x imm)
  | 0x07 => .ok (.sandi x imm)
  | 0x08 => .ok (.sori x imm)
  | 0x09 => .ok (.sxori x imm)
  | 0x0A => .ok (.sshli x imm)
  | 0x0B => .ok (.sshri x imm)
  | 0x0C => .ok (.ssrai x imm)
  | 0x0D => .ok (.ssltiu x imm)
  | 0x0E => .ok (.saddi64 x imm)
  | 0x10 => .ok (.sld x y fn)
  | 0x11 => .ok (.sld64 x y fn)
  | 0x12 => .ok (.sld128 x y fn)
  | 0x13 => .ok (.sst x y fn)
  | 0x14 => .ok (.sst64 x y fn)
  | 0x15 => .ok (.sst128 x y fn)
  | 0x16 => .ok (.sldacq x y fn)
  | 0x17 => .ok (.sstrel x y fn)
  | 0x18 => withNext nxt (decodeSatom x y fn)
  | 0x20 => need (x == 0) (.sbr imm)
  | 0x21 => .ok (.sbz x imm)
  | 0x22 => .ok (.sbnz x imm)
  | 0x23 => .ok (.sblz x imm)
  | 0x24 => .ok (.sbgez x imm)
  | 0x25 => .ok (.scall x imm)
  | 0x26 =>
    match fn with
    | 0 => need (y == 0) (.sjr x)
    | 1 => .ok (.sjrL x y)
    | _ => .error .unassigned
  | 0x27 => .ok (.sloop x imm)
  | 0x30 => need (fn == 0) (.sfet x y)
  | 0x31 => need (y == 0 && fn == 0) (.swfull x)
  | 0x32 => need (y == 0 && fn == 0) (.sempt x)
  | 0x38 => need (y == 0 && decide (fn < 4)) (.sidx x (fn % 4))
  | 0x39 => need (y == 0) (.smapq x fn)
  | 0x3A => need (x == 0 && y == 0 && decide (fn < 4)) (.srgnb (fn % 4))
  | 0x3B => need (x == 0 && y == 0 && decide (fn < 4)) (.srgne (fn % 4))
  | 0x3C => need (x == 0 && decide (y < 16) && decide (fn < 4)) (.sbar (fn % 4) (y % 16))
  | 0x3D => decodeSfence x y fn
  | 0x3E => need (x == 0 && decide (w % 2 ^ 15 < 16384)) (.sirb (w % 2 ^ 14))
  | 0x3F => need (decide (w % 2 ^ 15 < 16384)) (.sirc x (w % 2 ^ 14))
  | 0x40 => if fn > 8 then .error .unassigned else withNext nxt (fun v => .ok (.lrun x y fn v))
  | 0x41 => need (x == 0 && y == 0 && fn == 0) .lsync
  | 0x42 => .ok (.sshare x y fn)
  | 0x44 => .ok (.scoll x y (fn / 8) (fn % 8))
  | 0x45 => .ok (.sprfx x y (fn / 8) (fn % 8))
  | 0x46 =>
    let width := fn / 4 % 4
    if width == 3 then .error .unassigned
    else withNext nxt (fun v =>
      need (decide (fn < 16) && bits v 21 16 == 0) (.sslide x y (fn % 4) width (v / 2 ^ 22) (sext 16 v)))
  | 0x47 => withNext nxt (fun v => need (decide (fn < 4) && v % 2 ^ 22 == 0) (.sbcast x y (fn % 4) (v / 2 ^ 22)))
  | 0x48 => if fn ≥ 8 then .error .unassigned else withNext nxt (fun v => .ok (.spawn x y (fn + 1) v))
  | 0x49 => need (y == 0 && decide (fn < 4)) (.selct x (fn % 4))
  | 0x4A => need (y == 0 && fn == 0) (.ssetfmt x)
  | 0x50 => withNext nxt (fun v =>
      need (fn == 0 && bits v 30 10 == 0 && (bit v 31 || v % 1024 == 0)) (.scpy x y (bit v 31) (v % 1024)))
  | 0x51 => need (fn == 0) (.swaitc x y)
  | 0x52 =>
    if fn % 4 ≥ 2 then .error .unassigned
    else withNext nxt (fun v =>
      need (decide (fn < 8) && bits v 20 10 == 0 && (!bit v 21 || v / 2 ^ 22 == 0))
        (.ssig x y (fn % 4) (bit fn 2) (bit v 21) (v / 2 ^ 22) (v % 1024)))
  | 0x53 => need (decide (fn < 16)) (.sthd x y (fn % 16))
  | 0x54 => withNext nxt (fun v =>
      need (fn == 0 && bits v 21 8 == 0) (.smma x y (v / 2 ^ 22) (bit v 7) (bit v 6) (bit v 5) (v % 32)))
  | 0x55 => need (x == 0 && decide (y < 2)) (.smacq (bit y 0) fn)
  | 0x56 => need (x == 0 && decide (y < 2)) (.smrel (bit y 0) fn)
  | 0x57 => withNext nxt (fun v =>
      need (bits v 12 1 == 0) (.smld x y fn (v / 2 ^ 22) (sext 8 (bits v 21 14)) (bit v 13) (bit v 0)))
  | 0x58 => withNext nxt (fun v =>
      need (bits v 13 1 == 0) (.smst x y fn (v / 2 ^ 22) (sext 8 (bits v 21 14)) (bit v 0)))
  | 0x59 => withNext nxt (fun v =>
      need (fn == 0 && v / 64 == 0) (.sscan x y (v % 16) (bit v 4) (bit v 5)))
  | 0x5A => need (y == 0 && decide (fn < 16)) (.sscw x (fn % 16))
  | 0x5B => withNext nxt (fun v => need (decide (fn < 4) && v == 0) (.sacc x y (fn % 4)))
  | 0x5C => if fn ≥ 4 then .error .unassigned else withNext nxt (decodeSbank x y fn)
  | 0x5D => withNext nxt (fun v => need (fn == 0 && v == 0) (.slaunch x y))
  | 0x5E => withNext nxt (fun v => need (fn == 0) (.sarm x y (v / 2 ^ 16) (v % 2 ^ 16)))
  | 0x70 =>
    match x with
    | 0 => .ok (.strap imm)
    | 1 => need (w % 2 ^ 15 == 0) .strapRet
    | _ => .error .unassigned
  | 0x71 => need (x == 0 && y == 0 && fn == 0) .sbrk
  | 0x72 => need (x == 0 && y == 0 && fn == 0) .sexit
  | 0x73 =>
    match fn with
    | 0 => if knownCsr y then .ok (.scsrR x y) else .error .unassigned
    | 1 => if knownCsr y && y != 32 then .ok (.scsrW x y) else .error .unassigned
    | _ => .error .unassigned
  | 0x74 => need (x == 0 && y == 0 && fn == 0) .syield
  | 0x75 => need (x == 0 && y == 0 && fn == 0) .snop
  | 0x76 => need (y == 0 && fn == 0) (.scyc x)
  | 0x7F => withNext nxt (fun v => .ok (.sxt (w % 2 ^ 25) v))
  | _ => .error .unassigned

/-- Whether an OP is illegal inside a trap handler with SUB 0 (R37, R121, R123, R214, R217, R349, R422). -/
def handlerIllegal (op : Nat) : Bool :=
  [0x3C, 0x3E, 0x3F, 0x40, 0x41, 0x42, 0x44, 0x45, 0x46, 0x47, 0x48, 0x50, 0x52, 0x54, 0x56, 0x57, 0x58, 0x59, 0x5B,
    0x5C, 0x5D, 0x5E].contains op

/-! ## Lane words (R90) -/

/-- The fields of a 96-bit word. -/
def laneFieldsOf (w : Nat) : LaneWord :=
  { d := bits w 85 76, a := bits w 75 66, b := bits w 65 56, c := bits w 55 46, pg := bits w 45 42, u := bit w 41,
    blk := bit w 40, e := bits w 39 37, t := bits w 36 33, x := w % 2 ^ 32 }

/-- The OPC field. -/
def opcOf (w : Nat) : Nat := w / 2 ^ 86 % 1024

/-- A lane word, or why it is none: checks 1 and 2 of R100. -/
def decodeLane (w : Nat) : Except DecodeError Instr :=
  let f := laneFieldsOf w
  match Machine.laneRow (opcOf w), Machine.laneCtor (opcOf w) f with
  | some row, some i =>
    if Machine.laneUnassigned (opcOf w) row f then .error .unassigned
    else if bit w 32 || Machine.laneReserved (opcOf w) row f then .error .reserved
    else .ok i
  | _, _ => .error .unassigned

/-! ## Bytes -/

/-- The little-endian value of bytes. -/
def leNat : List Byte → Nat
  | [] => 0
  | b :: bs => b.toNat + 256 * leNat bs

/-- n bytes of a value, little-endian. -/
def leBytes : Nat → Nat → List Byte
  | 0, _ => []
  | n + 1, v => BitVec.ofNat 8 v :: leBytes n (v / 256)

/-- The scalar instruction at the head of a byte string. -/
def decodeScalarBytes (bs : List Byte) : Except DecodeError Instr :=
  if bs.length < 4 then .error .short
  else
    decodeScalar (leNat (bs.take 4)) (if bs.length < 8 then none else some (leNat ((bs.drop 4).take 4)))

/-- The lane instruction at the head of a byte string. -/
def decodeLaneBytes (bs : List Byte) : Except DecodeError Instr :=
  if bs.length < 12 then .error .short else decodeLane (leNat (bs.take 12))

/-! ## The encoder -/

/-- An S2 word (R85). -/
def mkS2 (op x y fn : Nat) : Nat := op * 2 ^ 25 + x * 2 ^ 15 + y * 2 ^ 5 + fn

/-- An SI or SB word (R85). -/
def mkSI (op x : Nat) (imm : Int) : Nat := op * 2 ^ 25 + x * 2 ^ 15 + low 15 imm

def b2n (b : Bool) : Nat := if b then 1 else 0

/-- The 96 bits of a lane word (R90). -/
def mkLane (opc : Nat) (w : LaneWord) : Nat :=
  opc * 2 ^ 86 + w.d * 2 ^ 76 + w.a * 2 ^ 66 + w.b * 2 ^ 56 + w.c * 2 ^ 46 + w.pg * 2 ^ 42 + b2n w.u * 2 ^ 41 +
    b2n w.blk * 2 ^ 40 + w.e * 2 ^ 37 + w.t * 2 ^ 33 + w.x

/-- The words of an instruction: one or two 32-bit scalar words (a prefix and the word it prefixes for `sxt`), the
three 32-bit parts of a lane word, low first, or none for an event, which has no encoding. -/
def encode : Instr → List Nat
  | .smov x y => [mkS2 1 x y 0] | .sadd x y => [mkS2 1 x y 1] | .ssub x y => [mkS2 1 x y 2] | .sand x y => [mkS2 1 x y 3]
  | .sor x y => [mkS2 1 x y 4] | .sxor x y => [mkS2 1 x y 5] | .sshl x y => [mkS2 1 x y 6] | .sshr x y => [mkS2 1 x y 7]
  | .ssra x y => [mkS2 1 x y 8] | .smul x y => [mkS2 1 x y 9] | .smulh x y => [mkS2 1 x y 10]
  | .smulhu x y => [mkS2 1 x y 11] | .sdiv x y => [mkS2 1 x y 12] | .sdivu x y => [mkS2 1 x y 13]
  | .srem x y => [mkS2 1 x y 14] | .sremu x y => [mkS2 1 x y 15] | .smin x y => [mkS2 1 x y 16]
  | .smax x y => [mkS2 1 x y 17] | .sminu x y => [mkS2 1 x y 18] | .smaxu x y => [mkS2 1 x y 19]
  | .sslt x y => [mkS2 1 x y 20] | .ssltu x y => [mkS2 1 x y 21] | .sseq x y => [mkS2 1 x y 22]
  | .snot x y => [mkS2 1 x y 23] | .sclz x y => [mkS2 1 x y 24] | .spopc x y => [mkS2 1 x y 25]
  | .sbrev x y => [mkS2 1 x y 26] | .sneg x y => [mkS2 1 x y 27]
  | .smov64 x y => [mkS2 2 x y 0] | .sadd64 x y => [mkS2 2 x y 1] | .ssub64 x y => [mkS2 2 x y 2]
  | .sshl64 x y => [mkS2 2 x y 3] | .sshr64 x y => [mkS2 2 x y 4] | .ssra64 x y => [mkS2 2 x y 5]
  | .smul64 x y => [mkS2 2 x y 6]
  | .sli x i => [mkSI 4 x i] | .sli64 x i => [mkSI 5 x i] | .saddi x i => [mkSI 6 x i] | .sandi x i => [mkSI 7 x i]
  | .sori x i => [mkSI 8 x i] | .sxori x i => [mkSI 9 x i] | .sshli x i => [mkSI 10 x i] | .sshri x i => [mkSI 11 x i]
  | .ssrai x i => [mkSI 12 x i] | .ssltiu x i => [mkSI 13 x i] | .saddi64 x i => [mkSI 14 x i]
  | .sld x y o => [mkS2 0x10 x y o.toNat] | .sld64 x y o => [mkS2 0x11 x y o.toNat]
  | .sld128 x y o => [mkS2 0x12 x y o.toNat] | .sst x y o => [mkS2 0x13 x y o.toNat]
  | .sst64 x y o => [mkS2 0x14 x y o.toNat] | .sst128 x y o => [mkS2 0x15 x y o.toNat]
  | .sldacq x y o => [mkS2 0x16 x y o.toNat] | .sstrel x y o => [mkS2 0x17 x y o.toNat]
  | .satom x y f ord aop t z => [mkS2 0x18 x y f, ord * 2 ^ 27 + aop * 2 ^ 16 + t * 2 ^ 10 + z]
  | .sbr o => [mkSI 0x20 0 o] | .sbz x o => [mkSI 0x21 x o] | .sbnz x o => [mkSI 0x22 x o]
  | .sblz x o => [mkSI 0x23 x o] | .sbgez x o => [mkSI 0x24 x o] | .scall x o => [mkSI 0x25 x o]
  | .sjr x => [mkS2 0x26 x 0 0] | .sjrL x y => [mkS2 0x26 x y 1] | .sloop x o => [mkSI 0x27 x o]
  | .sfet x y => [mkS2 0x30 x y 0] | .swfull x => [mkS2 0x31 x 0 0] | .sempt x => [mkS2 0x32 x 0 0]
  | .sidx x k => [mkS2 0x38 x 0 k] | .smapq x q => [mkS2 0x39 x 0 q]
  | .srgnb k => [mkS2 0x3A 0 0 k] | .srgne k => [mkS2 0x3B 0 0 k] | .sbar k id => [mkS2 0x3C 0 id k]
  | .sfenceSc k => [mkS2 0x3D 0 0 k] | .sfenceAcqrel => [mkS2 0x3D 0 0 4] | .sfenceRel => [mkS2 0x3D 0 0 8]
  | .sfenceAcq => [mkS2 0x3D 0 0 12]
  | .sirb id => [mkSI 0x3E 0 id] | .sirc x id => [mkSI 0x3F x id]
  | .lrun x y n entry => [mkS2 0x40 x y n, entry] | .lsync => [mkS2 0x41 0 0 0]
  | .sshare x y f => [mkS2 0x42 x y f]
  | .scoll x y k op => [mkS2 0x44 x y (k * 8 + op)] | .sprfx x y k op => [mkS2 0x45 x y (k * 8 + op)]
  | .sslide x y k width fill d => [mkS2 0x46 x y (width * 4 + k), fill * 2 ^ 22 + low 16 d]
  | .sbcast x y k rank => [mkS2 0x47 x y k, rank * 2 ^ 22]
  | .spawn x y n target => [mkS2 0x48 x y (n - 1), target]
  | .selct x k => [mkS2 0x49 x 0 k] | .ssetfmt x => [mkS2 0x4A x 0 0]
  | .scpy x y restart r => [mkS2 0x50 x y 0, b2n restart * 2 ^ 31 + r]
  | .swaitc x y => [mkS2 0x51 x y 0]
  | .ssig x y op ord loc d sreg => [mkS2 0x52 x y (b2n ord * 4 + op), d * 2 ^ 22 + b2n loc * 2 ^ 21 + sreg]
  | .sthd x y h => [mkS2 0x53 x y h]
  | .smma x y sreg own zero pair tile =>
    [mkS2 0x54 x y 0, sreg * 2 ^ 22 + b2n own * 2 ^ 7 + b2n zero * 2 ^ 6 + b2n pair * 2 ^ 5 + tile]
  | .smacq own tile => [mkS2 0x55 0 (b2n own) tile] | .smrel own tile => [mkS2 0x56 0 (b2n own) tile]
  | .smld x y tile sreg e bf own =>
    [mkS2 0x57 x y tile, sreg * 2 ^ 22 + low 8 e * 2 ^ 14 + b2n bf * 2 ^ 13 + b2n own]
  | .smst x y tile sreg e own => [mkS2 0x58 x y tile, sreg * 2 ^ 22 + low 8 e * 2 ^ 14 + b2n own]
  | .sscan x y c first last => [mkS2 0x59 x y 0, b2n last * 32 + b2n first * 16 + c]
  | .sscw x c => [mkS2 0x5A x 0 c]
  | .sacc x y q => [mkS2 0x5B x y q, 0]
  | .sbankScr x e => [mkS2 0x5C x 0 0, e] | .sbankFifo x y e => [mkS2 0x5C x y 1, e]
  | .sbankRel x e => [mkS2 0x5C x 0 2, e] | .sbankTake x y fifo e => [mkS2 0x5C x y 3, b2n fifo * 16 + e]
  | .slaunch x y => [mkS2 0x5D x y 0, 0] | .sarm x y tag count => [mkS2 0x5E x y 0, tag * 2 ^ 16 + count]
  | .strap code => [mkSI 0x70 0 code] | .strapRet => [mkSI 0x70 1 0] | .sbrk => [mkS2 0x71 0 0 0]
  | .sexit => [mkS2 0x72 0 0 0] | .scsrR x csr => [mkS2 0x73 x csr 0] | .scsrW x csr => [mkS2 0x73 x csr 1]
  | .syield => [mkS2 0x74 0 0 0] | .snop => [mkS2 0x75 0 0 0] | .scyc x => [mkS2 0x76 x 0 0]
  | .sxt h body => [0x7F * 2 ^ 25 + h, body]
  | i =>
    match Machine.laneOf i with
    | some (opc, w) => let v := mkLane opc w; [v % 2 ^ 32, v / 2 ^ 32 % 2 ^ 32, v / 2 ^ 64]
    | none => []

/-- Whether an instruction is one of the lane stream. -/
def Instr.isLane (i : Instr) : Bool := (Machine.laneOf i).isSome

/-- The instruction that a list of 32-bit words begins with, in the stream it belongs to. -/
def decodeWords (lane : Bool) (ws : List Nat) : Except DecodeError Instr :=
  if lane then
    match ws with
    | [a, b, c] => decodeLane (a + b * 2 ^ 32 + c * 2 ^ 64)
    | _ => .error .short
  else
    match ws with
    | [] => .error .short
    | [a] => decodeScalar a none
    | a :: b :: _ => decodeScalar a (some b)

/-- The number of words of a scalar instruction (R85, R87). -/
def scalarWords (i : Instr) : Nat := (encode i).length

/-- The instruction that the decoder reads from bits numbered as spec/opcode_table.json numbers them: a row of at most
64 bits is a scalar instruction whose second word may be missing from the row and is then zero. -/
def decodeTableWord (nbits w : Nat) : Option Instr :=
  if nbits ≤ 64 then (decodeScalarBytes (leBytes 8 w)).toOption
  else (decodeLaneBytes (leBytes 12 w)).toOption

end Sys2Proof
end

