-- ==== Sys2Proof/Machine/Crypto.lean ====
section
/-!
DEFINITION. The published algorithms that the manual names: SHA-384 (spec/18 R401, R403), AES-XTS-256 (spec/22 R446) and
ECDSA P-384 verification (spec/18 R403, spec/22 R448).
-/
namespace Sys2Proof.Machine

/-! ## SHA-384 -/

def shaK : List Nat := [
  0x428A2F98D728AE22, 0x7137449123EF65CD, 0xB5C0FBCFEC4D3B2F, 0xE9B5DBA58189DBBC,
  0x3956C25BF348B538, 0x59F111F1B605D019, 0x923F82A4AF194F9B, 0xAB1C5ED5DA6D8118,
  0xD807AA98A3030242, 0x12835B0145706FBE, 0x243185BE4EE4B28C, 0x550C7DC3D5FFB4E2,
  0x72BE5D74F27B896F, 0x80DEB1FE3B1696B1, 0x9BDC06A725C71235, 0xC19BF174CF692694,
  0xE49B69C19EF14AD2, 0xEFBE4786384F25E3, 0x0FC19DC68B8CD5B5, 0x240CA1CC77AC9C65,
  0x2DE92C6F592B0275, 0x4A7484AA6EA6E483, 0x5CB0A9DCBD41FBD4, 0x76F988DA831153B5,
  0x983E5152EE66DFAB, 0xA831C66D2DB43210, 0xB00327C898FB213F, 0xBF597FC7BEEF0EE4,
  0xC6E00BF33DA88FC2, 0xD5A79147930AA725, 0x06CA6351E003826F, 0x142929670A0E6E70,
  0x27B70A8546D22FFC, 0x2E1B21385C26C926, 0x4D2C6DFC5AC42AED, 0x53380D139D95B3DF,
  0x650A73548BAF63DE, 0x766A0ABB3C77B2A8, 0x81C2C92E47EDAEE6, 0x92722C851482353B] ++ [
  0xA2BFE8A14CF10364, 0xA81A664BBC423001, 0xC24B8B70D0F89791, 0xC76C51A30654BE30,
  0xD192E819D6EF5218, 0xD69906245565A910, 0xF40E35855771202A, 0x106AA07032BBD1B8,
  0x19A4C116B8D2D0C8, 0x1E376C085141AB53, 0x2748774CDF8EEB99, 0x34B0BCB5E19B48A8,
  0x391C0CB3C5C95A63, 0x4ED8AA4AE3418ACB, 0x5B9CCA4F7763E373, 0x682E6FF3D6B2B8A3,
  0x748F82EE5DEFB2FC, 0x78A5636F43172F60, 0x84C87814A1F0AB72, 0x8CC702081A6439EC,
  0x90BEFFFA23631E28, 0xA4506CEBDE82BDE9, 0xBEF9A3F7B2C67915, 0xC67178F2E372532B,
  0xCA273ECEEA26619C, 0xD186B8C721C0C207, 0xEADA7DD6CDE0EB1E, 0xF57D4F7FEE6ED178,
  0x06F067AA72176FBA, 0x0A637DC5A2C898A6, 0x113F9804BEF90DAE, 0x1B710B35131C471B,
  0x28DB77F523047D84, 0x32CAAB7B40C72493, 0x3C9EBE0A15C9BEBC, 0x431D67C49C100D4C,
  0x4CC5D4BECB3E42B6, 0x597F299CFC657E2A, 0x5FCB6FAB3AD6FAEC, 0x6C44198C4A475817]

def shaInit : List Nat := [
  0xCBBB9D5DC1059ED8, 0x629A292A367CD507, 0x9159015A3070DD17, 0x152FECD8F70E5939,
  0x67332667FFC00B31, 0x8EB44A8768581511, 0xDB0C2E0D64F98FA7, 0x47B5481DBEFA4FA4]

def rotr64 (x n : Nat) : Nat := x / 2 ^ n + x % 2 ^ n * 2 ^ (64 - n)

/-- The message schedule: 64 further words after the 16 of a block, newest first. -/
def shaExtend : Nat → List Nat → List Nat
  | 0, w => w
  | n + 1, w =>
    let w2 := w.getD 1 0
    let w7 := w.getD 6 0
    let w15 := w.getD 14 0
    let w16 := w.getD 15 0
    let s0 := rotr64 w15 1 ^^^ rotr64 w15 8 ^^^ w15 / 2 ^ 7
    let s1 := rotr64 w2 19 ^^^ rotr64 w2 61 ^^^ w2 / 2 ^ 6
    shaExtend n ((w16 + s0 + w7 + s1) % 2 ^ 64 :: w)

/-- The eight working variables of a round. -/
structure ShaVars where
  a : Nat
  b : Nat
  c : Nat
  d : Nat
  e : Nat
  f : Nat
  g : Nat
  h : Nat

def shaRound (v : ShaVars) (kw : Nat × Nat) : ShaVars :=
  let s1 := rotr64 v.e 14 ^^^ rotr64 v.e 18 ^^^ rotr64 v.e 41
  let ch := (v.e &&& v.f) ^^^ ((2 ^ 64 - 1 - v.e) &&& v.g)
  let t1 := v.h + s1 + ch + kw.1 + kw.2
  let s0 := rotr64 v.a 28 ^^^ rotr64 v.a 34 ^^^ rotr64 v.a 39
  let maj := (v.a &&& v.b) ^^^ (v.a &&& v.c) ^^^ (v.b &&& v.c)
  ShaVars.mk ((t1 + s0 + maj) % 2 ^ 64) v.a v.b v.c ((v.d + t1) % 2 ^ 64) v.e v.f v.g

def shaBlock (h : List Nat) (ws : List Nat) : List Nat :=
  let v0 := ShaVars.mk (h.getD 0 0) (h.getD 1 0) (h.getD 2 0) (h.getD 3 0) (h.getD 4 0) (h.getD 5 0) (h.getD 6 0) (h.getD 7 0)
  let v := (shaK.zip (shaExtend 64 ws.reverse).reverse).foldl shaRound v0
  List.zipWith (fun x y => (x + y) % 2 ^ 64) h [v.a, v.b, v.c, v.d, v.e, v.f, v.g, v.h]

/-- The big-endian value of bytes. -/
def beNat (bs : List Byte) : Nat := bs.foldl (fun n b => n * 256 + b.toNat) 0

/-- n bytes of a value, big-endian. -/
def beBytes (n v : Nat) : List Byte := (leBytes n v).reverse

/-- k blocks of 128 bytes. -/
def shaBlocks : Nat → List Byte → List Nat → List Nat
  | 0, _, h => h
  | k + 1, bs, h =>
    shaBlocks k (bs.drop 128) (shaBlock h ((List.range 16).map fun i => beNat ((bs.drop (8 * i)).take 8)))

/-- SHA-384 of bytes: 48 bytes. -/
def sha384 (bs : List Byte) : List Byte :=
  let n := bs.length
  let pad := (239 - n % 128) % 128
  let m := bs ++ [0x80#8] ++ List.replicate pad 0#8 ++ beBytes 16 (8 * n)
  ((shaBlocks (m.length / 128) m shaInit).take 6).flatMap (beBytes 8)

/-! ## AES-256 and XTS -/

def aesSbox : List Nat := [
  0x63, 0x7C, 0x77, 0x7B, 0xF2, 0x6B, 0x6F, 0xC5, 0x30, 0x01, 0x67, 0x2B, 0xFE, 0xD7, 0xAB, 0x76,
  0xCA, 0x82, 0xC9, 0x7D, 0xFA, 0x59, 0x47, 0xF0, 0xAD, 0xD4, 0xA2, 0xAF, 0x9C, 0xA4, 0x72, 0xC0,
  0xB7, 0xFD, 0x93, 0x26, 0x36, 0x3F, 0xF7, 0xCC, 0x34, 0xA5, 0xE5, 0xF1, 0x71, 0xD8, 0x31, 0x15,
  0x04, 0xC7, 0x23, 0xC3, 0x18, 0x96, 0x05, 0x9A, 0x07, 0x12, 0x80, 0xE2, 0xEB, 0x27, 0xB2, 0x75] ++ [
  0x09, 0x83, 0x2C, 0x1A, 0x1B, 0x6E, 0x5A, 0xA0, 0x52, 0x3B, 0xD6, 0xB3, 0x29, 0xE3, 0x2F, 0x84,
  0x53, 0xD1, 0x00, 0xED, 0x20, 0xFC, 0xB1, 0x5B, 0x6A, 0xCB, 0xBE, 0x39, 0x4A, 0x4C, 0x58, 0xCF,
  0xD0, 0xEF, 0xAA, 0xFB, 0x43, 0x4D, 0x33, 0x85, 0x45, 0xF9, 0x02, 0x7F, 0x50, 0x3C, 0x9F, 0xA8,
  0x51, 0xA3, 0x40, 0x8F, 0x92, 0x9D, 0x38, 0xF5, 0xBC, 0xB6, 0xDA, 0x21, 0x10, 0xFF, 0xF3, 0xD2] ++ [
  0xCD, 0x0C, 0x13, 0xEC, 0x5F, 0x97, 0x44, 0x17, 0xC4, 0xA7, 0x7E, 0x3D, 0x64, 0x5D, 0x19, 0x73,
  0x60, 0x81, 0x4F, 0xDC, 0x22, 0x2A, 0x90, 0x88, 0x46, 0xEE, 0xB8, 0x14, 0xDE, 0x5E, 0x0B, 0xDB,
  0xE0, 0x32, 0x3A, 0x0A, 0x49, 0x06, 0x24, 0x5C, 0xC2, 0xD3, 0xAC, 0x62, 0x91, 0x95, 0xE4, 0x79,
  0xE7, 0xC8, 0x37, 0x6D, 0x8D, 0xD5, 0x4E, 0xA9, 0x6C, 0x56, 0xF4, 0xEA, 0x65, 0x7A, 0xAE, 0x08] ++ [
  0xBA, 0x78, 0x25, 0x2E, 0x1C, 0xA6, 0xB4, 0xC6, 0xE8, 0xDD, 0x74, 0x1F, 0x4B, 0xBD, 0x8B, 0x8A,
  0x70, 0x3E, 0xB5, 0x66, 0x48, 0x03, 0xF6, 0x0E, 0x61, 0x35, 0x57, 0xB9, 0x86, 0xC1, 0x1D, 0x9E,
  0xE1, 0xF8, 0x98, 0x11, 0x69, 0xD9, 0x8E, 0x94, 0x9B, 0x1E, 0x87, 0xE9, 0xCE, 0x55, 0x28, 0xDF,
  0x8C, 0xA1, 0x89, 0x0D, 0xBF, 0xE6, 0x42, 0x68, 0x41, 0x99, 0x2D, 0x0F, 0xB0, 0x54, 0xBB, 0x16]

/-- The place of a value in the S-box: the inverse S-box. -/
def aesUnbox (v : Nat) : Nat := aesSbox.idxOf v

def gfDouble (a : Nat) : Nat := if a ≥ 128 then (2 * a) % 256 ^^^ 0x1B else 2 * a

/-- The product in GF(2^8), by the bits of the second factor. -/
def gfMul : Nat → Nat → Nat → Nat
  | 0, _, _ => 0
  | n + 1, a, b => (if b % 2 == 1 then a else 0) ^^^ gfMul n (gfDouble a) (b / 2)

def xorLists (a b : List Nat) : List Nat := List.zipWith (fun x y => x ^^^ y) a b

/-- The 60 words of the key schedule, newest first, from the 8 words of the key. -/
def aesExpand : Nat → Nat → Nat → List (List Nat) → List (List Nat)
  | 0, _, _, w => w
  | n + 1, i, rcon, w =>
    let prev := w.getD 0 []
    let back := w.getD 7 []
    let t :=
      if i % 8 == 0 then
        match prev.map fun b => aesSbox.getD b 0 with
        | x :: xs => match xs ++ [x] with
          | y :: ys => (y ^^^ rcon) :: ys
          | [] => []
        | [] => []
      else if i % 8 == 4 then prev.map fun b => aesSbox.getD b 0
      else prev
    aesExpand n (i + 1) (if i % 8 == 0 then gfDouble rcon else rcon) (xorLists back t :: w)

/-- The 15 round keys of a 32-byte key. -/
def aesKeys (key : List Nat) : List (List Nat) :=
  let ws := (aesExpand 52 8 1 (((List.range 8).map fun i => (key.drop (4 * i)).take 4).reverse)).reverse
  (List.range 15).map fun r => ((ws.drop (4 * r)).take 4).flatten

/-- Byte positions after ShiftRows, and after its inverse. -/
def aesShift (s : List Nat) : List Nat := (List.range 16).map fun i => s.getD ((i + 4 * (i % 4)) % 16) 0
def aesUnshift (s : List Nat) : List Nat := (List.range 16).map fun i => s.getD ((i + 12 * (i % 4)) % 16) 0

/-- A column matrix with the given first row. -/
def aesMixWith (c : List Nat) (s : List Nat) : List Nat :=
  (List.range 16).map fun i =>
    let col := (s.drop (i / 4 * 4)).take 4
    (List.range 4).foldl (fun acc j => acc ^^^ gfMul 8 (col.getD j 0) (c.getD ((j + 4 - i % 4) % 4) 0)) 0

def aesEncrypt (keys : List (List Nat)) (block : List Nat) : List Nat :=
  match keys with
  | [] => block
  | k0 :: rest =>
    let s := (rest.take 13).foldl
      (fun s k => xorLists k (aesMixWith [2, 3, 1, 1] (aesShift (s.map fun b => aesSbox.getD b 0)))) (xorLists k0 block)
    xorLists (rest.getD 13 []) (aesShift (s.map fun b => aesSbox.getD b 0))

def aesDecrypt (keys : List (List Nat)) (block : List Nat) : List Nat :=
  match keys.reverse with
  | [] => block
  | k14 :: rest =>
    let s := (rest.take 13).foldl
      (fun s k => aesMixWith [14, 11, 13, 9] (xorLists k ((aesUnshift s).map aesUnbox))) (xorLists k14 block)
    xorLists (rest.getD 13 []) ((aesUnshift s).map aesUnbox)

/-- The next tweak: times x in GF(2^128), the bytes little-endian. -/
def xtsNext (t : Nat) : Nat := if t ≥ 2 ^ 127 then (2 * t) % 2 ^ 128 ^^^ 0x87 else 2 * t

def toNats (bs : List Byte) : List Nat := bs.map (·.toNat)
def ofNats (ns : List Nat) : List Byte := ns.map (BitVec.ofNat 8)

/-- k blocks of 16 bytes under a tweak. -/
def xtsBlocks (f : List Nat → List Nat) : Nat → Nat → List Nat → List Nat
  | 0, _, _ => []
  | k + 1, t, bs =>
    let tw := toNats (leBytes 16 t)
    xorLists tw (f (xorLists tw (bs.take 16))) ++ xtsBlocks f k (xtsNext t) (bs.drop 16)

/-- A 128-byte line under a 64-byte key (data key, then tweak key) and the tweak of its address bits 51:7. -/
def xtsLine (decrypt : Bool) (key : Nat) (line : Nat) (bs : List Byte) : List Byte :=
  let k1 := aesKeys (toNats (leBytes 32 key))
  let k2 := aesKeys (toNats (leBytes 32 (key / 2 ^ 256)))
  let t0 := leNat (ofNats (aesEncrypt k2 (toNats (leBytes 16 line))))
  ofNats (xtsBlocks (if decrypt then aesDecrypt k1 else aesEncrypt k1) 8 t0 (toNats bs))

/-! ## ECDSA over P-384 -/

def p384P : Nat := 2 ^ 384 - 2 ^ 128 - 2 ^ 96 + 2 ^ 32 - 1
def p384N : Nat := 0xFFFFFFFFFFFFFFFFFFFFFFFFFFFFFFFFFFFFFFFFFFFFFFFFC7634D81F4372DDF581A0DB248B0A77AECEC196ACCC52973
def p384B : Nat := 0xB3312FA7E23EE7E4988E056BE3F82D19181D9C6EFE8141120314088F5013875AC656398D8A2ED19D2A85C8EDD3EC2AEF
def p384Gx : Nat := 0xAA87CA22BE8B05378EB1C71EF320AD746E1D3B628BA79B9859F741E082542A385502F25DBF55296C3A545E3872760AB7
def p384Gy : Nat := 0x3617DE4A96262C6F5D9E98BF9292DC29F8F41DBD289A147CE9DA3113B5F0B8C00A60B1CE1D7E819D7A431D7C90EA0E5F

/-- a^e modulo m over the low `fuel` bits of e. -/
def powMod (m : Nat) : Nat → Nat → Nat → Nat
  | 0, _, _ => 1
  | fuel + 1, a, e => (if e % 2 == 1 then a else 1) * powMod m fuel (a * a % m) (e / 2) % m

def subP (a b : Nat) : Nat := (a + p384P - b % p384P) % p384P

/-- A point in Jacobian coordinates; z = 0 is the point at infinity. -/
structure EcPoint where
  x : Nat
  y : Nat
  z : Nat

def ecDouble (p : EcPoint) : EcPoint :=
  if p.z == 0 || p.y == 0 then EcPoint.mk 1 1 0
  else
    let d := p.z * p.z % p384P
    let g := p.y * p.y % p384P
    let b := p.x * g % p384P
    let a := 3 * (subP p.x d * ((p.x + d) % p384P) % p384P) % p384P
    let x := subP (a * a % p384P) (8 * b)
    let z := subP (subP ((p.y + p.z) * (p.y + p.z) % p384P) g) d
    EcPoint.mk x (subP (a * subP (4 * b) x % p384P) (8 * (g * g % p384P))) z

def ecAdd (p q : EcPoint) : EcPoint :=
  if p.z == 0 then q
  else if q.z == 0 then p
  else
    let z1 := p.z * p.z % p384P
    let z2 := q.z * q.z % p384P
    let u1 := p.x * z2 % p384P
    let u2 := q.x * z1 % p384P
    let s1 := p.y * (q.z * z2 % p384P) % p384P
    let s2 := q.y * (p.z * z1 % p384P) % p384P
    if u1 == u2 then (if s1 == s2 then ecDouble p else EcPoint.mk 1 1 0)
    else
      let h := subP u2 u1
      let r := subP s2 s1
      let h2 := h * h % p384P
      let h3 := h * h2 % p384P
      let v := u1 * h2 % p384P
      let x := subP (subP (r * r % p384P) h3) (2 * v)
      EcPoint.mk x (subP (r * subP v x % p384P) (s1 * h3 % p384P)) (h * (p.z * q.z % p384P) % p384P)

/-- k times a point over the low `fuel` bits of k. -/
def ecMul : Nat → Nat → EcPoint → EcPoint
  | 0, _, _ => EcPoint.mk 1 1 0
  | fuel + 1, k, p =>
    let r := ecMul fuel (k / 2) (ecDouble p)
    if k % 2 == 1 then ecAdd p r else r

/-- Whether (r, s) over a 384-bit digest verifies under the public key (x, y), which must be a point of the curve. -/
def ecdsaVerify (x y digest r s : Nat) : Bool :=
  if r == 0 || s == 0 || r ≥ p384N || s ≥ p384N || x ≥ p384P || y ≥ p384P then false
  else if y * y % p384P != subP ((x * x % p384P * x + p384B) % p384P) (3 * x) then false
  else
    let w := powMod p384N 384 s (p384N - 2)
    let u1 := digest % p384N * w % p384N
    let u2 := r * w % p384N
    let q := ecAdd (ecMul 384 u1 (EcPoint.mk p384Gx p384Gy 1)) (ecMul 384 u2 (EcPoint.mk x y 1))
    if q.z == 0 then false
    else
      let zi := powMod p384P 384 q.z (p384P - 2)
      q.x * (zi * zi % p384P) % p384P % p384N == r

end Sys2Proof.Machine
end

