-- ==== Sys2Proof/Config.lean ====
section
/-!
DEFINITION. What the manual leaves open, as free values (constants with no body), and the figures of the part.
Each free value is named in notes/assumptions; nothing can be proved of its value.
-/
namespace Sys2Proof.Config

/-- Which of the agents that can act acts next (log 1). -/
opaque pick : Nat → Nat
/-- Whether a plain load that finds a copy in its cluster L1 is served by it (spec/13 R268; log 8). -/
opaque l1Hit : Nat → Nat → Bool
/-- Whether an access uses a cached translation rather than a new walk (spec/12 R265; log 9). -/
opaque tlbHit : Nat → Nat → Bool
/-- Compute-clock cycles that pass at a step (spec/05 R131; log 10). -/
opaque cycleStep : Nat → Nat
/-- The device's random source for memory keys (spec/22 R446; log 11). -/
opaque randomKey : Nat → BitVec 512
/-- A signature by the device attestation key (spec/22 R447, R451; log 12). -/
opaque attestSign : List Byte → BitVec 768
/-- The chain of certificate slot 0 (spec/22 R447; log 12). -/
opaque certChain : List Byte
/-- Bytes of the boot ROM (spec/22 R444; log 12). -/
opaque bootRom : Nat → Byte
/-- SHA-384 of the provider's public key, fused (spec/22 R448; log 12). -/
opaque providerKeyHash : BitVec 384
/-- The device serial number, fused (spec/22 R448; log 12). -/
opaque serialNumber : BitVec 384
/-- The cheapest way of pre-empting a team by this part's cost estimates (spec/20 R427; log 13). -/
opaque preemptCost : Nat → Nat → Nat
/-- Where the baseline or the tenant image's header begins in the firmware flash (spec/22 R448; log 12). -/
opaque slotOffset (tenant : Bool) : Nat
/-- The image's size by the fields of its 256-byte header, whose places the manual does not give (spec/22 R448; log 12). -/
opaque headerSize (header : List Byte) : Nat
/-- The image's load address by the same fields (spec/22 R448; log 12). -/
opaque headerLoad (header : List Byte) : Nat
/-- Whether a store-conditional of a hart fails though nothing has written, as the RISC-V family allows (spec/22 R444; log 7). -/
opaque scFails (tick : Nat) : Bool
/-- The public key, x and then y, that comes with a signed image (spec/22 R448; log 12). -/
opaque imageKey (tenant : Bool) (header : List Byte) : BitVec 768
/-- The pattern and extent of a scrub class where the manual states none (spec/22 R451; log 12). -/
opaque recordClass : Nat → Nat × Nat
/-- Where PWRSTAT (0) and the SOFTERR counters (1 to 10) lie in the partition page (spec/22 R444; log 22). -/
opaque statOffset : Nat → Nat
/-- Where PWRSTAT (0) and the SOFTERR counters (1 to 10) lie in the PF's BAR0 (spec/22 R440; log 22). -/
opaque pfOffset : Nat → Nat
/-- Whether a byte of the firmware flash lies in the tenant image's slot (spec/22 R448, R450; log 12). -/
opaque tenantSlot : Nat → Bool
/-- How far the compute clock steps back up when a throttling cause clears (spec/22 R453; log 6). -/
opaque clockRise : Nat → Nat
/-! Figures of the device (spec/00 R6). -/

def numParts : Nat := 12
def numFuncs : Nat := 48
def numQueues : Nat := 1024
def numCores : Nat := 144
def numClusters : Nat := 36
def coresPerCluster : Nat := 4
def banksPerCluster : Nat := 16
def bankBytes : Nat := 524288
def numEngines : Nat := 48
def lanesPerPartition : Nat := 16
def partitionsPerCore : Nat := 12
def numHarts : Nat := 8

end Sys2Proof.Config
end

