-- ==== Sys2Proof/Machine/State.lean ====
section
/-!
DEFINITION. The state of the device, as plain data: everything the manual names, and the few fields of the model's own
that say which agent acts next. INVENTORY.md lists every field with its rule and its reset value.
-/
namespace Sys2Proof.Machine

/-! ## Registers and the shuttle (spec/01, spec/02, spec/07, spec/08) -/

/-- A register with its full/empty bit (R26): full with a value, empty with a producer pending, or empty with none; or full
with a value whose parity is broken (R430). -/
inductive RegCell where
  | full (v : Word)
  | pending
  | empty
  | bad
  deriving DecidableEq, Repr

/-- Where an access lies once it is translated: the key of its first byte in the device's byte memory, with the
key-table index and hash context of its page and whether the translation denies write (R249, R256, R258). -/
structure Loc where
  key : Nat
  keyid : Nat
  hctx : Nat
  space : Nat
  ro : Bool
  deriving DecidableEq, Repr

/-- What an access does at its location. -/
inductive AccKind where
  | load
  | store
  | atom (aop t : Nat) (expect : Nat)
  | red (aop t : Nat)
  deriving DecidableEq, Repr

/-- Where an arriving value goes (R29, R153). -/
inductive AccDst where
  | none
  | sregs (x : Nat)
  | vregs (beats : List Nat) (d : Nat)
  | stream
  deriving DecidableEq, Repr

/-- How far an access has come: waiting for its walk, waiting at its home, waiting at a FIFO bank, parked on a
fault-queue entry, or performed with its value on the way. -/
inductive AccStatus where
  | walk
  | home (loc : Loc)
  | fifo (entry : Nat)
  | faulted (fault : Nat)
  | arrived (v : Nat)
  deriving DecidableEq, Repr

/-- The instruction that an access or a command comes from, as a record of its fault names it (R38, R39): the offset that
resumes there, its words, and FMT; and of a command where its shuttle ran, its nest, LAUNCH block, team and depth, which an
entry of the error ring names also when the team has retired (R191, R414). -/
structure Origin where
  off : Nat := 0
  words : List Nat := []
  fmt : Nat := 0
  place : Nat := 0
  desc : Nat := 0
  block : Nat := 0
  team : Nat := 0
  depth : Nat := 0
  deriving DecidableEq, Repr

/-- An access of a shuttle that is not finished: of its scalar stream, or of the thread at a beat. With U set it stands
for every beat of `covers` (R287); an access that the scalar stream waits for holds the offset of its instruction there.
The accesses of one lane word have one `word`. `lost` holds the scalar registers of its destination that a trap record or `sbrk`
has written meanwhile: it is no longer their producer. -/
structure Access where
  id : Nat
  word : Nat
  beat : Option Nat
  kind : AccKind
  va : Nat
  size : Nat
  data : Nat
  ord : Nat
  dst : AccDst
  covers : List Nat
  block : Nat
  status : AccStatus
  origin : Origin := {}
  lost : List Nat := []
  deriving DecidableEq, Repr

/-- What a frontier entry waits for (R198, R199, R300, R301, R304). -/
inductive EntryStatus where
  | ready
  | ended
  | parked (fault : Nat)
  | serialToken
  | logRoom
  | committing
  deriving DecidableEq, Repr

/-- An illegal word that an `xissue` met (R220): the thread, the SUB, the depth and the word. -/
structure XFault where
  beat : Nat
  sub : Nat
  depth : Nat
  word : Nat
  deriving DecidableEq, Repr

/-- The operands of a thread whose access parked it (R199): the words of the issue register that led to it, the
values that the sources and the expected value had, and the address and the word that a record of it names. -/
structure Held where
  beat : Nat
  va : Nat
  raw : List Nat
  words : List Nat
  a : Nat
  b : Nat
  c : Nat
  e : Nat
  deriving DecidableEq, Repr

/-- A frontier entry (R197) with its progress in its word: the values popped so far by beat and the beat of each value
pushed (R134), the threads of an `xissue` whose words have completed, those left out after a reported fault, and the
illegal words found (R219 to R221), and the operands of threads that parked. -/
structure Entry where
  pc : Nat
  beats : List Nat
  fmt : Nat
  status : EntryStatus
  done : List Nat
  left : List Nat
  popped : List (Nat × Nat)
  pushed : List Nat
  xfaults : List XFault
  held : List Held
  deriving DecidableEq, Repr

/-- A lane block (R21, R122, R176): its argument window, FMT, SRSEED and level indices as captured, its output window,
and which outputs it has written. -/
structure Block where
  id : Nat
  entry : Nat
  args : List Word
  fmt : Nat
  seed : Nat
  outBase : Nat
  outN : Nat
  written : List Nat
  seq : List Nat
  beats : List Nat
  deriving DecidableEq, Repr

/-- Where a trap was taken from (R36, R37): the words that the return resumes at. -/
inductive Suspended where
  | none
  | scalar
  | lane (pc : Nat) (beats : List Nat) (skip : Bool)
  deriving DecidableEq, Repr

/-- The state that an iteration of a split region carries (R181): the levels whose indices name it, its carried
registers, its predicates, FLAGS and n. -/
structure Carry where
  iter : List Nat
  levels : List Nat
  vregs : List (Nat × RegCell)
  sregs : List (Nat × RegCell)
  preds : List (Nat × Nat)
  flags : List (Nat × Nat)
  counts : List (Nat × Nat)
  deriving DecidableEq, Repr

/-- An open region of a level (R176, R178): the word after its `srgnb`, the entry values of FLAGS and n by beat, and
what the iterations so far have left to merge. -/
structure Region where
  level : Nat
  start : Nat
  flags0 : List (Nat × Nat)
  counts0 : List (Nat × Nat)
  flagsAcc : List (Nat × Nat)
  countsAcc : List (Nat × Nat)
  deriving DecidableEq, Repr

/-- A split region (R181): its levels, outermost first, the word where its phase started with the regions open there,
the FLAGS and n of an iteration that has carried nothing, and the state saved for each iteration, latest first. -/
structure Split where
  levels : List Nat
  phaseStart : Nat
  stack : List Region
  flags0 : List (Nat × Nat)
  counts0 : List (Nat × Nat)
  carries : List Carry
  deriving DecidableEq, Repr

/-- What an arrival carries (R183, R215). -/
structure ArrivalKey where
  level : Nat
  id : Nat
  coll : Option (Nat × Nat × Int)
  deriving DecidableEq, Repr

/-- An entry of an attempt's log (R304): an aligned 8-byte unit at its location, with its virtual address, the bytes
read before they were written with their values, and the bytes written. -/
structure LogUnit where
  va : Nat
  loc : Loc
  readMask : Nat
  readVal : Nat
  writeMask : Nat
  writeVal : Nat
  deriving DecidableEq, Repr

/-- A thread's transaction (R298 to R306): the word and FMT it restarts with, its mode, its aborts so far and its log;
`restart` holds the status that the next `tbeg` writes. -/
structure Txn where
  beat : Nat
  pc : Nat
  fmt : Nat
  active : Bool
  serial : Bool
  count : Nat
  restart : Option Nat
  log : List LogUnit
  committing : Bool
  deriving DecidableEq, Repr

/-- A region record (R422): the resume offset and, for `sirc`, the value of the counter register. -/
structure RegionRecord where
  resume : Nat
  creg : Option Nat
  cval : Nat
  regions : List Region
  seq : List Nat
  fmt : Nat
  seed : Nat
  flags : List (Nat × Nat)
  counts : List (Nat × Nat)
  deriving DecidableEq, Repr

/-- A shuttle (R8 to R30). `sscw` counts the `sscw` executed by chain id (R365), and `waiter` tells whether it holds a
counter waiter (R404). Registers, predicates, FLAGS and counts are listed where they differ from the start value:
vector registers under 1024 * beat + number, predicates under 8 * beat + number, FLAGS and n under the beat. -/
structure Shuttle where
  id : Nat
  team : Nat
  stage : Nat
  num : Nat
  spawned : Bool
  nthreads : Nat
  core : Nat
  part : Nat
  lane : Nat
  slot : Nat
  live : Bool
  stopped : Bool
  pc : Nat
  branchFrom : Option (Nat × Nat)
  fmt : Nat
  seed : Nat
  sregs : List (Nat × RegCell)
  vregs : List (Nat × RegCell)
  preds : List (Nat × Nat)
  flags : List (Nat × Nat)
  counts : List (Nat × Nat)
  blocks : List Block
  running : Bool
  frontier : List Entry
  handler : Bool
  suspended : Suspended
  traps : Nat
  laneFence : Nat
  accs : List Access
  regions : List Region
  seq : List Nat
  splits : List Split
  arrived : Option ArrivalKey
  txns : List Txn
  record : Option RegionRecord
  exposed : Bool
  sscw : List (Nat × Nat)
  waiter : Bool
  deriving DecidableEq, Repr

/-! ## Teams, banks and engines (spec/07, spec/12, spec/15, spec/16) -/

/-- An assigned bank-table entry (R239, R244): its physical bank, SCRATCH or a FIFO geometry (slot size and count),
whether it holds shared copies, and the filled slots, oldest first. -/
structure BankEntry where
  entry : Nat
  bank : Nat
  fifo : Option (Nat × Nat)
  shared : Bool
  slots : List (List Byte)
  deriving DecidableEq, Repr

/-- A tile handle (R323). -/
structure Handle where
  num : Nat
  base : Nat
  rows : Nat
  cols : Nat
  stride : Nat
  stage : Nat
  fmtc : Nat
  deriving DecidableEq, Repr

/-- The queue of a logical thread (R163): the consuming stage, the thread's coordinate, the queue and its values. -/
structure StageQueue where
  stage : Nat
  coord : List Nat
  q : Nat
  vals : List Word
  deriving DecidableEq, Repr

/-- An access-slice stream (R326 to R329). Until a declared slice is `ready`, `base` is where its base is read and `exts` are
those of its declaration. -/
structure Stream where
  id : Nat
  sh : Nat
  beat : Nat
  seq : List Nat
  stage : Nat
  coord : List Nat
  q : Nat
  base : Nat
  size : Nat
  exts : List Nat
  strides : List Int
  pos : Nat
  fault : Option Nat
  dynamic : Bool
  ready : Bool
  origin : Origin := {}
  deriving DecidableEq, Repr

/-- Where a copy of shared storage lies (R185, R455): its handle, its instance, and its offset in a bank-table entry,
or, with no entry, its offset in the team-state window. -/
structure SharedCopy where
  handle : Nat
  inst : List Nat
  entry : Option Nat
  offset : Nat
  size : Nat
  deriving DecidableEq, Repr

/-- An arrival at a barrier instance (R179, R183): the instance's leading indices, the stage, the shuttle and what it
carries; for a collective the contributions of its logical threads by coordinate, the destination register and the fill
value; and the split levels that the shuttle stands for. -/
structure Arrival where
  stage : Nat
  inst : List Nat
  sh : Nat
  key : ArrivalKey
  values : List (List Nat × Nat)
  dst : Nat
  fill : Nat
  levels : List Nat
  deriving DecidableEq, Repr

/-- A pre-emption under way (R424, R427, R428): a discard at a slice end or a flush, a save, or waiting for the team's own
end. -/
inductive Pausing where
  | discard
  | save
  | drain
  deriving DecidableEq, Repr

/-- What a team that is not resident has left to resume from (R425, R428). -/
inductive Image where
  | discarded
  | saved
  deriving DecidableEq, Repr

/-- A team (R189 to R191): its launch, number, cluster, cores (the matrix home first), bank table, tile handles, shared
copies, queues, streams, arrivals, its team-state area, and whether it is resident, dying, being pre-empted or
pre-empted; the order of its last dispatch, the launch and team number for which it was saved under R399, and, of a saved
team, its cores' TW2 maps by position. -/
structure Team where
  id : Nat
  launch : Nat
  fn : Nat
  num : Nat
  cluster : Nat
  cores : List Nat
  resident : Bool
  started : Bool
  dying : Bool
  pausing : Option Pausing
  image : Option Image
  banks : List BankEntry
  handles : List Handle
  copies : List SharedCopy
  queues : List StageQueue
  streams : List Stream
  arrivals : List Arrival
  stateBase : Nat
  stateSize : Nat
  order : Nat := 0
  yieldTo : Option (Nat × Nat) := none
  tw2 : List (Nat × Nat) := []
  deriving DecidableEq, Repr

/-- How far a copy command has come (R317, R322). -/
inductive CmdStatus where
  | waiting
  | running (engine : Nat)
  | paused
  | fifoWait (entry : Nat)
  | faulted (fault : Nat)
  | moved (engine : Nat)
  | unaccepted
  deriving DecidableEq, Repr

/-- Who issued a command (R310). -/
inductive CmdIssuer where
  | shuttle (sh team : Nat)
  | queue (q addr : Nat) (nots : List Nat) (irq : Bool)
  deriving DecidableEq, Repr

/-- A page that a side of a copy's segment was translated to (R316): side 0 the source, 1 the destination, 2 the scales; its
first virtual address, its size and its location. -/
structure HeldPage where
  side : Nat
  lo : Nat
  size : Nat
  loc : Loc
  deriving DecidableEq, Repr

/-- A copy command (R311 to R322, R351): the 40 words, the next element, the address context, the bytes of a popped slot
that are not yet used and of a slot that is not yet full (R314), and the device that its writes went to (R320); the pages of
its segment, and, from when it parks at a bank until it moves its next element, its place among the waiters and the entry
(R247). -/
structure CopyCmd where
  id : Nat
  fn : Nat
  ctx : Nat
  part : Nat
  issuer : CmdIssuer
  prio : Nat
  words : List Nat
  pos : Nat
  inbuf : List Byte
  outbuf : List Byte
  peer : Option Nat
  status : CmdStatus
  held : List HeldPage := []
  waitAt : Option (Nat × Nat) := none
  origin : Origin := {}
  deriving DecidableEq, Repr

/-- A signal of `ssig` on its way (R354): an addition or a store of 64 bits at an address of this device or of a peer. -/
structure Signal where
  id : Nat
  sh : Nat
  team : Nat
  fn : Nat
  ctx : Nat
  store : Bool
  value : Nat
  addr : Nat
  device : Option Nat
  fault : Option Nat
  ord : Bool := false
  origin : Origin := {}
  deriving DecidableEq, Repr

/-- Whom a granule holds: every agent, over its page; every agent, over its own bytes alone (R335); or, of a scan tile that its
carry has not reached, the agents of its launch over its own bytes and every other over its page (log 69). -/
inductive GranuleHold where
  | page
  | bytes
  | near (launch : Nat)
  deriving DecidableEq, Repr

/-- A granule of 4 KiB that a command has registered (R281, R282): held until its remaining elements are done, with the bytes of
the command's ranges in it. A range that nothing translates yet is registered by its function, context and virtual page. -/
structure Granule where
  owner : Nat
  page : Nat
  dst : Bool
  left : Nat
  lo : Nat := 0
  size : Nat := 4096
  hold : GranuleHold := .page
  virt : Option (Nat × Nat) := none
  deriving DecidableEq, Repr

/-- Bytes of a matrix operand or of its scales that are still unread: their index and their address. -/
structure OperandPiece where
  scale : Bool
  index : Nat
  va : Nat
  size : Nat
  deriving DecidableEq, Repr

/-- An operand of a matrix operation (R331, R357): its bytes as read, or popped so far from the STAGE entry of its handle
with the count pushed there; its rows, the bytes of one, and the bytes that the fetcher reads for one; where its scales lie,
how many bytes a row has, and those read; the fault-queue entry that it waits on; what is still unread of its bytes and
scales (R335); and of a fetch its engine, whether it holds a request buffer, and its place among the waiters of a full
STAGE (R247, R322, R324). -/
structure Operand where
  bytes : List Byte
  handle : Option Handle
  row0 : Nat
  col0 : Nat
  rows : Nat
  rowBytes : Nat
  fetchRow : Nat
  pushed : Nat
  scale : Nat
  srs : Nat
  scaleCols : Nat
  scales : List Byte
  fault : Option Nat
  todo : List OperandPiece := []
  engine : Option Nat := none
  buffered : Bool := false
  waitNo : Option Nat := none
  deriving DecidableEq, Repr

/-- What a matrix-unit entry does (R330, R336). -/
inductive MatKind where
  | mma (zero : Bool) (k : Nat)
  | store (addr rs : Nat) (e : Int)
  | load (addr rs : Nat) (e : Int) (bf : Bool)
  deriving DecidableEq, Repr

/-- An operation queued in matrix units (R334): on its first core and, for a pair, the follower; with FMT and the map as
captured, and for `smst` the seed, coordinate, count and stage of its draws (R54). -/
structure MatOp where
  id : Nat
  team : Nat
  sh : Nat
  cores : List Nat
  tile : Nat
  kind : MatKind
  fmt : Nat
  map : Nat
  draw : List Nat
  a : Operand
  b : Operand
  row : Nat
  fault : Option Nat
  origin : Origin := {}
  deriving DecidableEq, Repr

/-- How far a scan tile has come (R339 to R344). -/
inductive TileStatus where
  | queued
  | computed
  | faulted (fault : Nat)
  | sent
  deriving DecidableEq, Repr

/-- A tile in a scan unit (R342, R363): its operands, the words of its CUSTOM program, and its in-tile results, one
state vector of F32 or I32 bits for an element. -/
structure ScanTile where
  id : Nat
  launch : Nat
  chain : Nat
  team : Nat
  sh : Nat
  core : Nat
  inAddr : Nat
  outAddr : Nat
  len : Nat
  chans : Nat
  kind : Nat
  j : Nat
  n : Nat
  prog : List Nat
  progAddr : Nat
  dup : Bool
  ys : List (List Nat)
  status : TileStatus
  origin : Origin := {}
  outPos : Nat := 0
  deriving DecidableEq, Repr

/-- A chain of a launch (R341 to R345): its shape as the first tile gave it, the carries sent and not yet received,
the index from which it is poisoned, and, once complete, the cores that its completion has passed. -/
structure Chain where
  uid : Nat
  launch : Nat
  id : Nat
  part : Nat
  fn : Nat
  n : Nat
  shape : List Nat
  seen : List Nat
  carries : List (Nat × List Nat)
  sentTo : Nat
  poisonFrom : Option Nat
  complete : Bool
  passed : List Nat
  deriving DecidableEq, Repr

/-! ## Launches and the Treadle (spec/07, spec/18) -/

/-- The decided parts of a level (R164, R165): its extent, the outer kind (7 for a one-part level), the inner or single
kind, and the factor that the mapping register shows. -/
structure LevelMap where
  extent : Nat
  outer : Nat
  inner : Nat
  fact : Nat
  deriving DecidableEq, Repr

/-- Where a launch comes from (R379, R368, R370): a LAUNCH block with its notify counters and IRQ bit, a child of
`slaunch`, or a firing of an armed tag with its mailbox slot. -/
inductive LaunchSource where
  | block (q addr : Nat) (nots : List Nat) (irq : Bool)
  | child
  | fired (tag slot : Nat)
  deriving DecidableEq, Repr

/-- How far a launch has come (R392 to R396). -/
inductive LaunchPhase where
  | held
  | prologue
  | toMap
  | placing
  | finishing
  deriving DecidableEq, Repr

/-- A launch (R368, R379, R454). `runLeft` is the count R of R393 and `runNo` the run number; `runExts`, `runPin` and
`runArgs` are what the present run launches with; `depFault` tells that a read of
its DEP word has faulted and been recorded (R456), and `checked` that a machine check has ended it while teams of it ran (R435). -/
structure Launch where
  id : Nat
  fn : Nat
  part : Nat
  ctx : Nat
  source : LaunchSource
  rootQueue : Nat
  desc : Nat
  exts : List Nat
  args : Nat
  cnt : Nat
  inc : Nat
  pin : Nat
  dep : Nat
  prio : Nat
  depth : Nat
  prog : Option Nat
  depFault : Bool
  runNo : Nat
  runLeft : Nat
  phase : LaunchPhase
  levels : List LevelMap
  runExts : List Nat
  runPin : Nat
  runArgs : Nat
  nextTeam : Nat
  terminated : Option Nat
  checked : Bool := false
  deriving DecidableEq, Repr

/-- A capture in progress (R383, R431). -/
structure Capture where
  buf : Nat
  len : Nat
  pos : Nat
  seqNo : Nat
  deriving DecidableEq, Repr

/-- A bound queue (R384 to R390). A walk that is `held` waits for a re-evaluation point; `relink` tells that a notify has
asked for a link to be read, and whether that waits for one too, and `qcbDue` the same of the QCB; `readFault` holds the
addresses, each with its context, whose read has faulted, been recorded and not succeeded since (R456), and `captureDue` the
16-byte writes of its capture that wait (R431). -/
structure Queue where
  id : Nat
  fn : Nat
  ctx : Nat
  prio : Nat
  vec : Nat
  capen : Bool
  qcb : Nat
  pos : Option Nat
  parked : Bool
  held : Bool
  relink : Option Bool
  readFault : List (Nat × Nat)
  unbinding : Bool
  done : Nat
  doneAddr : Nat
  capture : Option Capture
  qcbDue : Option Bool := none
  captureDue : List (Nat × Nat) := []
  deriving DecidableEq, Repr

/-- A loaded bolt (R401 to R403): the address of its image, and the three code sections in the code store. -/
structure Bolt where
  addr : Nat
  nnest : Nat
  nestBase : Nat
  nest : List Byte
  scode : List Nat
  lcode : List Nat
  size : Nat
  deriving DecidableEq, Repr

/-- An armed tag (R370, R383): the 16-word block, the firings left, the depth and context of a firing. -/
structure ArmedTag where
  tag : Nat
  count : Nat
  words : List Nat
  depth : Nat
  ctx : Nat
  prio : Nat
  rootQueue : Nat
  deriving DecidableEq, Repr

/-- A mailbox slot in use (R439). -/
structure MboxSlot where
  slot : Nat
  tag : Nat
  order : Nat
  launch : Option Nat
  deriving DecidableEq, Repr

/-! ## Functions and partitions (spec/12, spec/20, spec/22) -/

/-- Who met a fault-queue entry's fault. -/
inductive FaultOwner where
  | shuttle (sh : Nat)
  | command (cmd : Nat)
  | stream (id : Nat)
  | tile (id : Nat)
  | matOp (id : Nat)
  | signal (id : Nat)
  deriving DecidableEq, Repr

/-- An outstanding fault-queue entry (R263, R415); one that has no room yet is not posted. `teamId` tells apart the teams of
several launches that have one number; it is 0 for a COPY block. `va` is the generic address of the access that posted it, and
`ring` its index in the ring while software has not consumed it there. -/
structure FaultEntry where
  id : Nat
  kind : Nat
  stage : Nat
  access : Nat
  ctx : Nat
  unitLo : Nat
  unitSize : Nat
  addr : Nat
  team : Nat
  joined : Nat
  posted : Bool
  resolved : Bool
  owner : FaultOwner
  teamId : Nat := 0
  va : Nat := 0
  ring : Option Nat := none
  deriving DecidableEq, Repr

/-- A memory key (R446): drawn from the random source, or loaded by the tenant; `raw` stands for no key, under which a line
reads as its ciphertext. -/
inductive Key where
  | drawn (gen fn slot : Nat)
  | loaded (v : Nat)
  | raw
  deriving DecidableEq, Repr

/-- A register change that is taking effect (R253, R446). -/
inductive RemapChange where
  | l2bm (v : Nat)
  | hseed (i v : Nat)
  deriving DecidableEq, Repr

/-- A virtual function: its privileged configuration space (R418) and what the device holds for it. -/
structure Func where
  l2bm : Nat := 0
  hseed : List (Nat × Nat) := []
  remap : List RemapChange := []
  tinv : List Nat := []
  memb : Nat := 0
  mems : Nat := 0
  s2root : Nat := 0
  s1root : List (Nat × Nat) := []
  rsvb : Nat := 0
  rsvs : Nat := 0
  qbstat : Nat := 0
  nlim : Nat := 8
  blstat : Nat := 0
  bkey : List (Nat × Nat) := []
  dbgen : Nat := 0
  qq : Nat := 0
  rq : Nat := 0
  pq : Nat := 0
  tq : Nat := 0
  cq : Nat := 0
  sq : Nat := 0
  wq : Nat := 0
  fq : Nat := 0
  bref : Nat := 0xFFFFFFFF
  bcap : Nat := 1
  bbal : Int := 0
  bused : Nat := 0
  plb : List (Nat × Nat) := []
  fqb : Nat := 0
  fqs : Nat := 0
  fqh : Nat := 0
  fqt : Nat := 0
  errb : Nat := 0
  errs : Nat := 0
  errh : Nat := 0
  errt : Nat := 0
  errlost : Nat := 0
  faults : List FaultEntry := []
  nextFault : Nat := 1
  keys : List (Nat × Key) := []
  keyGen : Nat := 0
  keydata : Nat := 0
  keyChange : List (Nat × Key) := []
  att : Nat := 0
  attn : Nat := 0
  fdom : Nat := 0
  fctx : Nat := 0
  mbb : Nat := 0
  mbs : Nat := 0
  mbdrop : Nat := 0
  mbi : Nat := 0
  fwmask : Nat := 0
  slots : List MboxSlot := []
  bolts : List Bolt := []
  tags : List ArmedTag := []
  serial : Option (Nat × Nat) := none
  serialWait : List (Nat × Nat) := []
  insecure : Bool := false
  selective : Bool := false
  qwrites : List (Nat × Nat × Bool) := []
  deriving DecidableEq, Repr

/-- A partition (R417, R420): its registers, the function it runs, the units used in the slice, and the function that
is to run once the outgoing teams are discarded; and the function that it ran last. -/
structure Part where
  pdesc : Nat := 0
  pdescx : Nat := 0
  running : Option Nat := none
  used : Nat := 0
  switching : Bool := false
  last : Option Nat := none
  deriving DecidableEq, Repr

/-! ## Memory structures (spec/12, spec/13) -/

/-- A copy of a 16-byte block that a cluster L1 holds and does not own (R267, R272), filled under a translation that
denies write or not (R256). -/
structure L1Copy where
  cluster : Nat
  block : Nat
  keyid : Nat
  val : Nat
  ro : Bool
  deriving DecidableEq, Repr

/-- A cached translation of a 4 KiB page, with the size of the leaf that it comes from (R260, R261, R316). -/
structure TlbEntry where
  fn : Nat
  ctx : Nat
  page : Nat
  loc : Loc
  canRead : Bool
  canWrite : Bool
  gpa : Nat
  size : Nat := 4096
  deriving DecidableEq, Repr

/-- A serial attempt's registration of a 4-byte word it has read, by its key over 4 (R305). -/
structure SerialReg where
  sh : Nat
  beat : Nat
  key : Nat
  deriving DecidableEq, Repr

/-! ## The whole device -/

/-- The instruction at issue: whose stream, the offset a trap record names, the offset of the instruction word, the
offset after it, and its words. -/
structure Issue where
  sh : Nat
  lane : Bool
  first : Nat
  pc : Nat
  next : Nat
  words : List Nat
  deriving DecidableEq, Repr

/-- The compute dies and the Treadle. `linkInsecure` is the state of the IDE link stream (R443), and `scrubbed` says that a scrub
wrote device memory with zeros, which a key reads as ciphertext (R446, R450). -/
structure Dev where
  issue : Option Issue
  tick : Nat
  nextId : Nat
  shuttles : List Shuttle
  teams : List Team
  launches : List Launch
  queues : List Queue
  cmds : List CopyCmd
  signals : List Signal
  granules : List Granule
  matOps : List MatOp
  tiles : List ScanTile
  chains : List Chain
  funcs : List (Nat × Func)
  parts : List (Nat × Part)
  smode : Nat
  mem : List Host.Cell
  poison : List Nat
  keyTags : List (Nat × Key)
  l1 : List L1Copy
  tlb : List TlbEntry
  serialRegs : List SerialReg
  logWait : List (Nat × Nat)
  tw2m : List (Nat × Nat)
  cycles : List (Nat × Nat)
  msix : List (Nat × Nat)
  scrubbed : Bool := false
  linkInsecure : Bool := false
  deriving DecidableEq, Repr

/-- The lease controller's states (R449). -/
inductive LeaseState where
  | run
  | scrub
  | clean
  deriving DecidableEq, Repr

/-- What the complex booted (R448). -/
inductive BootImage where
  | none
  | baseline
  | tenant
  deriving DecidableEq, Repr

/-- The lease controller: its store, its answer to the last command, and the load address of what was booted (R448 to R451). -/
structure Lease where
  state : LeaseState
  lseq : Nat
  record : Option (List Byte)
  lessee : BitVec 384
  recovery : Bool
  bootfail : Bool
  image : BootImage
  reply : List Byte
  entry : Nat := 0
  deriving DecidableEq, Repr

/-- The modes of a firmware hart (R444). -/
inductive HartMode where
  | m
  | s
  | u
  deriving DecidableEq, Repr

/-- A firmware hart (R444, R445), an RV64GC hart with M, S and U modes: its mode, pc, PMP entries, integer and float registers,
and control and status registers, those that the model's own steps use by name and the others by number (the RISC-V
family's). `loaded` holds the value of its last load, and `reserved` the address, size and value of a load-reserved. -/
structure Hart where
  mode : HartMode
  pc : Nat
  pmpcfg : List (Nat × Nat)
  pmpaddr : List (Nat × Nat)
  mepc : Nat
  mcause : Nat
  mtval : Nat
  mtvec : Nat
  mstatus : Nat
  loaded : Nat
  xregs : List (Nat × Nat) := []
  fregs : List (Nat × Nat) := []
  csrs : List (Nat × Nat) := []
  medeleg : Nat := 0
  stvec : Nat := 0
  sepc : Nat := 0
  scause : Nat := 0
  stval : Nat := 0
  satp : Nat := 0
  reserved : Option (Nat × Nat × Nat) := none
  deriving DecidableEq, Repr

/-- Power states (R453). -/
inductive PowerState where
  | d0
  | d3hot
  | d3cold
  deriving DecidableEq, Repr

/-- The host link, power and the soft-error counters (R440, R452, R453): the answers to the last host, fabric and SPDM
requests, the counters by the order of R452, and the streams whose failed TLPs AER has
reported, latest first, the link stream after the 48 selective ones (R443). -/
structure Board where
  power : PowerState
  clock : Nat
  causes : Nat
  d3refused : Bool
  softerr : List (Nat × Nat)
  aer : Nat
  hostReply : Option (List Byte)
  hostError : Bool
  fabricReply : Option (List Byte)
  fabricError : Bool
  spdm : List Byte
  aerStreams : List Nat := []
  deriving DecidableEq, Repr

/-- What reaches the device, or happens in it, that no step of the table names: soft errors (R430, R452), by the counter's
order or the place; a host's read of the PF's BAR0 (R440); a write through the baseline image's flash interface (R444); and
what the instructions of a firmware hart do besides loads and stores (R444, R445): a write of a control register, a result in
an integer or float register, the next pc, an exception that they raise, and a return from one in M or S mode; a change of a
hart's pending interrupts, and the taking of one; and the boot ROM's jump to the image that it has loaded (R448). `unbindEnd` is
the end of an unbind, whose write took an earlier step (R390). -/
inductive Outside where
  | corrected (k : Nat)
  | uncorrectable (key : Nat)
  | badScalar (sh n : Nat)
  | badVector (sh beat n : Nat)
  | pfRead (off size : Nat)
  | flashWrite (off : Nat) (data : List Byte)
  | hartCsr (h csr v : Nat)
  | hartReg (h rd v : Nat)
  | hartFreg (h rd v : Nat)
  | hartGo (h pc : Nat)
  | hartTrap (h cause tval : Nat)
  | hartRet (h : Nat) (machine : Bool)
  | hartPend (h code : Nat) (on : Bool)
  | hartInterrupt (h : Nat)
  | hartBoot (h : Nat)
  | unbindEnd (q : Nat)
  deriving DecidableEq, Repr

/-- Whose turn it is: the scalar or the lane stream of a shuttle, an event of the table, or something from outside it. -/
inductive Turn where
  | scalar (sh : Nat)
  | lane (sh : Nat)
  | event (i : Instr)
  | outside (x : Outside)
  deriving DecidableEq, Repr

/-- The state of the machine. `agenda` holds the turns already decided and the inputs that have arrived, first to act
first; when it is empty, `Config.pick` chooses among the agents that can act. `pending` holds the inputs that wait,
and `ages` the age of each stream that an issue opportunity of its partition has passed by since its last turn (R195). -/
structure State where
  agenda : List Turn
  pending : List Instr
  dev : Dev
  lease : Lease
  harts : List Hart
  board : Board
  ages : List (Turn × Nat) := []
  deriving DecidableEq, Repr

/-- Why a step stops with a fault. -/
inductive Fault where
  /-- Raised by every instruction of a stream when no shuttle is at issue, so that there is nothing to execute it. The
  step never does this. Safe: the machine has no such step. -/
  | nothingAtIssue
  deriving DecidableEq, Repr

/-- Why a step is refused. -/
inductive Refusal where
  /-- Raised by an arm of exec that has no meaning yet. Safe: nothing is claimed of it. -/
  | notModelled (mnemonic : String)
  deriving DecidableEq, Repr

/-- The outcome of a step. -/
abbrev Outcome := Host.Outcome State Fault Refusal

/-- A function after reset (R252, R389, R404, R414, R415, R419, R436, R446, R447). -/
def Func.reset : Func := {}

/-- A partition after reset (R417). -/
def Part.reset : Part := {}

/-- The compute dies after reset: no work, no function with a register written, memory with nothing listed. -/
def Dev.reset : Dev :=
  { issue := none, tick := 0, nextId := 1, shuttles := [], teams := [], launches := [], queues := [], cmds := [], signals := [],
    granules := [], matOps := [], tiles := [], chains := [], funcs := [], parts := [], smode := 0, mem := [],
    poison := [], keyTags := [], l1 := [], tlb := [], serialRegs := [], logWait := [], tw2m := [],
    cycles := [], msix := [] }

/-- A hart after reset (R445). -/
def Hart.reset : Hart :=
  { mode := .m, pc := 0, pmpcfg := [], pmpaddr := [], mepc := 0, mcause := 0, mtval := 0, mtvec := 0, mstatus := 0,
    loaded := 0 }

/-- The lease controller as a device leaves manufacture (R448, R451). -/
def Lease.reset : Lease :=
  { state := .run, lseq := 0, record := none, lessee := 0, recovery := false, bootfail := false, image := .none,
    reply := [] }

/-- The board after reset (R452, R453). -/
def Board.reset : Board :=
  { power := .d0, clock := 13, causes := 0, d3refused := false, softerr := [], aer := 0, hostReply := none,
    hostError := false, fabricReply := none, fabricError := false, spdm := [] }

/-- The machine right after reset. -/
def State.reset : State :=
  { agenda := [], pending := [], dev := Dev.reset, lease := Lease.reset, harts := List.replicate Config.numHarts Hart.reset,
    board := Board.reset }

end Sys2Proof.Machine
end

