-- ==== Sys2Proof/Machine/Nest.lean ====
section
/-!
DEFINITION. Nest descriptors as the NEST section holds them (spec/18 R402) and the shapes that follow from them.
-/
namespace Sys2Proof.Machine

/-- Four bytes at an offset of a byte list, little-endian. -/
def word32At (bs : List Byte) (off : Nat) : Nat := leNat ((bs.drop off).take 4)

/-- Eight bytes at an offset of a byte list, little-endian. -/
def word64At (bs : List Byte) (off : Nat) : Nat := leNat ((bs.drop off).take 8)

/-- A level of a nest descriptor (R402): the declared extent (0 for any), the flags and the pin byte of R169. -/
structure LevelDecl where
  extent : Nat
  decl : Bool
  uniform : Bool
  pin : Nat
  deriving DecidableEq, Repr

/-- An entry of the shared table (R402). -/
structure SharedDecl where
  bytes : Nat
  level : Nat
  deriving DecidableEq, Repr

/-- An entry of the barrier table: the carried ranges of a level and id (R402). -/
structure BarrierDecl where
  level : Nat
  id : Nat
  v0 : Nat
  v1 : Nat
  s0 : Nat
  s1 : Nat
  deriving DecidableEq, Repr

/-- An entry of the region table (R422). -/
structure RegionDecl where
  id : Nat
  creg : Nat
  resume : Nat
  deriving DecidableEq, Repr

/-- An entry of the access table (R402). -/
structure AccessDecl where
  queue : Nat
  stage : Nat
  dynamic : Bool
  size : Nat
  ndim : Nat
  argmask : Nat
  baseOff : Nat
  exts : List Nat
  strides : List Int
  coefs : List Int
  deriving DecidableEq, Repr

/-- A nest descriptor with its tables. -/
structure Nest where
  flags : Nat
  syncl : Nat
  nstage : Nat
  pair : Bool
  bperm : Bool
  hasTrap : Bool
  scan : Bool
  ns : Nat
  nv : Nat
  levels : List LevelDecl
  seed : Nat
  entries : List Nat
  trapOff : Nat
  tiles : Nat
  fifoBanks : Nat
  scratchBanks : Nat
  slotSize : Nat
  slotCount : Nat
  shared : List SharedDecl
  barriers : List BarrierDecl
  regions : List RegionDecl
  access : List AccessDecl
  deriving DecidableEq, Repr

def levelAt (bs : List Byte) (off : Nat) : LevelDecl :=
  let hi := word32At bs (off + 4)
  { extent := word32At bs off, decl := bit hi 7, uniform := bit hi 6, pin := hi / 2 ^ 24 % 256 }

def sharedAt (bs : List Byte) (off : Nat) : SharedDecl :=
  { bytes := word32At bs off, level := word32At bs (off + 4) % 256 }

def barrierAt (bs : List Byte) (off : Nat) : BarrierDecl :=
  let w0 := word32At bs off
  let w1 := word32At bs (off + 4)
  let w2 := word32At bs (off + 8)
  { level := w0 % 256, id := w0 / 256 % 256, v0 := w1 % 65536, v1 := w1 / 65536, s0 := w2 % 65536, s1 := w2 / 65536 }

def regionAt (bs : List Byte) (off : Nat) : RegionDecl :=
  let w0 := word32At bs off
  { id := w0 % 65536, creg := bits w0 25 16, resume := word32At bs (off + 4) }

def accessAt (bs : List Byte) (off : Nat) : AccessDecl :=
  let w0 := word32At bs off
  { queue := w0 % 4, stage := w0 / 4 % 4, dynamic := bit w0 4, size := 2 ^ bits w0 7 5, ndim := bits w0 11 8,
    argmask := bits w0 25 16, baseOff := word32At bs (off + 4),
    exts := (List.range 10).map fun k => word32At bs (off + 8 + 4 * k),
    strides := (List.range 10).map fun k => sext 32 (word32At bs (off + 48 + 4 * k)),
    coefs := (List.range 4).map fun k => sext 32 (word32At bs (off + 88 + 4 * k)) }

/-- A table of `count` entries of `size` bytes, from the pair at `off` of a descriptor. -/
def tableAt {α : Type} (sec : List Byte) (desc off size : Nat) (f : List Byte → Nat → α) : List α :=
  (List.range (word32At sec (desc + off))).map fun k => f sec (word64At sec (desc + off + 8) + size * k)

/-- The nest whose descriptor lies at `off` of a NEST section. -/
def nestAt (sec : List Byte) (off : Nat) : Nest :=
  let fl := word32At sec off
  let regs := word32At sec (off + 4)
  let claims := word32At sec (off + 68)
  { flags := fl, syncl := bits fl 15 12, nstage := bits fl 9 8 + 1, pair := bit fl 7, bperm := bit fl 6,
    hasTrap := bit fl 5, scan := bit fl 4,
    ns := bits regs 25 16, nv := regs % 1024,
    levels := (List.range 4).map fun k => levelAt sec (off + 8 + 8 * k),
    seed := word64At sec (off + 40),
    entries := (List.range 4).map fun k => word32At sec (off + 48 + 4 * k),
    trapOff := word32At sec (off + 64),
    tiles := bits claims 23 16, fifoBanks := bits claims 15 8, scratchBanks := claims % 256,
    slotSize := word32At sec (off + 72), slotCount := word32At sec (off + 76),
    shared := tableAt sec off 80 8 sharedAt, barriers := tableAt sec off 96 12 barrierAt,
    regions := tableAt sec off 112 8 regionAt, access := tableAt sec off 128 128 accessAt }

/-- The levels of a nest by number. -/
def Nest.level (n : Nest) (k : Nat) : LevelDecl := n.levels.getD k (LevelDecl.mk 0 false false 0)

/-- The nest descriptor's offset in its NEST section for a DESC address, when it names a loaded nest (R395, R403). -/
def Bolt.nestOffset (b : Bolt) (desc : Nat) : Option Nat :=
  let base := b.addr + b.nestBase
  if desc ≥ base && (desc - base) % 256 == 0 && (desc - base) / 256 < b.nnest then some (desc - base) else none

/-- The nest of a bolt that a DESC address names. -/
def Bolt.nestOf (b : Bolt) (desc : Nat) : Nest := nestAt b.nest ((b.nestOffset desc).getD 0)

/-! ## Queues of a stage (R15, R163) -/

/-- Whether an access slice feeds queue q of a stage. -/
def Nest.sliceFeeds (n : Nest) (stage q : Nat) : Bool := n.access.any fun a => a.stage == stage && a.queue == q

/-- Whether queue q of a stage is inbound. -/
def Nest.inbound (n : Nest) (stage q : Nat) : Bool := n.sliceFeeds stage q || stage > 0

/-- Whether queue q of a stage is outbound. -/
def Nest.outbound (n : Nest) (stage q : Nat) : Bool := stage + 1 < n.nstage && !n.sliceFeeds (stage + 1) q

/-- The carried ranges of a barrier (R181). -/
def Nest.carry (n : Nest) (k id : Nat) : Option BarrierDecl := n.barriers.find? fun b => b.level == k && b.id == id

end Sys2Proof.Machine
end

