-- ==== Sys2Proof/Machine/Ops.lean ====
section
/-!
DEFINITION. The named operations over registers, memory and the device's lists; taking a trap and returning from one
(spec/01 R36, R37); ending a team (spec/20 R411, R412) with its error record (R414); and posting to the fault queue
(spec/20 R415).
-/
namespace Sys2Proof.Machine

/-! ## Lists keyed by number

A list holds, by rising key, the values that differ from what an unlisted key reads as. -/

/-- The value at a key. -/
def getK {α : Type} (d : α) : List (Nat × α) → Nat → α
  | [], _ => d
  | (k', v) :: m, k => if k' == k then v else getK d m k

/-- The list without a key. -/
def delK {α : Type} : List (Nat × α) → Nat → List (Nat × α)
  | [], _ => []
  | (k', v) :: m, k => if k' == k then delK m k else (k', v) :: delK m k

/-- The list with a value put at a key. -/
def insK {α : Type} : List (Nat × α) → Nat → α → List (Nat × α)
  | [], k, v => [(k, v)]
  | (k', v') :: m, k, v =>
    if k < k' then (k, v) :: (k', v') :: m
    else if k' == k then (k, v) :: m
    else (k', v') :: insK m k v

/-- Writing a value: the default value is not listed. -/
def putK {α : Type} [DecidableEq α] (d : α) (m : List (Nat × α)) (k : Nat) (v : α) : List (Nat × α) :=
  if v = d then delK m k else insK m k v

/-- Keys rise strictly and no value is the default. -/
abbrev SparseWf {α : Type} (d : α) (m : List (Nat × α)) : Prop := m.Pairwise (fun p q => p.1 < q.1) ∧ ∀ p ∈ m, p.2 ≠ d

/-! ## Bytes -/

/-- What a byte that nothing has written reads as: zero (log 4). -/
def blankByte : Byte := 0#8

abbrev Memory := List Host.Cell

/-- The canonical form of a memory. -/
abbrev Memory.wf (m : Memory) : Prop := SparseWf blankByte m

def readByte (m : Memory) (a : Nat) : Byte := getK blankByte m a
def writeByte (m : Memory) (a : Nat) (b : Byte) : Memory := putK blankByte m a b

/-- The n bytes from an address on. -/
def readBytes (m : Memory) (a : Nat) : Nat → List Byte
  | 0 => []
  | n + 1 => readByte m a :: readBytes m (a + 1) n

/-- Bytes written from an address on, lowest first. -/
def writeBytes (m : Memory) (a : Nat) : List Byte → Memory
  | [] => m
  | b :: bs => writeBytes (writeByte m a b) (a + 1) bs

/-- The memory with a range of bytes blank. -/
def eraseRange (m : Memory) (lo n : Nat) : Memory := m.filter fun c => !(decide (lo ≤ c.1) && decide (c.1 < lo + n))

/-! ## The device's lists -/

def Dev.shuttle (d : Dev) (id : Nat) : Option Shuttle := d.shuttles.find? fun s => s.id == id
def Dev.team (d : Dev) (id : Nat) : Option Team := d.teams.find? fun t => t.id == id
def Dev.launch (d : Dev) (id : Nat) : Option Launch := d.launches.find? fun l => l.id == id
def Dev.cmd (d : Dev) (id : Nat) : Option CopyCmd := d.cmds.find? fun c => c.id == id
def Dev.queue (d : Dev) (id : Nat) : Option Queue := d.queues.find? fun q => q.id == id
def Dev.matOp (d : Dev) (id : Nat) : Option MatOp := d.matOps.find? fun o => o.id == id
def Dev.tile (d : Dev) (id : Nat) : Option ScanTile := d.tiles.find? fun t => t.id == id
def Dev.chain (d : Dev) (uid : Nat) : Option Chain := d.chains.find? fun c => c.uid == uid
def Dev.func (d : Dev) (fn : Nat) : Func := getK Func.reset d.funcs fn
def Dev.part (d : Dev) (p : Nat) : Part := getK Part.reset d.parts p

/-- A shuttle in the place of the one with its number. -/
def putShuttle (l : List Shuttle) (s : Shuttle) : List Shuttle := l.map fun x => if x.id == s.id then s else x

def Dev.setShuttle (d : Dev) (s : Shuttle) : Dev := { d with shuttles := putShuttle d.shuttles s }
def Dev.setTeam (d : Dev) (t : Team) : Dev := { d with teams := d.teams.map fun x => if x.id == t.id then t else x }
def Dev.setLaunch (d : Dev) (l : Launch) : Dev :=
  { d with launches := d.launches.map fun x => if x.id == l.id then l else x }
def Dev.setCmd (d : Dev) (c : CopyCmd) : Dev := { d with cmds := d.cmds.map fun x => if x.id == c.id then c else x }
def Dev.setQueue (d : Dev) (q : Queue) : Dev := { d with queues := d.queues.map fun x => if x.id == q.id then q else x }
def Dev.setMatOp (d : Dev) (o : MatOp) : Dev :=
  { d with matOps := d.matOps.map fun x => if x.id == o.id then o else x }
def Dev.setTile (d : Dev) (t : ScanTile) : Dev := { d with tiles := d.tiles.map fun x => if x.id == t.id then t else x }
def Dev.setChain (d : Dev) (c : Chain) : Dev :=
  { d with chains := d.chains.map fun x => if x.uid == c.uid then c else x }
def Dev.setFunc (d : Dev) (fn : Nat) (f : Func) : Dev := { d with funcs := insK d.funcs fn f }
def Dev.setPart (d : Dev) (p : Nat) (v : Part) : Dev := { d with parts := insK d.parts p v }

/-- The partition of a function (R418). -/
def partOf (fn : Nat) : Nat := fn / 4

/-- What a stream of a shuttle runs in: its team, launch, bolt and nest. -/
structure Env where
  team : Team
  launch : Launch
  bolt : Bolt
  nest : Nest
  deriving DecidableEq, Repr

/-- The bolt of a function that a DESC address lies in. -/
def Func.boltAt (f : Func) (desc : Nat) : Option Bolt := f.bolts.find? fun b => (b.nestOffset desc).isSome

def Dev.envOfTeam (d : Dev) (t : Team) : Option Env :=
  match d.launch t.launch with
  | none => none
  | some l =>
    match (d.func l.fn).boltAt l.desc with
    | none => none
    | some b => some { team := t, launch := l, bolt := b, nest := b.nestOf l.desc }

def Dev.env (d : Dev) (s : Shuttle) : Option Env :=
  match d.team s.team with
  | none => none
  | some t => d.envOfTeam t

/-- The shuttles of a team, in the order of creation. -/
def Dev.shuttlesOf (d : Dev) (team : Nat) : List Shuttle := d.shuttles.filter fun s => s.team == team

/-! ## Registers (R26, R27, R30) -/

/-- What a register holds that nothing has written: zero, full (R30). -/
def blankReg : RegCell := .full 0

def Shuttle.sreg (s : Shuttle) (n : Nat) : RegCell := getK blankReg s.sregs n
def Shuttle.setSreg (s : Shuttle) (n : Nat) (c : RegCell) : Shuttle := { s with sregs := putK blankReg s.sregs n c }

def vkey (beat n : Nat) : Nat := 1024 * beat + n
def Shuttle.vreg (s : Shuttle) (beat n : Nat) : RegCell := getK blankReg s.vregs (vkey beat n)
def Shuttle.setVreg (s : Shuttle) (beat n : Nat) (c : RegCell) : Shuttle :=
  { s with vregs := putK blankReg s.vregs (vkey beat n) c }

/-- Predicate n of a beat; p7 reads as true (R11). -/
def Shuttle.pred (s : Shuttle) (beat n : Nat) : Bool := n == 7 || getK 0 s.preds (8 * beat + n) == 1
def Shuttle.setPred (s : Shuttle) (beat n : Nat) (v : Bool) : Shuttle :=
  if n == 7 then s else { s with preds := putK 0 s.preds (8 * beat + n) (if v then 1 else 0) }

def Shuttle.flag (s : Shuttle) (beat : Nat) : Nat := getK 0 s.flags beat
def Shuttle.setFlag (s : Shuttle) (beat v : Nat) : Shuttle := { s with flags := putK 0 s.flags beat v }
def Shuttle.count (s : Shuttle) (beat : Nat) : Nat := getK 0 s.counts beat
def Shuttle.setCount (s : Shuttle) (beat v : Nat) : Shuttle := { s with counts := putK 0 s.counts beat (v % 2 ^ 64) }

def RegCell.isFull : RegCell → Bool
  | .full _ => true
  | _ => false
def RegCell.isPending : RegCell → Bool
  | .pending => true
  | _ => false

/-- A register whose parity is broken: a read of it consumes poison (R430). -/
def RegCell.isBad : RegCell → Bool
  | .bad => true
  | _ => false

/-- Whether the full/empty bit says full. -/
def RegCell.present (c : RegCell) : Bool := c.isFull || c.isBad

/-- The value of a full register; an empty one is not read. -/
def RegCell.val : RegCell → Nat
  | .full v => v.toNat
  | _ => 0

/-- A full register cell of the low 32 bits of a value. -/
def fullOf (v : Nat) : RegCell := .full (BitVec.ofNat 32 v)

def Shuttle.sval (s : Shuttle) (n : Nat) : Nat := (s.sreg n).val

/-- Pair(n), Quad(n) and longer groups: the value of `k` registers from n on (R103). -/
def Shuttle.svals (s : Shuttle) (n : Nat) : Nat → Nat
  | 0 => 0
  | k + 1 => s.sval n + 2 ^ 32 * s.svals (n + 1) k
def Shuttle.pair (s : Shuttle) (n : Nat) : Nat := s.svals n 2

/-- Writes of `k` registers from n on, low word first. -/
def Shuttle.putS (s : Shuttle) (n v : Nat) : Nat → Shuttle
  | 0 => s
  | k + 1 => (s.setSreg n (fullOf v)).putS (n + 1) (v / 2 ^ 32) k

/-- Registers from n on put into one state. -/
def Shuttle.markS (s : Shuttle) (n : Nat) (c : RegCell) : Nat → Shuttle
  | 0 => s
  | k + 1 => (s.setSreg n c).markS (n + 1) c k

def Shuttle.putV (s : Shuttle) (beat n v : Nat) : Nat → Shuttle
  | 0 => s
  | k + 1 => (s.setVreg beat n (fullOf v)).putV beat (n + 1) (v / 2 ^ 32) k

def Shuttle.markV (s : Shuttle) (beat n : Nat) (c : RegCell) : Nat → Shuttle
  | 0 => s
  | k + 1 => (s.setVreg beat n c).markV beat (n + 1) c k

/-- Whether a scalar register number is nameable under a declaration of ns registers (R12, R14). -/
def nameable (ns n : Nat) : Bool := decide (n < ns) || decide (1008 ≤ n) && decide (n < 1024)

/-- Filling a register by its producer (R29); only a pending register is filled. -/
def fillCell (c : RegCell) (v : Nat) : RegCell := if c.isPending then fullOf v else c
def Shuttle.fillS (s : Shuttle) (n v : Nat) : Nat → Shuttle
  | 0 => s
  | k + 1 => (s.setSreg n (fillCell (s.sreg n) v)).fillS (n + 1) (v / 2 ^ 32) k
/-- The same, but for the registers that the producer has lost. -/
def Shuttle.fillKept (s : Shuttle) (lost : List Nat) (n v : Nat) : Nat → Shuttle
  | 0 => s
  | k + 1 =>
    (if lost.contains n then s else s.setSreg n (fillCell (s.sreg n) v)).fillKept lost (n + 1) (v / 2 ^ 32) k
def Shuttle.fillV (s : Shuttle) (beat n v : Nat) : Nat → Shuttle
  | 0 => s
  | k + 1 => (s.setVreg beat n (fillCell (s.vreg beat n) v)).fillV beat (n + 1) (v / 2 ^ 32) k

/-! ## Locations and keys -/

/-- Where partition p's physical range begins in the firmware complex's map (R444). -/
def partBase (p : Nat) : Nat := 0x100000000000 + 0x10000000000 * p

/-- Whether a location key lies in a partition's physical range. -/
def inPartition (key : Nat) : Bool := decide (0x100000000000 ≤ key) && decide (key < 0x100000000000 + 0x10000000000 * 12)

/-- Host memory by the address that a SPACE 2 leaf gives. -/
def hostKey (a : Nat) : Nat := 2 ^ 64 + a

/-- Peer memory by the domain that an outbound request carries (R436), the device and the peer's virtual address. -/
def peerKey (dom dev a : Nat) : Nat := 2 ^ 65 + dom * 2 ^ 66 + dev * 2 ^ 56 + a

/-- The bytes of a partition's physical range: 80 GiB for each of its slices (R249). -/
def Dev.partBytes (d : Dev) (p : Nat) : Nat := bits (d.part p).pdesc 55 52 * (80 * 2 ^ 30)

/-- The storage of a team in its cluster: scratch and FIFO entries, then the tiles of its cores (log 3). -/
def teamKey (team : Nat) : Nat := 2 ^ 100 + team * 2 ^ 32
def scratchKey (team entry off : Nat) : Nat := teamKey team + entry * 2 ^ 19 + off

/-- Element (row, col) of tile t of the team's core at position `pos` (R359). -/
def tileKey (team pos tile row col : Nat) : Nat :=
  teamKey team + 2 ^ 24 + pos * 2 ^ 21 + tile * 2 ^ 16 + (row * 128 + col) * 4

/-- The key in a slot of a function: a slot that nothing has written holds a drawn key (R446). -/
def Func.keyAt (f : Func) (fn slot : Nat) : Key :=
  match f.keys.find? fun k => k.1 == slot with
  | some (_, k) => k
  | none => .drawn f.keyGen fn slot

/-- The key under which an access reads and writes device memory; other spaces are not encrypted (R446). -/
def Dev.keyFor (d : Dev) (fn slot key : Nat) : Option Key :=
  if inPartition key then some ((d.func fn).keyAt fn slot) else none

/-! ## Trap records (R38, R125) -/

/-- What a trap or a terminating cause reports. -/
structure TrapInfo where
  cause : Nat
  sub : Nat
  lane : Bool
  threads : Nat
  resume : Nat
  laneOff : Nat
  addr : Nat
  words : List Nat
  operand : Nat
  code : Nat
  fmt : Nat
  blocks : Nat
  detail0 : Nat
  detail1 : Nat
  deriving DecidableEq, Repr

/-- The words of s1008 to s1023 (R38); `count` is the number of traps with this one. -/
def trapWords (t : TrapInfo) (count : Nat) : List Nat :=
  [t.sub * 256 + t.cause, t.threads * 256 + (if t.lane then 1 else 0), t.resume, t.laneOff, t.addr % 2 ^ 32,
    t.addr / 2 ^ 32, t.words.getD 0 0, t.words.getD 1 0, t.words.getD 2 0, t.operand, t.code, t.fmt, t.blocks,
    t.detail0, t.detail1, count % 2 ^ 32]

/-- Registers from n on written with words, each full. -/
def Shuttle.putWords (s : Shuttle) (n : Nat) : List Nat → Shuttle
  | [] => s
  | w :: ws => (s.setSreg n (fullOf w)).putWords (n + 1) ws

/-- A trap of the scalar stream at the instruction at issue (R36, R87, R125). -/
def scalarTrap (is : Issue) (s : Shuttle) (cause sub : Nat) : TrapInfo :=
  { cause := cause, sub := sub, lane := false, threads := 0, resume := is.first, laneOff := 0xFFFFFFFF, addr := 0,
    words := is.words, operand := 0, code := 0, fmt := s.fmt, blocks := s.blocks.length, detail0 := 0, detail1 := 0 }

/-! ## Streams of the host link (R443) -/

/-- Whether a function's traffic on the host link is on a stream that is not insecure: its selective stream, or the link
stream where none was set up (R443). -/
def Dev.streamSecure (d : Dev) (fn : Nat) : Bool := !(d.func fn).insecure && ((d.func fn).selective || !d.linkInsecure)

/-! ## The error ring (R414) -/

/-- Whether a ring size enables the ring. -/
def ringOk (n : Nat) : Bool := decide (16 ≤ n) && decide (n ≤ 65536) && n == 2 ^ Nat.log2 n

/-- Bytes 4 to 7 of an entry: where the shuttle runs, and the root queue. -/
def whereWord (s : Option Shuttle) (q : Nat) : Nat :=
  match s with
  | none => q
  | some s => s.core * 2 ^ 24 + s.part * 2 ^ 20 + s.lane * 2 ^ 16 + s.slot * 2 ^ 12 + q

/-- What an error-ring entry holds. -/
structure ErrorInfo where
  kind : Nat
  cause : Nat := 0
  sub : Nat := 0
  detail : Nat := 0
  place : Nat := 0
  addr : Nat := 0
  block : Nat := 0
  team : Nat := 0
  depth : Nat := 0
  image : List Nat := []
  copy : List Nat := []
  moved : Nat := 0
  deriving DecidableEq, Repr

/-- n words as bytes, padded with zeros. -/
def wordsBytes (n : Nat) (ws : List Nat) : List Byte :=
  (List.range n).flatMap fun k => leBytes 4 (ws.getD k 0)

/-- The 512 bytes of an error-ring entry. -/
def errorBytes (e : ErrorInfo) : List Byte :=
  leBytes 4 (e.kind * 2 ^ 24 + e.cause * 2 ^ 16 + e.sub * 2 ^ 8 + e.detail) ++ leBytes 4 e.place ++ leBytes 8 e.addr ++
    leBytes 8 e.block ++ leBytes 4 e.team ++ leBytes 4 e.depth ++ leBytes 32 0 ++ wordsBytes 16 e.image ++
    wordsBytes 40 e.copy ++ leBytes 8 e.moved ++ leBytes 216 0

/-! ## Device memory under keys (R446) -/

/-- The bits of a key: those loaded, or the random source's. -/
def Key.bits : Key → Nat
  | .drawn gen fn slot => (Config.randomKey ((gen * 48 + fn) * 32 + slot)).toNat
  | .loaded v => v
  | .raw => 0

/-- The key under which a 128-byte line was last written; a scrub left the others as raw zeros (R450). -/
def Dev.lineTag (d : Dev) (line : Nat) : Option Key :=
  match d.keyTags.find? fun t => t.1 == line with
  | some t => some t.2
  | none => if d.scrubbed then some .raw else none

/-- A line encrypted or decrypted under a key. -/
def Key.cipher (k : Key) (decrypt : Bool) (tweak : Nat) (bs : List Byte) : List Byte :=
  match k with
  | .raw => bs
  | k => xtsLine decrypt k.bits tweak bs

/-- Whether a line reads under a key as it was written. -/
def Dev.lineAgrees (d : Dev) (k : Key) (line : Nat) : Bool :=
  match d.lineTag line with
  | none => true
  | some t => t == k

/-- The bytes of a line as a key reads them: ciphertext of the key that wrote it, decrypted under this one. -/
def Dev.lineUnder (d : Dev) (k : Key) (line : Nat) : List Byte :=
  let raw := readBytes d.mem (128 * line) 128
  match d.lineTag line with
  | none => raw
  | some t =>
    if t == k then raw
    else
      let tweak := (128 * line - partBase ((128 * line - partBase 0) / 0x10000000000)) / 128
      k.cipher true tweak (t.cipher false tweak raw)

/-- The lines of a range. -/
def linesOf (key n : Nat) : List Nat := (List.range ((key + n - 1) / 128 + 1 - key / 128)).map fun i => key / 128 + i

/-- n bytes at a location, as an access under a key reads them. -/
def Dev.readUnder (d : Dev) (k : Option Key) (key n : Nat) : List Byte :=
  match k with
  | none => readBytes d.mem key n
  | some k =>
    if (linesOf key n).all (d.lineAgrees k) then readBytes d.mem key n
    else (((linesOf key n).flatMap (d.lineUnder k)).drop (key % 128)).take n

/-- A line brought under a key, its bytes as that key reads them. -/
def Dev.rekeyLine (d : Dev) (k : Key) (line : Nat) : Dev :=
  { d with
    mem := if d.lineAgrees k line then d.mem else writeBytes d.mem (128 * line) (d.lineUnder k line)
    keyTags := insK d.keyTags line k }

/-- Bytes written at a location under a key. -/
def Dev.writeUnder (d : Dev) (k : Option Key) (key : Nat) (bs : List Byte) : Dev :=
  let d := match k with
    | none => d
    | some k => (linesOf key bs.length).foldl (fun d l => d.rekeyLine k l) d
  { d with mem := writeBytes d.mem key bs }

/-! ## Copies in the cluster L1s (spec/12 R256; spec/13 R268, R272) -/

/-- Whether a 16-byte block overlaps a range. -/
def blockMeets (block key n : Nat) : Bool := decide (block * 16 < key + n) && decide (key < block * 16 + 16)

/-- A write at a home invalidates every copy of its line that was filled without write permission (R256). -/
def dropReadOnly (l1 : List L1Copy) (key n : Nat) : List L1Copy :=
  l1.filter fun c => !(c.ro && (linesOf key n).contains (c.block / 8))

/-- A cluster gives up its copies of a range. -/
def dropOwn (l1 : List L1Copy) (cluster key n : Nat) : List L1Copy :=
  l1.filter fun c => !(c.cluster == cluster && blockMeets c.block key n)

/-- Every cluster gives up its copies of a range (R281). -/
def dropAll (l1 : List L1Copy) (key n : Nat) : List L1Copy := l1.filter fun c => !blockMeets c.block key n

/-- An acquire of a cluster: every word that it does not own is invalidated (R272). -/
def Dev.acquire (d : Dev) (cluster : Nat) : Dev := { d with l1 := d.l1.filter fun c => c.cluster != cluster }

/-- Bytes that are written hold no poison any more (R430). -/
def dropPoison (ps : List Nat) (key n : Nat) : List Nat := ps.filter fun p => !(decide (key ≤ p) && decide (p < key + n))

/-- Bytes set to zero: nothing is listed there, and no poison stays (R241, R430). -/
def Dev.zeroRange (d : Dev) (key n : Nat) : Dev := { d with mem := eraseRange d.mem key n, poison := dropPoison d.poison key n }

/-- A write at a location's home by any agent. -/
def Dev.homeWrite (d : Dev) (k : Option Key) (key : Nat) (bs : List Byte) : Dev :=
  let d' := d.writeUnder k key bs
  { d' with
    l1 := dropReadOnly d'.l1 key bs.length
    poison := dropPoison d'.poison key bs.length }

/-! ## Posting to the rings (R414, R415) -/

/-- Where a byte of a function's reserved area lies: a partition physical address (R389, R414). -/
def reservedKey (fn pa : Nat) : Nat := partBase (partOf fn) + pa

/-- Bytes written to a function's reserved area, under key slot 0 (R455). Past the partition's physical range (R249) there is no
memory, and they go nowhere (DESIGN CHOICE, log 87: no rule bounds RSVB, RSVS, ERRB and FQB). -/
def Dev.writeReserved (d : Dev) (fn pa : Nat) (bs : List Byte) : Dev :=
  if pa + bs.length ≤ d.partBytes (partOf fn) then d.homeWrite (d.keyFor fn 0 (reservedKey fn pa)) (reservedKey fn pa) bs
  else d

/-- A new error-ring entry, or one more lost (R414). -/
def Dev.postError (d : Dev) (fn : Nat) (e : ErrorInfo) : Dev :=
  let f := d.func fn
  if !ringOk f.errs || (f.errt + 1) % f.errs == f.errh then
    d.setFunc fn { f with errlost := (f.errlost + 1) % 2 ^ 64 }
  else
    (d.setFunc fn { f with errt := (f.errt + 1) % f.errs }).writeReserved fn (f.errb + 512 * f.errt) (errorBytes e)

/-- The 64 bytes of a fault-queue entry. -/
def faultBytes (e : FaultEntry) (place : Nat) : List Byte :=
  leBytes 4 (e.kind * 2 ^ 24 + e.stage * 2 ^ 23 + e.access * 2 ^ 20 + e.ctx) ++ leBytes 4 place ++ leBytes 8 e.addr ++
    leBytes 4 e.team ++ leBytes 4 e.joined ++ leBytes 8 e.id ++ leBytes 32 0

/-- The shuttle whose access or command met an entry's fault. -/
def Dev.ownerShuttle (d : Dev) (e : FaultEntry) : Option Shuttle :=
  match e.owner with
  | .shuttle sh => d.shuttle sh
  | .command c =>
    match d.cmd c with
    | some c => match c.issuer with
      | .shuttle sh _ => d.shuttle sh
      | .queue _ _ _ _ => none
    | none => none
  | .stream id => ((d.teams.flatMap (·.streams)).find? fun s => s.id == id).bind fun s => d.shuttle s.sh
  | .tile id => (d.tile id).bind fun t => d.shuttle t.sh
  | .matOp id => (d.matOp id).bind fun o => d.shuttle o.sh
  | .signal id => (d.signals.find? fun x => x.id == id).bind fun x => d.shuttle x.sh

/-- The place of a command's entry whose shuttle is gone: where it ran, or the queue of a COPY block. -/
def CopyCmd.place (c : CopyCmd) : Nat :=
  match c.issuer with
  | .queue q _ _ _ => q
  | .shuttle _ _ => c.origin.place

/-- Bytes 4 to 7 of a fault-queue entry (R414, R415): where its shuttle runs and its root queue, or where the command was
issued. -/
def Dev.placeOf (d : Dev) (e : FaultEntry) : Nat :=
  match d.ownerShuttle e, e.owner with
  | some s, _ => whereWord (some s) (((d.team s.team).bind fun t => d.launch t.launch).elim 0 (·.rootQueue))
  | none, .command c => ((d.cmd c).map (·.place)).getD 0
  | none, .tile id => ((d.tile id).map (·.origin.place)).getD 0
  | none, .matOp id => ((d.matOp id).map (·.origin.place)).getD 0
  | none, .signal id => ((d.signals.find? fun x => x.id == id).map (·.origin.place)).getD 0
  | none, _ => 0

/-- The team of an entry's owner, 0 for a COPY block. -/
def Dev.ownerTeam (d : Dev) (e : FaultEntry) : Nat :=
  match d.ownerShuttle e, e.owner with
  | some s, _ => s.team
  | none, .command c =>
    ((d.cmd c).map fun (x : CopyCmd) => match x.issuer with
      | .shuttle _ t => t
      | .queue _ _ _ _ => 0).getD 0
  | none, .signal id => ((d.signals.find? fun x => x.id == id).map (·.team)).getD 0
  | none, _ => 0

/-- Whether the fault queue has room for one more entry: the ring and the quota (R404, R415). -/
def Func.faultRoom (f : Func) : Bool :=
  (f.fqt + 1) % f.fqs != f.fqh && decide ((f.faults.filter fun e => e.posted).length < f.fq)

/-- Entries that wait for room, posted in order while there is room (R263). -/
def Dev.flushFaults (d : Dev) (fn : Nat) : Nat → Dev
  | 0 => d
  | fuel + 1 =>
    let f := d.func fn
    match f.faults.find? fun e => !e.posted && !e.resolved with
    | none => d
    | some e =>
      if !ringOk f.fqs || !f.faultRoom then d
      else
        let f' := { f with
          fqt := (f.fqt + 1) % f.fqs
          faults := f.faults.map fun x => if x.id == e.id then { x with posted := true, ring := some f.fqt } else x }
        ((d.setFunc fn f').writeReserved fn (f.fqb + 64 * f.fqt)
          (faultBytes e (d.placeOf e))).flushFaults fn fuel

/-- One more access joins an entry: its count, bytes 20 to 23 in the ring, counts the access that posted it too (R263, R415;
log 85). -/
def Dev.joinFault (d : Dev) (fn : Nat) (x : FaultEntry) : Dev :=
  let f := d.func fn
  let d := d.setFunc fn { f with
    faults := f.faults.map fun y => if y.id == x.id then { y with joined := y.joined + 1 } else y }
  match x.ring with
  | some r => d.writeReserved fn (f.fqb + 64 * r + 20) (leBytes 4 (x.joined + 1))
  | none => d

/-- Whether an index of the fault queue holds an entry that software has not consumed. -/
def Func.inRing (f : Func) (r : Nat) : Bool := decide ((r + f.fqs - f.fqh) % f.fqs < (f.fqt + f.fqs - f.fqh) % f.fqs)

/-- The entries that software has consumed have no index any more. -/
def Func.forgetRing (f : Func) : Func :=
  { f with faults := f.faults.map fun e => { e with ring := e.ring.filter f.inRing } }

/-- A replayable fault or breakpoint of a function whose queue is enabled (R263): it joins an outstanding entry of the
same team, unit, stage, kind and access, or posts its own. Answers the entry's ID. -/
def Dev.postFault (d : Dev) (fn : Nat) (e : FaultEntry) : Dev × Nat :=
  let f := d.func fn
  let e := { e with teamId := d.ownerTeam e }
  let same := f.faults.find? fun x =>
    e.kind != 3 && !x.resolved && x.teamId == e.teamId && x.kind == e.kind && x.stage == e.stage && x.access == e.access &&
      x.unitLo == e.unitLo && x.unitSize == e.unitSize && x.ctx == e.ctx
  match same with
  | some x => (d.joinFault fn x, x.id)
  | none =>
    let id := f.nextFault
    let e' := { e with
      id := id, joined := if e.kind == 3 then 0 else 1, posted := false, resolved := false, ring := none }
    ((d.setFunc fn { f with faults := f.faults ++ [e'], nextFault := id + 1 }).flushFaults fn 1, id)

/-! ## Ending a team (R411, R412) -/

/-- Every team of a launch stops: no stream of theirs issues again, and TEAM_TERMINATION ends each (R412). The launch
keeps the CAUSE of the first team to terminate (R378). -/
def Dev.stopLaunch (d : Dev) (launch cause : Nat) : Dev :=
  { d with
    teams := d.teams.map fun t => if t.launch == launch then { t with dying := true } else t
    launches := d.launches.map fun l =>
      if l.id == launch && l.terminated.isNone then { l with terminated := some cause } else l }

/-- The LAUNCH block's address, or 0 for a device-side launch (R414). -/
def Launch.blockAddr (l : Launch) : Nat :=
  match l.source with
  | .block _ a _ _ => a
  | _ => 0

/-- A team ends with an error record (R411): `kind` 1 for a cause of R39, 2 for a barrier mismatch, 3 for a machine
check. A team that has already stopped writes no second record. -/
def Dev.terminate (d : Dev) (s : Shuttle) (kind cause sub detail : Nat) (image : List Nat) (copy : List Nat)
    (moved : Nat) : Dev :=
  match d.team s.team with
  | none => d
  | some t =>
    if t.dying then d
    else
      match d.launch t.launch with
      | none => d
      | some l =>
        (d.postError l.fn
          { kind := kind, cause := cause, sub := sub, detail := detail, place := whereWord (some s) l.rootQueue,
            addr := l.desc, block := l.blockAddr, team := t.num, depth := l.depth, image := image, copy := copy,
            moved := moved }).stopLaunch l.id cause

/-! ## Taking a trap and returning from one (R35 to R37) -/

/-- The registers from n on are written while loads may still be their producers: what those bring is dropped for them. -/
def Shuttle.takeOver (s : Shuttle) (n k : Nat) : Shuttle :=
  { s with accs := s.accs.map fun a =>
      match a.dst with
      | .sregs x =>
        { a with lost := a.lost ++ (List.range ((a.size + 3) / 4)).filterMap fun i =>
            if n ≤ x + i && x + i < n + k then some (x + i) else none }
      | _ => a }

/-- The shuttle after the entry to its handler: the record written and full, the handler's first word next. The record is written
at once, also where a load is still pending on a register of it; the load's value is then not taken for that register (DESIGN
CHOICE, log 79: R36 and R125 do not say whether the trap waits for it). -/
def Shuttle.enterHandler (s : Shuttle) (t : TrapInfo) (handler : Nat) (susp : Suspended) : Shuttle :=
  { (s.takeOver 1008 16).putWords 1008 (trapWords t (s.traps + 1)) with
    pc := handler, branchFrom := none, handler := true, suspended := susp, traps := s.traps + 1 }

/-- Taking a trap: causes 0x01 to 0x05 enter the nest's handler; in a handler they are a double trap, and with no
handler, like every other cause, they end the team. -/
def Dev.trap (d : Dev) (s : Shuttle) (hasTrap : Bool) (trapOff : Nat) (t : TrapInfo) (susp : Suspended) : Dev :=
  if t.cause ≤ 5 && s.handler then
    let t := { t with cause := 0x16, sub := 0 }
    d.terminate s 1 t.cause t.sub 0 (trapWords t (s.traps + 1)) [] 0
  else if t.cause ≤ 5 && hasTrap then d.setShuttle (s.enterHandler t trapOff susp)
  else d.terminate s 1 t.cause t.sub 0 (trapWords t (s.traps + 1)) [] 0

/-- The return from a handler (R37): the scalar stream continues at s1010, a suspended block at s1011, one word on after
an `ltrap` or an illegal word of the issue register. A block that resumes elsewhere does not arrive at its `tbeg` by restart
(R300). An access of an abandoned scalar instruction is not taken when the
stream resumes elsewhere. -/
def Shuttle.returnFromTrap (s : Shuttle) : Shuttle :=
  let s' := { s with
    pc := s.sval 1010, branchFrom := none, handler := false, suspended := .none
    accs := s.accs.map fun a => if a.dst == .stream && a.covers != [s.sval 1010] then { a with dst := .none } else a }
  match s.suspended with
  | .lane pc0 beats skip =>
    let pc := s.sval 1011 + (if skip then 1 else 0)
    { s' with
      frontier := s.frontier.map fun e =>
        if e.pc == pc0 && e.beats.any beats.contains then
          if pc == e.pc then { e with status := .ready }
          else
            { e with
              pc := pc, status := .ready, done := [], left := [], popped := [], pushed := [], xfaults := [], held := [] }
        else e
      txns := s.txns.map fun t => if pc != pc0 && beats.contains t.beat then { t with restart := none } else t }
  | _ => s'

end Sys2Proof.Machine
end

