-- ==== Sys2Proof/Machine/Operands.lean ====
section
/-!
DEFINITION. Operand forms: how a scalar instruction names, checks and waits for its registers (spec/04 R86, R100;
spec/05 R104), and how a lane word does (spec/04 R91, R92; spec/06 R133, R134).
-/
namespace Sys2Proof.Machine

/-! ## The scalar stream -/

/-- What a scalar instruction uses: its own SUB 0, SUB 1, SUB 4 and SUB 2 conditions, the destinations that must not lie
in s0 to s63, the registers that must be nameable, the pairs and quads that must be aligned, and the registers that it
reads and writes. -/
structure ScalarUse where
  sub0 : Bool := false
  sub1 : Bool := false
  sub4 : Bool := false
  dests : List Nat := []
  sub2 : Bool := false
  names : List Nat := []
  aligned : List (Nat × Nat) := []
  reads : List Nat := []
  writes : List Nat := []

/-- Consecutive registers. -/
def regRange (n k : Nat) : List Nat := (List.range k).map (n + ·)

/-- The checks of R100 in their order: the SUB of the first rule broken. -/
def ScalarUse.illegal (u : ScalarUse) (ns : Nat) : Option Nat :=
  if u.sub0 then some 0
  else if u.sub1 then some 1
  else if u.sub4 || u.dests.any (fun n => decide (n < 64)) then some 4
  else if u.sub2 || u.names.any (fun n => !nameable ns n) then some 2
  else if u.aligned.any (fun p => p.1 % p.2 != 0) then some 3
  else none

/-- The waits of R104: every register read is full, none written has a producer pending. -/
def ScalarUse.ready (u : ScalarUse) (s : Shuttle) : Bool :=
  u.reads.all (fun n => (s.sreg n).present) && u.writes.all (fun n => !(s.sreg n).isPending)

/-- Whether a register read has broken parity: its read consumes poison (R430). -/
def ScalarUse.broken (u : ScalarUse) (s : Shuttle) : Bool := u.reads.any fun n => (s.sreg n).isBad

/-- A stream instruction needs a shuttle at issue and what it runs in. -/
def onIssue (s : State) (f : Issue → Shuttle → Env → Dev → Dev) : Outcome :=
  match s.dev.issue with
  | none => .fault .nothingAtIssue
  | some is =>
    match s.dev.shuttle is.sh with
    | none => .fault .nothingAtIssue
    | some sh =>
      match s.dev.env sh with
      | none => .fault .nothingAtIssue
      | some env => .next { s with dev := f is sh env s.dev }

/-- A trap of the scalar stream. -/
def Dev.scalarTrapOf (d : Dev) (is : Issue) (sh : Shuttle) (env : Env) (cause sub : Nat) : Dev :=
  d.trap sh env.nest.hasTrap env.nest.trapOff (scalarTrap is sh cause sub) .scalar

/-- A scalar instruction: illegal, waiting, ended by poison that it reads, or done. -/
@[inline] def scalarGo (u : ScalarUse) (is : Issue) (sh : Shuttle) (env : Env) (d : Dev) (done : Dev) : Dev :=
  match u.illegal env.nest.ns with
  | some sub => d.scalarTrapOf is sh env 0x10 sub
  | none =>
    if !u.ready sh then d
    else if u.broken sh then d.scalarTrapOf is sh env 0x13 0
    else done

/-- The stream goes on at Next. -/
def Shuttle.advance (s : Shuttle) (is : Issue) : Shuttle := { s with pc := is.next, branchFrom := none }

/-- The stream goes on at an offset that the branch at issue names (R117). -/
def Shuttle.branchTo (s : Shuttle) (is : Issue) (target : Nat) : Shuttle :=
  { s with pc := target, branchFrom := some (is.first, is.words.getD 0 0 + 2 ^ 32 * is.words.getD 1 0) }

/-- A scalar instruction that acts on its shuttle's registers only. -/
def scalarReg (u : ScalarUse) (f : Issue → Shuttle → Shuttle) (s : State) : Outcome :=
  onIssue s fun is sh env d => scalarGo u is sh env d (d.setShuttle (f is sh))

/-! ## The lane stream -/

/-- The block at the head of the lane queue, when it has started (R22). -/
def Shuttle.block (s : Shuttle) : Option Block := if s.running then s.blocks.head? else none

def lowestBeat (e : Entry) : Nat := e.beats.foldl min 8

/-- Whether an entry is a candidate (R198). -/
def Entry.candidate (e : Entry) : Bool := e.status == .ready

/-- The place of a PC among the PCs: those below 0, which lie above 2^63 modulo 2^64, come first (R202). -/
def pcPlace (pc : Nat) : Nat := (pc + 2 ^ 63) % 2 ^ 64

/-- Which of two entries executes first: lower PC, then lower lowest beat (R198). -/
def Entry.before (a b : Entry) : Bool :=
  pcPlace a.pc < pcPlace b.pc || (a.pc == b.pc && lowestBeat a < lowestBeat b)

/-- The entry that executes (R198). -/
def Shuttle.current (s : Shuttle) : Option Entry :=
  (s.frontier.filter Entry.candidate).foldl
    (fun acc e => match acc with
      | none => some e
      | some a => if e.before a then some e else some a) none

/-- The B bit and the U bit of the lane word at an offset (R90). -/
def lcodeB (lcode : List Nat) (pc : Nat) : Bool := bit (lcode.getD pc 0) 40
def lcodeU (lcode : List Nat) (pc : Nat) : Bool := bit (lcode.getD pc 0) 41

/-- Beats in ascending order. -/
def insertBeat (b : Nat) : List Nat → List Nat
  | [] => [b]
  | x :: xs => if b < x then b :: x :: xs else if b == x then x :: xs else x :: insertBeat b xs
def unionBeats (a b : List Nat) : List Nat := a.foldl (fun acc x => insertBeat x acc) b

/-- Whether an entry merges at its word (R198): it is neither at `lend` nor parked, as those are that wait at `tbeg` (R300). -/
def Entry.open (e : Entry) : Bool := e.candidate || e.status == .committing

/-- Whether two entries merge (R198): both at one word whose B bit is set, with one FMT. -/
def Entry.merges (lcode : List Nat) (x e : Entry) : Bool :=
  x.open && e.open && x.pc == e.pc && x.fmt == e.fmt && lcodeB lcode e.pc

/-- Two entries as one: each thread keeps its progress in the word. One that waits at `tend` for commits executes it for the
threads that have come (log 78). -/
def Entry.merge (x e : Entry) : Entry :=
  { e with
    status := if x.status == .committing then e.status else x.status
    beats := unionBeats x.beats e.beats, done := x.done ++ e.done, left := x.left ++ e.left,
    popped := x.popped ++ e.popped, pushed := x.pushed ++ e.pushed, xfaults := x.xfaults ++ e.xfaults,
    held := x.held ++ e.held }

/-- An entry joins the frontier, and merges with one that it can merge with. -/
def joinFrontier (lcode : List Nat) (fr : List Entry) (e : Entry) : List Entry :=
  if e.beats.isEmpty then fr
  else
    match fr.find? fun x => x.merges lcode e with
    | none => fr ++ [e]
    | some x => (fr.filter fun y => y.beats != x.beats) ++ [x.merge e]

/-- The frontier without an entry. -/
def dropEntry (fr : List Entry) (e : Entry) : List Entry := fr.filter fun x => x.beats != e.beats

/-- A fresh entry. -/
def Entry.start (pc : Nat) (beats : List Nat) (fmt : Nat) : Entry :=
  { pc := pc, beats := beats, fmt := fmt, status := .ready, done := [], left := [], popped := [], pushed := [],
    xfaults := [], held := [] }

/-- The executing entry moves to a word (R198). -/
def Shuttle.moveEntry (s : Shuttle) (lcode : List Nat) (e : Entry) (pc : Nat) : Shuttle :=
  { s with frontier := joinFrontier lcode (dropEntry s.frontier e) (Entry.start pc e.beats e.fmt) }

/-- The guard of a word in a beat (R91). -/
def guardHolds (s : Shuttle) (pg beat : Nat) : Bool :=
  if pg < 8 then s.pred beat (pg % 8) else !s.pred beat (pg % 8)

/-- How many registers the A, B, C and D operands of a word take (R92, R134). -/
structure LaneShape where
  a : Nat
  b : Nat
  c : Nat
  d : Nat
  deriving DecidableEq, Repr

/-- The registers of a type (R93). -/
def typeRegs (t : Nat) : Nat := if t == 6 || t == 7 || t == 9 || t == 12 then 2 else 1

/-- The registers of a memory access of T (R93). -/
def sizeRegs (t : Nat) : Nat := if t == 3 then 2 else if t == 4 then 4 else 1

/-- The shape of a word; `plop` names predicates only (R138). -/
def laneShape (opc : Nat) (row : LaneRow) (w : LaneWord) : LaneShape :=
  let n := typeRegs w.t
  let k := listedSrcs opc row w
  let src := fun i w => if i < k then w else 0
  if opc == 0x021 then { a := 0, b := 0, c := 0, d := 0 }
  else if opc == 0x080 then { a := typeRegs (xSt w.x), b := 0, c := 0, d := n }
  else if opc == 0x081 then { a := typeRegs (xSt w.x), b := typeRegs (xSt w.x), c := 0, d := n }
  else if opc == 0x082 then { a := 1, b := 0, c := 0, d := 1 }
  else if opc == 0x083 then { a := 1, b := 1, c := 0, d := if w.t == 8 then 2 else 1 }
  else if opc == 0x0A0 then { a := 2, b := 1, c := 0, d := sizeRegs w.t }
  else if opc == 0x0A1 then { a := 2, b := 1, c := sizeRegs w.t, d := 0 }
  else if opc == 0x0A2 then { a := 2, b := 1, c := n, d := n }
  else if opc == 0x0A3 then { a := 2, b := 1, c := n, d := 0 }
  else if opc == 0x0A4 || opc == 0x0A5 then { a := 2, b := 1, c := 0, d := 0 }
  else if opc == 0x0F5 then { a := 0, b := 0, c := 0, d := 2 }
  else
    { a := src 0 n, b := src 1 n, c := src 2 n,
      d := match row.dst with
        | .vec => n
        | .vecOnly _ _ => n
        | _ => 0 }

def isV (c : Nat) : Bool := c < 768
def isA (c : Nat) : Bool := decide (768 ≤ c) && decide (c < 776)
def isO (c : Nat) : Bool := decide (776 ≤ c) && decide (c < 784)
def isQ (c : Nat) : Bool := decide (784 ≤ c) && decide (c < 788)
def isZ (c : Nat) : Bool := c == 788
def isX (c : Nat) : Bool := c == 789
def isS (c : Nat) : Bool := decide (960 ≤ c) && decide (c < 1024)
def isReg (c : Nat) : Bool := isV c || isA c || isQ c || isS c

/-- Whether the A field of a word is an address base (R152). -/
def isAddress (opc : Nat) : Bool := decide (0x0A0 ≤ opc) && decide (opc ≤ 0x0A5)

/-- Whether a code may stand in source position i (R92, R96). The literal may stand in B of `ltrap`, which R156 gives as a
register or z only (DEDUCED, log 80: R96 makes it legal in any source of a word that it does not list). -/
def srcAllowed (opc : Nat) (row : LaneRow) (w : LaneWord) (i c : Nat) : Bool :=
  if opc == 0x021 then c < 8
  else if i ≥ listedSrcs opc row w then isZ c
  else if opc == 0x0F7 then isV c
  else if isAddress opc && i == 0 then isV c || isA c || isS c || isZ c
  else if isX c then literalOk opc row
  else isReg c || isZ c

/-- Whether D may stand (R16, R23, R92, R152, R292, R298). -/
def dstAllowed (opc : Nat) (row : LaneRow) (w : LaneWord) : Bool :=
  let c := w.d
  match row.dst with
  | .vec => isV c || (isO c && w.u) || isQ c || isZ c
  | .vecOnly zOk outOk =>
    isV c || (zOk && isZ c) ||
      (outOk && isO c && w.u && !(opc == 0x0A0 && w.t == 4) && !(opc == 0x0A2 && xAop w.x == 7))
  | .pred => c < 8
  | .none => isZ c
  | .quietPred => if w.x % 2 == 1 then c < 8 else isZ c

/-- A vector operand of n registers reaches nv (R14, R92). -/
def beyond (nv c n : Nat) : Bool := n != 0 && isV c && decide (c + n > nv)

/-- A misaligned pair or quad (R92). -/
def misaligned (c n : Nat) : Bool := n > 1 && (isV c || isA c || isS c || isO c) && c % n != 0

/-- Checks 3 to 6 of R100 on a word that passed checks 1 and 2: the SUB and the operand code concerned. A tile at or
beyond the nest's count is SUB 2 (R362). -/
def laneIllegal (opc : Nat) (row : LaneRow) (w : LaneWord) (nv tiles : Nat) (inq outq : Nat → Bool) :
    Option (Nat × Nat) :=
  let sh := laneShape opc row w
  let srcs := [(0, w.a, sh.a), (1, w.b, sh.b), (2, w.c, sh.c)]
  match srcs.find? fun s => !srcAllowed opc row w s.1 s.2.1 with
  | some s => some (4, s.2.1)
  | none =>
    if !dstAllowed opc row w then some (4, w.d)
    else if opc == 0x0F7 && decide (w.a + 2 ≥ nv) then some (2, w.a)
    else if (opc == 0x110 || opc == 0x111) && decide (w.x % 32 ≥ tiles) then some (2, 0)
    else
      let ops := [(w.d, sh.d), (w.a, sh.a), (w.b, sh.b), (w.c, sh.c)]
      match ops.find? fun o => beyond nv o.1 o.2 with
      | some o => some (2, o.1)
      | none =>
        match ops.find? fun o => misaligned o.1 o.2 with
        | some o => some (3, o.1)
        | none =>
          if sh.d != 0 && isQ w.d && !outq (w.d - 784) then some (6, w.d)
          else
            match srcs.find? fun s => s.2.2 != 0 && isQ s.2.1 && !inq (s.2.1 - 784) with
            | some s => some (6, s.2.1)
            | none => none

/-- Whether queue q is inbound, and outbound, for a shuttle; a spawned one has no queues (R15, R218). -/
def Shuttle.inq (s : Shuttle) (n : Nest) (q : Nat) : Bool := !s.spawned && n.inbound s.stage q
def Shuttle.outq (s : Shuttle) (n : Nest) (q : Nat) : Bool := !s.spawned && n.outbound s.stage q

/-! ### Reading sources (R134) -/

/-- One register cell of a source code: a vector register, an argument or a lane-shared scalar. -/
def Shuttle.cell (s : Shuttle) (b : Block) (beat c : Nat) : RegCell :=
  if isV c then s.vreg beat c
  else if isA c then fullOf (b.args.getD (c - 768) 0).toNat
  else if isS c then s.sreg (c - 960)
  else blankReg

/-- Whether any of the n registers of a source is empty. -/
def Shuttle.srcEmpty (s : Shuttle) (b : Block) (beat c : Nat) : Nat → Bool
  | 0 => false
  | n + 1 => !(s.cell b beat c).present || s.srcEmpty b beat (c + 1) n

/-- Whether any of the n registers of a source has broken parity (R430). -/
def Shuttle.srcBad (s : Shuttle) (b : Block) (beat c : Nat) : Nat → Bool
  | 0 => false
  | n + 1 => (s.cell b beat c).isBad || s.srcBad b beat (c + 1) n

/-- The value of n registers from a code on, low word first. -/
def Shuttle.srcVal (s : Shuttle) (b : Block) (beat c : Nat) : Nat → Nat
  | 0 => 0
  | n + 1 => (s.cell b beat c).val + 2 ^ 32 * s.srcVal b beat (c + 1) n

/-- The literal of X in the type of a source (R134). A signalling F32 NaN is widened to the canonical quiet F64 NaN, and raises
nothing (DESIGN CHOICE, log 79). -/
def literalVal (opc : Nat) (w : LaneWord) : Nat :=
  if decide (0x040 ≤ opc) && decide (opc ≤ 0x055) then
    if w.t == 9 then w.x + 2 ^ 32 * w.x
    else if w.t == 12 then (exactConv .f64 (floatVal .f32 w.x)).1
    else w.x
  else if w.t == 6 then low 64 (sext 32 w.x)
  else w.x

/-- The pops that a source makes: the queue, once per 32 bits (R134). -/
def srcPops (c n : Nat) : List Nat := if isQ c then List.replicate n (c - 784) else []

end Sys2Proof.Machine
end

