-- ==== Sys2Proof/Machine/Flags.lean ====
section
/-!
DEFINITION. FLAGS (spec/01 R17): what sets its bits, reading and clearing it (spec/06 R157), the clamps of R42, and the
merging of a region's iterations (spec/07 R178). Float flags come from the rounding of spec/02 R47 in Float.lean.
-/
namespace Sys2Proof.Machine

/-- The bits of FLAGS. -/
def flagMask : Nat := 63

/-- FLAGS with further bits set; every bit is sticky. -/
def Shuttle.raiseFlags (s : Shuttle) (beat fl : Nat) : Shuttle :=
  if fl == 0 then s else s.setFlag beat (s.flag beat ||| fl)

/-- clrflg (R157): bits 31:6 of the mask are ignored. -/
def Shuttle.clearFlags (s : Shuttle) (beat mask : Nat) : Shuttle :=
  s.setFlag beat (s.flag beat &&& (flagMask - mask % 64))

/-- The bounds of an element of width w. -/
def intMax (w : Nat) (signed : Bool) : Int := if signed then 2 ^ (w - 1) - 1 else 2 ^ w - 1
def intMin (w : Nat) (signed : Bool) : Int := if signed then -(2 ^ (w - 1)) else 0

/-- Sat (R68): the nearest value in range, and FLAGS.SAT when the value changed. -/
def satInt (w : Nat) (signed : Bool) (v : Int) : Nat × Nat :=
  if v > intMax w signed then (low w (intMax w signed), flagSAT)
  else if v < intMin w signed then (low w (intMin w signed), flagSAT)
  else (low w v, 0)

/-- Clamp (R137): Sat when the SAT bit is set, and modulo 2^w when it is clear. -/
def clampInt (sat : Bool) (w : Nat) (signed : Bool) (v : Int) : Nat × Nat :=
  if sat then satInt w signed v else (low w v, 0)

/-- The OR of two lists of FLAGS by beat (R178). -/
def orFlagLists (a b : List (Nat × Nat)) : List (Nat × Nat) :=
  a.foldl (fun acc p => putK 0 acc p.1 (getK 0 acc p.1 ||| p.2)) b

/-- The larger of two lists of counts by beat (R178). -/
def maxCountLists (a b : List (Nat × Nat)) : List (Nat × Nat) :=
  a.foldl (fun acc p => putK 0 acc p.1 (max (getK 0 acc p.1) p.2)) b

end Sys2Proof.Machine
end

