-- ==== Sys2Proof/Machine/Coord.lean ====
section
/-!
DEFINITION. Threads and their coordinates under a mapping (spec/07 R159 to R165), the SEQ iterations of a shuttle (R165,
R176), and the mapping registers (R173 to R175).
-/
namespace Sys2Proof.Machine

/-! ## Parts of a level (R164, R165) -/

def kindElide : Nat := 0
def kindLane : Nat := 1
def kindShut : Nat := 2
def kindTeam : Nat := 3
def kindSeq : Nat := 4
def kindNone : Nat := 7

def ceilDiv (a b : Nat) : Nat := (a + b - 1) / b

/-- The factor of the outer part, when there is one. -/
def LevelMap.outerFactor (l : LevelMap) : Nat := if l.outer == kindNone then 1 else ceilDiv l.extent l.fact

/-- The factor of the inner or single part. -/
def LevelMap.innerFactor (l : LevelMap) : Nat :=
  if l.inner == kindElide then 1
  else if l.inner == kindLane || l.inner == kindShut then l.fact
  else l.extent

/-- The factor of a level's part of a kind, 1 when it has none. -/
def LevelMap.factor (l : LevelMap) (kind : Nat) : Nat :=
  if l.outer == kind then l.outerFactor else if l.inner == kind then l.innerFactor else 1

/-- Whether a level has a part of a kind. -/
def LevelMap.has (l : LevelMap) (kind : Nat) : Bool := l.outer == kind || l.inner == kind

/-- The product of the factors of a kind over all levels. -/
def partProduct (lv : List LevelMap) (kind : Nat) : Nat := lv.foldl (fun n l => n * l.factor kind) 1

/-- The digits of a mixed-radix number over the parts of a kind, innermost level fastest, outermost first. -/
def partDigits (lv : List LevelMap) (kind n : Nat) : List Nat :=
  (lv.foldr (fun l (acc : Nat × List Nat) => (acc.1 / l.factor kind, acc.1 % l.factor kind :: acc.2)) (n, [])).2

/-- The index of a level from its part indices (R165). -/
def LevelMap.index (l : LevelMap) (lane shut team seq : Nat) : Nat :=
  let pick := fun kind =>
    if kind == kindLane then lane else if kind == kindShut then shut else if kind == kindTeam then team
    else if kind == kindSeq then seq else 0
  if l.outer == kindNone then pick l.inner else pick l.outer * l.fact + pick l.inner

/-- The coordinate of a beat of a shuttle of a team in an iteration (R160, R165). -/
def coordOf (lv : List LevelMap) (team num beat : Nat) (seq : List Nat) : List Nat :=
  let ld := partDigits lv kindLane beat
  let sd := partDigits lv kindShut num
  let td := partDigits lv kindTeam team
  (List.range lv.length).map fun k =>
    (lv.getD k (LevelMap.mk 1 7 0 0)).index (ld.getD k 0) (sd.getD k 0) (td.getD k 0) (seq.getD k 0)

/-- Whether a coordinate lies within the extents (R160). -/
def coordOk (lv : List LevelMap) (c : List Nat) : Bool := (lv.zip c).all fun p => decide (p.2 < p.1.extent)

/-- The beats of a shuttle: the product of the LANE factors (R167). -/
def laneCount (lv : List LevelMap) : Nat := partProduct lv kindLane

/-- The existing beats of a shuttle of a team in an iteration, ascending. -/
def beatsAt (lv : List LevelMap) (team num : Nat) (seq : List Nat) : List Nat :=
  (List.range (laneCount lv)).filter fun b => coordOk lv (coordOf lv team num b seq)

/-! ## Of a shuttle in its launch -/

/-- The coordinate of a beat of a shuttle in an iteration: of a spawned shuttle, (beat, 0, 0, 0) (R218). -/
def Shuttle.coord (s : Shuttle) (lv : List LevelMap) (team : Nat) (seq : List Nat) (beat : Nat) : List Nat :=
  if s.spawned then [beat, 0, 0, 0] else coordOf lv team s.num beat seq

/-- The threads that exist in an iteration. -/
def Shuttle.threads (s : Shuttle) (lv : List LevelMap) (team : Nat) (seq : List Nat) : List Nat :=
  if s.spawned then List.range s.nthreads else beatsAt lv team s.num seq

/-- How many values the SEQ index of level k takes in a shuttle: those with a thread (R165, R176). -/
def seqCount (lv : List LevelMap) (num k : Nat) : Nat :=
  let l := lv.getD k (LevelMap.mk 1 7 0 0)
  if l.inner == kindSeq then l.extent
  else if l.outer == kindSeq then
    let m := if l.inner == kindShut then (partDigits lv kindShut num).getD k 0 else 0
    ceilDiv (l.extent - m) l.fact
  else 1

/-- Whether level k has a SEQ part. -/
def seqLevel (lv : List LevelMap) (k : Nat) : Bool := (lv.getD k (LevelMap.mk 1 7 0 0)).has kindSeq

/-- A list with one entry replaced. -/
def setAt (l : List Nat) (k v : Nat) : List Nat := (List.range l.length).map fun i => if i == k then v else l.getD i 0

/-- The SEQ indices after the present ones over some levels (outermost first), ascending lexicographically, or none. -/
def nextSeq (lv : List LevelMap) (num : Nat) (seq : List Nat) : List Nat → Option (List Nat)
  | [] => none
  | k :: ks =>
    match nextSeq lv num seq ks with
    | some s => some s
    | none =>
      if seq.getD k 0 + 1 < seqCount lv num k then
        some (ks.foldl (fun s j => setAt s j 0) (setAt seq k (seq.getD k 0 + 1)))
      else none

/-- Every combination of the SEQ indices of some levels from the first on, ascending; `fuel` bounds their number. -/
def seqFrom (lv : List LevelMap) (num : Nat) (ks : List Nat) : Nat → List Nat → List (List Nat)
  | 0, _ => []
  | fuel + 1, seq =>
    seq ::
      (match nextSeq lv num seq ks with
        | none => []
        | some s => seqFrom lv num ks fuel s)

/-- The iterations of a shuttle over some levels with the others as they are (the iteration set I of R181). -/
def iterations (lv : List LevelMap) (num : Nat) (seq ks : List Nat) : List (List Nat) :=
  let first := ks.foldl (fun s k => setAt s k 0) seq
  seqFrom lv num ks (ks.foldl (fun n k => n * seqCount lv num k) 1) first

/-- The levels with a SEQ part. -/
def seqLevels (lv : List LevelMap) : List Nat := (List.range lv.length).filter (seqLevel lv)

/-- The beats of a shuttle that exist in at least one iteration (R174): in the first, since later ones hold fewer. -/
def Shuttle.beatsEver (s : Shuttle) (lv : List LevelMap) (team : Nat) : List Nat := s.threads lv team [0, 0, 0, 0]

/-! ## Stochastic rounding draws (spec/02 R52) -/

/-- The draw of a thread: undeclared and ELIDE levels have index 0. -/
def Shuttle.draw (s : Shuttle) (seed : Nat) (c : List Nat) (beat : Nat) : Nat :=
  srBits seed (c.getD 0 0) (c.getD 1 0) (c.getD 2 0) (c.getD 3 0) (s.count beat) s.stage

/-! ## Mapping registers (R173 to R175) -/

def mapLReg (l : LevelMap) : Nat :=
  l.extent * 2 ^ 32 + l.outer * 2 ^ 27 + l.inner * 2 ^ 24 +
    (if l.inner == kindLane || l.inner == kindShut then l.fact else 0)

/-- MAPT: the cores, created shuttles and threads of a team. -/
def mapTReg (lv : List LevelMap) (t : Team) (shs : List Shuttle) : Nat :=
  let created := shs.filter fun s => !s.spawned
  t.cores.length * 2 ^ 25 + created.length * 2 ^ 14 +
    created.foldl (fun n s => n + (s.beatsEver lv t.num).length) 0

/-- MAPS: the stages; a spawned shuttle reads stage 0 (R218). -/
def mapSReg (nstage stage : Nat) : Nat := nstage * 16 + stage

end Sys2Proof.Machine
end

