-- ==== Sys2Proof/Machine/ScalarAlu.lean ====
section
/-!
DEFINITION. Integer operations of the scalar stream on registers, pairs and immediates (spec/05 R104 to R109), and the
two that act on nothing (R130). Values are natural numbers below 2^32, or below 2^64 for pairs.
-/
namespace Sys2Proof.Machine

/-! ## Operations on values (spec/02 R56, R57) -/

def addW (w a b : Nat) : Nat := (a + b) % 2 ^ w
def subW (w a b : Nat) : Nat := (a + 2 ^ w - b % 2 ^ w) % 2 ^ w
def mulW (w a b : Nat) : Nat := a * b % 2 ^ w
def shlW (w a k : Nat) : Nat := a * 2 ^ k % 2 ^ w
def shrW (a k : Nat) : Nat := a / 2 ^ k
def sraW (w a k : Nat) : Nat := low w (sext w a / 2 ^ k)

/-- The high w bits of the signed, and of the unsigned, product. -/
def mulhW (w a b : Nat) : Nat := low w (sext w a * sext w b / 2 ^ w)
def mulhuW (w a b : Nat) : Nat := a * b / 2 ^ w

/-- Quotients truncate toward zero; division by zero gives all ones, and MIN / -1 gives MIN (R56). -/
def divW (w a b : Nat) : Nat := if b == 0 then 2 ^ w - 1 else low w (Int.tdiv (sext w a) (sext w b))
def divuW (w a b : Nat) : Nat := if b == 0 then 2 ^ w - 1 else a / b

/-- A remainder takes the sign of its dividend; by zero it is the dividend (R56). -/
def remW (w a b : Nat) : Nat := if b == 0 then a else low w (Int.tmod (sext w a) (sext w b))
def remuW (a b : Nat) : Nat := if b == 0 then a else a % b

def minW (w a b : Nat) : Nat := if sext w a ≤ sext w b then a else b
def maxW (w a b : Nat) : Nat := if sext w a ≤ sext w b then b else a
def notW (w a : Nat) : Nat := 2 ^ w - 1 - a % 2 ^ w

/-- Leading zero bits, one bits and reversal of a w-bit value. -/
def clzW (w a : Nat) : Nat := if a == 0 then w else w - 1 - Nat.log2 a
def popcW : Nat → Nat → Nat
  | 0, _ => 0
  | w + 1, a => a % 2 + popcW w (a / 2)
def brevW : Nat → Nat → Nat
  | 0, _ => 0
  | w + 1, a => a % 2 * 2 ^ w + brevW w (a / 2)

def boolW (b : Bool) : Nat := if b then 1 else 0

/-! ## Operand forms -/

/-- X ← X op Y. -/
def useXY (x y : Nat) : ScalarUse := { dests := [x], names := [x, y], reads := [x, y], writes := [x] }

/-- X ← op(Y): X is not read. -/
def useY (x y : Nat) : ScalarUse := { dests := [x], names := [x, y], reads := [y], writes := [x] }

/-- Pairs X ← X op Y. An odd pair whose second register lies past the declaration names a register beyond it, and so is SUB 2
(DESIGN CHOICE, log 79: R108 does not say which of SUB 2 and 3). -/
def useXY64 (x y : Nat) : ScalarUse :=
  { dests := [x], names := regRange x 2 ++ regRange y 2, aligned := [(x, 2), (y, 2)], reads := regRange x 2 ++ regRange y 2,
    writes := regRange x 2 }

/-- X ← X op immediate, or X ← immediate. -/
def useX (x : Nat) : ScalarUse := { dests := [x], names := [x], reads := [x], writes := [x] }
def useNone (x : Nat) : ScalarUse := { dests := [x], names := [x], writes := [x] }
def useX64 (x : Nat) : ScalarUse :=
  { dests := [x], names := regRange x 2, aligned := [(x, 2)], reads := regRange x 2, writes := regRange x 2 }

/-- The result of a 32-bit form over sX and sY. -/
def alu2 (u : ScalarUse) (x y : Nat) (f : Nat → Nat → Nat) (s : State) : Outcome :=
  scalarReg u (fun is sh => (sh.putS x (f (sh.sval x) (sh.sval y)) 1).advance is) s

/-- The result of a 64-bit form over the pairs X and Y. -/
def alu64 (u : ScalarUse) (x y : Nat) (f : Nat → Nat → Nat) (s : State) : Outcome :=
  scalarReg u (fun is sh => (sh.putS x (f (sh.pair x) (sh.pair y)) 2).advance is) s

/-- The result of an immediate form. -/
def aluImm (u : ScalarUse) (x : Nat) (f : Nat → Nat) (s : State) : Outcome :=
  scalarReg u (fun is sh => (sh.putS x (f (sh.sval x)) 1).advance is) s
def aluImm64 (u : ScalarUse) (x : Nat) (f : Nat → Nat) (s : State) : Outcome :=
  scalarReg u (fun is sh => (sh.putS x (f (sh.pair x)) 2).advance is) s

/-! ## 32-bit registers (R107) -/

def execSmov (x y : Nat) (s : State) : Outcome := alu2 (useY x y) x y (fun _ b => b) s
def execSadd (x y : Nat) (s : State) : Outcome := alu2 (useXY x y) x y (addW 32) s
def execSsub (x y : Nat) (s : State) : Outcome := alu2 (useXY x y) x y (subW 32) s
def execSand (x y : Nat) (s : State) : Outcome := alu2 (useXY x y) x y (fun a b => a &&& b) s
def execSor (x y : Nat) (s : State) : Outcome := alu2 (useXY x y) x y (fun a b => a ||| b) s
def execSxor (x y : Nat) (s : State) : Outcome := alu2 (useXY x y) x y (fun a b => a ^^^ b) s
def execSshl (x y : Nat) (s : State) : Outcome := alu2 (useXY x y) x y (fun a b => shlW 32 a (b % 32)) s
def execSshr (x y : Nat) (s : State) : Outcome := alu2 (useXY x y) x y (fun a b => shrW a (b % 32)) s
def execSsra (x y : Nat) (s : State) : Outcome := alu2 (useXY x y) x y (fun a b => sraW 32 a (b % 32)) s
def execSmul (x y : Nat) (s : State) : Outcome := alu2 (useXY x y) x y (mulW 32) s
def execSmulh (x y : Nat) (s : State) : Outcome := alu2 (useXY x y) x y (mulhW 32) s
def execSmulhu (x y : Nat) (s : State) : Outcome := alu2 (useXY x y) x y (mulhuW 32) s
def execSdiv (x y : Nat) (s : State) : Outcome := alu2 (useXY x y) x y (divW 32) s
def execSdivu (x y : Nat) (s : State) : Outcome := alu2 (useXY x y) x y (divuW 32) s
def execSrem (x y : Nat) (s : State) : Outcome := alu2 (useXY x y) x y (remW 32) s
def execSremu (x y : Nat) (s : State) : Outcome := alu2 (useXY x y) x y remuW s
def execSmin (x y : Nat) (s : State) : Outcome := alu2 (useXY x y) x y (minW 32) s
def execSmax (x y : Nat) (s : State) : Outcome := alu2 (useXY x y) x y (maxW 32) s
def execSminu (x y : Nat) (s : State) : Outcome := alu2 (useXY x y) x y min s
def execSmaxu (x y : Nat) (s : State) : Outcome := alu2 (useXY x y) x y max s
def execSslt (x y : Nat) (s : State) : Outcome :=
  alu2 (useXY x y) x y (fun a b => boolW (decide (sext 32 a < sext 32 b))) s
def execSsltu (x y : Nat) (s : State) : Outcome := alu2 (useXY x y) x y (fun a b => boolW (decide (a < b))) s
def execSseq (x y : Nat) (s : State) : Outcome := alu2 (useXY x y) x y (fun a b => boolW (a == b)) s
def execSnot (x y : Nat) (s : State) : Outcome := alu2 (useY x y) x y (fun _ b => notW 32 b) s
def execSclz (x y : Nat) (s : State) : Outcome := alu2 (useY x y) x y (fun _ b => clzW 32 b) s
def execSpopc (x y : Nat) (s : State) : Outcome := alu2 (useY x y) x y (fun _ b => popcW 32 b) s
def execSbrev (x y : Nat) (s : State) : Outcome := alu2 (useY x y) x y (fun _ b => brevW 32 b) s
def execSneg (x y : Nat) (s : State) : Outcome := alu2 (useY x y) x y (fun _ b => subW 32 0 b) s

/-! ## Pairs (R108) -/

def execSmov64 (x y : Nat) (s : State) : Outcome :=
  alu64 { useXY64 x y with reads := regRange y 2 } x y (fun _ b => b) s
def execSadd64 (x y : Nat) (s : State) : Outcome := alu64 (useXY64 x y) x y (addW 64) s
def execSsub64 (x y : Nat) (s : State) : Outcome := alu64 (useXY64 x y) x y (subW 64) s
def execSshl64 (x y : Nat) (s : State) : Outcome := alu64 (useXY64 x y) x y (fun a b => shlW 64 a (b % 64)) s
def execSshr64 (x y : Nat) (s : State) : Outcome := alu64 (useXY64 x y) x y (fun a b => shrW a (b % 64)) s
def execSsra64 (x y : Nat) (s : State) : Outcome := alu64 (useXY64 x y) x y (fun a b => sraW 64 a (b % 64)) s
def execSmul64 (x y : Nat) (s : State) : Outcome := alu64 (useXY64 x y) x y (mulW 64) s

/-! ## Immediates (R109) -/

def execSli (x : Nat) (imm : Int) (s : State) : Outcome := aluImm (useNone x) x (fun _ => low 32 imm) s
def execSli64 (x : Nat) (imm : Int) (s : State) : Outcome :=
  aluImm64 { useX64 x with reads := [] } x (fun _ => low 64 imm) s
def execSaddi (x : Nat) (imm : Int) (s : State) : Outcome := aluImm (useX x) x (fun a => addW 32 a (low 32 imm)) s
def execSandi (x : Nat) (imm : Int) (s : State) : Outcome := aluImm (useX x) x (fun a => a &&& low 32 imm) s
def execSori (x : Nat) (imm : Int) (s : State) : Outcome := aluImm (useX x) x (fun a => a ||| low 32 imm) s
def execSxori (x : Nat) (imm : Int) (s : State) : Outcome := aluImm (useX x) x (fun a => a ^^^ low 32 imm) s

/-- A shift amount outside 0 to 31 is SUB 1. -/
def useShift (x : Nat) (imm : Int) : ScalarUse :=
  { useX x with sub1 := !(decide (0 ≤ imm) && decide (imm ≤ 31)) }

def execSshli (x : Nat) (imm : Int) (s : State) : Outcome :=
  aluImm (useShift x imm) x (fun a => shlW 32 a imm.toNat) s
def execSshri (x : Nat) (imm : Int) (s : State) : Outcome := aluImm (useShift x imm) x (fun a => shrW a imm.toNat) s
def execSsrai (x : Nat) (imm : Int) (s : State) : Outcome :=
  aluImm (useShift x imm) x (fun a => sraW 32 a imm.toNat) s
def execSsltiu (x : Nat) (imm : Int) (s : State) : Outcome :=
  aluImm (useX x) x (fun a => boolW (decide (a < low 32 imm))) s
def execSaddi64 (x : Nat) (imm : Int) (s : State) : Outcome :=
  aluImm64 (useX64 x) x (fun a => addW 64 a (low 64 imm)) s

/-! ## No effect (R130) -/

/-- `snop` takes an issue slot. -/
def execSnop (s : State) : Outcome := scalarReg {} (fun is sh => sh.advance is) s

/-- `syield` withdraws the shuttle from issue for a while, which is timing only. -/
def execSyield (s : State) : Outcome := scalarReg {} (fun is sh => sh.advance is) s

end Sys2Proof.Machine
end

