-- ==== Sys2Proof/Machine/ScalarFlow.lean ====
section
/-!
DEFINITION. Branches, calls and loops of the scalar stream (spec/05 R116 to R118) and the full/empty instructions (R119).
-/
namespace Sys2Proof.Machine

/-- PC + OFF: an offset in words, modulo 2^64 so that a target below 0 lies beyond every section (R117). -/
def branchTarget (is : Issue) (off : Int) : Nat := low 64 ((is.pc : Int) + off)

/-- A register that is tested and not written. -/
def useTest (x : Nat) : ScalarUse := { names := [x], reads := [x] }

/-- Taken or not (R116). -/
def condBranch (x : Nat) (off : Int) (p : Nat → Bool) (s : State) : Outcome :=
  scalarReg (useTest x)
    (fun is sh => if p (sh.sval x) then sh.branchTo is (branchTarget is off) else sh.advance is) s

def execSbr (off : Int) (s : State) : Outcome := scalarReg {} (fun is sh => sh.branchTo is (branchTarget is off)) s
def execSbz (x : Nat) (off : Int) (s : State) : Outcome := condBranch x off (fun v => v == 0) s
def execSbnz (x : Nat) (off : Int) (s : State) : Outcome := condBranch x off (fun v => v != 0) s
def execSblz (x : Nat) (off : Int) (s : State) : Outcome := condBranch x off (fun v => decide (sext 32 v < 0)) s
def execSbgez (x : Nat) (off : Int) (s : State) : Outcome := condBranch x off (fun v => decide (sext 32 v ≥ 0)) s

def execScall (x : Nat) (off : Int) (s : State) : Outcome :=
  scalarReg (useNone x) (fun is sh => (sh.putS x is.next 1).branchTo is (branchTarget is off)) s

def execSjr (x : Nat) (s : State) : Outcome :=
  scalarReg (useTest x) (fun is sh => sh.branchTo is (sh.sval x)) s

/-- The target is read before the link is written. -/
def execSjrL (x y : Nat) (s : State) : Outcome :=
  scalarReg (useY x y) (fun is sh => (sh.putS x is.next 1).branchTo is (sh.sval y)) s

/-- The counter is decremented before it is tested (R118). -/
def execSloop (x : Nat) (off : Int) (s : State) : Outcome :=
  scalarReg (useX x)
    (fun is sh =>
      let v := subW 32 (sh.sval x) 1
      let sh' := sh.putS x v 1
      if v != 0 then sh'.branchTo is (branchTarget is off) else sh'.advance is) s

/-! ## Full/empty (R27, R119) -/

def execSfet (x y : Nat) (s : State) : Outcome :=
  scalarReg { sub4 := x == y, dests := [x], names := [x, y], writes := [x] }
    (fun is sh => (sh.putS x (boolW (sh.sreg y).present) 1).advance is) s

def execSwfull (x : Nat) (s : State) : Outcome :=
  scalarReg { names := [x], reads := [x] } (fun is sh => sh.advance is) s

def execSempt (x : Nat) (s : State) : Outcome :=
  scalarReg { dests := [x], names := [x], writes := [x] } (fun is sh => (sh.setSreg x .empty).advance is) s

end Sys2Proof.Machine
end

