-- ==== Sys2Proof/Machine/ScalarSys.lean ====
section
/-!
DEFINITION. The lane queue, shared scalars and FMT (spec/05 R121 to R123), traps (R124), breakpoints (R126), CSRs (R128,
R129) and the cycle counter (R131).
-/
namespace Sys2Proof.Machine

/-! ## What has been performed (spec/13 R267) -/

/-- Whether an access has been performed: its value is fixed, or its write is at the home. -/
def Access.performed (a : Access) : Bool :=
  match a.status with
  | .arrived _ => true
  | _ => false

/-- Every lane access of a shuttle has been performed. -/
def Shuttle.lanePerformed (s : Shuttle) : Bool := s.accs.all fun a => a.beat.isNone || a.performed

/-- Every access of a shuttle has been performed. -/
def Shuttle.allPerformed (s : Shuttle) : Bool := s.accs.all Access.performed

/-- The wait of `lsync` (R25). -/
def Shuttle.drained (s : Shuttle) : Bool := s.blocks.isEmpty && s.lanePerformed

/-! ## Blocks (R21, R22) -/

/-- The block at the head of the queue starts when none runs (R22, R197). -/
def Shuttle.startBlock (s : Shuttle) : Shuttle :=
  match s.running, s.blocks with
  | false, b :: _ => { s with running := true, frontier := [Entry.start b.entry b.beats b.fmt] }
  | _, _ => s

/-- The use of `lrun` (R121). -/
def lrunUse (handler : Bool) (lcodeLen x y n entry : Nat) : ScalarUse :=
  { sub0 := handler || decide (n > 8) || decide (entry ≥ lcodeLen), sub1 := n == 0 && x != 0,
    sub4 := n != 0 && decide (x < 64),
    sub2 := n != 0 && decide (x + n > 1008), names := regRange y 8 ++ regRange x n,
    reads := regRange y 8, writes := regRange x n }

/-- `lrun` (R21, R122, R176): the arguments, FMT, SRSEED and indices are captured, then the output window is emptied. -/
def execLrun (x y n entry : Nat) (s : State) : Outcome :=
  onIssue s fun is sh env d =>
    scalarGo (lrunUse sh.handler env.bolt.lcode.length x y n entry) is sh env d
      (if sh.blocks.length ≥ 8 then d
       else
        let b : Block :=
          { id := d.nextId, entry := entry, args := (regRange y 8).map fun r => BitVec.ofNat 32 (sh.sval r),
            fmt := sh.fmt, seed := sh.seed, outBase := x, outN := n, written := [], seq := sh.seq,
            beats := sh.threads env.launch.levels env.team.num sh.seq }
        let sh' := (sh.markS x .pending n).advance is
        { d with nextId := d.nextId + 1 }.setShuttle ({ sh' with blocks := sh'.blocks ++ [b] }.startBlock))

/-- `lsync` (R25). -/
def execLsync (s : State) : Outcome :=
  onIssue s fun is sh env d =>
    scalarGo { sub0 := sh.handler } is sh env d (if sh.drained then d.setShuttle (sh.advance is) else d)

/-- Copies of k registers, every source read before any write (R24). -/
def Shuttle.copyRegs (s : Shuttle) (x y k : Nat) : Shuttle := s.putWords x ((regRange y k).map s.sval)

/-- `sshare` (R24): waits for the lane queue; later scalar accesses are ordered after the lane accesses so far (R34). -/
def execSshare (x y f : Nat) (s : State) : Outcome :=
  onIssue s fun is sh env d =>
    scalarGo { sub0 := sh.handler, sub4 := decide (x + f > 63), names := regRange y (f + 1),
               reads := regRange y (f + 1), writes := regRange x (f + 1) } is sh env d
      (if sh.blocks.isEmpty then
        d.setShuttle { (sh.copyRegs x y (f + 1)).advance is with laneFence := d.nextId }
       else d)

/-- `ssetfmt` (R19): a nonzero bit in 31:24 is illegal. -/
def execSsetfmt (x : Nat) (s : State) : Outcome :=
  onIssue s fun is sh env d =>
    scalarGo (useTest x) is sh env d
      (if sh.sval x ≥ 2 ^ 24 then d.scalarTrapOf is sh env 0x10 1
       else d.setShuttle { sh.advance is with fmt := sh.sval x })

/-! ## Traps (R124) -/

/-- `strap`: the record holds Next and the code. -/
def execStrap (code : Int) (s : State) : Outcome :=
  onIssue s fun is sh env d =>
    d.trap sh env.nest.hasTrap env.nest.trapOff
      { scalarTrap is sh 1 0 with resume := is.next, code := low 32 code } .scalar

/-- An entry that stands at a word with its B bit set merges with another there (R198). -/
def Shuttle.remerge (s : Shuttle) (lcode : List Nat) : Shuttle :=
  { s with frontier := s.frontier.foldl (joinFrontier lcode) [] }

/-- `strap.ret` (R37): outside a handler it is SUB 0, and with a prefix SUB 1. -/
def execStrapRet (s : State) : Outcome :=
  onIssue s fun is sh env d =>
    scalarGo { sub0 := !sh.handler, sub1 := is.words.length > 1, reads := [1010, 1011] } is sh env d
      (d.setShuttle (sh.returnFromTrap.remerge env.bolt.lcode))

/-- `sbrk` (R126): without DBGEN, or while the fault queue is disabled (R415), it has no effect. It puts Next into s1010 at
once, as a trap does (R36), also where s1010 has a producer pending, whose value is then not taken (DESIGN CHOICE, log 79: the
manual does not say whether R104's wait covers s1010). -/
def execSbrk (s : State) : Outcome :=
  onIssue s fun is sh env d =>
    scalarGo {} is sh env d
      (let f := d.func env.launch.fn
       if f.dbgen % 2 == 0 || !ringOk f.fqs then d.setShuttle (sh.advance is)
       else
        let d' := d.setShuttle { ((sh.advance is).takeOver 1010 1).putS 1010 is.next 1 with stopped := true }
        (d'.postFault env.launch.fn
          { id := 0, kind := 3, stage := 0, access := 0, ctx := env.launch.ctx, unitLo := 0, unitSize := 0,
            addr := is.next, team := env.team.num, joined := 0, posted := false, resolved := false,
            owner := .shuttle sh.id }).1)

/-! ## CSRs (R128, R129) -/

/-- The reset value of a magnitude map (R62). -/
def tw2Reset : Nat := 0x00423C30

def Dev.tw2Map (d : Dev) (core i : Nat) : Nat := getK tw2Reset d.tw2m (core * 8 + i)

/-- A map written on cores. -/
def Dev.setTw2 (d : Dev) (cores : List Nat) (i v : Nat) : Dev :=
  { d with tw2m := cores.foldl (fun m c => putK tw2Reset m (c * 8 + i) v) d.tw2m }

/-- PLACE (R128). -/
def Shuttle.place (s : Shuttle) : Nat := s.slot * 2 ^ 16 + s.lane * 2 ^ 12 + s.part * 2 ^ 8 + s.core

/-- The value of a CSR. -/
def Dev.csr (d : Dev) (sh : Shuttle) (n : Nat) : Nat :=
  if n == 0 then sh.seed % 2 ^ 32
  else if n == 1 then sh.seed / 2 ^ 32
  else if n == 32 then sh.place
  else d.tw2Map sh.core (n - 16)

def execScsrR (x csr : Nat) (s : State) : Outcome :=
  onIssue s fun is sh env d =>
    scalarGo (useNone x) is sh env d (d.setShuttle ((sh.putS x (d.csr sh csr) 1).advance is))

/-- `scsr.w`: SRSEED at once; a map once the lane queue is empty, on every core of the team. -/
def execScsrW (x csr : Nat) (s : State) : Outcome :=
  onIssue s fun is sh env d =>
    scalarGo (useTest x) is sh env d
      (let v := sh.sval x
       if csr == 0 then d.setShuttle { sh.advance is with seed := sh.seed / 2 ^ 32 * 2 ^ 32 + v }
       else if csr == 1 then d.setShuttle { sh.advance is with seed := sh.seed % 2 ^ 32 + v * 2 ^ 32 }
       else if v ≥ 2 ^ 24 then d.scalarTrapOf is sh env 0x10 1
       else if sh.blocks.isEmpty then (d.setTw2 env.team.cores (csr - 16) v).setShuttle (sh.advance is)
       else d)

/-- `scyc` (R131): the core's counter, which has moved on by cycles that the manual leaves open (log 10). -/
def execScyc (x : Nat) (s : State) : Outcome :=
  onIssue s fun is sh env d =>
    scalarGo { dests := [x], names := regRange x 2, aligned := [(x, 2)], writes := regRange x 2 } is sh env d
      (let c := (getK 0 d.cycles sh.core + Config.cycleStep d.tick) % 2 ^ 64
       { d with cycles := putK 0 d.cycles sh.core c }.setShuttle ((sh.putS x c 2).advance is))

end Sys2Proof.Machine
end

