-- ==== Sys2Proof/Machine/Translate.lean ====
section
/-!
DEFINITION. The two-stage page walk (spec/12 R257 to R262), cached translations (R260, R261, R265), and the location of
an address in the model's one memory.
-/
namespace Sys2Proof.Machine

/-- What an entry of a table says at its level (R258, R262). -/
inductive EntryCheck where
  | notPresent
  | format
  | table (addr : Nat)
  | leaf
  deriving DecidableEq, Repr

/-- The page that a leaf maps at a level: 1 GiB, 2 MiB, or 4 KiB, 64 KiB with C (R258). -/
def leafSize (level : Nat) (c : Bool) : Nat :=
  if level == 1 then 2 ^ 30 else if level == 2 then 2 ^ 21 else if c then 2 ^ 16 else 2 ^ 12

/-- The region that an entry covers at a level (R263). -/
def entryRegion (level : Nat) : Nat :=
  if level == 0 then 2 ^ 39 else if level == 1 then 2 ^ 30 else if level == 2 then 2 ^ 21 else 2 ^ 12

/-- The checks of an entry at an index of its table: presence first, then its form. The walker does not use the frame of an
entry of a 64 KiB page whose index has a bit of 3:0 set (R258). Bit 5 (C) in an entry that is no leaf of level 3 is a format fault
(DESIGN CHOICE, log 79: neither R258 nor R262 says what it does there). -/
def checkEntry (stage2 : Bool) (level index e : Nat) : EntryCheck :=
  let isTable := bit e 1
  let leafFields := stage2 && !isTable
  let c := bit e 5
  let addr := bits e 51 12 * 4096
  let frame := if leafFields && bits e 10 8 == 1 then bits e 41 12 * 4096 else addr
  if !bit e 0 then .notPresent
  else if (level == 0 && !isTable) || (level == 3 && isTable) then .format
  else if bit e 63 || bit e 11 || bits e 7 6 != 0 || bit e 4 then .format
  else if !leafFields && (bits e 62 52 != 0 || bits e 10 8 != 0) then .format
  else if c && !(level == 3 && !isTable) then .format
  else if bit e 3 && !bit e 2 then .format
  else if leafFields && bits e 10 8 ≥ 3 then .format
  else if isTable then .table addr
  else if (!c || index % 16 == 0) && frame % leafSize level c != 0 then .format
  else .leaf

/-- The index of an address at a level: level 0 takes all bits from 39 up. -/
def levelIndex (a level : Nat) : Nat :=
  if level == 0 then a / 2 ^ 39 else a / 2 ^ (39 - 9 * level) % 512

/-- Where a stage-2 walk ends. -/
inductive S2End where
  | leaf (e level : Nat)
  | notPresent (level : Nat)
  | format
  deriving DecidableEq, Repr

/-- Reading an 8-byte table entry at a partition physical address, under key slot 0. -/
def Dev.tableWord (d : Dev) (fn pa : Nat) : Nat :=
  let key := partBase (partOf fn) + pa
  leNat (d.readUnder (d.keyFor fn 0 key) key 8)

/-- Whether an entry of a stage-2 table lies in the partition's physical range; a table beyond it is a fault of form
(log 75). -/
def Dev.tableIn (d : Dev) (fn pa : Nat) : Bool := decide (pa + 8 ≤ d.partBytes (partOf fn))

/-- A walk over the levels left. -/
def s2Levels (d : Dev) (fn gpa : Nat) : List Nat → Nat → S2End
  | [], _ => .format
  | level :: rest, tbl =>
    let e := d.tableWord fn (tbl + 8 * levelIndex gpa level)
    if !d.tableIn fn (tbl + 8 * levelIndex gpa level) then .format
    else match checkEntry true level (levelIndex gpa level) e with
    | .notPresent => .notPresent level
    | .format => .format
    | .table a => s2Levels d fn gpa rest a
    | .leaf =>
      if bit e 5 then
        let b := d.tableWord fn (tbl + 8 * (levelIndex gpa level / 16 * 16))
        match checkEntry true level (levelIndex gpa level / 16 * 16) b with
        | .notPresent => .notPresent level
        | .leaf => if bit b 5 then .leaf b level else .format
        | _ => .format
      else .leaf e level

/-- The stage-2 walk of a guest-physical address. A leaf of device memory names an address in the function's share of the
partition's range (R249). -/
def Dev.s2Walk (d : Dev) (fn gpa : Nat) : S2End :=
  let root := (d.func fn).s2root
  if !bit root 0 then .notPresent 0
  else
    match s2Levels d fn gpa [0, 1, 2, 3] (bits root 51 12 * 4096) with
    | .leaf e level =>
      let f := d.func fn
      let a := bits e 51 12 * 4096
      if bits e 10 8 == 0 && !(decide (f.memb ≤ a) && decide (a < f.memb + f.mems) && decide (a < d.partBytes (partOf fn))) then
        .format
      else .leaf e level
    | r => r

/-- The location of a guest-physical address under a stage-2 leaf; requests to peers carry a domain (R436). -/
def leafLoc (fn dom gpa e level : Nat) : Loc :=
  let off := gpa % leafSize level (bit e 5)
  let addr := bits e 51 12 * 4096
  let space := bits e 10 8
  { key :=
      if space == 0 then partBase (partOf fn) + addr + off
      else if space == 1 then peerKey dom (bits e 51 42) (bits e 41 12 * 4096 + off)
      else hostKey (addr + off),
    keyid := bits e 62 58, hctx := bits e 57 52, space := space, ro := !bit e 3 }

/-- A translation fault: replayable with its kind, stage, address and unit, or one of form (R262, R263); `va` is the address that
was translated. -/
structure WalkFault where
  format : Bool
  kind : Nat
  stage : Nat
  addr : Nat
  unitLo : Nat
  unitSize : Nat
  tableWalk : Bool
  va : Nat := 0
  deriving DecidableEq, Repr

def formatFault (va : Nat) : WalkFault :=
  { format := true, kind := 0, stage := 0, addr := va, unitLo := 0, unitSize := 0, tableWalk := false }

/-- A fault on a region of a size that contains an address. -/
def regionFault (kind stage addr size : Nat) (tw : Bool) : WalkFault :=
  { format := false, kind := kind, stage := stage, addr := addr, unitLo := addr / size * size, unitSize := size,
    tableWalk := tw }

/-- What a walk ends in: the location, whether the translation permits reads and writes, and the GPA. -/
inductive WalkEnd where
  | ok (loc : Loc) (r w : Bool) (gpa : Nat)
  | fault (f : WalkFault)
  deriving DecidableEq, Repr

/-- The stage-2 part of an access that needs R or W, or a table read (R259, R262). -/
def Dev.s2Access (d : Dev) (fn va gpa : Nat) (needR needW tw : Bool) : WalkEnd :=
  match d.s2Walk fn gpa with
  | .notPresent level => .fault (regionFault 1 1 gpa (entryRegion level) tw)
  | .format => .fault (formatFault va)
  | .leaf e level =>
    if (needR && !bit e 2) || (needW && !bit e 3) then
      .fault (regionFault 2 1 gpa (leafSize level (bit e 5)) tw)
    else .ok (leafLoc fn (d.func fn).fdom gpa e level) (bit e 2) (bit e 3) gpa

/-- An entry of a stage-1 table, read through stage 2. -/
def Dev.s1Word (d : Dev) (fn va gpa : Nat) : Except WalkFault Nat :=
  match d.s2Access fn va gpa true false true with
  | .fault f => .error f
  | .ok loc _ _ _ => .ok (leNat (d.readUnder (d.keyFor fn loc.keyid loc.key) loc.key 8))

/-- The stage-1 leaf of an address: the entry and its level, or a fault. -/
def s1Levels (d : Dev) (fn va : Nat) : List Nat → Nat → Except WalkFault (Nat × Nat)
  | [], _ => .error (formatFault va)
  | level :: rest, tbl =>
    match d.s1Word fn va (tbl + 8 * levelIndex va level) with
    | .error f => .error f
    | .ok e =>
      match checkEntry false level (levelIndex va level) e with
      | .notPresent => .error (regionFault 1 0 va (entryRegion level) false)
      | .format => .error (formatFault va)
      | .table a => s1Levels d fn va rest a
      | .leaf =>
        if bit e 5 then
          match d.s1Word fn va (tbl + 8 * (levelIndex va level / 16 * 16)) with
          | .error f => .error f
          | .ok b =>
            match checkEntry false level (levelIndex va level / 16 * 16) b with
            | .notPresent => .error (regionFault 1 0 va (entryRegion level) false)
            | .leaf => if bit b 5 then .ok (b, level) else .error (formatFault va)
            | _ => .error (formatFault va)
        else .ok (e, level)

/-- The whole walk of a virtual address for an access that needs R or W (R262). -/
def Dev.walk (d : Dev) (fn ctx va : Nat) (needR needW : Bool) : WalkEnd :=
  let root := getK 0 (d.func fn).s1root ctx
  if !bit root 0 then .fault (regionFault 1 0 va (entryRegion 0) false)
  else
    match s1Levels d fn va [0, 1, 2, 3] (bits root 51 12 * 4096) with
    | .error f => .fault f
    | .ok (e, level) =>
      let size := leafSize level (bit e 5)
      if (needR && !bit e 2) || (needW && !bit e 3) then .fault (regionFault 2 0 va size false)
      else
        match d.s2Access fn va (bits e 51 12 * 4096 + va % size) needR needW false with
        | .fault f => .fault f
        | .ok loc r w gpa =>
          .ok { loc with ro := loc.ro || !bit e 3 } (r && bit e 2) (w && bit e 3) gpa

/-- A location as a request to it carries a domain. -/
def Loc.inDomain (l : Loc) (dom : Nat) : Loc :=
  if l.space == 1 then { l with key := peerKey dom 0 ((l.key - 2 ^ 65) % 2 ^ 66) } else l

/-- The page of the translation of a virtual address: the smaller of the leaves of its two stages (log 82). -/
def Dev.leafBytes (d : Dev) (fn ctx va : Nat) : Nat :=
  match s1Levels d fn va [0, 1, 2, 3] (bits (getK 0 (d.func fn).s1root ctx) 51 12 * 4096) with
  | .error _ => 4096
  | .ok (e, level) =>
    let size := leafSize level (bit e 5)
    match d.s2Walk fn (bits e 51 12 * 4096 + va % size) with
    | .leaf e' level' => min size (leafSize level' (bit e' 5))
    | _ => 4096

/-- A translation: a cached one that serves may be used (R265; log 9), else a walk whose result is cached (R261). -/
def Dev.translate (d : Dev) (fn ctx va : Nat) (needR needW : Bool) : Dev × WalkEnd :=
  let page := va / 4096
  let hit := d.tlb.find? fun t =>
    t.fn == fn && t.ctx == ctx && t.page == page && (!needR || t.canRead) && (!needW || t.canWrite)
  let use := fun (t : TlbEntry) =>
    let l := t.loc.inDomain (d.func fn).fdom
    WalkEnd.ok { l with key := l.key + va % 4096 } t.canRead t.canWrite (t.gpa + va % 4096)
  match hit, Config.tlbHit d.tick page with
  | some t, true => (d, use t)
  | _, _ =>
    match d.walk fn ctx va needR needW with
    | .fault f => (d, .fault f)
    | .ok loc r w gpa =>
      let t : TlbEntry :=
        { fn := fn, ctx := ctx, page := page, loc := { loc with key := loc.key - va % 4096 }, canRead := r,
          canWrite := w, gpa := gpa - va % 4096, size := d.leafBytes fn ctx va }
      ({ d with tlb := t :: d.tlb.filter fun x => !(x.fn == fn && x.ctx == ctx && x.page == page) }, .ok loc r w gpa)

end Sys2Proof.Machine
end

