-- ==== Sys2Proof/Machine/Access.lean ====
section
/-!
DEFINITION. Accesses of the two streams: what a generic address reaches (spec/01 R32; spec/12 R245, R455), the order in
which accesses are performed (spec/01 R33, R34; spec/13 R268 to R272; spec/14 R287), what holds an access at its home
(spec/12 R253; spec/13 R282; spec/14 R305), and performing one (spec/13 R267, R275, R277).
-/
namespace Sys2Proof.Machine

/-! ## Generic addresses (R31, R32) -/

/-- What an address of a given size reaches. -/
inductive Reach where
  | virt (va : Nat)
  | window (loc : Loc)
  | fifo (entry : Nat)
  | bad
  deriving DecidableEq, Repr

def spaceDevice : Nat := 0
def spacePeer : Nat := 1
def spaceHost : Nat := 2
def spaceScratch : Nat := 3
def spaceTeam : Nat := 4

def Team.bank (t : Team) (entry : Nat) : Option BankEntry := t.banks.find? fun b => b.entry == entry

def Team.setBank (t : Team) (b : BankEntry) : Team :=
  { t with banks := t.banks.map fun x => if x.entry == b.entry then b else x }

/-- Where an offset of a bank-table entry lies. -/
def scratchLoc (team entry off : Nat) : Loc :=
  { key := scratchKey team entry off, keyid := 0, hctx := 0, space := spaceScratch, ro := false }

/-- Where an offset of the team-state window lies (R455). -/
def teamLoc (fn : Nat) (t : Team) (off : Nat) : Loc :=
  { key := reservedKey fn (t.stateBase + off), keyid := 0, hctx := 0, space := spaceTeam, ro := false }

/-- Whether n bytes from an offset of the team-state window lie in a copy that the team holds there. -/
def Team.inCopies (t : Team) (off n : Nat) : Bool :=
  t.copies.any fun c => c.entry.isNone && decide (c.offset ≤ off) && decide (off + n ≤ c.offset + c.size)

/-- What an access of n bytes at a generic address reaches. -/
def reach (fn : Nat) (t : Team) (a n : Nat) : Reach :=
  let top := a / 2 ^ 56
  let rest := a % 2 ^ 56
  if a % n != 0 then .bad
  else if top == 0 then .virt rest
  else if top == 0xFE then
    if rest ≥ 2 ^ 23 then .bad
    else
      match t.bank (rest / 2 ^ 19) with
      | some ⟨_, _, none, _, _⟩ => .window (scratchLoc t.id (rest / 2 ^ 19) (rest % 2 ^ 19))
      | _ => .bad
  else if top == 0xFD then
    if decide (rest ≥ 2 ^ 23) || rest % 2 ^ 19 != 0 then .bad
    else
      match t.bank (rest / 2 ^ 19) with
      | some ⟨_, _, some (b, _), _, _⟩ => if b == n then .fifo (rest / 2 ^ 19) else .bad
      | _ => .bad
  else if top == 0xFC then (if t.inCopies rest n then .window (teamLoc fn t rest) else .bad)
  else .bad

/-! ## Translating an access (R259, R262, R294, R415, R436) -/

def AccKind.reads : AccKind → Bool
  | .store => false
  | _ => true
def AccKind.writes : AccKind → Bool
  | .load => false
  | _ => true

/-- The ACCESS code of a fault-queue entry. -/
def AccKind.code : AccKind → Nat
  | .load => 0
  | .store => 1
  | _ => 2

/-- Whether an operation is carried to host memory (R294) and to peer memory (R437). -/
def carried (space : Nat) (k : AccKind) : Bool :=
  let op := fun aop t =>
    if space == spaceHost then aop == 0 || aop == 6 || aop == 7
    else if space == spacePeer then !((aop == 1 || aop == 2) && (t == 8 || t == 12))
    else true
  match k with
  | .atom aop t _ => op aop t
  | .red aop t => op aop t
  | _ => true

/-- The device that a peer location lies on. -/
def Loc.device (l : Loc) : Nat := (l.key - 2 ^ 65) / 2 ^ 56 % 1024

/-- Whether the function's fabric window lets it reach a device (R436). -/
def Func.reaches (f : Func) (dev : Nat) : Bool := f.fdom != 0 && bit f.fwmask dev

/-- Whether an access of a function to a location is not turned away by the host link (R443). -/
def Dev.linked (d : Dev) (fn : Nat) (l : Loc) : Bool := l.space != spaceHost || d.streamSecure fn

/-- What a translated access meets: its location, a replayable fault, or a non-replayable one. -/
inductive Meets where
  | loc (l : Loc)
  | replay (f : WalkFault)
  | fatal
  deriving DecidableEq, Repr

/-- The translation of an access. While the fault queue is disabled every fault is non-replayable (R415), and so is the
unsupported-request completion of an access to host memory on an insecure stream (R443; log 91). -/
def Dev.meet (d : Dev) (fn ctx va : Nat) (k : AccKind) : Dev × Meets :=
  match d.translate fn ctx va k.reads k.writes with
  | (d, .ok l _ _ _) =>
    if !carried l.space k || (l.space == spacePeer && !(d.func fn).reaches l.device) || !d.linked fn l then (d, .fatal)
    else (d, .loc l)
  | (d, .fault f) => if f.format || !ringOk (d.func fn).fqs then (d, .fatal) else (d, .replay { f with va := va })

/-- The fault-queue entry of a replayable fault of an access (R263, R415). -/
def faultOf (env : Env) (f : WalkFault) (access : Nat) (owner : FaultOwner) : FaultEntry :=
  { id := 0, kind := f.kind, stage := f.stage, access := if f.tableWalk then 5 else access, ctx := env.launch.ctx,
    unitLo := f.unitLo, unitSize := f.unitSize, addr := f.addr, team := env.team.num, joined := 0, posted := false,
    resolved := false, owner := owner, va := f.va }

/-! ## Order (R33, R34, R268 to R272) -/

/-- The threads that an access stands for (R287). -/
def Access.threads (a : Access) : List Nat := if a.beat.isSome then a.covers else []

def Access.loc? (a : Access) : Option Loc :=
  match a.status with
  | .home l => some l
  | _ => none

def Access.fifo? (a : Access) : Option Nat :=
  match a.status with
  | .fifo e => some e
  | _ => none

/-- Whether two accesses touch a common byte. -/
def Access.overlaps (a b : Access) : Bool :=
  match a.loc?, b.loc? with
  | some l, some m => decide (l.key < m.key + b.size) && decide (m.key < l.key + a.size)
  | _, _ => false

def Access.sameBank (a b : Access) : Bool := a.fifo?.isSome && a.fifo? == b.fifo?

/-- Whether a lane access must wait for an earlier unperformed access of its shuttle; a pop of a FIFO slot is an acquire
(R273). -/
def Access.after (a e : Access) : Bool :=
  match e.beat with
  | none => decide (e.id < a.block)
  | some _ =>
    if e.block != a.block then true
    else if a.threads.any e.threads.contains then
      a.ord == 2 || e.ord == 1 || a.overlaps e || a.sameBank e ||
        (e.kind.reads && (e.fifo?.isSome || a.kind.writes))
    else a.word == e.word && (a.sameBank e || (a.overlaps e && (a.kind.writes || e.kind.writes)))

/-- Whether an access stands before another in its shuttle's order as far as it must wait for it. -/
def Shuttle.mustWait (s : Shuttle) (a e : Access) : Bool :=
  decide (e.id < a.id) && !e.performed &&
    (if a.beat.isSome then a.after e else e.beat.isNone || decide (e.id < s.laneFence))

/-- Whether every access that an access must follow has been performed. -/
def Shuttle.inOrder (s : Shuttle) (a : Access) : Bool := s.accs.all fun e => !s.mustWait a e

/-- Whether every access before this point in the order of some threads of a block has been performed (R271). -/
def Shuttle.releaseReady (s : Shuttle) (b : Block) (beats : List Nat) : Bool :=
  s.accs.all fun e =>
    e.performed ||
      (match e.beat with
        | none => decide (b.id < e.id)
        | some _ => e.block == b.id && !(e.threads.any beats.contains))

/-! ## What holds an access at its home -/

/-- The bytes of its page that a granule holds against the agents of a launch. -/
def Granule.span (g : Granule) (launch : Option Nat) : Nat × Nat :=
  match g.hold with
  | .page => (0, 4096)
  | .bytes => (g.lo, g.size)
  | .near l => if launch == some l then (g.lo, g.size) else (0, 4096)

/-- The page of keys of a granule; one registered by its virtual page has one once that translates. -/
def Dev.granulePage (d : Dev) (g : Granule) : Option Nat :=
  match g.virt with
  | none => some g.page
  | some (fn, ctx) =>
    match (d.meet fn ctx (g.page * 4096) (if g.dst then .store else .load)).2 with
    | .loc l => some (l.key / 4096)
    | _ => none

/-- Whether a granule has a byte of a range that an agent of a launch accesses. -/
def Dev.granuleMeets (d : Dev) (launch : Option Nat) (g : Granule) (key n : Nat) : Bool :=
  match d.granulePage g with
  | none => false
  | some p =>
    decide (p * 4096 + (g.span launch).1 < key + n) && decide (key < p * 4096 + (g.span launch).1 + (g.span launch).2)

/-- Whether a registered granule holds an access of an agent of a launch (R282). -/
def Dev.granuleHolds (d : Dev) (launch : Option Nat) (key n : Nat) (writes : Bool) : Bool :=
  d.granules.any fun g => g.left != 0 && (g.dst || writes) && d.granuleMeets launch g key n

/-- The launch of a shuttle. -/
def Dev.shuttleLaunch (d : Dev) (sh : Nat) : Option Nat := (d.shuttle sh).bind fun s => (d.team s.team).map (·.launch)

/-- Whether a serial attempt of the function other than (sh, beat) holds a write of a range (R305). -/
def Dev.serialHolds (d : Dev) (sh : Nat) (beat : Option Nat) (key n : Nat) : Bool :=
  d.serialRegs.any fun r =>
    !(r.sh == sh && some r.beat == beat) && decide (r.key * 4 < key + n) && decide (key < r.key * 4 + 4)

/-- Whether a change of L2BM, HSEED or a key holds the accesses of a function to device memory (R253, R446). -/
def Func.remapHolds (f : Func) (l : Loc) : Bool :=
  (l.space == spaceDevice || l.space == spaceTeam) && (!f.remap.isEmpty || !f.keyChange.isEmpty)

/-- Whether an access of an agent of a launch may be performed at its home now. -/
def Dev.openFor (d : Dev) (launch : Option Nat) (fn sh : Nat) (beat : Option Nat) (l : Loc) (n : Nat) (writes : Bool) : Bool :=
  !d.granuleHolds launch l.key n writes && !(writes && d.serialHolds sh beat l.key n) && !(d.func fn).remapHolds l

/-- Whether an access at a location may be performed at its home now; shuttle 0 stands for an agent of no launch. -/
def Dev.homeOpen (d : Dev) (fn sh : Nat) (beat : Option Nat) (l : Loc) (n : Nat) (writes : Bool) : Bool :=
  d.openFor (d.shuttleLaunch sh) fn sh beat l n writes

/-! ## Values -/

/-- Signed and unsigned minimum and maximum, and the float ones of R48, on w-bit patterns. -/
def minMaxOf (isMax : Bool) (t old c : Nat) : Nat × Nat :=
  if t == 8 then floatMinMax .f32 isMax old c
  else if t == 12 then floatMinMax .f64 isMax old c
  else
    let w := if t == 6 || t == 7 then 64 else 32
    let v := fun x : Nat => if t == 0 || t == 6 then sext w x else (x : Int)
    (if (v old ≤ v c) == isMax then c else old, 0)

/-- New(aop, old, C, e) of R293: the value written, none when a cas fails, and the FLAGS of a float operation. -/
def atomNew (aop t old c e : Nat) : Option Nat × Nat :=
  let w := if t == 6 || t == 7 || t == 12 then 64 else 32
  match aop with
  | 0 => (some ((old + c) % 2 ^ w), 0)
  | 1 => let r := minMaxOf false t old c; (some r.1, r.2)
  | 2 => let r := minMaxOf true t old c; (some r.1, r.2)
  | 3 => (some (old &&& c), 0)
  | 4 => (some (old ||| c), 0)
  | 5 => (some (old ^^^ c), 0)
  | 6 => (some c, 0)
  | _ => (if old == e then some c else none, 0)

/-- The bytes of a location as the home holds them. -/
def Dev.homeRead (d : Dev) (fn : Nat) (l : Loc) (n : Nat) : List Byte :=
  d.readUnder (d.keyFor fn l.keyid l.key) l.key n

/-- A cluster's copy of the 16-byte block of a location. -/
def Dev.copyOf (d : Dev) (cluster : Nat) (l : Loc) : Option L1Copy :=
  d.l1.find? fun c => c.cluster == cluster && c.block == l.key / 16 && c.keyid == l.keyid

/-- Whether the cluster L1 holds copies of a space (R236). -/
def cachedSpace (space : Nat) : Bool := space != spaceScratch

/-- A plain load of up to 16 aligned bytes by a cluster: from a copy that it holds (R268; log 8), or at the home, which
leaves a copy. -/
def Dev.loadValue (d : Dev) (fn cluster : Nat) (l : Loc) (n : Nat) (atHome : Bool) : Dev × Nat :=
  if !cachedSpace l.space then (d, leNat (d.homeRead fn l n))
  else
    match d.copyOf cluster l, atHome || !Config.l1Hit d.tick l.key with
    | some c, false => (d, c.val / 2 ^ (8 * (l.key % 16)) % 2 ^ (8 * n))
    | _, _ =>
      let base := l.key - l.key % 16
      let v := leNat (d.homeRead fn { l with key := base } 16)
      let c : L1Copy := { cluster := cluster, block := l.key / 16, keyid := l.keyid, val := v, ro := l.ro }
      ({ d with l1 := c :: d.l1.filter fun x => !(x.cluster == cluster && x.block == c.block) },
        v / 2 ^ (8 * (l.key % 16)) % 2 ^ (8 * n))

/-- A write by a cluster: at the home, and its own copies of the bytes go with it. -/
def Dev.clusterWrite (d : Dev) (fn cluster : Nat) (l : Loc) (bs : List Byte) : Dev :=
  let d' := d.homeWrite (d.keyFor fn l.keyid l.key) l.key bs
  { d' with l1 := dropOwn d'.l1 cluster l.key bs.length }

/-- Whether a range holds poison (R430). -/
def Dev.poisoned (d : Dev) (key n : Nat) : Bool := d.poison.any fun p => decide (key ≤ p) && decide (p < key + n)

/-! ## Performing an access -/

/-- An access replaced by its number, or removed. -/
def Shuttle.putAcc (s : Shuttle) (a : Access) : Shuttle :=
  { s with accs := s.accs.map fun x => if x.id == a.id then a else x }
def Shuttle.dropAcc (s : Shuttle) (id : Nat) : Shuttle := { s with accs := s.accs.filter fun x => x.id != id }

/-- The value of an access is on its way, or discarded when nothing takes it. -/
def Shuttle.valueArrives (s : Shuttle) (a : Access) (v : Nat) : Shuttle :=
  if a.dst == .none then s.dropAcc a.id else s.putAcc { a with status := .arrived v }

/-- A trap of an access that ends the team (R411): of the scalar stream, or of the thread of a lane access. -/
def accessTrap (s : Shuttle) (a : Access) (cause : Nat) : TrapInfo :=
  let lane := a.beat.isSome
  { cause := cause, sub := 0, lane := lane, threads := a.threads.foldl (fun m b => m + 2 ^ b) 0,
    resume := if lane then s.pc else a.origin.off, laneOff := if lane then a.origin.off else 0xFFFFFFFF, addr := a.va,
    words := a.origin.words, operand := 0, code := 0, fmt := if lane then a.origin.fmt else s.fmt,
    blocks := s.blocks.length, detail0 := 0, detail1 := 0 }

/-- The record of an engine command, operation, tile or signal that ends its team (R39): the instruction that issued it and
the address that faulted. -/
def engineTrapInfo (s : Shuttle) (o : Origin) (cause addr : Nat) : TrapInfo :=
  { cause := cause, sub := 0, lane := false, threads := 0, resume := o.off, laneOff := 0xFFFFFFFF, addr := addr,
    words := o.words, operand := 0, code := 0, fmt := s.fmt, blocks := s.blocks.length, detail0 := 0, detail1 := 0 }

/-- The instruction at issue, as what comes from it keeps it. -/
def Issue.origin (is : Issue) (fmt : Nat) : Origin := { off := is.first, words := is.words, fmt := fmt }

/-- The instruction of an engine command at issue, with the place and the launch that an entry of the error ring names. -/
def Issue.command (is : Issue) (s : Shuttle) (env : Env) : Origin :=
  { is.origin s.fmt with
    place := whereWord (some s) env.launch.rootQueue, desc := env.launch.desc, block := env.launch.blockAddr,
    team := env.team.num, depth := env.launch.depth }

/-- The entry of a command whose team has retired (R191): no trap record applies to it (log 89). -/
def Dev.orphanError (d : Dev) (fn kind cause detail : Nat) (o : Origin) (copy : List Nat) (moved : Nat) : Dev :=
  d.postError fn
    { kind := kind, cause := cause, detail := detail, place := o.place, addr := o.desc, block := o.block, team := o.team,
      depth := o.depth, copy := copy, moved := moved }

/-- A team ends through one of its engine commands, operations, tiles or signals. -/
def Dev.engineTrap (d : Dev) (s : Shuttle) (o : Origin) (cause addr : Nat) (copy : List Nat) (moved : Nat) : Dev :=
  d.terminate s 1 cause 0 0 (trapWords (engineTrapInfo s o cause addr) (s.traps + 1)) copy moved

/-- Performing an access at its location. -/
def Dev.performAt (d : Dev) (s : Shuttle) (env : Env) (a : Access) (l : Loc) : Dev :=
  let fn := env.launch.fn
  let cl := env.team.cluster
  if !d.linked fn l then d.terminate s 1 0x15 0 0 (trapWords (accessTrap s a 0x15) (s.traps + 1)) [] 0
  else if a.kind.reads && d.poisoned l.key a.size then
    d.terminate s 1 0x13 0 0 (trapWords (accessTrap s a 0x13) (s.traps + 1)) [] 0
  else
    match a.kind with
    | .load =>
      let (d, v) := d.loadValue fn cl l a.size (a.ord == 1)
      let d := if a.ord == 1 then d.acquire cl else d
      d.setShuttle (s.valueArrives a v)
    | .store => (d.clusterWrite fn cl l (leBytes a.size a.data)).setShuttle (s.dropAcc a.id)
    | .atom aop t e =>
      let old := leNat (d.homeRead fn l a.size)
      let r := atomNew aop t old a.data e
      let d := match r.1 with
        | none => { d with l1 := dropOwn d.l1 cl l.key a.size }
        | some v => d.clusterWrite fn cl l (leBytes a.size v)
      let d := if a.ord == 1 then d.acquire cl else d
      let s := if r.2 == 0 then s else a.threads.foldl (fun s b => s.raiseFlags b r.2) s
      d.setShuttle (s.valueArrives a old)
    | .red aop t =>
      let old := leNat (d.homeRead fn l a.size)
      let d := match (atomNew aop t old a.data 0).1 with
        | none => d
        | some v => d.clusterWrite fn cl l (leBytes a.size v)
      d.setShuttle (s.dropAcc a.id)

/-- A walk of a scalar access ends, and the access is performed; or its fault is posted, or ends the team (R262, R263).
A lane access was translated when its word issued. A window access that finds its entry changed is an address fault
(R243). -/
def Dev.walkAccess (d : Dev) (s : Shuttle) (env : Env) (a : Access) : Dev :=
  let fn := env.launch.fn
  match a.status with
  | .walk =>
    match d.meet fn env.launch.ctx (a.va % 2 ^ 56) a.kind with
    | (d, .loc l) =>
      if d.homeOpen fn s.id a.beat l a.size a.kind.writes then d.performAt s env a l else d
    | (d, .replay f) =>
      let (d, id) := d.postFault fn (faultOf env f a.kind.code (.shuttle s.id))
      d.setShuttle (s.putAcc { a with status := .faulted id })
    | (d, .fatal) => d.terminate s 1 0x15 0 0 (trapWords (accessTrap s a 0x15) (s.traps + 1)) [] 0
  | .home l =>
    if l.space == spaceScratch && reach fn env.team a.va a.size != .window l then
      d.terminate s 1 0x14 0 0 (trapWords (accessTrap s a 0x14) (s.traps + 1)) [] 0
    else if d.homeOpen fn s.id a.beat l a.size a.kind.writes then d.performAt s env a l
    else d
  | _ => d

/-- Whether an access can be performed or its walk can end. -/
def Shuttle.canPerform (s : Shuttle) (a : Access) : Bool :=
  (match a.status with
    | .walk => true
    | .home _ => true
    | _ => false) && s.inOrder a

/-- A shuttle that an event names, with what it runs in. -/
def Dev.withShuttle (d : Dev) (sh : Nat) (f : Shuttle → Env → Dev) : Dev :=
  match d.shuttle sh with
  | none => d
  | some s =>
    match d.env s with
    | none => d
    | some env => if env.team.resident && !env.team.dying then f s env else d

/-- An access that an event names. -/
def Dev.withAccess (d : Dev) (sh id : Nat) (f : Shuttle → Env → Access → Dev) : Dev :=
  d.withShuttle sh fun s env =>
    match s.accs.find? fun a => a.id == id with
    | none => d
    | some a => f s env a

/-! ## FIFO banks (R244 to R246) -/

/-- A waiting pop takes the oldest filled slot; it acquires from the push (R273). An entry that `sbank` has changed
meanwhile makes the access an address fault (R243). -/
def Dev.popSlot (d : Dev) (s : Shuttle) (env : Env) (a : Access) (entry : Nat) : Dev :=
  match env.team.bank entry with
  | some ⟨n, bk, some (size, m), sh, slots⟩ =>
    if size != a.size then d.terminate s 1 0x14 0 0 (trapWords (accessTrap s a 0x14) (s.traps + 1)) [] 0
    else
      match slots with
      | [] => d
      | v :: vs =>
        ((d.setTeam (env.team.setBank ⟨n, bk, some (size, m), sh, vs⟩)).acquire env.team.cluster).setShuttle
          (s.valueArrives a (leNat v))
  | _ => d.terminate s 1 0x14 0 0 (trapWords (accessTrap s a 0x14) (s.traps + 1)) [] 0

/-- A waiting push writes a slot while one is free. -/
def Dev.pushSlot (d : Dev) (s : Shuttle) (env : Env) (a : Access) (entry : Nat) : Dev :=
  match env.team.bank entry with
  | some ⟨n, bk, some (size, m), sh, slots⟩ =>
    if size != a.size then d.terminate s 1 0x14 0 0 (trapWords (accessTrap s a 0x14) (s.traps + 1)) [] 0
    else if slots.length ≥ m then d
    else
      (d.setTeam (env.team.setBank ⟨n, bk, some (size, m), sh, slots ++ [leBytes size a.data]⟩)).setShuttle
        (s.dropAcc a.id)
  | _ => d.terminate s 1 0x14 0 0 (trapWords (accessTrap s a 0x14) (s.traps + 1)) [] 0

/-- Whether a FIFO access may reach its bank: its place in the shuttle's order, and for a push, which is a release
toward the pop of its slot (R246, R273), every earlier access of its threads. -/
def Shuttle.fifoReady (s : Shuttle) (a : Access) : Bool :=
  s.inOrder a &&
    (a.kind.reads || s.accs.all fun e =>
      decide (e.id ≥ a.id) || e.performed || !(a.threads.any e.threads.contains))

/-! ## Events of accesses -/

/-- The value of a producer fills its destination (R29, R112, R153). A value on its way to an output register waits for
the accesses that its block made before it (R34). -/
def Shuttle.fillFrom (s : Shuttle) (a : Access) (v : Nat) : Shuttle :=
  let k := (a.size + 3) / 4
  match a.dst with
  | .none => s.dropAcc a.id
  | .sregs x => (s.fillKept a.lost x v k).dropAcc a.id
  | .vregs beats r => (beats.foldl (fun s b => s.fillV b r v k) s).dropAcc a.id
  | .stream => s

/-- Whether an arrived value can fill its destination now. -/
def Shuttle.canFill (s : Shuttle) (a : Access) : Bool :=
  match a.status, a.dst with
  | .arrived _, .stream => false
  | .arrived _, .sregs _ =>
    a.beat.isNone || s.accs.all fun e => decide (e.id ≥ a.id) || e.beat.isNone || e.block != a.block || e.performed
  | .arrived _, _ => true
  | _, _ => false

/-- PRODUCER_FILL. -/
def execProducerFill (sh id : Nat) (s : State) : Outcome :=
  .next { s with dev := s.dev.withAccess sh id fun t _ a =>
    match a.status with
    | .arrived v => if t.canFill a then s.dev.setShuttle (t.fillFrom a v) else s.dev
    | _ => s.dev }

/-- FIFO_POP. -/
def execFifoPop (sh id : Nat) (s : State) : Outcome :=
  .next { s with dev := s.dev.withAccess sh id fun t env a =>
    match a.status with
    | .fifo e => if a.kind.reads && t.fifoReady a then s.dev.popSlot t env a e else s.dev
    | _ => s.dev }

/-- FIFO_PUSH. -/
def execFifoPush (sh id : Nat) (s : State) : Outcome :=
  .next { s with dev := s.dev.withAccess sh id fun t env a =>
    match a.status with
    | .fifo e => if !a.kind.reads && t.fifoReady a then s.dev.pushSlot t env a e else s.dev
    | _ => s.dev }

/-- A parked thread or access goes on after its page is resolved (R263). -/
def Shuttle.replay (s : Shuttle) (lcode : List Nat) (id : Nat) : Shuttle :=
  ({ s with
    frontier := s.frontier.map fun e => if e.status == .parked id then { e with status := .ready } else e
    accs := s.accs.map fun a => if a.status == .faulted id then { a with status := .walk } else a } : Shuttle).remerge
    lcode

end Sys2Proof.Machine
end

