-- ==== Sys2Proof/Machine/Presence.lean ====
section
/-!
DEFINITION. Which functions are present (spec/20 R417, R457), and what reaches the device from outside while it runs (spec/22
R449, R453).
-/
namespace Sys2Proof.Machine

/-- Fields of PDESC (R417). -/
def pdValid (v : Nat) : Bool := bit v 63
def pdFirst (v : Nat) : Nat := bits v 59 56
def pdK (v : Nat) : Nat := bits v 55 52
def pdNvf (v : Nat) : Nat := bits v 51 50 + 1

/-- Whether a function is present (R457). -/
def Dev.present (d : Dev) (fn : Nat) : Bool :=
  decide (fn < Config.numFuncs) && pdValid (d.part (partOf fn)).pdesc && decide (fn % 4 < pdNvf (d.part (partOf fn)).pdesc)

/-- Whether the device is out of reset and powered. -/
def State.up (s : State) : Bool := s.lease.state == .run && s.board.power == .d0

/-- An input to the compute dies, which has no effect while they are in reset or without power. -/
def onUp (s : State) (f : Dev → Dev) : Outcome := .next (if s.up then { s with dev := f s.dev } else s)

/-- Whether a function's traffic on the host link is on a stream that is not insecure (R443). -/
def State.streamSecure (s : State) (fn : Nat) : Bool := s.dev.streamSecure fn

/-- An input to a function, which has no effect while it is absent (R457). -/
def onDev (s : State) (fn : Nat) (f : Dev → Dev) : Outcome := onUp s fun d => if d.present fn then f d else d

/-- An input that waits. -/
def waitFor (s : State) (i : Instr) : Outcome := .next { s with pending := s.pending ++ [i] }

/-- What an input that may have to wait comes to: `none` when it waits. -/
def onUpWait (s : State) (i : Instr) (f : Dev → Option Dev) : Outcome :=
  if !s.up then .next s
  else
    match f s.dev with
    | some d => .next { s with dev := d }
    | none => waitFor s i

end Sys2Proof.Machine
end

