-- ==== Sys2Proof/Machine/LaneFns.lean ====
section
/-!
DEFINITION. What each integer, float and conversion word computes in one thread (spec/06 R137 to R151), with the FLAGS
that it raises. Sources and results are natural numbers, a pair as its 64-bit value.
-/
namespace Sys2Proof.Machine

/-- What a word's per-thread effect depends on: its fields (X as zero where a literal takes its place, R75), the sources,
the predicates, the magnitude map in force and the SR draw. -/
structure LaneArg where
  w : LaneWord
  x : Nat
  a : Nat
  b : Nat
  c : Nat
  pv : Nat → Bool
  map : Nat
  draw : Nat

/-! ## Elements (R41, R44, R93) -/

def elemWidth (t : Nat) : Nat :=
  if t == 6 || t == 7 || t == 12 then 64
  else if t == 2 || t == 3 || t == 10 || t == 11 then 16
  else if t == 4 || t == 5 || t == 13 || t == 14 then 8
  else 32

def elemCount (t : Nat) : Nat :=
  if t == 2 || t == 3 || t == 9 || t == 10 || t == 11 then 2
  else if t == 4 || t == 5 || t == 13 || t == 14 then 4
  else 1

def typeSigned (t : Nat) : Bool := t == 0 || t == 2 || t == 4 || t == 6

/-- Element k of a value. -/
def elemOf (w v k : Nat) : Nat := v / 2 ^ (w * k) % 2 ^ w

/-- The integer that a w-bit pattern stands for. -/
def asInt (signed : Bool) (w v : Nat) : Int := if signed then sext w v else (v % 2 ^ w : Nat)

/-- n elements put together, with the OR of their flags. -/
def joinElems (w : Nat) (f : Nat → Nat × Nat) : Nat → Nat × Nat
  | 0 => (0, 0)
  | n + 1 =>
    let r := joinElems w f n
    let e := f n
    (r.1 + e.1 * 2 ^ (w * n), r.2 ||| e.2)

/-- An integer word element by element. -/
def intElems (i : LaneArg) (f : Nat → Bool → Nat → Nat → Nat → Nat × Nat) : Nat × Nat :=
  let w := elemWidth i.w.t
  let g := typeSigned i.w.t
  joinElems w (fun k => f w g (elemOf w i.a k) (elemOf w i.b k) (elemOf w i.c k)) (elemCount i.w.t)

/-- An exact integer result, clamped or wrapped (R137). -/
def clampElems (i : LaneArg) (sat : Bool) (f : Int → Int → Int → Int) : Nat × Nat :=
  intElems i fun w g a b c => clampInt sat w g (f (asInt g w a) (asInt g w b) (asInt g w c))

/-! ## Integer words (R137 to R141) -/

def opAdd (i : LaneArg) : Nat × Nat := clampElems i (xSat i.x) fun a b _ => a + b
def opSub (i : LaneArg) : Nat × Nat := clampElems i (xSat i.x) fun a b _ => a - b
def opMul (i : LaneArg) : Nat × Nat := clampElems i (xSat i.x) fun a b _ => a * b
def opMulh (i : LaneArg) : Nat × Nat := intElems i fun w g a b _ => (low w (asInt g w a * asInt g w b / 2 ^ w), 0)
def opMad (i : LaneArg) : Nat × Nat := clampElems i (xSat i.x) fun a b c => a * b + c
def opAnd (i : LaneArg) : Nat × Nat := (i.a &&& i.b, 0)
def opOr (i : LaneArg) : Nat × Nat := (i.a ||| i.b, 0)
def opXor (i : LaneArg) : Nat × Nat := (i.a ^^^ i.b, 0)

/-- A truth table applied to bit i of three values, for the low n bits (R138). -/
def lutBits (lut a b c : Nat) : Nat → Nat
  | 0 => 0
  | n + 1 =>
    lutBits lut a b c n +
      (if bit lut (4 * (a / 2 ^ n % 2) + 2 * (b / 2 ^ n % 2) + c / 2 ^ n % 2) then 2 ^ n else 0)

def opLop3 (i : LaneArg) : Nat × Nat := (lutBits (xLut i.x) i.a i.b i.c 32, 0)

/-- The shift amount of an element (R57). -/
def shiftAmount (w b : Nat) : Nat := b % w

def opShl (i : LaneArg) : Nat × Nat :=
  intElems i fun w g a b _ =>
    if xSat i.x then satInt w g (asInt g w a * 2 ^ shiftAmount w b) else (shlW w a (shiftAmount w b), 0)
def opShr (i : LaneArg) : Nat × Nat := intElems i fun w _ a b _ => (shrW a (shiftAmount w b), 0)
def opSra (i : LaneArg) : Nat × Nat := intElems i fun w _ a b _ => (sraW w a (shiftAmount w b), 0)
def opMin (i : LaneArg) : Nat × Nat := intElems i fun w g a b _ => (if asInt g w a ≤ asInt g w b then a else b, 0)
def opMax (i : LaneArg) : Nat × Nat := intElems i fun w g a b _ => (if asInt g w a ≤ asInt g w b then b else a, 0)
def opAbs (i : LaneArg) : Nat × Nat := clampElems i (xSat i.x) fun a _ _ => (a.natAbs : Int)
def opNeg (i : LaneArg) : Nat × Nat := clampElems i (xSat i.x) fun a _ _ => -a
def opClz (i : LaneArg) : Nat × Nat := (clzW (elemWidth i.w.t) i.a, 0)
def opPopc (i : LaneArg) : Nat × Nat := (popcW (elemWidth i.w.t) i.a, 0)
def opBrev (i : LaneArg) : Nat × Nat := (brevW (elemWidth i.w.t) i.a, 0)

/-- pos and len of a bit field (R139). -/
def fieldPos (v : Nat) : Nat := v % 32
def fieldLen (v : Nat) : Nat := min (v / 256 % 64) 32

def opBfe (i : LaneArg) : Nat × Nat :=
  let n := fieldLen i.b
  if n == 0 then (0, 0)
  else if typeSigned i.w.t then (low 32 (sext n (low 64 (sext 32 i.a) / 2 ^ fieldPos i.b % 2 ^ n)), 0)
  else (i.a / 2 ^ fieldPos i.b % 2 ^ n, 0)

def opBfi (i : LaneArg) : Nat × Nat :=
  let p := fieldPos i.c
  let n := fieldLen i.c
  let mask := (2 ^ n - 1) * 2 ^ p % 2 ^ 32
  ((i.b &&& (2 ^ 32 - 1 - mask)) + (i.a * 2 ^ p % 2 ^ 32 &&& mask), 0)

def opSel (i : LaneArg) : Nat × Nat := (if i.pv (i.x % 8) then i.a else i.b, 0)

/-- The conditions of R95 on integers. -/
def intCond (cond : Nat) (a b : Int) : Bool :=
  match cond with
  | 0 => a == b
  | 1 => a != b
  | 2 => decide (a < b)
  | 3 => decide (a ≤ b)
  | 4 => decide (a > b)
  | _ => decide (a ≥ b)

def opCmp (i : LaneArg) : Nat × Nat :=
  let w := elemWidth i.w.t
  let g := typeSigned i.w.t
  (boolW (intCond (i.x % 8) (asInt g w i.a) (asInt g w i.b)), 0)

def opDiv (i : LaneArg) : Nat × Nat := intElems i fun w g a b _ => (if g then divW w a b else divuW w a b, 0)
def opRem (i : LaneArg) : Nat × Nat := intElems i fun w g a b _ => (if g then remW w a b else remuW a b, 0)
def opAddsat (i : LaneArg) : Nat × Nat := clampElems i true fun a b _ => a + b
def opSubsat (i : LaneArg) : Nat × Nat := clampElems i true fun a b _ => a - b

/-- C plus the products of n elements of width w, exactly (R58). -/
def dotSum (g : Bool) (w a b c : Nat) : Nat → Int
  | 0 => asInt g 32 c
  | n + 1 => dotSum g w a b c n + asInt g w (elemOf w a n) * asInt g w (elemOf w b n)

def opDp2 (i : LaneArg) : Nat × Nat :=
  let g := typeSigned i.w.t
  clampInt (xSat i.x) 32 g (dotSum g 16 i.a i.b i.c 2)
def opDp4 (i : LaneArg) : Nat × Nat :=
  let g := typeSigned i.w.t
  clampInt (xSat i.x) 32 g (dotSum g 8 i.a i.b i.c 4)

/-- The rounding shift (R59). -/
def roundShift (g : Bool) (x s : Nat) : Int :=
  if s == 0 then asInt g 32 x else (asInt g 32 x + 2 ^ (s - 1)) / 2 ^ s

def opShrr (i : LaneArg) : Nat × Nat :=
  let g := typeSigned i.w.t
  if i.w.t < 2 then
    let v := roundShift g i.a (i.b % 32)
    if xSat i.x then
      let r := satInt 16 g v
      (low 32 (asInt g 16 r.1), r.2)
    else (low 32 v, 0)
  else
    let n := fun v => clampInt (xSat i.x) 16 g (roundShift g v (i.c % 32))
    ((n i.a).1 + (n i.b).1 * 65536, (n i.a).2 ||| (n i.b).2)

def opMov (i : LaneArg) : Nat × Nat := (i.a, 0)
def opMovi (i : LaneArg) : Nat × Nat := (if i.w.t == 6 then low 64 (sext 32 i.w.x) else i.w.x, 0)
def opPlop (i : LaneArg) : Nat × Nat :=
  (boolW (bit (xLut i.x) (4 * boolW (i.pv i.w.a) + 2 * boolW (i.pv i.w.b) + boolW (i.pv i.w.c))), 0)

/-! ## Float words (R142 to R146) -/

/-- The format of the elements of a float type. -/
def floatFmt (t : Nat) : FloatFmt :=
  match t with
  | 8 => .f32
  | 9 => .f32
  | 10 => .f16
  | 11 => .bf16
  | 12 => .f64
  | 13 => .e4m3
  | _ => .e5m2

/-- A source after its modifiers (R142): ABS clears the sign, then NEG inverts it. -/
def modified (f : FloatFmt) (x k v : Nat) : Nat :=
  let m := v % f.signBit
  let neg := (v / f.signBit % 2 == 1 && !bit x (7 + k)) != bit x (4 + k)
  withSign f neg m

/-- A float word element by element: the format, the mode, SAT, the random bits and the modified sources. -/
def floatElems (i : LaneArg) (f : FloatFmt → Nat → Nat → Nat → Nat → Nat × Nat) : Nat × Nat :=
  let fm := floatFmt i.w.t
  let w := fm.width
  joinElems w
    (fun k => f fm (srElem i.draw k) (modified fm i.x 0 (elemOf w i.a k)) (modified fm i.x 1 (elemOf w i.b k))
      (modified fm i.x 2 (elemOf w i.c k)))
    (elemCount i.w.t)

/-- A rounded float word of one, two or three sources. -/
def float1 (i : LaneArg) (f : FloatVal → RawResult) : Nat × Nat :=
  floatElems i fun fm g a _ _ => roundRaw fm (xRnd i.x) (xSat i.x) g (f (floatVal fm a))
def float2 (i : LaneArg) (f : FloatVal → FloatVal → RawResult) : Nat × Nat :=
  floatElems i fun fm g a b _ => roundRaw fm (xRnd i.x) (xSat i.x) g (f (floatVal fm a) (floatVal fm b))

def opFadd (i : LaneArg) : Nat × Nat := float2 i (rawAdd (xRnd i.x))
def opFsub (i : LaneArg) : Nat × Nat := float2 i fun a b => rawAdd (xRnd i.x) a b.negate
def opFmul (i : LaneArg) : Nat × Nat := float2 i rawMul
def opFma (i : LaneArg) : Nat × Nat :=
  floatElems i fun fm g a b c =>
    roundRaw fm (xRnd i.x) (xSat i.x) g (rawFma (xRnd i.x) (floatVal fm a) (floatVal fm b) (floatVal fm c))
def opFmin (i : LaneArg) : Nat × Nat := floatElems i fun fm _ a b _ => floatMinMax fm false a b
def opFmax (i : LaneArg) : Nat × Nat := floatElems i fun fm _ a b _ => floatMinMax fm true a b

/-- A word that changes only the sign of a number (R143). -/
def signWord (fm : FloatFmt) (a : Nat) (neg : Bool) : Nat × Nat :=
  match floatVal fm a with
  | .nan s => (canonNaN fm, if s then flagNV else 0)
  | _ => (withSign fm neg (a % fm.signBit), 0)

def signOf (fm : FloatFmt) (a : Nat) : Bool := a / fm.signBit % 2 == 1

def opFneg (i : LaneArg) : Nat × Nat := floatElems i fun fm _ a _ _ => signWord fm a (!signOf fm a)
def opFabs (i : LaneArg) : Nat × Nat := floatElems i fun fm _ a _ _ => signWord fm a false
def opFcsgn (i : LaneArg) : Nat × Nat := floatElems i fun fm _ a b _ => signWord fm a (signOf fm b)

def opFcmp (i : LaneArg) : Nat × Nat :=
  let fm := floatFmt i.w.t
  let r := floatCompare (i.x % 8) (floatVal fm (modified fm i.x 0 i.a)) (floatVal fm (modified fm i.x 1 i.b))
  (boolW r.1, r.2)

def opFclass (i : LaneArg) : Nat × Nat :=
  let fm := floatFmt i.w.t
  (floatClass fm (modified fm i.x 0 i.a), 0)

def opFrnd (i : LaneArg) : Nat × Nat := floatElems i fun fm g a _ _ => floatRoundIntegral fm (xRnd i.x) g a
def opFrcp (i : LaneArg) : Nat × Nat := float1 i rawRcp
def opFrsq (i : LaneArg) : Nat × Nat := float1 i rawRsqrt
def opFsqrt (i : LaneArg) : Nat × Nat := float1 i rawSqrt
def opFdiv (i : LaneArg) : Nat × Nat := float2 i rawDiv
def opFexp2 (i : LaneArg) : Nat × Nat := float1 i rawExp2
def opFlog2 (i : LaneArg) : Nat × Nat := float1 i rawLog2
def opFsinpi (i : LaneArg) : Nat × Nat := float1 i rawSinpi
def opFcospi (i : LaneArg) : Nat × Nat := float1 i rawCospi
def opFtanh (i : LaneArg) : Nat × Nat := float1 i rawTanh
def opFsigm (i : LaneArg) : Nat × Nat := float1 i rawSigm

/-! ## Conversions (R147 to R151) -/

def isIntType (t : Nat) : Bool := t == 0 || t == 1 || t == 6 || t == 7

/-- Element k of a float source type. -/
def floatElem (t v k : Nat) : FloatVal :=
  let fm := floatFmt t
  floatVal fm (elemOf fm.width v k)

/-- A conversion to a float type whose elements come from `src`; exact or rounded (R147). -/
def toFloat (i : LaneArg) (exact : Bool) (src : Nat → FloatVal) : Nat × Nat :=
  let fm := floatFmt i.w.t
  joinElems fm.width
    (fun k => if exact then exactConv fm (src k) else roundConv fm (xRnd i.x) (xSat i.x) (srElem i.draw k) (src k))
    (elemCount i.w.t)

def opCvt (i : LaneArg) : Nat × Nat :=
  let t := i.w.t
  let st := xSt i.x
  let exact := (convPair 0x080 t st).getD false
  if isIntType t then
    if isIntType st then
      clampInt (xSat i.x) (elemWidth t) (typeSigned t) (asInt (typeSigned st) (elemWidth st) i.a)
    else floatToInt (elemWidth t) (typeSigned t) (xRnd i.x) (srElem i.draw 0) (floatElem st i.a 0)
  else if isIntType st then toFloat i exact fun _ => intVal (asInt (typeSigned st) (elemWidth st) i.a)
  else if (st == 13 || st == 14) && t != 13 && t != 14 then toFloat i exact fun k => floatElem st i.a (2 * xElem i.x + k)
  else toFloat i exact fun k => floatElem st i.a k

def opUnpk (i : LaneArg) : Nat × Nat :=
  let st := xSt i.x
  if i.w.t == 8 then exactConv .f32 (floatElem st i.a (xElem i.x))
  else (low 32 (asInt (typeSigned st) (elemWidth st) (elemOf (elemWidth st) i.a (xElem i.x))), 0)

/-- Element k of the two sources of a pack: the first half from A, the second from B (R150). -/
def packSource (i : LaneArg) (k : Nat) : Nat × Nat :=
  let half := elemCount i.w.t / 2
  if k < half then (i.a, k) else (i.b, k - half)

def opPack (i : LaneArg) : Nat × Nat :=
  let t := i.w.t
  let st := xSt i.x
  if t ≤ 5 then
    joinElems (elemWidth t)
      (fun k =>
        let s := packSource i k
        clampInt (xSat i.x) (elemWidth t) (typeSigned t) (asInt (typeSigned st) (elemWidth st) (elemOf (elemWidth st) s.1 s.2)))
      (elemCount t)
  else toFloat i false fun k => let s := packSource i k; floatElem st s.1 s.2

/-- Two TW2 weights of an index under the current map and a scale (R151). -/
def opTw2d (i : LaneArg) : Nat × Nat :=
  let fm := floatFmt i.w.t
  let sc := if bit i.b 8 then floatVal .e4m3 (i.b % 256) else .fin false 1 0
  joinElems fm.width
    (fun k =>
      let n := 2 * xElem i.x + k
      let code := i.a / 2 ^ (8 * (n / 4)) % 256
      roundRaw fm (xRnd i.x) false (srElem i.draw k) (rawMul (tw2Weight i.map code (n % 4)) sc)) 2

/-- The effect of an integer, float or conversion word by its OPC. -/
def laneFn : Nat → Option (LaneArg → Nat × Nat)
  | 0x001 => some opAdd | 0x002 => some opSub | 0x003 => some opMul | 0x004 => some opMulh | 0x005 => some opMad
  | 0x006 => some opAnd | 0x007 => some opOr | 0x008 => some opXor | 0x009 => some opLop3 | 0x00A => some opShl
  | 0x00B => some opShr | 0x00C => some opSra | 0x00D => some opMin | 0x00E => some opMax | 0x00F => some opAbs
  | 0x010 => some opNeg | 0x011 => some opClz | 0x012 => some opPopc | 0x013 => some opBrev | 0x014 => some opBfe
  | 0x015 => some opBfi | 0x016 => some opSel | 0x017 => some opCmp | 0x018 => some opDiv | 0x019 => some opRem
  | 0x01A => some opAddsat | 0x01B => some opSubsat | 0x01C => some opDp2 | 0x01D => some opDp4
  | 0x01E => some opShrr | 0x01F => some opMov | 0x020 => some opMovi | 0x021 => some opPlop
  | 0x040 => some opFadd | 0x041 => some opFsub | 0x042 => some opFmul | 0x043 => some opFma | 0x044 => some opFmin
  | 0x045 => some opFmax | 0x046 => some opFneg | 0x047 => some opFabs | 0x048 => some opFcmp | 0x049 => some opFclass
  | 0x04A => some opFrnd | 0x04B => some opFrcp | 0x04C => some opFrsq | 0x04D => some opFsqrt | 0x04E => some opFdiv
  | 0x04F => some opFexp2 | 0x050 => some opFlog2 | 0x051 => some opFsinpi | 0x052 => some opFcospi
  | 0x053 => some opFtanh | 0x054 => some opFsigm | 0x055 => some opFcsgn
  | 0x080 => some opCvt | 0x081 => some opPack | 0x082 => some opUnpk | 0x083 => some opTw2d
  | _ => none

end Sys2Proof.Machine
end

