-- ==== Sys2Proof/Machine/Txn.lean ====
section
/-!
DEFINITION. Transactions (spec/13 R278 to R280; spec/14 R298 to R307): an attempt's log, reads and writes through it,
validation, aborts, the serial token and the room for logs, and the commit.
-/
namespace Sys2Proof.Machine

/-! ## Codes of the status word (R299) -/

def txnLost : Nat := 1
def txnValidate : Nat := 2
def txnCapacity : Nat := 3
def txnExplicit : Nat := 4
def txnNest : Nat := 5
def txnDisallowed : Nat := 6
def txnInterrupt : Nat := 7

/-- The transaction of a thread, active or waiting to restart. -/
def Shuttle.txn (s : Shuttle) (beat : Nat) : Option Txn := s.txns.find? fun t => t.beat == beat

/-- The open attempt of a thread. -/
def Shuttle.attempt (s : Shuttle) (beat : Nat) : Option Txn := s.txns.find? fun t => t.beat == beat && t.active

def Shuttle.inTxn (s : Shuttle) (beat : Nat) : Bool := (s.attempt beat).isSome

def Shuttle.dropTxn (s : Shuttle) (beat : Nat) : Shuttle := { s with txns := s.txns.filter fun t => t.beat != beat }
def Shuttle.putTxn (s : Shuttle) (t : Txn) : Shuttle :=
  { s with txns := t :: s.txns.filter fun x => x.beat != t.beat }

/-! ## The log (R304) -/

/-- The entries that an attempt may use. -/
def Txn.limit (t : Txn) : Nat := if t.serial then 1024 else 64

/-- The 8-byte units of an access of n bytes at a location, as indices from its first unit. -/
def unitCount (n : Nat) : Nat := if n > 8 then 2 else 1

/-- The location of the unit k of an access. -/
def unitLoc (l : Loc) (k : Nat) : Loc := { l with key := l.key / 8 * 8 + 8 * k }

/-- The bytes of a unit that an access of n bytes touches, as a mask. -/
def unitMask (l : Loc) (n : Nat) : Nat := if n ≥ 8 then 255 else (2 ^ n - 1) * 2 ^ (l.key % 8)

def Txn.find (t : Txn) (l : Loc) : Option LogUnit := t.log.find? fun u => u.loc.key == l.key

/-- The log with an entry put in its place, or added. -/
def Txn.put (t : Txn) (u : LogUnit) : Txn :=
  if t.log.any fun x => x.loc.key == u.loc.key then
    { t with log := t.log.map fun x => if x.loc.key == u.loc.key then u else x }
  else { t with log := t.log ++ [u] }

/-- The entries that an access would add. -/
def Txn.added (t : Txn) (l : Loc) (n : Nat) : Nat :=
  ((List.range (unitCount n)).filter fun k => (t.find (unitLoc l k)).isNone).length

/-- Whether an access needs an entry more than the limit. -/
def Txn.full (t : Txn) (l : Loc) (n : Nat) : Bool := decide (t.log.length + t.added l n > t.limit)

/-- Bytes of a mask taken from one 8-byte value, the others from another. -/
def mixBytes (mask v other : Nat) : Nat → Nat
  | 0 => 0
  | k + 1 =>
    mixBytes mask v other k + (if bit mask k then v else other) / 2 ^ (8 * k) % 256 * 2 ^ (8 * k)

/-- A read of some bytes of a unit: a byte that the attempt wrote or read before comes from the log, another from memory,
where it is recorded. Answers the unit's bytes. -/
def Txn.readUnit (t : Txn) (va : Nat) (l : Loc) (mask mem : Nat) : Txn × Nat :=
  let u := (t.find l).getD { va := va, loc := l, readMask := 0, readVal := 0, writeMask := 0, writeVal := 0 }
  let fresh := mask &&& (255 - (u.writeMask ||| u.readMask))
  let u' := { u with readMask := u.readMask ||| fresh, readVal := mixBytes fresh mem u.readVal 8 }
  (t.put u', mixBytes u'.writeMask u'.writeVal (mixBytes u'.readMask u'.readVal mem 8) 8)

/-- A write of some bytes of a unit. -/
def Txn.writeUnit (t : Txn) (va : Nat) (l : Loc) (mask v : Nat) : Txn :=
  let u := (t.find l).getD { va := va, loc := l, readMask := 0, readVal := 0, writeMask := 0, writeVal := 0 }
  t.put { u with writeMask := u.writeMask ||| mask, writeVal := mixBytes mask v u.writeVal 8 }

/-! ## Reads and writes of a thread -/

/-- A serial attempt registers a word that it has read (R305). -/
def Dev.registerWord (d : Dev) (sh beat word : Nat) : Dev :=
  let r : SerialReg := { sh := sh, beat := beat, key := word }
  if d.serialRegs.contains r then d else { d with serialRegs := r :: d.serialRegs }

/-- The registrations of the words of a unit that an attempt has read, by the mask of their bytes. -/
def Dev.registerSerial (d : Dev) (sh : Nat) (t : Txn) (l : Loc) (mask : Nat) : Dev :=
  if !t.serial then d
  else
    let d := if mask % 16 == 0 then d else d.registerWord sh t.beat (l.key / 4)
    if mask / 16 == 0 then d else d.registerWord sh t.beat (l.key / 4 + 1)

/-- A transactional read of unit k of an access; a serial attempt reads at the home, where its registration guards the word
(R305). -/
def Dev.txnReadUnit (d : Dev) (fn cluster sh : Nat) (t : Txn) (va : Nat) (l : Loc) (n k : Nat) : Dev × Txn × Nat :=
  let u := unitLoc l k
  let (d, mem) := d.loadValue fn cluster u 8 t.serial
  let (t, v) := t.readUnit (va / 8 * 8 + 8 * k) u (unitMask l n) mem
  (d.registerSerial sh t u (unitMask l n), t, v)

/-- A transactional load of n bytes (R278). -/
def Dev.txnLoad (d : Dev) (fn cluster sh : Nat) (t : Txn) (va : Nat) (l : Loc) (n : Nat) : Dev × Txn × Nat :=
  let (d, t, v) := d.txnReadUnit fn cluster sh t va l n 0
  if n > 8 then
    let (d, t, v') := d.txnReadUnit fn cluster sh t va l n 1
    (d, t, v + v' * 2 ^ 64)
  else (d, t, v / 2 ^ (8 * (l.key % 8)) % 2 ^ (8 * n))

/-- A transactional store of n bytes. -/
def Txn.store (t : Txn) (va : Nat) (l : Loc) (n v : Nat) : Txn :=
  let m := unitMask l n
  if n > 8 then
    ((t.writeUnit (va / 8 * 8) (unitLoc l 0) m v).writeUnit (va / 8 * 8 + 8) (unitLoc l 1) m (v / 2 ^ 64))
  else t.writeUnit (va / 8 * 8) (unitLoc l 0) m (v * 2 ^ (8 * (l.key % 8)))

/-- Whether the value that a unit's reads recorded is the one at its home (R279). -/
def Dev.unitValid (d : Dev) (fn : Nat) (u : LogUnit) : Bool :=
  u.readMask == 0 ||
    (let v := leNat (d.homeRead fn u.loc 8)
     mixBytes u.readMask v 0 8 == mixBytes u.readMask u.readVal 0 8)

/-- Whether the read log of an attempt is valid. -/
def Dev.logValid (d : Dev) (fn : Nat) (t : Txn) : Bool := t.log.all (d.unitValid fn)

/-! ## Ending an attempt (R303) -/

/-- A thread's attempt holds nothing of the function or the device any more. -/
def Dev.releaseTxn (d : Dev) (fn sh beat : Nat) : Dev :=
  let f := d.func fn
  let d := if f.serial == some (sh, beat) then d.setFunc fn { f with serial := none } else d
  { d with
    serialRegs := d.serialRegs.filter fun r => !(r.sh == sh && r.beat == beat)
    logWait := d.logWait.filter fun w => w != (sh, beat) }

/-- The status of an abort (R299). -/
def abortStatus (t : Txn) (code tcode : Nat) (perm : Bool) : Nat :=
  let perm := perm || code == txnNest || code == txnDisallowed || (code == txnCapacity && t.serial)
  boolW perm * 2 ^ 25 + boolW t.serial * 2 ^ 24 + tcode % 256 * 2 ^ 16 + min 255 (t.count + 1) * 256 + code

/-- The transaction after an abort, and the entry that its thread forms at its `tbeg`. -/
def Txn.aborted (t : Txn) (code tcode : Nat) (perm : Bool) : Txn :=
  { t with
    active := false, serial := false, count := min 255 (t.count + 1),
    restart := some (abortStatus t code tcode perm), log := [], committing := false }

/-- An abort of a thread that the executing word meets: the shuttle without the attempt, and the new entry. -/
def Dev.abortTxn (d : Dev) (s : Shuttle) (fn : Nat) (t : Txn) (code tcode : Nat) (perm : Bool) :
    Dev × Shuttle × Entry :=
  (d.releaseTxn fn s.id t.beat, s.putTxn (t.aborted code tcode perm), Entry.start t.pc [t.beat] t.fmt)

/-- A thread leaves every entry that it is in. -/
def Shuttle.leave (s : Shuttle) (beat : Nat) : Shuttle :=
  { s with
    frontier := (s.frontier.map fun e =>
      { e with beats := e.beats.filter (· != beat), held := e.held.filter fun h => h.beat != beat }).filter
        fun e => !e.beats.isEmpty }

/-- An entry whose outcomes are all known goes on. -/
def Shuttle.settleCommit (s : Shuttle) (lcode : List Nat) (beat : Nat) : Shuttle :=
  match s.frontier.find? fun e => e.status == .committing && e.beats.contains beat with
  | none => s
  | some e =>
    if e.beats.any fun b => ((s.txn b).map (·.committing)).getD false then s else s.moveEntry lcode e (e.pc + 1)

/-- The other threads of an entry whose attempt has been aborted. -/
def Shuttle.settleAbort (s : Shuttle) (lcode : List Nat) (beat : Nat) : Shuttle :=
  match s.frontier.find? fun e => e.status == .committing && e.beats.contains beat with
  | none => s.leave beat
  | some e =>
    let s := s.leave beat
    match e.beats.filter (· != beat) with
    | [] => s
    | b :: _ => s.settleCommit lcode b

/-- An abort from outside the thread's own words (R305, R307, R428): it leaves its entry wherever it is, and the other threads
of a `tend` go on when it was the last that they waited for. -/
def Dev.abortAway (d : Dev) (sh beat code : Nat) : Dev :=
  match d.shuttle sh with
  | none => d
  | some s =>
    match s.attempt beat, d.env s with
    | some t, some env =>
      let (d, s, e) := d.abortTxn s env.launch.fn t code 0 false
      let s := (s.settleAbort env.bolt.lcode beat).leave beat
      d.setShuttle { s with frontier := joinFrontier env.bolt.lcode s.frontier e }
    | _, _ => d

/-- An engine's registration of a range aborts the serial attempts that have read it (R305). -/
def Dev.abortSerial (d : Dev) (key n : Nat) : Dev :=
  (d.serialRegs.filter fun r => decide (r.key * 4 < key + n) && decide (key < r.key * 4 + 4)).foldl
    (fun d r => d.abortAway r.sh r.beat txnValidate) d

/-! ## Room for logs and the serial token (R300, R304) -/

/-- The banks of a cluster that teams hold (R237). -/
def Dev.heldBanks (d : Dev) (cluster : Nat) : Nat :=
  d.teams.foldl (fun n t => if t.cluster == cluster && t.resident then n + t.banks.length else n) 0

/-- How many open normal attempts the CACHE banks of a cluster can hold: a quarter of their bytes at 2 KiB each. -/
def Dev.logRoom (d : Dev) (cluster : Nat) : Nat := (Config.banksPerCluster - d.heldBanks cluster) * 64

/-- The open normal attempts of a cluster. -/
def Dev.openLogs (d : Dev) (cluster : Nat) : Nat :=
  d.shuttles.foldl
    (fun n s =>
      if s.live && ((d.team s.team).map fun t => t.cluster == cluster && t.resident).getD false then
        n + (s.txns.filter fun t => t.active && !t.serial).length
      else n) 0

/-- Whether the function may grant its serial token: it is free, and the serial log fits its quota (R404). -/
def Func.tokenFree (f : Func) : Bool := f.serial.isNone && f.tq ≥ 1

/-- An attempt begins (R300): an acquire of its thread. -/
def Dev.beginTxn (d : Dev) (s : Shuttle) (cluster : Nat) (t : Txn) (serial : Bool) : Dev × Shuttle :=
  (d.acquire cluster, s.putTxn { t with active := true, serial := serial, restart := none, log := [], committing := false })

/-- A thread that waited begins its attempt and continues at the next word. -/
def Shuttle.unpark (s : Shuttle) (lcode : List Nat) (beat : Nat) (st : EntryStatus) : Shuttle :=
  match s.frontier.find? fun e => e.status == st && e.beats == [beat] with
  | none => s
  | some e => s.moveEntry lcode e (e.pc + 1)

/-- Whether a thread waits at `tbeg`. -/
def Shuttle.waitsAt (s : Shuttle) (beat : Nat) (st : EntryStatus) : Bool :=
  s.frontier.any fun e => e.status == st && e.beats == [beat]

/-- SERIAL_TOKEN_GRANT: the thread that asked first receives the token. -/
def execSerialTokenGrant (fn : Nat) (s : State) : Outcome :=
  let d := s.dev
  let f := d.func fn
  .next { s with dev :=
    match f.serialWait with
    | [] => d
    | (sh, beat) :: rest =>
      if !f.tokenFree then d
      else
        let d := d.setFunc fn { f with serial := some (sh, beat), serialWait := rest }
        match d.shuttle sh with
        | none => d.setFunc fn { f with serialWait := rest }
        | some x =>
          match x.txn beat, d.env x with
          | some t, some env =>
            if env.team.resident && !env.team.dying then
              let (d, x) := d.beginTxn x env.team.cluster t true
              d.setShuttle (x.unpark env.bolt.lcode beat .serialToken)
            else s.dev
          | _, _ => d.setFunc fn { f with serialWait := rest } }

/-- TXN_LOG_ROOM_GRANT: a waiting thread of the cluster begins a normal attempt. -/
def execTxnLogRoomGrant (cluster : Nat) (s : State) : Outcome :=
  let d := s.dev
  let here := fun (w : Nat × Nat) =>
    match d.shuttle w.1 with
    | none => false
    | some x => ((d.team x.team).map fun t => t.cluster == cluster && t.resident && !t.dying).getD false
  .next { s with dev :=
    match d.logWait.find? here with
    | none => d
    | some (sh, beat) =>
      if d.openLogs cluster ≥ d.logRoom cluster then d
      else
        match d.shuttle sh with
        | none => d
        | some x =>
          match x.txn beat, d.env x with
          | some t, some env =>
            let (d, x) := d.beginTxn x cluster t false
            { d with logWait := d.logWait.filter fun w => w != (sh, beat) }.setShuttle
              (x.unpark env.bolt.lcode beat .logRoom)
          | _, _ => d }

/-! ## Resolution and commit (R278, R279, R301) -/

/-- The two words of a unit that a mask of bytes touches. -/
def wordsTouched (mask : Nat) : Nat := boolW (mask % 16 != 0) + 2 * boolW (mask / 16 != 0)

/-- Whether two logs conflict: one wrote a word that the other read or wrote. -/
def logsConflict (a b : Txn) : Bool :=
  a.log.any fun u => b.log.any fun v =>
    u.loc.key == v.loc.key &&
      ((wordsTouched u.writeMask &&& wordsTouched (v.readMask ||| v.writeMask)) != 0 ||
        (wordsTouched v.writeMask &&& wordsTouched u.readMask) != 0)

/-- The survivors among transactions in logical order, and those that lose. -/
def survivors : List Txn → List Txn → List Txn × List Txn
  | _, [] => ([], [])
  | kept, t :: ts =>
    if kept.any (logsConflict t) then
      let r := survivors kept ts
      (r.1, t :: r.2)
    else
      let r := survivors (t :: kept) ts
      (t :: r.1, r.2)

/-- Whether a commit may take effect now: every earlier access of the thread performed, and nothing held (R282, R305). -/
def Dev.commitReady (d : Dev) (s : Shuttle) (fn : Nat) (t : Txn) : Bool :=
  (match s.block with
    | none => true
    | some b => s.releaseReady b [t.beat]) &&
    t.log.all fun u => d.homeOpen fn s.id (some t.beat) u.loc 8 (u.writeMask != 0)

/-- The writes of a log at their homes, at one point. -/
def Dev.applyLog (d : Dev) (fn cluster : Nat) (t : Txn) : Dev :=
  t.log.foldl
    (fun d u =>
      if u.writeMask == 0 then d
      else
        let old := leNat (d.homeRead fn u.loc 8)
        d.clusterWrite fn cluster u.loc (leBytes 8 (mixBytes u.writeMask u.writeVal old 8))) d

/-- The commit of a surviving transaction: all of its writes, or an abort (R279). -/
def Dev.commitTxn (d : Dev) (s : Shuttle) (env : Env) (t : Txn) : Dev :=
  let fn := env.launch.fn
  let lcode := env.bolt.lcode
  if d.logValid fn t then
    let d := ((d.applyLog fn env.team.cluster t).acquire env.team.cluster).releaseTxn fn s.id t.beat
    d.setShuttle { (s.dropTxn t.beat).settleCommit lcode t.beat with exposed := true }
  else
    let (d, s, e) := d.abortTxn s fn t txnValidate 0 false
    let s := s.settleAbort lcode t.beat
    d.setShuttle { s with frontier := joinFrontier lcode s.frontier e }

/-- TRANSACTION_COMMIT. -/
def execTransactionCommit (sh beat : Nat) (s : State) : Outcome :=
  .next { s with dev := s.dev.withShuttle sh fun x env =>
    match x.attempt beat with
    | none => s.dev
    | some t => if t.committing && s.dev.commitReady x env.launch.fn t then s.dev.commitTxn x env t else s.dev }

end Sys2Proof.Machine
end

