-- ==== Sys2Proof/Machine/LaneExec.lean ====
section
/-!
DEFINITION. Executing a lane word (spec/06 R133 to R136): its checks, its threads, full/empty faults and waits, queue
pops and pushes, its destination, and where the executing entry goes. A word may be fetched or issued by `xissue`.
-/
namespace Sys2Proof.Machine

/-- What a lane word executes in: the instruction at issue, the environment, the block and the executing entry. -/
structure LaneCtx where
  is : Issue
  env : Env
  blk : Block
  cur : Entry

/-- A word with the threads it is offered to, the words of the issue register that led to it, and its bits. -/
structure LaneRun where
  opc : Nat
  row : LaneRow
  w : LaneWord
  set : List Nat
  path : List Nat
  raw : List Nat

/-- A trap of the lane stream. -/
structure LaneTrap where
  cause : Nat
  sub : Nat
  threads : List Nat
  addr : Nat := 0
  operand : Nat := 0
  code : Nat := 0
  words : List Nat := []
  detail0 : Nat := 0
  detail1 : Nat := 0
  skip : Bool := false

/-- How a word ends: done, waiting, or trapped. -/
inductive LaneFin where
  | moved
  | waiting
  | trapped (t : LaneTrap)

/-- The device and shuttle after a word, the entry with its progress, and the entries of threads that leave it. -/
structure LaneStep where
  d : Dev
  s : Shuttle
  e : Entry
  out : List Entry
  fin : LaneFin

def beatMask (bs : List Nat) : Nat := bs.foldl (fun m b => m + 2 ^ b) 0

/-! ## Ends of a word -/

/-- The threads of an entry that have not left. -/
def staying (beats : List Nat) (out : List Entry) : List Nat :=
  beats.filter fun b => !out.any fun o => o.beats.contains b

/-- An entry reduced to some threads, with its progress. -/
def Entry.keep (e : Entry) (beats : List Nat) : Entry :=
  { e with
    beats := beats
    done := e.done.filter beats.contains
    left := e.left.filter beats.contains
    popped := e.popped.filter fun p => beats.contains p.1
    pushed := e.pushed.filter beats.contains
    xfaults := e.xfaults.filter fun x => beats.contains x.beat
    held := e.held.filter fun h => beats.contains h.beat }

/-- The frontier after a word: the executing entry in its new form, and then the entries of threads that left. -/
def nextFrontier (lcode : List Nat) (fr : List Entry) (cur new : Entry) (out : List Entry) : List Entry :=
  out.foldl (joinFrontier lcode) (joinFrontier lcode (dropEntry fr cur) new)

/-- The aborts of R280: the attempts of some threads whose read log is not valid. -/
def Dev.rejectAttempts (d : Dev) (s : Shuttle) (fn : Nat) (threads : List Nat) : Dev × Shuttle × List Entry :=
  threads.foldl
    (fun acc b =>
      match acc.2.1.attempt b with
      | none => acc
      | some t =>
        if acc.1.logValid fn t then acc
        else
          let r := acc.1.abortTxn acc.2.1 fn t txnValidate 0 false
          (r.1, r.2.1, acc.2.2 ++ [r.2.2]))
    (d, s, [])

/-- The entry that a trap leaves suspended: an illegal word of the issue register ends its word, a full/empty fault
under it leaves the threads of the reported words out (R220, R221). -/
def Entry.suspended (e : Entry) (t : LaneTrap) : Entry :=
  if t.skip then Entry.start e.pc e.beats e.fmt
  else { e with left := e.left ++ e.xfaults.map (·.beat), xfaults := [] }

/-- The record of a lane trap (R36, R38). -/
def laneTrapInfo (s : Shuttle) (e : Entry) (t : LaneTrap) : TrapInfo :=
  { cause := t.cause, sub := t.sub, lane := true, threads := beatMask t.threads, resume := s.pc, laneOff := e.pc,
    addr := t.addr, words := t.words, operand := t.operand, code := t.code, fmt := e.fmt, blocks := s.blocks.length,
    detail0 := t.detail0, detail1 := t.detail1 }

/-- A word in progress stays at its entry. -/
def stayAt (c : LaneCtx) (r : LaneStep) (e : Entry) (out : List Entry) : Dev :=
  r.d.setShuttle { r.s with frontier := nextFrontier c.env.bolt.lcode r.s.frontier c.cur e out }

/-- The end of a fetched word. -/
def finishWord (c : LaneCtx) (r : LaneStep) : Dev :=
  let beats := staying c.cur.beats r.out
  match r.fin with
  | .moved => stayAt c r (Entry.start (c.cur.pc + 1) beats c.cur.fmt) r.out
  | .waiting => stayAt c r (r.e.keep beats) r.out
  | .trapped t =>
    let (d, s, rejected) := r.d.rejectAttempts r.s c.env.launch.fn t.threads
    let out := r.out ++ rejected
    let e := r.e.keep (staying c.cur.beats out)
    if !rejected.isEmpty then stayAt c { r with d := d, s := s } e out
    else
      let e' := e.suspended t
      let s := { s with frontier := nextFrontier c.env.bolt.lcode s.frontier c.cur e' out }
      (d.setShuttle s).trap s c.env.nest.hasTrap c.env.nest.trapOff (laneTrapInfo s e t)
        (.lane e.pc e.beats t.skip)

/-- The three 32-bit parts of a lane word. -/
def laneParts (w : Nat) : List Nat := [w % 2 ^ 32, w / 2 ^ 32 % 2 ^ 32, w / 2 ^ 64 % 2 ^ 32]

/-! ## Threads and sources -/

/-- The threads that execute a word (R91, R133). -/
def LaneRun.ex (r : LaneRun) (s : Shuttle) : List Nat := r.set.filter (guardHolds s r.w.pg)

/-- The sources of a word with their numbers of registers. -/
def LaneRun.srcs (r : LaneRun) : List (Nat × Nat × Nat) :=
  let sh := laneShape r.opc r.row r.w
  [(0, r.w.a, sh.a), (1, r.w.b, sh.b), (2, r.w.c, sh.c)]

/-- Whether the E bit of source i applies (R90, R91). -/
def eBit (w : LaneWord) (i c : Nat) : Bool := decide (i < 3) && bit w.e (2 - i) && (isV c || isS c)

/-- The operands of a thread: its sources, and for `cas` the expected value. -/
structure Operands where
  beat : Nat
  a : Nat
  b : Nat
  c : Nat
  e : Nat := 0

/-- The operands that a parked thread brought with it. -/
def Entry.heldFor (e : Entry) (r : LaneRun) (beat : Nat) : Option Held :=
  e.held.find? fun h => h.beat == beat && h.words == r.path

/-- The threads that have begun a word: with a pop, with operands that they brought, or with a push. -/
def LaneRun.begun (r : LaneRun) (e : Entry) : List Nat :=
  e.popped.map (·.1) ++ (e.held.filter fun h => h.words == r.path).map (·.beat) ++ e.pushed.take 1

/-- The threads whose sources are evaluated: with U set the first (R133), or one that had begun the word when others merged with
it, which finishes it for them all (R198; log 78). -/
def LaneRun.ev (r : LaneRun) (e : Entry) (ex : List Nat) : List Nat :=
  if r.w.u then (match ex.filter (r.begun e).contains with
    | [] => ex.take 1
    | b :: _ => [b])
  else ex

/-- The threads that read their registers. -/
def LaneRun.reading (r : LaneRun) (e : Entry) (ev : List Nat) : List Nat :=
  ev.filter fun b => (e.heldFor r b).isNone

/-- The sources whose registers a thread reads as its own: all but A of `bperm`, which reads other threads' (R210). -/
def LaneRun.ownSrcs (r : LaneRun) : List (Nat × Nat × Nat) := r.srcs.filter fun x => r.opc != 0x120 || x.1 != 0

/-- The full/empty fault of some sources of a word (R133). SUB and s1017 name the lowest source with an empty register under its E
bit, and THREADS holds every thread with such a register in any source (DESIGN CHOICE, log 93: R133, R38 and R39 do not say which
they are when threads differ). -/
def LaneRun.emptyFault (r : LaneRun) (s : Shuttle) (blk : Block) (ev : List Nat) (srcs : List (Nat × Nat × Nat)) :
    Option LaneTrap :=
  let hit := fun b (x : Nat × Nat × Nat) => eBit r.w x.1 x.2.1 && s.srcEmpty blk b x.2.1 x.2.2
  match srcs.find? fun x => ev.any fun b => hit b x with
  | none => none
  | some x =>
    some { cause := 3, sub := x.1, threads := ev.filter fun b => srcs.any (hit b), operand := x.2.1, words := r.raw }

/-- Whether a register of some sources of some threads is empty. -/
def LaneRun.starved (_r : LaneRun) (s : Shuttle) (blk : Block) (ev : List Nat) (srcs : List (Nat × Nat × Nat)) : Bool :=
  ev.any fun b => srcs.any fun x => s.srcEmpty blk b x.2.1 x.2.2

/-- A read of a register with broken parity (R430). -/
def LaneRun.badFault (r : LaneRun) (s : Shuttle) (blk : Block) (ev : List Nat) (srcs : List (Nat × Nat × Nat)) :
    Option LaneTrap :=
  let hit := fun b => srcs.any fun x => s.srcBad blk b x.2.1 x.2.2
  if ev.any hit then some { cause := 0x13, sub := 0, threads := ev.filter hit, words := r.raw } else none

/-- Some sources of a word before they are read (R133): every E bit is looked at before any wait (DESIGN CHOICE, log 79), and
no thread goes on before every register is full. -/
def LaneRun.sourcesReady (r : LaneRun) (s : Shuttle) (blk : Block) (ev : List Nat) (srcs : List (Nat × Nat × Nat)) :
    Option LaneFin :=
  match r.emptyFault s blk ev srcs with
  | some t => some (.trapped t)
  | none => if r.starved s blk ev srcs then some .waiting else (r.badFault s blk ev srcs).map .trapped

/-- Whether the D of `cas` is read, and empty in some thread (R292, R294). -/
def LaneRun.casD (r : LaneRun) : Bool := r.opc == 0x0A2 && xAop r.w.x == 7 && isV r.w.d
def LaneRun.casSrcs (r : LaneRun) : List (Nat × Nat × Nat) :=
  if r.casD then [(3, r.w.d, (laneShape r.opc r.row r.w).d)] else []

/-! ## Queues (R15, R134, R163) -/

def Team.queueVals (t : Team) (stage : Nat) (coord : List Nat) (q : Nat) : List Word :=
  match t.queues.find? fun x => x.stage == stage && x.coord == coord && x.q == q with
  | none => []
  | some x => x.vals

def Team.setQueue (t : Team) (stage : Nat) (coord : List Nat) (q : Nat) (v : List Word) : Team :=
  let rest := t.queues.filter fun x => !(x.stage == stage && x.coord == coord && x.q == q)
  { t with queues := if v.isEmpty then rest else { stage := stage, coord := coord, q := q, vals := v } :: rest }

/-- The values that a queue holds at most. -/
def queueDepth : Nat := 16

/-- The coordinate of a thread of the block. -/
def LaneCtx.coord (c : LaneCtx) (s : Shuttle) (beat : Nat) : List Nat :=
  s.coord c.env.launch.levels c.env.team.num c.blk.seq beat

/-- The pops that some sources make. -/
def popsOf (srcs : List (Nat × Nat × Nat)) : List Nat := srcs.flatMap fun x => srcPops x.2.1 x.2.2

/-- The pops of a thread's word. -/
def LaneRun.pops (r : LaneRun) : List Nat := popsOf r.srcs

/-- Pops of one thread, in order, until one finds its queue empty. A pop is an acquire (R273). -/
def popFor (c : LaneCtx) (s : Shuttle) (beat : Nat) : List Nat → Dev → Entry → Dev × Entry × Bool
  | [], d, e => (d, e, true)
  | q :: qs, d, e =>
    match d.team s.team with
    | none => (d, e, false)
    | some t =>
      match t.queueVals s.stage (c.coord s beat) q with
      | [] => (d, e, false)
      | v :: vs =>
        popFor c s beat qs ((d.setTeam (t.setQueue s.stage (c.coord s beat) q vs)).acquire t.cluster)
          { e with popped := e.popped ++ [(beat, v.toNat)] }

/-- The pops of several threads, in beat order; those already made are not made again. -/
def popAll (c : LaneCtx) (pops : List Nat) (s : Shuttle) : List Nat → Dev → Entry → Dev × Entry × Bool
  | [], d, e => (d, e, true)
  | b :: bs, d, e =>
    match popFor c s b (pops.drop (e.popped.filter fun p => p.1 == b).length) d e with
    | (d, e, false) => (d, e, false)
    | (d, e, true) => popAll c pops s bs d e

/-- The values that a thread has popped. -/
def Entry.poppedBy (e : Entry) (beat : Nat) : List Nat := (e.popped.filter fun p => p.1 == beat).map (·.2)

/-- Words put together, low word first. -/
def joinWords : List Nat → Nat
  | [] => 0
  | w :: ws => w + 2 ^ 32 * joinWords ws

/-- The value of source i of a thread. -/
def LaneRun.source (r : LaneRun) (s : Shuttle) (blk : Block) (e : Entry) (beat i : Nat) : Nat :=
  match r.srcs[i]? with
  | none => 0
  | some (_, c, n) =>
    if isX c then literalVal r.opc r.w
    else if isQ c then
      let before := ((r.srcs.take i).flatMap fun x => srcPops x.2.1 x.2.2).length
      joinWords (((e.poppedBy beat).drop before).take n)
    else s.srcVal blk beat c n

/-- The operands of a thread. -/
def LaneRun.operands (r : LaneRun) (s : Shuttle) (blk : Block) (e : Entry) (beat : Nat) : Operands :=
  match e.heldFor r beat with
  | some h => { beat := beat, a := h.a, b := h.b, c := h.c, e := h.e }
  | none =>
    { beat := beat, a := r.source s blk e beat 0, b := r.source s blk e beat 1, c := r.source s blk e beat 2,
      e := if r.casD then s.srcVal blk beat r.w.d (laneShape r.opc r.row r.w).d else 0 }

/-! ## Destinations (R23, R27, R133) -/

/-- Whether D of some thread has a producer pending. -/
def LaneRun.dstPending (r : LaneRun) (s : Shuttle) (ex : List Nat) : Bool :=
  isV r.w.d && ex.any fun b =>
    (List.range (laneShape r.opc r.row r.w).d).any fun k => (s.vreg b (r.w.d + k)).isPending

/-- The output registers of a destination. -/
def LaneRun.outputs (r : LaneRun) : List Nat :=
  if isO r.w.d then (List.range (laneShape r.opc r.row r.w).d).map (r.w.d - 776 + ·) else []

/-- An output-window fault: an output beyond the window, or written before (R23). -/
def LaneRun.outputFault (r : LaneRun) (blk : Block) (ex : List Nat) : Option LaneTrap :=
  if r.outputs.any fun k => decide (k ≥ blk.outN) || blk.written.contains k then
    some { cause := 0x11, sub := 0, threads := ex, operand := r.w.d, words := r.raw }
  else none

/-- The block with outputs written. -/
def Shuttle.markWritten (s : Shuttle) (id : Nat) (ks : List Nat) : Shuttle :=
  { s with blocks := s.blocks.map fun b => if b.id == id then { b with written := b.written ++ ks } else b }

/-- Whether every access that the block made so far has been performed (R34). -/
def Shuttle.blockPerformed (s : Shuttle) (id : Nat) : Bool :=
  s.accs.all fun a => a.beat.isNone || a.block != id || a.performed

/-- The fill of output registers by a value: at once, or behind the block's earlier accesses (R34). -/
def fillOutput (c : LaneCtx) (r : LaneRun) (d : Dev) (s : Shuttle) (v : Nat) : Dev × Shuttle :=
  let k := r.w.d - 776
  let n := (laneShape r.opc r.row r.w).d
  let s := s.markWritten c.blk.id r.outputs
  if s.blockPerformed c.blk.id then (d, s.fillS (c.blk.outBase + k) v n)
  else
    let a : Access :=
      { id := d.nextId, word := d.nextId, beat := some 0, kind := .load, va := 0, size := 4 * n, data := 0, ord := 0,
        dst := .sregs (c.blk.outBase + k), covers := [], block := c.blk.id, status := .arrived v }
    ({ d with nextId := d.nextId + 1 }, { s with accs := s.accs ++ [a] })

/-- Pushes in order from the one not yet made: each finds room, and the accesses before it performed (R273). -/
def pushAll (c : LaneCtx) (s : Shuttle) : List (Nat × Nat × Nat) → Dev → Entry → Dev × Entry × Bool
  | [], d, e => (d, e, true)
  | (beat, q, v) :: ps, d, e =>
    match d.team s.team with
    | none => (d, e, false)
    | some t =>
      let old := t.queueVals (s.stage + 1) (c.coord s beat) q
      if old.length ≥ queueDepth || !s.releaseReady c.blk [beat] then (d, e, false)
      else
        pushAll c s ps (d.setTeam (t.setQueue (s.stage + 1) (c.coord s beat) q (old ++ [BitVec.ofNat 32 v])))
          { e with pushed := e.pushed ++ [beat] }

/-- The pushes that are left after some have been made: for each beat as many as it has made are gone. -/
def pushesLeft : List (Nat × Nat × Nat) → List Nat → List (Nat × Nat × Nat)
  | [], _ => []
  | p :: ps, made => if made.contains p.1 then pushesLeft ps (made.erase p.1) else p :: pushesLeft ps made

/-- The pushes of a word's results. -/
def LaneRun.pushes (r : LaneRun) (res : List (Nat × Nat)) : List (Nat × Nat × Nat) :=
  if isQ r.w.d then
    res.flatMap fun p =>
      (List.range (laneShape r.opc r.row r.w).d).map fun k => (p.1, r.w.d - 784, p.2 / 2 ^ (32 * k) % 2 ^ 32)
  else []

/-- A result written to D of each thread. -/
def LaneRun.write (r : LaneRun) (s : Shuttle) (res : List (Nat × Nat)) : Shuttle :=
  match r.row.dst with
  | .pred => res.foldl (fun s p => s.setPred p.1 r.w.d (p.2 % 2 == 1)) s
  | .none => s
  | .quietPred => s
  | _ =>
    if isV r.w.d then res.foldl (fun s p => s.putV p.1 r.w.d p.2 (laneShape r.opc r.row r.w).d) s else s

/-! ## Words that compute a value -/

/-- What a word computes: whether it waits before its operands are read, a wait or a trap that its operands raise, the
result and flags of a thread, whether D takes the result, and a further effect, with the entries of threads that leave. -/
structure WordFn where
  writes : Bool := true
  busy : Dev → Shuttle → List Nat → Bool := fun _ _ _ => false
  check : Dev → Shuttle → List Nat → List Operands → Option LaneFin := fun _ _ _ _ => none
  val : Dev → Shuttle → List Nat → List Operands → Operands → Nat × Nat := fun _ _ _ _ _ => (0, 0)
  eff : Dev → Shuttle → List Nat → List Operands → Dev × Shuttle × List Entry := fun d s _ _ => (d, s, [])

/-- The result of each executing thread: with U, that of the first (R133). -/
def spread (ex : List Nat) (u : Bool) (vals : List (Nat × Nat × Nat)) : List (Nat × Nat × Nat) :=
  if u then
    match vals with
    | [] => []
    | (_, v) :: _ => ex.map fun b => (b, v)
  else vals

/-- A thread's SR count after a word that rounds by SR (R53). -/
def LaneRun.drawn (r : LaneRun) (s : Shuttle) (ex : List Nat) : Shuttle :=
  if selectsSR r.row r.w then ex.foldl (fun s b => s.setCount b (s.count b + 1)) s else s

/-- Whether a word names a queue: it exposes its shuttle (R423). -/
def LaneRun.usesQueue (r : LaneRun) : Bool :=
  isQ r.w.d || r.srcs.any fun x => x.2.2 != 0 && isQ x.2.1

/-- The end of a value word, once its operands are read. -/
def finishValue (c : LaneCtx) (r : LaneRun) (f : WordFn) (d : Dev) (s : Shuttle) (e : Entry) (ex : List Nat)
    (ops : List Operands) : LaneStep :=
  match f.check d s ex ops with
  | some fin => { d := d, s := s, e := e, out := [], fin := fin }
  | none =>
    let vals := spread ex r.w.u (ops.map fun o => (o.beat, f.val d s ex ops o))
    let res := vals.map fun p => (p.1, p.2.1)
    match pushAll c s (pushesLeft (r.pushes res) e.pushed) d e with
    | (d, e, false) => { d := d, s := { s with exposed := true }, e := e, out := [], fin := .waiting }
    | (d, e, true) =>
      let s := vals.foldl (fun s p => s.raiseFlags p.1 p.2.2) (if f.writes then r.write s res else s)
      let s := r.drawn { s with exposed := s.exposed || r.usesQueue } ex
      let (d, s) := match res with
        | (_, v) :: _ => if isO r.w.d then fillOutput c r d s v else (d, s)
        | [] => (d, s)
      let (d, s, out) := f.eff d s ex ops
      { d := d, s := s, e := e, out := out, fin := .moved }

/-- A value word (R133). It waits for its destinations before it pops a queue (DESIGN CHOICE, log 79). -/
def valueWord (c : LaneCtx) (r : LaneRun) (f : WordFn) (d : Dev) (s : Shuttle) (e : Entry) : LaneStep :=
  let ex := r.ex s
  let ev := r.ev e ex
  if ex.isEmpty then { d := d, s := s, e := e, out := [], fin := .moved }
  else
    match r.sourcesReady s c.blk ev r.ownSrcs with
    | some fin => { d := d, s := s, e := e, out := [], fin := fin }
    | none =>
      if f.busy d s ex then { d := d, s := s, e := e, out := [], fin := .waiting }
      else
        match r.outputFault c.blk ex with
        | some t => { d := d, s := s, e := e, out := [], fin := .trapped t }
        | none =>
          if r.dstPending s ex then { d := d, s := s, e := e, out := [], fin := .waiting }
          else
            match popAll c r.pops s ev d e with
            | (d, e, false) =>
              { d := d, s := { s with exposed := s.exposed || r.usesQueue }, e := e, out := [], fin := .waiting }
            | (d, e, true) => finishValue c r f d s e ex (ev.map (r.operands s c.blk e))

/-- What an integer, float or conversion word computes. -/
def arithFn (c : LaneCtx) (r : LaneRun) (g : LaneArg → Nat × Nat) (fmt : Nat) : WordFn :=
  { val := fun d s _ _ o =>
      g { w := r.w, x := if literalOk r.opc r.row && usesLiteral r.w then 0 else r.w.x, a := o.a, b := o.b, c := o.c,
          pv := s.pred o.beat, map := d.tw2Map s.core (bits fmt 23 21),
          draw := s.draw c.blk.seed (c.coord s o.beat) o.beat } }

/-- The index of a level for a thread (R205). -/
def lidxFn (c : LaneCtx) (r : LaneRun) : WordFn :=
  { val := fun _ s _ _ o => (if s.spawned then 0 else (c.coord s o.beat).getD (r.w.x % 4) 0, 0) }

end Sys2Proof.Machine
end

