-- ==== Sys2Proof/Machine/LaneMem.lean ====
section
/-!
DEFINITION. Lane loads, stores, atomics and reductions, prefetch and clean (spec/06 R152 to R154; spec/14 R287, R288,
R292 to R297, R302): their addresses, their faults, and the accesses that they issue.
-/
namespace Sys2Proof.Machine

/-! ## Addresses -/

def isAtomic (opc : Nat) : Bool := opc == 0x0A2 || opc == 0x0A3

/-- The bytes of an access (R152, R292). -/
def memSize (opc : Nat) (w : LaneWord) : Nat :=
  if isAtomic opc then (if w.t == 6 || w.t == 7 || w.t == 12 then 8 else 4) else 2 ^ w.t

/-- OFF, of 24 bits in the M layout and of 16 in MA (R94). -/
def memOffset (opc : Nat) (w : LaneWord) : Int := if isAtomic opc then sext 16 w.x else sext 24 w.x

/-- The effective address (R152): the base pair, the unsigned index scaled, and OFF, modulo 2^64. -/
def memAddress (opc : Nat) (w : LaneWord) (o : Operands) : Nat :=
  low 64 ((o.a : Int) + (o.b * 2 ^ xScale w.x : Nat) + memOffset opc w)

/-- What a word does at its location. -/
def memKind (opc : Nat) (w : LaneWord) (o : Operands) : AccKind :=
  if opc == 0x0A0 then .load
  else if opc == 0x0A1 then .store
  else if opc == 0x0A2 then .atom (xAop w.x) w.t o.e
  else .red (xAop w.x) w.t

/-- ORD of a word that takes one. -/
def memOrd (w : LaneWord) : Nat := xOrd w.x

/-- Where the value goes: registers of the threads it stands for, the output register, or nowhere. -/
def memDst (c : LaneCtx) (r : LaneRun) (beats : List Nat) : AccDst :=
  if r.opc == 0x0A1 || r.opc == 0x0A3 then .none
  else if isV r.w.d then .vregs beats r.w.d
  else if isO r.w.d then .sregs (c.blk.outBase + (r.w.d - 776))
  else .none

/-- A thread's access with what it reaches. -/
structure MemReq where
  o : Operands
  a : Nat
  covers : List Nat
  reach : Reach

/-- A thread's access after its translation. -/
inductive MemGo where
  | home (l : Loc)
  | fifo (entry : Nat)
  | fault (f : WalkFault)
  | fatal
  deriving DecidableEq, Repr

/-! ## Translation of a word's accesses -/

/-- What the accesses of a word meet, in beat order. -/
def meetAll (c : LaneCtx) (r : LaneRun) : List MemReq → Dev → Dev × List (MemReq × MemGo)
  | [], d => (d, [])
  | q :: qs, d =>
    let (d, g) := match q.reach with
      | .virt va =>
        match d.meet c.env.launch.fn c.env.launch.ctx va (memKind r.opc r.w q.o) with
        | (d, .loc l) => (d, MemGo.home l)
        | (d, .replay f) => (d, .fault f)
        | (d, .fatal) => (d, .fatal)
      | .window l => (d, .home l)
      | .fifo e => (d, .fifo e)
      | .bad => (d, .fatal)
    let (d, gs) := meetAll c r qs d
    (d, (q, g) :: gs)

/-! ## Issuing -/

/-- D of the threads of an access made empty, with this word as its producer or with none (R26, R29). -/
def LaneRun.emptyD (r : LaneRun) (s : Shuttle) (beats : List Nat) (cell : RegCell) : Shuttle :=
  if isV r.w.d && (r.opc == 0x0A0 || r.opc == 0x0A2) then
    beats.foldl (fun s b => s.markV b r.w.d cell (laneShape r.opc r.row r.w).d) s
  else s

/-- The data of a store, an atomic or a reduction. -/
def memData (opc : Nat) (w : LaneWord) (o : Operands) : Nat := o.c % 2 ^ (8 * memSize opc w)

/-- An access issued. -/
def issueAccess (c : LaneCtx) (r : LaneRun) (word : Nat) (q : MemReq) (st : AccStatus) (d : Dev) (s : Shuttle) :
    Dev × Shuttle :=
  let a : Access :=
    { id := d.nextId, word := word, beat := some q.o.beat, kind := memKind r.opc r.w q.o, va := q.a,
      size := memSize r.opc r.w, data := memData r.opc r.w q.o, ord := memOrd r.w, dst := memDst c r q.covers,
      covers := q.covers, block := c.blk.id, status := st, origin := { off := c.cur.pc, words := r.raw, fmt := c.cur.fmt } }
  ({ d with nextId := d.nextId + 1 }, { s with accs := s.accs ++ [a] })

/-- The parked entry of an access that took a replayable fault (R199, R263). -/
def parkedEntry (c : LaneCtx) (r : LaneRun) (q : MemReq) (fault : Nat) : Entry :=
  { Entry.start c.cur.pc q.covers c.cur.fmt with
    status := .parked fault
    held := [{ beat := q.o.beat, va := q.a, raw := r.raw, words := r.path, a := q.o.a, b := q.o.b, c := q.o.c, e := q.o.e }] }

/-- The threads that one fault parks form one entry (R199). -/
def addParked (out : List Entry) (p : Entry) : List Entry :=
  match out.find? fun x => x.status == p.status with
  | none => out ++ [p]
  | some x => out.map fun y => if y.beats == x.beats then x.merge p else y

/-- A transactional access of a thread, performed on its log (R278, R302). -/
def txnAccess (c : LaneCtx) (r : LaneRun) (t : Txn) (q : MemReq) (l : Loc) (d : Dev) (s : Shuttle) : Dev × Shuttle :=
  let n := memSize r.opc r.w
  if r.opc == 0x0A0 then
    let (d, t, v) := d.txnLoad c.env.launch.fn c.env.team.cluster s.id t q.a l n
    let s := s.putTxn t
    (d, if isV r.w.d then s.putV q.o.beat r.w.d v (laneShape r.opc r.row r.w).d else s)
  else (d, s.putTxn (t.store q.a l n (memData r.opc r.w q.o)))

/-- One access of a word takes effect: it is issued, or goes to the log, or its thread parks or aborts. -/
def takeAccess (c : LaneCtx) (r : LaneRun) (word : Nat) (d : Dev) (s : Shuttle) (out : List Entry)
    (p : MemReq × MemGo) : Dev × Shuttle × List Entry :=
  let fn := c.env.launch.fn
  match p.2 with
  | .fault f =>
    match s.attempt p.1.o.beat with
    | some t =>
      if d.logValid fn t then
        let (d, id) := d.postFault fn (faultOf c.env f (memKind r.opc r.w p.1.o).code (.shuttle s.id))
        (d, r.emptyD s p.1.covers .empty, addParked out (parkedEntry c r p.1 id))
      else
        let (d, s, e) := d.abortTxn s fn t txnValidate 0 false
        (d, s, out ++ [e])
    | none =>
      let (d, id) := d.postFault fn (faultOf c.env f (memKind r.opc r.w p.1.o).code (.shuttle s.id))
      (d, r.emptyD s p.1.covers .empty, addParked out (parkedEntry c r p.1 id))
  | .home l =>
    match s.attempt p.1.o.beat with
    | some t =>
      if t.full l (memSize r.opc r.w) then
        let (d, s, e) := d.abortTxn s fn t txnCapacity 0 false
        (d, s, out ++ [e])
      else
        let (d, s) := txnAccess c r t p.1 l d s
        (d, s, out)
    | none =>
      let (d, s) := issueAccess c r word p.1 (.home l) d (r.emptyD s p.1.covers .pending)
      (d, s, out)
  | .fifo e =>
    let (d, s) := issueAccess c r word p.1 (.fifo e) d (r.emptyD { s with exposed := true } p.1.covers .pending)
    (d, s, out)
  | .fatal => (d, s, out)

/-- Whether a transactional access may act now: its place in the thread's order and at its home. -/
def txnMayAct (c : LaneCtx) (r : LaneRun) (d : Dev) (s : Shuttle) (p : MemReq × MemGo) : Bool :=
  match p.2, s.inTxn p.1.o.beat with
  | .home l, true =>
    let n := memSize r.opc r.w
    let a : Access :=
      { id := d.nextId, word := d.nextId, beat := some p.1.o.beat, kind := .load, va := p.1.a, size := n, data := 0,
        ord := 0, dst := .none, covers := [p.1.o.beat], block := c.blk.id, status := .home l }
    r.opc != 0x0A0 || (s.inOrder a && d.homeOpen c.env.launch.fn s.id (some p.1.o.beat) l n false)
  | _, _ => true

/-- Threads of a word aborted with DISALLOWED before it has any effect (R302). -/
def abortEach (d : Dev) (s : Shuttle) (fn : Nat) (code : Nat) (beats : List Nat) : Dev × Shuttle × List Entry :=
  beats.foldl
    (fun acc b =>
      match acc.2.1.attempt b with
      | none => acc
      | some t =>
        let r := acc.1.abortTxn acc.2.1 fn t code 0 false
        (r.1, r.2.1, acc.2.2 ++ [r.2.2]))
    (d, s, [])

/-! ## The word -/

/-- The accesses of the threads of a word by their addresses, each with what it reaches; a window address of an atomic or
reduction reaches nothing (R245). -/
def memRequests (c : LaneCtx) (r : LaneRun) (ex : List Nat) (ops : List Operands) (d : Dev) (s : Shuttle) : List MemReq :=
  ops.map fun o =>
    let a := memAddress r.opc r.w o
    MemReq.mk o a (if r.w.u then ex else [o.beat])
      (match reach c.env.launch.fn ((d.team s.team).getD c.env.team) a (memSize r.opc r.w) with
        | .window l => if isAtomic r.opc then .bad else .window l
        | .fifo k => if isAtomic r.opc then .bad else .fifo k
        | x => x)

/-- The address fault of a word (R31, R294). -/
def badAddress (r : LaneRun) (reqs : List MemReq) : Option LaneTrap :=
  match reqs.filter fun q => q.reach == .bad with
  | q :: qs => some { cause := 0x14, sub := 0, threads := (q :: qs).flatMap (·.covers), addr := q.a, words := r.raw }
  | [] => none

/-- The accesses of a word whose operands are read: address checks, translation, then each access in beat order. -/
def runAccesses (c : LaneCtx) (r : LaneRun) (ex : List Nat) (ops : List Operands) (d : Dev) (s : Shuttle) (e : Entry)
    (out : List Entry) : LaneStep :=
  let reqs := memRequests c r ex ops d s
  let isWindow := fun (q : MemReq) => s.inTxn q.o.beat && [0xFC, 0xFD, 0xFE].contains (q.a / 2 ^ 56)
  let (d, s, dis) := abortEach d s c.env.launch.fn txnDisallowed ((reqs.filter isWindow).map (·.o.beat))
  let out := out ++ dis
  let reqs := reqs.filter fun q => !(dis.any fun x => x.beats.contains q.o.beat)
  match badAddress r reqs with
  | some t => { d := d, s := s, e := e, out := out, fin := .trapped t }
  | none =>
    let (d, met) := meetAll c r reqs d
    match met.filter fun p => p.2 == .fatal with
    | p :: ps =>
      { d := d, s := s, e := e, out := out,
        fin := .trapped
          { cause := 0x15, sub := 0, threads := (p :: ps).flatMap (·.1.covers), addr := p.1.a, words := r.raw } }
    | [] =>
      if !met.all (txnMayAct c r d s) then { d := d, s := s, e := e, out := out, fin := .waiting }
      else
        let word := d.nextId
        let s := if isO r.w.d && r.opc != 0x0A1 && met.all (fun p => match p.2 with | .fault _ => false | _ => true)
          then s.markWritten c.blk.id r.outputs else s
        let (d, s, out) := met.foldl (fun acc p => takeAccess c r word acc.1 acc.2.1 acc.2.2 p) (d, s, out)
        { d := d, s := { s with exposed := s.exposed || r.usesQueue || isAtomic r.opc }, e := e, out := out,
          fin := .moved }

/-- A word that waits once it may have popped a queue. -/
def LaneRun.waitQueue (r : LaneRun) (d : Dev) (s : Shuttle) (e : Entry) (out : List Entry) : LaneStep :=
  { d := d, s := { s with exposed := s.exposed || r.usesQueue }, e := e, out := out, fin := .waiting }

/-- Whether the address of a thread's access can be told before the word pops or reads anything else, and lies in a window. -/
def LaneRun.atWindow (c : LaneCtx) (r : LaneRun) (d : Dev) (s : Shuttle) (e : Entry) (beat : Nat) : Bool :=
  let srcs := r.srcs.take 2
  if (e.heldFor r beat).isSome || srcs.any fun x => s.srcEmpty c.blk beat x.2.1 x.2.2 then false
  else
    match popFor c s beat ((popsOf srcs).drop (e.poppedBy beat).length) d e with
    | (_, e, true) => [0xFC, 0xFD, 0xFE].contains (memAddress r.opc r.w (r.operands s c.blk e beat) / 2 ^ 56)
    | _ => false

/-- The transactional threads that a word aborts before it has any effect (R302): all at a word that is never transactional, and
those whose address lies in a window. A value that a thread popped while it waited for the rest of its address stays with the
word (R134; DESIGN CHOICE, log 86). -/
def LaneRun.disallowed (c : LaneCtx) (r : LaneRun) (d : Dev) (s : Shuttle) (e : Entry) (ex : List Nat) : List Nat :=
  if r.w.u || isAtomic r.opc then ex else ex.filter fun b => s.inTxn b && r.atWindow c d s e b

/-- `ld`, `st`, `atom` and `red`. An atomic or reduction reads C and D of `cas` after the check of its addresses (R294). -/
def memWord (c : LaneCtx) (r : LaneRun) (d : Dev) (s : Shuttle) (e : Entry) : LaneStep :=
  let ex0 := r.ex s
  let (d, s, out) := abortEach d s c.env.launch.fn txnDisallowed (r.disallowed c d s e ex0)
  let ex := staying ex0 out
  let ev := r.ev e ex
  let rd := r.reading e ev
  let (early, late) := if isAtomic r.opc then (r.srcs.take 2, r.srcs.drop 2 ++ r.casSrcs) else (r.srcs, [])
  if ex.isEmpty then { d := d, s := s, e := e, out := out, fin := .moved }
  else
    match r.sourcesReady s c.blk rd early with
    | some fin => { d := d, s := s, e := e, out := out, fin := fin }
    | none =>
      match r.outputFault c.blk ex with
      | some t => { d := d, s := s, e := e, out := out, fin := .trapped t }
      | none =>
        if r.dstPending s ex && late.isEmpty then { d := d, s := s, e := e, out := out, fin := .waiting }
        else
          match popAll c (popsOf early) s rd d e with
          | (d, e, false) => r.waitQueue d s e out
          | (d, e, true) =>
            match if late.isEmpty then none else badAddress r (memRequests c r ex (ev.map (r.operands s c.blk e)) d s) with
            | some t => { d := d, s := s, e := e, out := out, fin := .trapped t }
            | none =>
              match r.sourcesReady s c.blk rd late with
              | some fin => { d := d, s := s, e := e, out := out, fin := fin }
              | none =>
                if r.dstPending s ex then { d := d, s := s, e := e, out := out, fin := .waiting }
                else
                  match popAll c r.pops s rd d e with
                  | (d, e, false) => r.waitQueue d s e out
                  | (d, e, true) => runAccesses c r ex (ev.map (r.operands s c.blk e)) d s e out

/-! ## Prefetch and clean (R297) -/

/-- The line of an address fetched into the cluster L1. -/
def Dev.prefetchLine (d : Dev) (fn cluster : Nat) (l : Loc) : Dev :=
  (List.range 8).foldl
    (fun d k => (d.loadValue fn cluster { l with key := l.key / 128 * 128 + 16 * k } 16 true).1) d

/-- One thread's `pf` or `cln`: nothing for an address that is not a translatable virtual one. Their T is 0, so that no virtual
address counts as misaligned (DESIGN CHOICE, log 79: R297 gives no size to align to). -/
def cacheWord (clean : Bool) (c : LaneCtx) (d : Dev) (s : Shuttle) (a : Nat) : Dev :=
  let fn := c.env.launch.fn
  if a ≥ 2 ^ 56 then d
  else
    match d.translate fn c.env.launch.ctx a false false with
    | (d, .ok l _ _ _) =>
      if clean then { d with l1 := dropOwn d.l1 c.env.team.cluster (l.key / 128 * 128) 128 }
      else if d.homeOpen fn s.id none { l with key := l.key / 128 * 128 } 128 false then
        d.prefetchLine fn c.env.team.cluster l
      else d
    | (_, .fault _) => d

/-- `pf` and `cln`. -/
def cacheFn (clean : Bool) (c : LaneCtx) (r : LaneRun) : WordFn :=
  { eff := fun d s _ ops => (ops.foldl (fun d o => cacheWord clean c d s (memAddress r.opc r.w o)) d, s, []) }

/-- A word by its OPC that may be issued by `xissue` as well as fetched (R101). -/
def innerWord (c : LaneCtx) (r : LaneRun) (d : Dev) (s : Shuttle) (e : Entry) : LaneStep :=
  match laneFn r.opc with
  | some g => valueWord c r (arithFn c r g c.cur.fmt) d s e
  | none =>
    if r.opc == 0x0F4 then valueWord c r (lidxFn c r) d s e
    else if r.opc == 0x0FB then valueWord c r {} d s e
    else memWord c r d s e

end Sys2Proof.Machine
end

