-- ==== Sys2Proof/Machine/ScalarMem.lean ====
section
/-!
DEFINITION. Scalar loads and stores (spec/05 R111 to R115), the acquire load and release store (spec/14 R289), the scalar
atomic (R295), and the fences (R290).
-/
namespace Sys2Proof.Machine

/-- The effective address: the pair at Y and a word offset, modulo 2^64. -/
def Shuttle.scalarAddr (s : Shuttle) (y : Nat) (off : Int) : Nat := low 64 ((s.pair y : Int) + 4 * off)

/-- Consecutive registers aligned to their number. -/
def alignedRegs (x k : Nat) : List (Nat × Nat) := if k > 1 then [(x, k)] else []

/-- The trap of an address fault at issue (R115). -/
def Dev.addressTrap (d : Dev) (is : Issue) (s : Shuttle) (env : Env) (a : Nat) : Dev :=
  d.trap s env.nest.hasTrap env.nest.trapOff { scalarTrap is s 0x14 0 with addr := a } .scalar

/-- A scalar access issued, unless its address is bad. `after` is the shuttle once it is issued. -/
def Dev.scalarAccess (d : Dev) (is : Issue) (s : Shuttle) (env : Env) (acc : Access) (atomic : Bool)
    (after : Shuttle → Shuttle) : Dev :=
  let go := fun (st : AccStatus) (exposes : Bool) =>
    let s := { s with
      accs := s.accs ++ [{ acc with id := d.nextId, word := d.nextId, status := st, origin := is.origin s.fmt }] }
    { d with nextId := d.nextId + 1 }.setShuttle (after { s with exposed := s.exposed || exposes })
  match reach env.launch.fn env.team acc.va acc.size with
  | .bad => d.addressTrap is s env acc.va
  | .virt _ => go .walk atomic
  | .window l => if atomic then d.addressTrap is s env acc.va else go (.home l) false
  | .fifo e => if atomic then d.addressTrap is s env acc.va else go (.fifo e) true

/-- An access of the scalar stream before it is numbered. -/
def newScalarAccess (kind : AccKind) (va size data ord : Nat) (dst : AccDst) (covers : List Nat) : Access :=
  { id := 0, word := 0, beat := none, kind := kind, va := va, size := size, data := data, ord := ord, dst := dst,
    covers := covers, block := 0, status := .walk }

/-- What a load of k registers uses. -/
def loadUse (k x y : Nat) : ScalarUse :=
  { dests := regRange x k, names := regRange y 2 ++ regRange x k, aligned := (y, 2) :: alignedRegs x k,
    reads := regRange y 2, writes := regRange x k }

/-- A load of k registers (R112): its destination empties, with the load as its producer. -/
def scalarLoad (k x y : Nat) (off : Int) (s : State) : Outcome :=
  onIssue s fun is sh env d =>
    scalarGo (loadUse k x y) is sh env d
      (d.scalarAccess is sh env (newScalarAccess .load (sh.scalarAddr y off) (4 * k) 0 0 (.sregs x) []) false
        fun s => (s.markS x .pending k).advance is)

/-- A store of k registers, plain or release (R113, R289). -/
def scalarStore (k ord x y : Nat) (off : Int) (s : State) : Outcome :=
  onIssue s fun is sh env d =>
    scalarGo { names := regRange y 2 ++ regRange x k, aligned := (y, 2) :: alignedRegs x k,
               reads := regRange y 2 ++ regRange x k } is sh env d
      (d.scalarAccess is sh env (newScalarAccess .store (sh.scalarAddr y off) (4 * k) (sh.svals x k) ord .none []) false
        fun s => s.advance is)

def execSld (x y : Nat) (off : Int) (s : State) : Outcome := scalarLoad 1 x y off s
def execSld64 (x y : Nat) (off : Int) (s : State) : Outcome := scalarLoad 2 x y off s
def execSld128 (x y : Nat) (off : Int) (s : State) : Outcome := scalarLoad 4 x y off s
def execSst (x y : Nat) (off : Int) (s : State) : Outcome := scalarStore 1 0 x y off s
def execSst64 (x y : Nat) (off : Int) (s : State) : Outcome := scalarStore 2 0 x y off s
def execSst128 (x y : Nat) (off : Int) (s : State) : Outcome := scalarStore 4 0 x y off s
def execSstrel (x y : Nat) (off : Int) (s : State) : Outcome := scalarStore 1 2 x y off s

/-- The access that the instruction at issue has made and waits for. -/
def Shuttle.waitingAccess (s : Shuttle) (is : Issue) : Option Access :=
  s.accs.find? fun a => a.beat.isNone && a.dst == .stream && a.covers == [is.first]

/-- An instruction that waits for the value of its access, and then continues with it. -/
def Dev.awaitAccess (d : Dev) (is : Issue) (s : Shuttle) (env : Env) (acc : Access) (atomic : Bool)
    (done : Shuttle → Nat → Shuttle) : Dev :=
  match s.waitingAccess is with
  | some a =>
    match a.status with
    | .arrived v => d.setShuttle (done (s.dropAcc a.id) v)
    | _ => d
  | none => d.scalarAccess is s env { acc with dst := .stream, covers := [is.first] } atomic id

/-- `sldacq`: the stream continues once the value is read at the home and the invalidation is performed. -/
def execSldacq (x y : Nat) (off : Int) (s : State) : Outcome :=
  onIssue s fun is sh env d =>
    scalarGo { dests := [x], names := x :: regRange y 2, aligned := [(y, 2)], reads := regRange y 2, writes := [x] }
      is sh env d
      (d.awaitAccess is sh env (newScalarAccess .load (sh.scalarAddr y off) 4 0 1 .stream []) false
        fun s v => (s.putS x v 1).advance is)

/-- The registers of a satom of type T (R295). -/
def satomRegs (t : Nat) : Nat := if t == 6 || t == 7 then 2 else 1

/-- `satom`: X holds the expected value of `cas` and receives the old value. -/
def execSatom (x y f ord aop t z : Nat) (s : State) : Outcome :=
  let k := satomRegs t
  onIssue s fun is sh env d =>
    scalarGo { dests := regRange x k, names := regRange x k ++ regRange y 2 ++ regRange z k,
               aligned := (y, 2) :: (alignedRegs x k ++ alignedRegs z k),
               reads := regRange y 2 ++ regRange z k ++ (if aop == 7 then regRange x k else []),
               writes := regRange x k } is sh env d
      (d.awaitAccess is sh env
        (newScalarAccess (.atom aop t (sh.svals x k)) (sh.scalarAddr y f) (4 * k) (sh.svals z k) ord .stream []) true
        fun s v => ({ s with exposed := true }.putS x v k).advance is)

/-! ## Fences (R290) -/

/-- Every access of a shuttle that reads has been performed. -/
def Shuttle.readsPerformed (s : Shuttle) : Bool := s.accs.all fun a => a.performed || !a.kind.reads

/-- A fence: it waits as `lsync` does, for kinds with a release until every access is performed, and for kinds with an
acquire, which the loads before it synchronise through (R291), until those are performed; then it invalidates. -/
def fence (rel acq : Bool) (is : Issue) (sh : Shuttle) (env : Env) (d : Dev) : Dev :=
  if sh.drained && (!rel || sh.allPerformed) && (!acq || sh.readsPerformed) then
    (if acq then d.acquire env.team.cluster else d).setShuttle (sh.advance is)
  else d

/-- A mapping-query error of the scalar stream: the record holds Next (R125). -/
def Dev.mapError (d : Dev) (is : Issue) (s : Shuttle) (env : Env) (sub : Nat) : Dev :=
  d.trap s env.nest.hasTrap env.nest.trapOff { scalarTrap is s 5 sub with resume := is.next } .scalar

/-- Whether some level from k to 3 has a TEAM part (R186). -/
def teamLevel (lv : List LevelMap) (k : Nat) : Bool := (lv.drop k).any fun l => l.has kindTeam

/-- The SUB of a construct of level k that is a mapping-query error: 4 in a spawned shuttle (R211), 1 over TEAM. -/
def Shuttle.levelError (s : Shuttle) (lv : List LevelMap) (k : Nat) : Option Nat :=
  if s.spawned then some 4 else if teamLevel lv k then some 1 else none

/-- `sfence.sc`: its place in the order S is the step at which it completes. -/
def execSfenceSc (k : Nat) (s : State) : Outcome :=
  onIssue s fun is sh env d =>
    match sh.levelError env.launch.levels k with
    | some sub => d.mapError is sh env sub
    | none => fence true true is sh env d

def execSfenceAcqrel (s : State) : Outcome := onIssue s fun is sh env d => fence true true is sh env d
def execSfenceRel (s : State) : Outcome := onIssue s fun is sh env d => fence true false is sh env d
def execSfenceAcq (s : State) : Outcome := onIssue s fun is sh env d => fence false true is sh env d

end Sys2Proof.Machine
end

