-- ==== Sys2Proof/Machine/LaneCtl.lean ====
section
/-!
DEFINITION. Fetching a lane word into execution, and the lane control, mapping, transaction, accumulator and permute words
(spec/06 R155 to R157; spec/08 R202 to R210; spec/14 R300, R301, R306; spec/16 R362).
-/
namespace Sys2Proof.Machine

/-! ## A fetched word -/

/-- A fetched word: the checks of R100 that depend on the nest, then its execution. `sub1` is a further SUB 1 check. -/
def laneFetched (opc : Nat) (w : LaneWord) (sub1 : Env → Bool)
    (run : LaneCtx → LaneRun → Dev → Shuttle → Entry → LaneStep) (st : State) : Outcome :=
  onIssue st fun is s env d =>
    match s.block, s.current, laneRow opc with
    | some blk, some e, some row =>
      let c : LaneCtx := { is := is, env := env, blk := blk, cur := e }
      let r : LaneRun := { opc := opc, row := row, w := w, set := e.beats, path := [], raw := is.words }
      let illegal := fun sub operand =>
        finishWord c
          { d := d, s := s, e := e, out := [],
            fin := .trapped { cause := 0x10, sub := sub, threads := e.beats, operand := operand, words := is.words } }
      if sub1 env then illegal 1 0
      else
        match laneIllegal opc row w env.nest.nv env.nest.tiles (s.inq env.nest) (s.outq env.nest) with
        | some (sub, operand) => illegal sub operand
        | none => finishWord c (run c r d s e)
    | _, _, _ => d

/-- A word that is no instruction (R88, R89, R100): an illegal instruction of the stream at issue. The attempts of a lane word's
threads are validated first (R280). -/
def execUnassignedOpcode (sub : Nat) (st : State) : Outcome :=
  onIssue st fun is s env d =>
    if is.lane then
      match s.block, s.current with
      | some blk, some e =>
        finishWord { is := is, env := env, blk := blk, cur := e }
          { d := d, s := s, e := e, out := [],
            fin := .trapped { cause := 0x10, sub := sub, threads := e.beats, words := is.words } }
      | _, _ => d
    else d.scalarTrapOf is s env 0x10 sub

/-- A fetched word with no check of its own. -/
def laneWord (opc : Nat) (w : LaneWord) (run : LaneCtx → LaneRun → Dev → Shuttle → Entry → LaneStep) (st : State) :
    Outcome := laneFetched opc w (fun _ => false) run st

/-- A fetched value word. -/
def laneValue (opc : Nat) (w : LaneWord) (f : LaneCtx → LaneRun → WordFn) (st : State) : Outcome :=
  laneWord opc w (fun c r d s e => valueWord c r (f c r) d s e) st

/-- A fetched word of the integer, float and conversion classes. -/
def laneArith (opc : Nat) (w : LaneWord) (g : LaneArg → Nat × Nat) (st : State) : Outcome :=
  laneValue opc w (fun c r => arithFn c r g c.cur.fmt) st

/-! ## Memory words (spec/06 R152; spec/14 R287, R292, R296, R297) -/

def execLd (w : LaneWord) (st : State) : Outcome := laneWord 0x0A0 w memWord st
def execSt (w : LaneWord) (st : State) : Outcome := laneWord 0x0A1 w memWord st
def execAtom (w : LaneWord) (st : State) : Outcome := laneWord 0x0A2 w memWord st
def execRed (w : LaneWord) (st : State) : Outcome := laneWord 0x0A3 w memWord st
def execPf (w : LaneWord) (st : State) : Outcome := laneValue 0x0A4 w (cacheFn false) st
def execCln (w : LaneWord) (st : State) : Outcome := laneValue 0x0A5 w (cacheFn true) st

/-! ## Branches (R202) -/

/-- Threads grouped by a value, in the order of each value's first thread. -/
def groupBy : List (Nat × Nat) → List (Nat × List Nat)
  | [] => []
  | (b, v) :: ps =>
    let gs := groupBy ps
    match gs.find? fun g => g.1 == v with
    | none => (v, [b]) :: gs
    | some g => (v, b :: g.2) :: gs.filter fun x => x.1 != v

/-- The entries of a branch: each target's threads, and the others at the next word. -/
def branchEntries (c : LaneCtx) (targets : List (Nat × Nat)) : List Entry :=
  let rest := c.cur.beats.filter fun b => !targets.any fun t => t.1 == b
  (groupBy targets).map (fun g => Entry.start g.1 g.2 c.cur.fmt) ++
    (if rest.isEmpty then [] else [Entry.start (c.cur.pc + 1) rest c.cur.fmt])

/-- The target of `bra` and `lcall`, modulo 2^64 so that one below 0 lies beyond the section. -/
def laneTarget (c : LaneCtx) (w : LaneWord) : Nat := low 64 ((c.cur.pc : Int) + sext 32 w.x)

def braFn (c : LaneCtx) (r : LaneRun) : WordFn :=
  { eff := fun d s ex _ => (d, s, branchEntries c (ex.map fun b => (b, laneTarget c r.w))) }

def brrFn (c : LaneCtx) : WordFn :=
  { eff := fun d s _ ops => (d, s, branchEntries c (ops.map fun o => (o.beat, o.a))) }

def execBra (w : LaneWord) (st : State) : Outcome := laneValue 0x0F0 w braFn st
def execBrr (w : LaneWord) (st : State) : Outcome := laneValue 0x0F1 w (fun c _ => brrFn c) st

/-- D of each executing thread written with one value, once no producer of it is pending. -/
def LaneRun.putAll (r : LaneRun) (s : Shuttle) (ex : List Nat) (v : Nat) : Shuttle :=
  if isV r.w.d then ex.foldl (fun s b => s.putV b r.w.d v 1) s else s
def LaneRun.oneDstPending (r : LaneRun) (s : Shuttle) (ex : List Nat) : Bool :=
  isV r.w.d && ex.any fun b => (s.vreg b r.w.d).isPending

def lcallFn (c : LaneCtx) (r : LaneRun) : WordFn :=
  { writes := false
    busy := fun _ s ex => r.oneDstPending s ex
    eff := fun d s ex _ =>
      (d, r.putAll s ex (c.cur.pc + 1), branchEntries c (ex.map fun b => (b, laneTarget c r.w))) }

def execLcall (w : LaneWord) (st : State) : Outcome := laneValue 0x0F2 w lcallFn st

/-! ## The end of a block (R23, R198, R203) -/

/-- The block ends: it leaves the queue, and the next one starts (R22). -/
def Shuttle.endBlock (s : Shuttle) : Shuttle :=
  ({ s with running := false, frontier := [], blocks := s.blocks.drop 1 } : Shuttle).startBlock

/-- The lowest output register that the block has not written. -/
def Block.missing (b : Block) : Option Nat := (List.range b.outN).find? fun k => !b.written.contains k

/-- The end of an `lend`: its entry waits there, and the block completes with its last entry. -/
def finishLend (c : LaneCtx) (d : Dev) (s : Shuttle) (e : Entry) (out : List Entry) : Dev :=
  let beats := staying c.cur.beats out
  let fr := nextFrontier c.env.bolt.lcode s.frontier c.cur { Entry.start c.cur.pc beats c.cur.fmt with status := .ended }
    out
  let s' := { s with frontier := fr }
  if fr.all fun x => x.status == .ended then
    match c.blk.missing with
    | none => d.setShuttle s'.endBlock
    | some k =>
      finishWord c
        { d := d, s := s, e := e, out := out,
          fin := .trapped { cause := 0x11, sub := 0, threads := beats, operand := 776 + k, words := c.is.words } }
  else d.setShuttle s'

/-- `lend`: a thread with an open transaction aborts instead (R302). -/
def execLend (w : LaneWord) (st : State) : Outcome :=
  onIssue st fun is s env d =>
    match s.block, s.current, laneRow 0x0F3 with
    | some blk, some e, some row =>
      let c : LaneCtx := { is := is, env := env, blk := blk, cur := e }
      match laneIllegal 0x0F3 row w env.nest.nv env.nest.tiles (s.inq env.nest) (s.outq env.nest) with
      | some (sub, operand) =>
        finishWord c
          { d := d, s := s, e := e, out := [],
            fin := .trapped { cause := 0x10, sub := sub, threads := e.beats, operand := operand, words := is.words } }
      | none =>
        let (d, s, out) := abortEach d s env.launch.fn txnDisallowed e.beats
        finishLend c d s e out
    | _, _, _ => d

/-! ## Indices, shared storage and votes (R205, R208, R209) -/

def execLidx (w : LaneWord) (st : State) : Outcome := laneValue 0x0F4 w lidxFn st

/-- The generic address of a thread's current copy of a handle (R185). -/
def Team.copyAddress (t : Team) (handle : Nat) (inst : List Nat) : Nat :=
  match t.copies.find? fun c => c.handle == handle && c.inst == inst with
  | none => 0
  | some c =>
    match c.entry with
    | some k => 0xFE * 2 ^ 56 + k * 2 ^ 19 + c.offset
    | none => 0xFC * 2 ^ 56 + c.offset

def lshbFn (c : LaneCtx) (r : LaneRun) : WordFn :=
  let h := r.w.x % 65536
  let k := ((c.env.nest.shared[h]?).map (·.level)).getD 0
  { check := fun _ s ex _ =>
      (s.levelError c.env.launch.levels k).map fun sub =>
        .trapped { cause := 5, sub := sub, threads := ex, words := r.raw }
    val := fun _ s _ _ o => (c.env.team.copyAddress h ((c.coord s o.beat).take k), 0) }

def execLshb (w : LaneWord) (st : State) : Outcome :=
  laneFetched 0x0F5 w (fun env => decide (w.x % 65536 ≥ env.nest.shared.length))
    (fun c r d s e => valueWord c r (lshbFn c r) d s e) st

def lvoteFn (r : LaneRun) : WordFn :=
  { val := fun _ s ex _ _ =>
      let n := (ex.filter fun b => s.pred b (r.w.x / 4 % 8)).length
      (match r.w.x % 4 with
        | 0 => boolW (n != 0)
        | 1 => boolW (n == ex.length)
        | _ => n, 0) }

def execLvote (w : LaneWord) (st : State) : Outcome := laneValue 0x0F6 w (fun _ r => lvoteFn r) st

/-! ## FMT and FLAGS (R157, R204) -/

def lfmtFn (c : LaneCtx) (r : LaneRun) : WordFn :=
  { check := fun _ _ _ ops =>
      if ops.any fun o => decide (o.a ≥ 2 ^ 24) then
        some (.trapped { cause := 0x10, sub := 1, threads := c.cur.beats, words := r.raw })
      else none
    eff := fun d s _ ops =>
      let rest := c.cur.beats.filter fun b => !ops.any fun o => o.beat == b
      (d, s, (groupBy (ops.map fun o => (o.beat, o.a))).map (fun g => Entry.start (c.cur.pc + 1) g.2 g.1) ++
        (if rest.isEmpty then [] else [Entry.start (c.cur.pc + 1) rest c.cur.fmt])) }

def execLfmt (w : LaneWord) (st : State) : Outcome := laneValue 0x0F8 w lfmtFn st

/-- Whether a float atomic of some threads, which may set NV, has not been performed (R136, R293). -/
def Shuttle.flagsInFlight (s : Shuttle) (beats : List Nat) : Bool :=
  s.accs.any fun a =>
    !a.performed && a.threads.any beats.contains &&
      (match a.kind with
        | .atom _ t _ => t == 8 || t == 12
        | _ => false)

def rdflgFn : WordFn :=
  { busy := fun _ s ex => s.flagsInFlight ex
    val := fun _ s _ _ o => (s.flag o.beat % 64, 0) }

def execRdflg (w : LaneWord) (st : State) : Outcome := laneValue 0x0F9 w (fun _ _ => rdflgFn) st

/-- With U the first thread's mask clears FLAGS in every executing thread (R135). -/
def clrflgFn (r : LaneRun) : WordFn :=
  { busy := fun _ s ex => s.flagsInFlight ex
    eff := fun d s ex ops =>
      (d, (spread ex r.w.u (ops.map fun o => (o.beat, o.a, 0))).foldl (fun s p => s.clearFlags p.1 p.2.1) s, []) }

def execClrflg (w : LaneWord) (st : State) : Outcome := laneValue 0x0FA w (fun _ r => clrflgFn r) st
def execLnop (w : LaneWord) (st : State) : Outcome := laneValue 0x0FB w (fun _ _ => {}) st

/-- `ltrap` (R156): one trap of the executing threads, with the first thread's code and value. -/
def ltrapFn (r : LaneRun) : WordFn :=
  { check := fun _ _ ex ops =>
      match ops with
      | [] => none
      | o :: _ =>
        some (.trapped { cause := 2, sub := 0, threads := ex, addr := o.b, code := o.a, words := r.raw, skip := true }) }

def execLtrap (w : LaneWord) (st : State) : Outcome := laneValue 0x0FC w (fun _ r => ltrapFn r) st

/-! ## Permute (R210) -/

/-- Whether a thread at a beat exists in the block's iteration. -/
def LaneCtx.exists? (c : LaneCtx) (beat : Nat) : Bool := c.blk.beats.contains beat

/-- The value of A at beat j; a queue operand gives what that thread's word popped, and 0 where it has popped nothing, since it
does not execute the word (DESIGN CHOICE, log 79: R210 does not say who pops for it). -/
def bpermValue (c : LaneCtx) (r : LaneRun) (s : Shuttle) (ops : List Operands) (j : Nat) : Nat :=
  if !c.exists? j then 0
  else if isQ r.w.a || isX r.w.a then ((ops.find? fun o => o.beat == j || isX r.w.a).map (·.a)).getD 0
  else s.srcVal c.blk j r.w.a 1

def bpermFn (c : LaneCtx) (r : LaneRun) : WordFn :=
  { check := fun _ s _ ops =>
      let reads := fun (f : Shuttle → Block → Nat → Nat → Nat → Bool) =>
        ops.filter fun o => c.exists? (o.b % 8) && f s c.blk (o.b % 8) r.w.a 1
      let trap := fun cause (os : List Operands) =>
        some (LaneFin.trapped
          { cause := cause, sub := 0, threads := if r.w.u then r.ex s else os.map (·.beat),
            operand := if cause == 3 then r.w.a else 0, words := r.raw })
      let short := reads Shuttle.srcEmpty
      if !short.isEmpty then (if eBit r.w 0 r.w.a then trap 3 short else some .waiting)
      else if !(reads Shuttle.srcBad).isEmpty then trap 0x13 (reads Shuttle.srcBad)
      else none
    val := fun _ s _ ops o => (bpermValue c r s ops (o.b % 8), 0) }

def execBperm (w : LaneWord) (st : State) : Outcome := laneValue 0x120 w bpermFn st

/-! ## Accumulator tiles (R359, R362) -/

/-- Whether the matrix unit holds a tile's token on a core. -/
def Dev.tokenOut (d : Dev) (team core tile : Nat) : Bool :=
  d.matOps.any fun o => o.team == team && o.tile == tile && o.cores.contains core

/-- The core that a tile operand selects, and its position in the team. -/
def Team.tileCore (t : Team) (core : Nat) (own : Bool) : Nat := if own then core else t.cores.headD 0
def Team.corePos (t : Team) (core : Nat) : Nat := (t.cores.findIdx? (· == core)).getD 0

/-- The location of an element that an index names. -/
def accKey (c : LaneCtx) (r : LaneRun) (core a : Nat) : Nat :=
  tileKey c.env.team.id (c.env.team.corePos (c.env.team.tileCore core (bit r.w.x 5))) (r.w.x % 32) (a / 128 % 128)
    (a % 128)

/-- An accumulator-token fault. -/
def accCheck (c : LaneCtx) (r : LaneRun) (d : Dev) (s : Shuttle) (ex : List Nat) : Option LaneFin :=
  if d.tokenOut c.env.team.id (c.env.team.tileCore s.core (bit r.w.x 5)) (r.w.x % 32) then
    some (.trapped { cause := 0x12, sub := 0, threads := ex, words := r.raw })
  else none

/-- The threads of a word in a transaction abort first; the others execute it (R302). -/
def withoutTxns (c : LaneCtx) (r : LaneRun) (run : LaneRun → Dev → Shuttle → Entry → LaneStep) (d : Dev) (s : Shuttle)
    (e : Entry) : LaneStep :=
  let (d, s, out) := abortEach d s c.env.launch.fn txnDisallowed (r.ex s)
  let res := run { r with set := staying r.set out } d s e
  { res with out := out ++ res.out }

/-- `accrd` reads the accumulator store; poison there is consumed (R430). -/
def accrdFn (c : LaneCtx) (r : LaneRun) : WordFn :=
  { check := fun d s ex ops =>
      match accCheck c r d s ex with
      | some f => some f
      | none =>
        let bad := ops.filter fun o => d.poisoned (accKey c r s.core o.a) 4
        if bad.isEmpty then none
        else some (.trapped { cause := 0x13, sub := 0, threads := bad.map (·.beat), words := r.raw })
    val := fun d s _ _ o => (leNat (readBytes d.mem (accKey c r s.core o.a) 4), 0) }

def execAccrd (w : LaneWord) (st : State) : Outcome :=
  laneWord 0x110 w (fun c r d s e => withoutTxns c r (fun r d s e => valueWord c r (accrdFn c r) d s e) d s e) st

def accwrFn (c : LaneCtx) (r : LaneRun) : WordFn :=
  { check := fun d s ex _ => accCheck c r d s ex
    eff := fun d s _ ops =>
      ({ d with
          mem := ops.foldl (fun m o => writeBytes m (accKey c r s.core o.a) (leBytes 4 o.b)) d.mem
          poison := ops.foldl (fun p o => dropPoison p (accKey c r s.core o.a) 4) d.poison }, s, []) }

def execAccwr (w : LaneWord) (st : State) : Outcome :=
  laneWord 0x111 w (fun c r d s e => withoutTxns c r (fun r d s e => valueWord c r (accwrFn c r) d s e) d s e) st

/-! ## Transactions (R298 to R306) -/

/-- A thread begins an attempt, or its entry waits for the token or for room; or an earlier abort was permanent. -/
def beginOne (c : LaneCtx) (d : Dev) (s : Shuttle) (out : List Entry) (beat st : Nat) : Dev × Shuttle × List Entry :=
  let fn := c.env.launch.fn
  let cl := c.env.team.cluster
  if bit st 25 then (d, s.dropTxn beat, out)
  else
    let count := st / 256 % 256
    let t : Txn :=
      { beat := beat, pc := c.cur.pc, fmt := c.cur.fmt, active := false, serial := false, count := count,
        restart := none, log := [], committing := false }
    let park := fun status => { Entry.start c.cur.pc [beat] c.cur.fmt with status := status }
    if count ≥ 8 || st % 256 == txnCapacity then
      let f := d.func fn
      (d.setFunc fn { f with serialWait := f.serialWait ++ [(s.id, beat)] }, s.putTxn t, out ++ [park .serialToken])
    else if (d.setShuttle s).openLogs cl < d.logRoom cl then
      let (d, s) := d.beginTxn s cl t false
      (d, s, out)
    else ({ d with logWait := d.logWait ++ [(s.id, beat)] }, s.putTxn t, out ++ [park .logRoom])

/-- The status that `tbeg` writes: that of the abort it was reached by, or 0 (R300). -/
def Shuttle.restartStatus (s : Shuttle) (beat : Nat) : Nat := ((s.txn beat).bind (·.restart)).getD 0

def tbegFn (c : LaneCtx) (r : LaneRun) : WordFn :=
  { writes := false
    busy := fun _ s ex => r.oneDstPending s ex
    eff := fun d s ex _ =>
      let (d, s, out) := abortEach d s c.env.launch.fn txnNest ex
      (staying ex out).foldl
        (fun acc b =>
          let st := acc.2.1.restartStatus b
          let s := if isV r.w.d then acc.2.1.putV b r.w.d st 1 else acc.2.1
          beginOne c acc.1 s acc.2.2 b st)
        (d, s, out) }

/-- Threads that pass a `tbeg` without executing it no longer arrive at one by restart. -/
def Shuttle.passRestart (s : Shuttle) (beats : List Nat) : Shuttle :=
  { s with txns := s.txns.map fun t => if beats.contains t.beat && !t.active then { t with restart := none } else t }

def execTbeg (w : LaneWord) (st : State) : Outcome :=
  laneWord 0x0E0 w
    (fun c r d s e =>
      valueWord c r (tbegFn c r) d (s.passRestart (r.set.filter fun b => !(r.ex s).contains b)) e) st

/-- The lexicographic order of coordinates (R161). -/
def coordBefore : List Nat → List Nat → Bool
  | a :: as, b :: bs => a < b || (a == b && coordBefore as bs)
  | _, _ => false

/-- A list with an element inserted in the order of a relation. -/
def insertBy {α : Type} (lt : α → α → Bool) (x : α) : List α → List α
  | [] => [x]
  | y :: ys => if lt x y then x :: y :: ys else y :: insertBy lt x ys
def sortBy {α : Type} (lt : α → α → Bool) (l : List α) : List α := l.foldl (fun acc x => insertBy lt x acc) []

/-- `tend` (R301): the attempts of the executing threads are resolved in logical order; those with a log go to the commit
units, and the entry waits for their outcomes. Attempts that commit already when others merge with their entry stand before the
others' (log 78). -/
def tendWord (c : LaneCtx) (r : LaneRun) (d : Dev) (s : Shuttle) (e : Entry) : LaneStep :=
  let fn := c.env.launch.fn
  let ex := r.ex s
  let open_ := ex.filterMap s.attempt
  if open_.isEmpty then { d := d, s := s, e := e, out := [], fin := .moved }
  else if !s.releaseReady c.blk ((open_.filter fun t => !t.committing).map (·.beat)) then
    { d := d, s := s, e := e, out := [], fin := .waiting }
  else
    let before := open_.filter (·.committing)
    let ordered := sortBy (fun a b => coordBefore (c.coord s a.beat) (c.coord s b.beat)) (open_.filter fun t => !t.committing)
    let (kept, lost) := survivors before ordered
    let (d, s, out) := lost.foldl
      (fun acc t =>
        let x := acc.1.abortTxn acc.2.1 fn t txnLost 0 false
        (x.1, x.2.1, acc.2.2 ++ [x.2.2]))
      (d, s, [])
    let none? := kept.filter fun t => t.log.isEmpty
    let some? := kept.filter fun t => !t.log.isEmpty
    let (d, s) := none?.foldl
      (fun acc t =>
        ((acc.1.acquire c.env.team.cluster).releaseTxn fn s.id t.beat,
          { acc.2.dropTxn t.beat with exposed := true }))
      (d, s)
    let s := some?.foldl (fun s t => s.putTxn { t with committing := true }) s
    if some?.isEmpty && before.isEmpty then { d := d, s := s, e := e, out := out, fin := .moved }
    else { d := d, s := s, e := { e with status := .committing }, out := out, fin := .waiting }

def execTend (w : LaneWord) (st : State) : Outcome := laneWord 0x0E1 w tendWord st

def tabtFn (c : LaneCtx) : WordFn :=
  { eff := fun d s _ ops =>
      ops.foldl
        (fun acc o =>
          match acc.2.1.attempt o.beat with
          | none => acc
          | some t =>
            let x := acc.1.abortTxn acc.2.1 c.env.launch.fn t txnExplicit (o.a % 256) (bit o.a 8)
            (x.1, x.2.1, acc.2.2 ++ [x.2.2]))
        (d, s, []) }

def execTabt (w : LaneWord) (st : State) : Outcome := laneValue 0x0E2 w (fun c _ => tabtFn c) st

/-- The state of a thread's transaction (R306). -/
def Shuttle.txnState (s : Shuttle) (beat : Nat) : Nat :=
  match s.attempt beat with
  | none => 0
  | some t => 1 + 2 * boolW t.serial + t.count * 256 + t.log.length * 65536

def tstsFn (r : LaneRun) : WordFn :=
  { writes := false
    busy := fun _ s ex => r.oneDstPending s ex
    eff := fun d s ex _ => (d, ex.foldl (fun s b => s.putV b r.w.d (s.txnState b) 1) s, []) }

def execTsts (w : LaneWord) (st : State) : Outcome := laneValue 0x0E3 w (fun _ r => tstsFn r) st

end Sys2Proof.Machine
end

