-- ==== Sys2Proof/Machine/Slices.lean ====
section
/-!
DEFINITION. The streams of declared access slices, when one starts and when what it pushed is discarded (spec/15 R325, R326).
-/
namespace Sys2Proof.Machine

/-- The declared slices of a stage that are not dynamic. -/
def Nest.slicesOf (n : Nest) (stage : Nat) : List AccessDecl := n.access.filter fun a => a.stage == stage && !a.dynamic

/-- The stream of a declared slice for a thread, before its base and argument extents are read. -/
def sliceStream (l : Launch) (s : Shuttle) (a : AccessDecl) (id beat : Nat) (coord : List Nat) : Stream :=
  { id := id, sh := s.id, beat := beat, seq := s.seq, stage := s.stage, coord := coord, q := a.queue,
    base := (l.runArgs + a.baseOff) % 2 ^ 64, size := a.size, exts := a.exts.take a.ndim, strides := a.strides.take a.ndim,
    pos := 0, fault := none, dynamic := false, ready := false }

/-- A team with a stream that it does not yet have. -/
def Dev.addStream (d : Dev) (team : Nat) (f : Nat → Stream) : Dev :=
  match d.team team with
  | none => d
  | some t =>
    let x := f d.nextId
    if t.streams.any fun y => y.stage == x.stage && y.coord == x.coord && y.q == x.q && !y.dynamic then d
    else { d with nextId := d.nextId + 1 }.setTeam { t with streams := t.streams ++ [x] }

/-- The streams of the threads of a shuttle's present iteration start, unless they have started before. -/
def Dev.startStreams (d : Dev) (sh : Nat) (env : Env) : Dev :=
  match d.shuttle sh with
  | none => d
  | some s =>
    if s.spawned then d
    else
      (env.nest.slicesOf s.stage).foldl
        (fun d a =>
          (s.threads env.launch.levels env.team.num s.seq).foldl
            (fun d b =>
              d.addStream s.team fun id =>
                sliceStream env.launch s a id b (s.coord env.launch.levels env.team.num s.seq b)) d) d

/-! ## The last pass of an iteration (R326; log 83) -/

/-- Whether a word, at an offset, cannot bring the stream to the region of level k again: it is no `srgnb` of it, no jump through
a register and no prefix of a branch, and as a branch it goes to `next` or further on. -/
def keepsClosed (next k i w body : Nat) : Bool :=
  let op := opOf w
  if op == 0x3A then fnOf w != k
  else if op == 0x26 then false
  else if op == 0x7F then !(decide (0x20 ≤ opOf body) && decide (opOf body ≤ 0x27))
  else if 0x20 ≤ op && op ≤ 0x27 then decide ((next : Int) ≤ (i : Int) + immOf w)
  else true

/-- Whether code from `next` on never opens the region of level k again, as far as its words tell. -/
def neverReopens (scode : List Nat) (next k : Nat) : Bool :=
  (List.range (scode.length - next)).all fun i =>
    keepsClosed next k (next + i) (scode.getD (next + i) 0) (scode.getD (next + i + 1) 0)

/-- The streams of a shuttle's present iteration end, and what they pushed and nothing popped is discarded. -/
def Dev.endIteration (d : Dev) (s : Shuttle) : Dev :=
  match d.team s.team with
  | none => d
  | some t =>
    let mine := fun (x : Stream) => x.sh == s.id && x.seq == s.seq
    d.setTeam { t with
      streams := (t.streams.filter fun x => !(mine x && x.dynamic)).map fun x =>
        if mine x then { x with exts := [0], pos := 0, ready := true } else x
      queues := t.queues.filter fun v =>
        !t.streams.any fun x => mine x && x.stage == v.stage && x.coord == v.coord && x.q == v.q }

/-- `srgne` of level k, with `next` after it, has passed the present iteration for the last time where the code that follows never
opens the region again. A handler can send the stream anywhere, so that nothing is known where there is one; what is not discarded
then stays until the team retires (R163). -/
def Dev.passIteration (d : Dev) (s : Shuttle) (env : Env) (next k : Nat) : Dev :=
  if !env.nest.hasTrap && neverReopens env.bolt.scode next k then d.endIteration s else d

end Sys2Proof.Machine
end

