-- ==== Sys2Proof/Machine/Parallel.lean ====
section
/-!
DEFINITION. The level constructs of the scalar stream: indices and mapping registers (spec/08 R206, R207), region markers
(spec/07 R176, R178; spec/08 R212), barriers and the phases they split regions into (spec/07 R179 to R184; spec/08 R214),
collectives (spec/08 R215, R216), election (R213), region boundaries (spec/20 R422) and `spawn` (spec/08 R217).
-/
namespace Sys2Proof.Machine

/-! ## Indices and mapping registers -/

/-- `sidx`: a uniform level has one index in every beat. -/
def execSidx (x k : Nat) (s : State) : Outcome :=
  onIssue s fun is sh env d =>
    scalarGo (useNone x) is sh env d
      (if !(env.nest.level k).uniform then d.mapError is sh env 2
       else
        d.setShuttle
          ((sh.putS x ((sh.coord env.launch.levels env.team.num sh.seq 0).getD k 0) 1).advance is))

/-- The mapping register of a selector. -/
def Dev.mapReg (d : Dev) (sh : Shuttle) (env : Env) (sel : Nat) : Nat :=
  if sel < 4 then mapLReg (env.launch.levels.getD sel (LevelMap.mk 1 7 0 0))
  else if sel == 4 then mapTReg env.launch.levels env.team (d.shuttlesOf env.team.id)
  else mapSReg env.nest.nstage (if sh.spawned then 0 else sh.stage)

/-- `smapq`: selectors 0 to 3 read a pair. -/
def execSmapq (x sel : Nat) (s : State) : Outcome :=
  onIssue s fun is sh env d =>
    let k := if sel < 4 then 2 else 1
    scalarGo { dests := regRange x k, names := regRange x k, aligned := alignedRegs x k, writes := regRange x k }
      is sh env d
      (if sel ≥ 6 then d.mapError is sh env 0
       else d.setShuttle ((sh.putS x (d.mapReg sh env sel) k).advance is))

/-! ## Saved iterations (R181) -/

/-- The index of the outermost level of a split. -/
def Split.head (p : Split) : Nat := p.levels.headD 4

/-- The levels whose markers pass straight through: those inside a split's outermost. -/
def Shuttle.passing (s : Shuttle) : List Nat := s.splits.flatMap fun p => p.levels.drop 1

/-- Whether two index lists agree on some levels. -/
def agreeOn (a b ks : List Nat) : Bool := ks.all fun k => a.getD k 0 == b.getD k 0

/-- The latest state saved for an iteration. -/
def Shuttle.carryFor (s : Shuttle) (seq : List Nat) : Option Carry :=
  s.splits.findSome? fun p => p.carries.find? fun c => agreeOn c.iter seq c.levels

/-- Cells put into a register file. -/
def putCells (m : List (Nat × RegCell)) (cs : List (Nat × RegCell)) : List (Nat × RegCell) :=
  cs.foldl (fun m c => putK blankReg m c.1 c.2) m

/-- Cells listed by rising key, one for each. -/
def cellsByKey (cs : List (Nat × RegCell)) : List (Nat × RegCell) := cs.foldl (fun m c => insK m c.1 c.2) []

def Shuttle.restore (s : Shuttle) (c : Carry) : Shuttle :=
  { s with
    vregs := putCells s.vregs c.vregs, sregs := putCells s.sregs c.sregs, preds := c.preds, flags := c.flags,
    counts := c.counts }

/-- The present state saved for the present iteration of a split with some ranges carried. -/
def Shuttle.saveCarry (s : Shuttle) (levels vr sr : List Nat) (beats : Nat) : Shuttle :=
  let c : Carry :=
    { iter := s.seq, levels := levels,
      vregs := cellsByKey ((List.range beats).flatMap fun b => vr.map fun r => (vkey b r, s.vreg b r)),
      sregs := cellsByKey (sr.map fun r => (r, s.sreg r)), preds := s.preds, flags := s.flags, counts := s.counts }
  { s with splits := s.splits.map fun p =>
      if p.levels == levels then
        { p with carries := c :: p.carries.filter fun x => !(x.levels == levels && agreeOn x.iter s.seq levels) }
      else p }

/-- The next iteration of a split begins: at the start of the innermost phase that it shares with the present one. -/
def Shuttle.nextIteration (s : Shuttle) (lv : List LevelMap) (levels : List Nat) : Option Shuttle :=
  match nextSeq lv s.num s.seq levels with
  | none => none
  | some seq =>
    let splits := s.splits.filter fun p =>
      decide (p.head ≤ levels.headD 4) || agreeOn s.seq seq (levels.filter fun k => !p.levels.contains k)
    let s' := { s with seq := seq, splits := splits }
    match splits with
    | [] => none
    | top :: _ =>
      let s' := match s'.carryFor seq with
        | some c => s'.restore c
        | none => { s' with flags := top.flags0, counts := top.counts0 }
      let inner := s'.regions.filter fun r => s'.passing.contains r.level && !top.stack.any fun x => x.level == r.level
      some { s' with pc := top.phaseStart, branchFrom := none, regions := inner ++ top.stack }

/-- The levels from k to 3 with a SEQ part whose regions are open, outermost first. -/
def Shuttle.openSeq (s : Shuttle) (lv : List LevelMap) (k : Nat) : List Nat :=
  (List.range 4).filter fun j => decide (k ≤ j) && seqLevel lv j && s.regions.any fun r => r.level == j

/-- A barrier splits the regions of some levels together: their phase started with the outermost region, or where the
phase of a wider split started. -/
def Shuttle.withSplit (s : Shuttle) (levels : List Nat) : Shuttle :=
  let j := levels.headD 0
  if s.splits.any fun p => p.head == j then
    { s with splits := s.splits.map fun p => if p.head == j then { p with levels := levels } else p }
  else
    let inner := s.splits.filter fun p => decide (j < p.head)
    let outer := s.splits.filter fun p => decide (p.head < j)
    let made := match outer.find? fun p => levels.all p.levels.contains with
      | some p => { p with levels := levels, carries := [] }
      | none =>
        match s.regions.find? fun r => r.level == j with
        | some r =>
          { levels := levels, phaseStart := r.start, stack := s.regions.filter fun x => decide (x.level ≤ j),
            flags0 := r.flags0, counts0 := r.counts0, carries := [] }
        | none =>
          { levels := levels, phaseStart := s.pc, stack := s.regions, flags0 := s.flags, counts0 := s.counts,
            carries := [] }
    { s with splits := inner ++ [made] ++ outer }

/-! ## Region markers -/

/-- `srgnb` of a level: its region opens, and its SEQ index is at the first combination. -/
def Shuttle.openRegion (s : Shuttle) (lv : List LevelMap) (k start : Nat) : Shuttle :=
  { s with
    regions :=
      { level := k, start := start, flags0 := s.flags, counts0 := s.counts, flagsAcc := [], countsAcc := [] } ::
        s.regions
    seq := if seqLevel lv k then setAt s.seq k 0 else s.seq }

def execSrgnb (k : Nat) (s : State) : Outcome :=
  onIssue s fun is sh env d =>
    if sh.spawned then d.mapError is sh env 4
    else if !(env.nest.level k).decl then d.mapError is sh env 5
    else if sh.passing.contains k then d.setShuttle (sh.advance is)
    else if sh.regions.any fun r => decide (k ≤ r.level) && !sh.passing.contains r.level then d.mapError is sh env 3
    else (d.setShuttle ((sh.openRegion env.launch.levels k is.next).advance is)).startStreams sh.id env

/-- The region of a level without its record. -/
def Shuttle.dropRegion (s : Shuttle) (k : Nat) : Shuttle := { s with regions := s.regions.filter fun r => r.level != k }

/-- The next iteration of a region that no barrier has split, or its close (R176, R178). -/
def Shuttle.stepRegion (s : Shuttle) (lv : List LevelMap) (r : Region) (is : Issue) : Shuttle :=
  let r' := { r with flagsAcc := orFlagLists s.flags r.flagsAcc, countsAcc := maxCountLists s.counts r.countsAcc }
  match nextSeq lv s.num s.seq [r.level] with
  | some seq =>
    { s with
      seq := seq, flags := r.flags0, counts := r.counts0, pc := r.start, branchFrom := none
      regions := s.regions.map fun x => if x.level == r.level then r' else x }
  | none =>
    ({ s with seq := setAt s.seq r.level 0, flags := r'.flagsAcc, counts := r'.countsAcc }.dropRegion r.level).advance is

/-- The `srgne` of the outermost level of a split region: the next iteration of its phase, or its close, where the
iterations' FLAGS and n merge. -/
def Shuttle.stepSplit (s : Shuttle) (lv : List LevelMap) (p : Split) (beats : Nat) (is : Issue) : Shuttle :=
  let s := s.saveCarry p.levels [] [] beats
  match s.nextIteration lv p.levels with
  | some s' => s'
  | none =>
    let cs : List Carry := (iterations lv s.num s.seq p.levels).filterMap s.carryFor
    { s with
      seq := p.levels.foldl (fun q k => setAt q k 0) s.seq
      flags := cs.foldl (fun f (c : Carry) => orFlagLists c.flags f) []
      counts := cs.foldl (fun n (c : Carry) => maxCountLists c.counts n) []
      regions := s.regions.filter fun r => !p.levels.contains r.level
      splits := s.splits.filter fun q => decide (q.head < p.head) }.advance is

/-- No register of a shuttle has a producer pending. -/
def Shuttle.nonePending (s : Shuttle) : Bool :=
  s.sregs.all (fun p => !p.2.isPending) && s.vregs.all fun p => !p.2.isPending

def execSrgne (k : Nat) (s : State) : Outcome :=
  onIssue s fun is sh env d =>
    let lv := env.launch.levels
    if sh.spawned then d.mapError is sh env 4
    else if !(env.nest.level k).decl then d.mapError is sh env 5
    else if sh.passing.contains k then d.setShuttle (sh.advance is)
    else
      match sh.regions.find? fun r => !sh.passing.contains r.level with
      | none => d.mapError is sh env 3
      | some r =>
        if r.level != k then d.mapError is sh env 3
        else if !seqLevel lv k then d.setShuttle ((sh.dropRegion k).advance is)
        else
          match sh.splits.find? fun p => p.head == k with
          | none =>
            if sh.drained then
              ((d.passIteration sh env is.next k).setShuttle (sh.stepRegion lv r is)).startStreams sh.id env
            else d
          | some p =>
            if sh.drained && sh.nonePending then
              ((d.passIteration sh env is.next k).setShuttle (sh.stepSplit lv p (laneCount lv) is)).startStreams sh.id env
            else d

/-! ## Barrier instances (R161, R179, R180) -/

/-- The leading indices that name an instance: a level of extent 1 adds nothing at its end. -/
def stripInst (lv : List LevelMap) : Nat → List Nat → List Nat
  | 0, _ => []
  | k + 1, c => if (lv.getD k (LevelMap.mk 1 7 0 0)).extent == 1 then stripInst lv k c else c.take (k + 1)

/-- Whether a level has index i for given part indices, at some iteration when it has a SEQ part. -/
def LevelMap.meets (l : LevelMap) (lane shut team i : Nat) : Bool :=
  let part := fun kind v =>
    kind == kindSeq ||
      (if kind == kindLane then lane else if kind == kindShut then shut else if kind == kindTeam then team else 0) == v
  decide (i < l.extent) &&
    (if l.outer == kindNone then part l.inner i else part l.outer (i / l.fact) && part l.inner (i % l.fact))

/-- Whether a shuttle of a team holds a thread of an instance. -/
def Shuttle.holds (s : Shuttle) (lv : List LevelMap) (team : Nat) (inst : List Nat) : Bool :=
  let sd := partDigits lv kindShut s.num
  let td := partDigits lv kindTeam team
  (List.range (laneCount lv)).any fun b =>
    let ld := partDigits lv kindLane b
    (List.range lv.length).all fun k =>
      let l := lv.getD k (LevelMap.mk 1 7 0 0)
      if k < inst.length then l.meets (ld.getD k 0) (sd.getD k 0) (td.getD k 0) (inst.getD k 0)
      else decide (l.index (ld.getD k 0) (sd.getD k 0) (td.getD k 0) 0 < l.extent)

/-- Whether every shuttle of an instance has arrived or has run `sexit`. -/
def Dev.instanceFull (d : Dev) (t : Team) (lv : List LevelMap) (stage : Nat) (inst : List Nat) : Bool :=
  (d.shuttlesOf t.id).all fun s =>
    s.spawned || s.stage != stage || !s.live || !s.holds lv t.num inst ||
      t.arrivals.any fun a => a.sh == s.id && a.stage == stage && a.inst == inst

/-! ## Collectives (R67, R184, R215, R216) -/

/-- op(a, b) of a collective on 32-bit values. -/
def collOp (op a b : Nat) : Nat :=
  match op with
  | 0 => addW 32 a b
  | 1 => (roundRaw .f32 0 false 0 (rawAdd 0 (floatVal .f32 a) (floatVal .f32 b))).1
  | 2 => minW 32 a b
  | 3 => maxW 32 a b
  | 4 => (floatMinMax .f32 false a b).1
  | 5 => (floatMinMax .f32 true a b).1
  | 6 => a &&& b
  | _ => a ||| b

def collIdentity : Nat → Nat
  | 2 => 0x7FFFFFFF
  | 3 => 0x80000000
  | 4 => 0x7F800000
  | 5 => 0xFF800000
  | 6 => 0xFFFFFFFF
  | _ => 0

/-- A NaN result is the canonical NaN. -/
def collResult (op v : Nat) : Nat :=
  if (op == 1 || op == 4 || op == 5) && anyNaN [floatVal .f32 v] then canonNaN .f32 else v

/-- One round of TreeReduce: neighbours combined in pairs. -/
def pairUp (f : Nat → Nat → Nat) : List Nat → List Nat
  | a :: b :: xs => f a b :: pairUp f xs
  | xs => xs

/-- TreeReduce; the fuel is the number of values. -/
def treeReduce (f : Nat → Nat → Nat) : Nat → List Nat → Nat
  | 0, xs => xs.headD 0
  | fuel + 1, xs => if xs.length ≤ 1 then xs.headD 0 else treeReduce f fuel (pairUp f xs)

/-- The rest of ExPrefix after a value. -/
def prefixRest (f : Nat → Nat → Nat) (acc : Nat) : List Nat → List Nat
  | [] => []
  | x :: xs => acc :: prefixRest f (f acc x) xs

/-- ExPrefix. -/
def exPrefix (op : Nat) (xs : List Nat) : List Nat :=
  match xs with
  | [] => []
  | x :: rest => collIdentity op :: prefixRest (collOp op) x rest

/-- Element j of the sequence of an `sslide` with w-bit elements. -/
def slideElem (w : Nat) (vals : List Nat) (fill : Nat) (j : Int) : Nat :=
  let m := 32 / w
  if 0 ≤ j ∧ j < (m * vals.length : Nat) then vals.getD (j.toNat / m) 0 / 2 ^ (w * (j.toNat % m)) % 2 ^ w
  else fill % 2 ^ w

/-- The k lowest elements of X at position i of an `sslide`. -/
def slideWord (w : Nat) (vals : List Nat) (fill : Nat) (d : Int) (i : Nat) : Nat → Nat
  | 0 => 0
  | k + 1 =>
    slideWord w vals fill d i k +
      slideElem w vals fill ((32 / w * i + k : Nat) + d) * 2 ^ (w * k)

/-- The results of a collective at each position. -/
def collResults (coll : Nat × Nat × Int) (vals : List Nat) (fill : Nat) : List Nat :=
  if coll.1 == 0x44 then
    vals.map fun _ => collResult coll.2.1 (treeReduce (collOp coll.2.1) vals.length vals)
  else if coll.1 == 0x45 then (exPrefix coll.2.1 vals).map (collResult coll.2.1)
  else if coll.1 == 0x46 then
    let w := 32 / 2 ^ coll.2.1
    (List.range vals.length).map fun i => slideWord w vals fill coll.2.2 i (32 / w)
  else vals.map fun _ => vals.getD coll.2.2.toNat 0

/-- Cells with a value at a key. -/
def putCell (m : List (Nat × RegCell)) (k v : Nat) : List (Nat × RegCell) := insK m k (fullOf v)

/-- The result of a collective for a beat in an iteration. -/
def Shuttle.resultAt (s : Shuttle) (lv : List LevelMap) (team : Nat) (order : List (List Nat)) (res : List Nat)
    (seq : List Nat) (b : Nat) : Option Nat :=
  (order.findIdx? fun c => c == s.coord lv team seq b).map fun i => res.getD i 0

/-- The saved vector registers of an iteration with its results. -/
def carryResults (s : Shuttle) (lv : List LevelMap) (team : Nat) (order : List (List Nat)) (res : List Nat) (dst : Nat)
    (c : Carry) : List (Nat × RegCell) :=
  (s.threads lv team c.iter).foldl
    (fun m b => match s.resultAt lv team order res c.iter b with
      | some v => putCell m (vkey b dst) v
      | none => m) c.vregs

/-- The results of one instance reach a shuttle: its registers, or the saved state of its iterations (R184). -/
def Shuttle.takeResults (s : Shuttle) (lv : List LevelMap) (team : Nat) (a : Arrival) (order : List (List Nat))
    (res : List Nat) : Shuttle :=
  if a.levels.isEmpty then
    (s.threads lv team s.seq).foldl
      (fun s' b => match s.resultAt lv team order res s.seq b with
        | some v => s'.putV b a.dst v 1
        | none => s') s
  else
    { s with splits := s.splits.map fun p =>
        if p.levels != a.levels then p
        else
          { p with carries := p.carries.map fun c =>
              if c.levels != a.levels then c
              else
                { c with vregs := carryResults s lv team order res a.dst c } } }

/-- The release of an instance when its last shuttle has arrived or exited: an acquire, and a collective's results. -/
def Dev.releaseInstance (d : Dev) (team : Nat) (lv : List LevelMap) (stage : Nat) (inst : List Nat) : Dev :=
  match d.team team with
  | none => d
  | some t =>
    let here := t.arrivals.filter fun a => a.stage == stage && a.inst == inst
    if here.isEmpty || !d.instanceFull t lv stage inst then d
    else
      let d := (d.setTeam { t with arrivals := t.arrivals.filter fun a => !(a.stage == stage && a.inst == inst) }).acquire
        t.cluster
      let vals := sortBy (fun a b => coordBefore a.1 b.1) (here.flatMap (·.values))
      here.foldl
        (fun d a =>
          match a.key.coll, d.shuttle a.sh with
          | some c, some s =>
            d.setShuttle (s.takeResults lv t.num a (vals.map (·.1)) (collResults c (vals.map (·.2)) a.fill))
          | _, _ => d) d

/-- Every instance of a team that is full is released. -/
def Dev.releaseBarriers (d : Dev) (team : Nat) (lv : List LevelMap) : Dev :=
  match d.team team with
  | none => d
  | some t => t.arrivals.foldl (fun d a => d.releaseInstance team lv a.stage a.inst) d

/-! ## `sbar` and the collectives -/

/-- What a barrier word names: its level and id, and for a collective what it carries, its registers and fill value. -/
structure BarrierWord where
  k : Nat
  id : Nat
  coll : Option (Nat × Nat × Int)
  x : Nat
  y : Nat
  fill : Nat

/-- The carried registers of a barrier (R181, R183). -/
def BarrierWord.ranges (w : BarrierWord) (n : Nest) : List Nat × List Nat :=
  let own := if w.coll.isSome then [w.x, w.y] else []
  match n.carry w.k w.id with
  | none => (own, [])
  | some b => (own ++ regRange b.v0 (b.v1 + 1 - b.v0), regRange b.s0 (b.s1 + 1 - b.s0))

/-- After the release: the next phase of the split begins in its first iteration, or the code goes on. -/
def Shuttle.passBarrier (s : Shuttle) (levels : List Nat) (is : Issue) : Shuttle :=
  let s : Shuttle := { s with arrived := none }
  if levels.isEmpty then s.advance is
  else
    let seq := levels.foldl (fun q k => setAt q k 0) s.seq
    let s : Shuttle := { s with
      seq := seq
      splits := (s.splits.filter fun p => decide (p.head ≤ levels.headD 4)).map fun p =>
        if p.levels == levels then { p with phaseStart := is.next, stack := s.regions } else p }
    (match s.carryFor seq with
      | some c => s.restore c
      | none => s).advance is

/-- The logical threads that a shuttle stands for at a barrier, with their values of a register: those of every
iteration of the split, or its own. -/
def Shuttle.contributions (s : Shuttle) (lv : List LevelMap) (team : Nat) (levels : List Nat) (y : Nat) :
    List (List Nat × Nat) :=
  (iterations lv s.num s.seq levels).flatMap fun seq =>
    (s.threads lv team seq).map fun b =>
      let cell := if levels.isEmpty then s.vreg b y
        else match s.carryFor seq with
          | some c => getK (s.vreg b y) c.vregs (vkey b y)
          | none => s.vreg b y
      (s.coord lv team seq b, cell.val)

/-- A shuttle arrives at the instances that its threads lie in. Arrivals that differ end the team (R183). -/
def Dev.arrive (d : Dev) (s : Shuttle) (env : Env) (is : Issue) (w : BarrierWord) (levels : List Nat) : Dev :=
  let lv := env.launch.levels
  let vals := s.contributions lv env.team.num levels w.y
  let insts := (vals.map fun v => stripInst lv w.k v.1).eraseDups
  let key : ArrivalKey := { level := w.k, id := w.id, coll := w.coll }
  if env.team.arrivals.any fun a => a.stage == s.stage && insts.contains a.inst && a.key != key then
    d.terminate s 2 0 0 0 [] [] 0
  else
    let arrivals := insts.map fun i =>
      { stage := s.stage, inst := i, sh := s.id, key := key,
        values := if w.coll.isSome then vals.filter fun v => stripInst lv w.k v.1 == i else [],
        dst := w.x, fill := w.fill, levels := levels : Arrival }
    let d := (d.setTeam { env.team with arrivals := env.team.arrivals ++ arrivals }).setShuttle
      { s with arrived := some key, exposed := true }
    let d := insts.foldl (fun d i => d.releaseInstance env.team.id lv s.stage i) d
    match d.team env.team.id, d.shuttle s.id with
    | some t, some s => if t.arrivals.any fun a => a.sh == s.id then d else d.setShuttle (s.passBarrier levels is)
    | _, _ => d

/-- A barrier word that its checks let pass (R181, R214). -/
def Dev.barrier (d : Dev) (is : Issue) (s : Shuttle) (env : Env) (w : BarrierWord) : Dev :=
  let lv := env.launch.levels
  match s.levelError lv w.k with
  | some sub => d.mapError is s env sub
  | none =>
    let levels := s.openSeq lv w.k
    if s.arrived.isSome then
      if env.team.arrivals.any fun a => a.sh == s.id then d else d.setShuttle (s.passBarrier levels is)
    else if !(s.drained && s.allPerformed && s.nonePending) ||
        (w.coll.isSome && (s.threads lv env.team.num s.seq).any fun b => !(s.vreg b w.y).present) then d
    else if w.coll.isSome && (s.threads lv env.team.num s.seq).any fun b => (s.vreg b w.y).isBad then
      d.scalarTrapOf is s env 0x13 0
    else if levels.isEmpty then d.arrive s env is w []
    else
      let r := w.ranges env.nest
      let s := (s.withSplit levels).saveCarry levels r.1 r.2 (laneCount lv)
      match s.nextIteration lv levels with
      | some s => (d.setShuttle s).startStreams s.id env
      | none => d.arrive s env is w levels

def execSbar (k id : Nat) (s : State) : Outcome :=
  onIssue s fun is sh env d =>
    scalarGo { sub0 := sh.handler } is sh env d
      (d.barrier is sh env { k := k, id := id, coll := none, x := 0, y := 0, fill := 0 })

/-- A collective: X and Y name v registers (R86) and lie below nv, and a further scalar register may be read. -/
def collective (x y k : Nat) (reads : List Nat) (coll : Shuttle → Nat × Nat × Int) (fill : Shuttle → Nat)
    (s : State) : Outcome :=
  onIssue s fun is sh env d =>
    scalarGo { sub0 := sh.handler, sub4 := decide (x ≥ 768) || decide (y ≥ 768),
                 sub2 := decide (x ≥ env.nest.nv) || decide (y ≥ env.nest.nv), names := reads, reads := reads } is sh env d
      (d.barrier is sh env { k := k, id := 0, coll := some (coll sh), x := x, y := y, fill := fill sh })

def execScoll (x y k op : Nat) (s : State) : Outcome := collective x y k [] (fun _ => (0x44, op, 0)) (fun _ => 0) s
def execSprfx (x y k op : Nat) (s : State) : Outcome := collective x y k [] (fun _ => (0x45, op, 0)) (fun _ => 0) s
def execSslide (x y k width fill : Nat) (d : Int) (s : State) : Outcome :=
  collective x y k [fill] (fun _ => (0x46, width, d)) (fun sh => sh.sval fill) s
def execSbcast (x y k rank : Nat) (s : State) : Outcome :=
  collective x y k [rank] (fun sh => (0x47, 0, (sh.sval rank : Int))) (fun _ => 0) s

/-! ## Election (R213) -/

/-- Whether a shuttle holds the first thread of some level-k instance in its present iteration. -/
def Shuttle.holdsFirst (s : Shuttle) (lv : List LevelMap) (team k : Nat) : Bool :=
  (s.threads lv team s.seq).any fun b => ((s.coord lv team s.seq b).drop k).all (· == 0)

def execSelct (x k : Nat) (s : State) : Outcome :=
  onIssue s fun is sh env d =>
    scalarGo (useNone x) is sh env d
      (match sh.levelError env.launch.levels k with
        | some sub => d.mapError is sh env sub
        | none => d.setShuttle ((sh.putS x (boolW (sh.holdsFirst env.launch.levels env.team.num k)) 1).advance is))

/-! ## Region boundaries (R422, R424) -/

/-- The CREG of a region entry that records no register. -/
def noCreg : Nat := 0x3FF

/-- Whether the region table has an entry for a boundary word. -/
def Nest.boundaryOk (n : Nest) (id creg offset : Nat) : Bool :=
  match n.regions.find? fun r => r.id == id with
  | none => false
  | some r => r.creg == creg && r.resume == offset

/-- The record of a boundary. -/
def Shuttle.boundaryRecord (s : Shuttle) (resume : Nat) (creg : Option Nat) : RegionRecord :=
  { resume := resume, creg := creg, cval := creg.elim 0 s.sval, regions := s.regions, seq := s.seq, fmt := s.fmt,
    seed := s.seed, flags := s.flags, counts := s.counts }

/-- A boundary: no effect in a spawned shuttle, no record while a split holds carries; while its team is discarded, a
shuttle that writes its record stops (R424). -/
def boundary (creg : Option Nat) (id : Nat) (s : State) : Outcome :=
  onIssue s fun is sh env d =>
    scalarGo { sub0 := sh.handler, sub1 := !env.nest.boundaryOk id (creg.getD noCreg) is.first, names := creg.toList,
               reads := if sh.spawned then [] else creg.toList } is sh env d
      (if sh.spawned then d.setShuttle (sh.advance is)
       else if !(sh.drained && sh.allPerformed) then d
       else if sh.splits.any fun p => !p.carries.isEmpty then d.setShuttle (sh.advance is)
       else
        d.setShuttle
          { sh.advance is with
            record := some (sh.boundaryRecord is.first creg), exposed := false
            stopped := sh.stopped || env.team.pausing == some .discard })

def execSirb (id : Nat) (s : State) : Outcome := boundary none id s
def execSirc (x id : Nat) (s : State) : Outcome := boundary (some x) id s

/-! ## `spawn` (R13, R170, R217, R218) -/

/-- Words of a lane's register file, entries of a partition's scalar pool, and context slots of a lane. -/
def laneFileWords : Nat := 6144
def scalarPoolEntries : Nat := 8192
def slotsPerLane : Nat := 16

/-- The registers that a team's nest declares: nv and ns. -/
def Dev.regsOf (d : Dev) (t : Team) : Nat × Nat :=
  match d.envOfTeam t with
  | none => (0, 0)
  | some e => (e.nest.nv, e.nest.ns)

/-- The resident shuttles of a core. -/
def Dev.onCore (d : Dev) (core : Nat) : List (Shuttle × Nat × Nat) :=
  d.teams.flatMap fun t =>
    if !t.resident then []
    else
      let r := d.regsOf t
      ((d.shuttlesOf t.id).filter fun s => s.live && s.core == core).map fun s => (s, r)

/-- A free slot for n threads with nv and ns registers on a lane of a core, when the lane and the pool have room. -/
def laneRoom (on : List (Shuttle × Nat × Nat)) (part lane n nv ns : Nat) : Option Nat :=
  let inPart := on.filter fun s => s.1.part == part
  let inLane := inPart.filter fun s => s.1.lane == lane
  let words := inLane.foldl (fun w s => w + s.1.nthreads * s.2.1) 0
  let pool := inPart.foldl (fun w s => w + s.2.2 + 16) 0
  if words + n * nv > laneFileWords || pool + ns + 16 > scalarPoolEntries then none
  else (List.range slotsPerLane).find? fun k => !inLane.any fun s => s.1.slot == k

/-- The lowest partition and lane of a core with room, and the slot. -/
def coreRoom (on : List (Shuttle × Nat × Nat)) (n nv ns : Nat) : Option (Nat × Nat × Nat) :=
  (List.range (Config.partitionsPerCore * Config.lanesPerPartition)).findSome? fun i =>
    (laneRoom on (i / Config.lanesPerPartition) (i % Config.lanesPerPartition) n nv ns).map fun k =>
      (i / Config.lanesPerPartition, i % Config.lanesPerPartition, k)

/-- A shuttle in the start state of R30, before its first registers are written. -/
def Shuttle.fresh (id team : Nat) : Shuttle :=
  { id := id, team := team, stage := 0, num := 0, spawned := false, nthreads := 0, core := 0, part := 0, lane := 0,
    slot := 0, live := true, stopped := false, pc := 0, branchFrom := none, fmt := 0, seed := 0, sregs := [],
    vregs := [], preds := [], flags := [], counts := [], blocks := [], running := false, frontier := [],
    handler := false, suspended := .none, traps := 0, laneFence := 0, accs := [], regions := [], seq := [0, 0, 0, 0],
    splits := [], arrived := none, txns := [], record := none, exposed := false, sscw := [], waiter := false }

/-- The new shuttle of a `spawn`. -/
def Shuttle.spawnOf (s : Shuttle) (id n y target : Nat) (place : Nat × Nat × Nat) : Shuttle :=
  { Shuttle.fresh id s.team with
    spawned := true, nthreads := n, core := s.core, part := place.1, lane := place.2.1, slot := place.2.2,
    pc := target, fmt := s.fmt, seed := s.seed, exposed := true }.putWords 0 ((regRange y 8).map s.sval)

/-- `spawn`: its accesses so far come before every access of the new shuttle, whose start acquires (R273). -/
def execSpawn (x y n target : Nat) (s : State) : Outcome :=
  onIssue s fun is sh env d =>
    scalarGo { sub0 := sh.handler, dests := [x], names := x :: regRange y 8, reads := regRange y 8, writes := [x] }
      is sh env d
      (if !(sh.drained && sh.allPerformed) then d
       else
        let sh' := { (sh.advance is) with exposed := true }
        match coreRoom (d.onCore sh.core) n env.nest.nv env.nest.ns with
        | none => d.setShuttle (sh'.putS x 0 1)
        | some place =>
          let d := d.setShuttle (sh'.putS x 1 1)
          { d with nextId := d.nextId + 1, shuttles := d.shuttles ++ [sh.spawnOf d.nextId n y target place] }.acquire
            env.team.cluster)

end Sys2Proof.Machine
end

