-- ==== Sys2Proof/Machine/Blocks.lean ====
section
/-!
DEFINITION. The Treadle's own accesses (spec/18 R454, R456), and the completion of a block and of a launch (spec/18 R378,
R386; spec/16 R369; spec/22 R439).
-/
namespace Sys2Proof.Machine

/-! ## Accesses of the Treadle -/

/-- Where an access of the Treadle lies; none when it faults, whatever the fault. -/
def Dev.hubLoc (d : Dev) (fn ctx va n : Nat) (k : AccKind) : Dev × Option Loc :=
  if decide (va ≥ 2 ^ 56) || va % n != 0 then (d, none)
  else
    match d.meet fn ctx va k with
    | (d, .loc l) => (d, some l)
    | (d, _) => (d, none)

/-- Whether an access of the Treadle waits at its home (R282, R253). -/
def Dev.hubHeld (d : Dev) (fn ctx va n : Nat) (k : AccKind) : Bool :=
  match (d.hubLoc fn ctx va n k).2 with
  | some l => !d.homeOpen fn 0 none l n k.writes
  | none => false

/-- The record of a faulting access: an entry of KIND 8. -/
def Dev.hubFault (d : Dev) (fn q va : Nat) : Dev :=
  d.postError fn { kind := 8, cause := 0x15, place := q, addr := va }

/-- A read at the home, or none when it faults. -/
def Dev.hubRead (d : Dev) (fn ctx va n : Nat) : Dev × Option Nat :=
  match d.hubLoc fn ctx va n .load with
  | (d, some l) => (d, some (leNat (d.homeRead fn l n)))
  | (d, none) => (d, none)

/-- A write; one that faults is dropped and recorded. Answers whether it was performed. -/
def Dev.hubWrite (d : Dev) (fn ctx q va n v : Nat) : Dev × Bool :=
  match d.hubLoc fn ctx va n .store with
  | (d, some l) => (d.homeWrite (d.keyFor fn l.keyid l.key) l.key (leBytes n v), true)
  | (d, none) => (d.hubFault fn q va, false)

/-- The kind of an atomic addition of 64 bits. -/
def addKind : AccKind := .atom 0 7 0

/-- One atomic addition of 64 bits, modulo 2^64. -/
def Dev.hubAdd (d : Dev) (fn ctx q va v : Nat) : Dev × Bool :=
  match d.hubLoc fn ctx va 8 addKind with
  | (d, some l) =>
    let old := leNat (d.homeRead fn l 8)
    (d.homeWrite (d.keyFor fn l.keyid l.key) l.key (leBytes 8 (addW 64 old v)), true)
  | (d, none) => (d.hubFault fn q va, false)

/-! ## Re-evaluation points (R385) -/

/-- A re-evaluation point of a function: what its walks wait to read is read again. -/
def Dev.reevaluate (d : Dev) (fn : Nat) : Dev :=
  { d with queues := d.queues.map fun q =>
      if q.fn == fn then
        { q with held := false, relink := q.relink.map fun _ => false, qcbDue := q.qcbDue.map fun _ => false }
      else q }

/-! ## Completing a block (R378, R386, R388) -/

def resOk : Nat := 0
def resCancelled : Nat := 1
def resMapping : Nat := 2
def resPrologue : Nat := 3
def resFormat : Nat := 4
def resNodesc : Nat := 5
def resEngine : Nat := 6
def resTerminated : Nat := 7
def resDenied : Nat := 8
def resFault : Nat := 9

/-- A block that completes: its queue, address and context, its counter and increment, its notify list and IRQ bit. -/
structure BlockEnd where
  fn : Nat
  ctx : Nat
  q : Nat
  addr : Nat
  cnt : Nat
  inc : Nat
  nots : List Nat
  irq : Bool

/-- Whether a queue's count of completed blocks goes to memory: it has a DONEADDR, aligned to 8. -/
def Queue.counts (q : Queue) : Bool := q.doneAddr != 0 && q.doneAddr % 8 == 0

/-- Whether the write of a queue's count waits at its home. -/
def Dev.doneHeld (d : Dev) (b : BlockEnd) : Bool :=
  match d.queue b.q with
  | none => false
  | some q => q.fn == b.fn && q.counts && d.hubHeld q.fn q.ctx q.doneAddr 8 .store

/-- Whether an access of the completion waits at a home. -/
def Dev.blockHeld (d : Dev) (b : BlockEnd) : Bool :=
  d.hubHeld b.fn b.ctx (b.addr + 4) 4 .store || (b.cnt != 0 && d.hubHeld b.fn b.ctx b.cnt 8 addKind) ||
    (b.nots.any fun n => d.hubHeld b.fn b.ctx n 8 addKind) || d.doneHeld b

/-- The message of a queue's vector: counted by function and vector. On an insecure stream it is lost (R443). -/
def Dev.sendMsix (d : Dev) (fn vec : Nat) : Dev :=
  if !d.streamSecure fn then d
  else
  let k := fn * 2048 + vec
  { d with msix := putK 0 d.msix k (getK 0 d.msix k + 1) }

/-- The count of completed blocks of a bound queue, written at its DONEADDR. -/
def Dev.countDone (d : Dev) (q : Queue) : Dev :=
  let n := (q.done + 1) % 2 ^ 64
  let d := d.setQueue { q with done := n }
  if q.counts then (d.hubWrite q.fn q.ctx q.id q.doneAddr 8 n).1 else d

/-- The steps of R386, each performed before the next. -/
def Dev.completeBlock (d : Dev) (b : BlockEnd) (result detail : Nat) : Dev :=
  let d := (d.hubWrite b.fn b.ctx b.q (b.addr + 4) 4 (2 ^ 31 + detail % 256 * 256 + result)).1
  let d := if b.cnt == 0 then d else (d.hubAdd b.fn b.ctx b.q b.cnt b.inc).1
  let d := b.nots.foldl (fun d n => (d.hubAdd b.fn b.ctx b.q n (2 ^ 64 - 1)).1) d
  match d.queue b.q with
  | none => d
  | some q =>
    if q.fn != b.fn then d
    else
      let d := if b.irq then d.sendMsix b.fn q.vec else d
      (d.countDone q).reevaluate b.fn

/-! ## Completing a launch (R369, R386, R400) -/

/-- What the completion of a launch performs: of its block, or its counter increment alone. -/
def Launch.blockEnd (l : Launch) : BlockEnd :=
  match l.source with
  | .block q a nots irq =>
    { fn := l.fn, ctx := l.ctx, q := q, addr := a, cnt := l.cnt, inc := l.inc, nots := nots, irq := irq }
  | _ =>
    { fn := l.fn, ctx := l.ctx, q := l.rootQueue, addr := 0, cnt := l.cnt, inc := l.inc, nots := [], irq := false }

/-- Whether the completion of a launch waits at a home. -/
def Dev.launchHeld (d : Dev) (l : Launch) : Bool :=
  match l.source with
  | .block _ _ _ _ => d.blockHeld l.blockEnd
  | _ => l.cnt != 0 && d.hubHeld l.fn l.ctx l.cnt 8 addKind

/-- A mailbox slot becomes free (R439). -/
def Func.freeSlot (f : Func) (slot : Nat) : Func := { f with slots := f.slots.filter fun x => x.slot != slot }

/-- A launch completes: its block, or its increment, after which its pending-launch entry and its mailbox slot are
free. -/
def Dev.completeLaunch (d : Dev) (l : Launch) (result detail : Nat) : Dev :=
  let d := match l.source with
    | .block _ _ _ _ => d.completeBlock l.blockEnd result detail
    | .child => if l.cnt == 0 then d else (d.hubAdd l.fn l.ctx l.rootQueue l.cnt l.inc).1
    | .fired _ slot =>
      let d := if l.cnt == 0 then d else (d.hubAdd l.fn l.ctx l.rootQueue l.cnt l.inc).1
      d.setFunc l.fn ((d.func l.fn).freeSlot slot)
  { d with launches := d.launches.filter fun x => x.id != l.id }.reevaluate l.fn

end Sys2Proof.Machine
end

