-- ==== Sys2Proof/Machine/Teams.lean ====
section
/-!
DEFINITION. The end of a shuttle (spec/05 R127), of a team (spec/07 R191; spec/12 R242) and of a run of its launch
(spec/18 R393), and what a termination drops (spec/20 R412).
-/
namespace Sys2Proof.Machine

/-! ## What a team leaves -/

/-- A shuttle's attempts and waits end: a serial token is given back. -/
def Dev.dropTxns (d : Dev) (fn : Nat) (s : Shuttle) : Dev :=
  let d := s.txns.foldl (fun d t => d.releaseTxn fn s.id t.beat) d
  let f := d.func fn
  let d := { d with logWait := d.logWait.filter fun w => w.1 != s.id }
  if f.serialWait.any fun w => w.1 == s.id then
    d.setFunc fn { f with serialWait := f.serialWait.filter fun w => w.1 != s.id }
  else d

/-- A team and its shuttles are gone: banks, tiles and slots are free, and their contents are never visible again. -/
def Dev.endTeam (d : Dev) (t : Team) : Dev :=
  let d := (d.shuttlesOf t.id).foldl (fun d s => d.dropTxns t.fn s) d
  { d with
    teams := d.teams.filter fun x => x.id != t.id
    shuttles := d.shuttles.filter fun s => s.team != t.id
    mem := eraseRange d.mem (teamKey t.id) (2 ^ 32)
    poison := dropPoison d.poison (teamKey t.id) (2 ^ 32) }

/-- How many teams a launch has under its mapping. -/
def Launch.teamCount (l : Launch) : Nat := partProduct l.levels kindTeam

/-- Whether a launch places no further team: those of its run are placed, or a machine check has ended it (R435). -/
def Launch.placedAll (l : Launch) : Bool := l.checked || decide (l.nextTeam ≥ l.teamCount)

/-- Whether a launch completes with the run under way. -/
def Launch.lastRun (l : Launch) : Bool := l.checked || l.runLeft == 0

/-- Whether a launch has placed its last team and none is left. -/
def Dev.runOver (d : Dev) (l : Launch) : Bool :=
  l.placedAll && !d.teams.any fun t => t.launch == l.id

/-- Whether a granule is one of a tile: of its input, or of its output. -/
def ScanTile.owns (t : ScanTile) (g : Granule) : Bool := g.owner == t.id || g.owner == t.id + 1

/-- The chains and tiles of a launch that is over. -/
def Dev.dropChains (d : Dev) (launch : Nat) : Dev :=
  { d with
    chains := d.chains.filter fun c => c.launch != launch
    granules := d.granules.filter fun g => !d.tiles.any fun t => t.launch == launch && t.owns g
    tiles := d.tiles.filter fun t => t.launch != launch }

/-- The end of a run: another prologue run while R is above 0, or completion (R393). -/
def Dev.finishRun (d : Dev) (l : Launch) : Dev :=
  let d := d.dropChains l.id
  if !l.lastRun then
    d.setLaunch { l with runLeft := l.runLeft - 1, runNo := l.runNo + 1, phase := .prologue, nextTeam := 0 }
  else d.completeLaunch l (if l.checked then resFormat else resOk) 0

/-! ## Engine work of a team -/

/-- Whether a command was issued by a shuttle of a team. -/
def CopyCmd.ofTeam (c : CopyCmd) (team : Nat) : Bool :=
  match c.issuer with
  | .shuttle _ t => t == team
  | .queue _ _ _ _ => false

/-- Word k, and the 64-bit value at words k and k + 1, of an operand block. -/
def blockWord (ws : List Nat) (k : Nat) : Nat := ws.getD k 0
def blockPair (ws : List Nat) (k : Nat) : Nat := ws.getD k 0 + 2 ^ 32 * ws.getD (k + 1) 0

def CopyCmd.sspace (c : CopyCmd) : Nat := blockWord c.words 4 % 16
def CopyCmd.dspace (c : CopyCmd) : Nat := blockWord c.words 4 / 16 % 16
def CopyCmd.cnt (c : CopyCmd) : Nat := blockPair c.words 6

/-- Whether a command reaches storage of its team: a window or a FIFO bank. -/
def CopyCmd.usesStorage (c : CopyCmd) : Bool :=
  c.sspace == 1 || c.sspace == 2 || c.dspace == 1 || c.dspace == 2 || decide (c.cnt ≥ 2 ^ 56)

/-- Whether engine work that needs a team's storage is unfinished. -/
def Dev.engineBusy (d : Dev) (t : Team) : Bool :=
  d.matOps.any (fun o => o.team == t.id) || d.tiles.any (fun x => x.team == t.id && x.status != .sent) ||
    d.cmds.any fun c => c.ofTeam t.id && c.usesStorage

/-! ## `sexit` (R127) -/

/-- A shuttle that has exited holds nothing. -/
def Shuttle.exited (s : Shuttle) : Shuttle :=
  { Shuttle.fresh s.id s.team with
    stage := s.stage, num := s.num, spawned := s.spawned, nthreads := s.nthreads, core := s.core, part := s.part,
    lane := s.lane, slot := s.slot, live := false, pc := s.pc, seq := s.seq }

/-- A handler's exit discards the suspended block, the blocks behind it and the open transactions. In the handler of a trap of
the scalar stream, where no block is suspended, the blocks that run or queue are discarded too (DESIGN CHOICE, log 79: R127 names
the suspended block and those behind it). -/
def Shuttle.dropBlocks (s : Shuttle) : Shuttle :=
  { s with blocks := [], running := false, frontier := [], txns := [] }

/-- Whether a team has no live shuttle but one. -/
def Dev.lastLive (d : Dev) (s : Shuttle) : Bool :=
  (d.shuttlesOf s.team).all fun x => x.id == s.id || !x.live

/-- The exit of a shuttle; with the last one its team retires (R191). -/
def Dev.exitShuttle (d : Dev) (s : Shuttle) (env : Env) (last : Bool) : Dev :=
  let d := (d.setShuttle s.exited).releaseBarriers env.team.id env.launch.levels
  if !last then d
  else
    let d := d.endTeam env.team
    if d.runOver env.launch then d.finishRun env.launch else d

def execSexit (s : State) : Outcome :=
  onIssue s fun is sh env d =>
    scalarGo {} is sh env d
      (let d := if sh.handler then (d.dropTxns env.launch.fn sh).setShuttle sh.dropBlocks else d
       let sh := if sh.handler then sh.dropBlocks else sh
       let last := d.lastLive sh
       if !sh.blocks.isEmpty || !sh.allPerformed then d
       else if last && (d.engineBusy env.team || (env.launch.lastRun && d.launchHeld env.launch)) then d
       else d.exitShuttle sh env last)

/-! ## TEAM_TERMINATION (R412) -/

/-- A chain is poisoned from a tile on (R343). -/
def Chain.poison (c : Chain) (j : Nat) : Chain :=
  { c with poisonFrom := some (match c.poisonFrom with
      | none => j
      | some i => min i j) }

/-- The tiles of a team that have not sent their carries poison their chains, and forward the poison. -/
def Dev.poisonTiles (d : Dev) (team : Nat) : Dev :=
  let mine := d.tiles.filter fun t => t.team == team && t.status != .sent
  { d with
    chains := d.chains.map fun c => (mine.filter fun t => t.chain == c.uid).foldl (fun c t => c.poison t.j) c
    granules := d.granules.filter fun g => !mine.any fun t => t.owns g
    tiles := d.tiles.map fun t => if mine.any fun x => x.id == t.id then { t with status := .computed } else t }

/-- Step 2 of a termination: the open transactions of a team are discarded, and a held serial token is returned. -/
def Dev.dropTeamTxns (d : Dev) (t : Team) : Dev :=
  let d := (d.shuttlesOf t.id).foldl (fun d s => d.dropTxns t.fn s) d
  { d with shuttles := d.shuttles.map fun (s : Shuttle) => if s.team == t.id then { s with txns := [] } else s }

end Sys2Proof.Machine
end

