-- ==== Sys2Proof/Machine/Copy.lean ====
section
/-!
DEFINITION. Copy commands: the descriptor and its checks (spec/16 R350 to R352), elements, transforms and spaces (spec/15
R311 to R315), registration (spec/13 R281; spec/15 R319, R321), and the copy events (spec/15 R316 to R322; spec/12 R247).
-/
namespace Sys2Proof.Machine

/-! ## Status words (R348) -/

def codeField : Nat := 1
def codeSpace : Nat := 2
def codeAlign : Nat := 3
def codeFifo : Nat := 4
def codeBusy : Nat := 5
def codePool : Nat := 6
def codeDepth : Nat := 7
def codeBanks : Nat := 8
def codeNodesc : Nat := 9
def codePoison : Nat := 10
def codeNopair : Nat := 11
def codeDevice : Nat := 12
def codeState : Nat := 13

/-- A failed check: its CODE and WORD. -/
abbrev Failed := Nat × Nat

/-- The status word of a failure. -/
def statusWord (f : Failed) : Nat := f.2 * 256 + f.1

/-- The first failure of some checks in order. -/
def firstFailed : List (Bool × Nat × Nat) → Option Failed
  | [] => none
  | (bad, code, word) :: cs => if bad then some (code, word) else firstFailed cs

/-- What an engine instruction uses: its status register, and an operand block of n registers aligned to k (R347). -/
def engineUse (handler : Bool) (x y n k : Nat) : ScalarUse :=
  { sub0 := handler, dests := [x], sub2 := decide (y + n > 1008), names := x :: regRange y n, aligned := [(y, k)],
    reads := regRange y n, writes := [x] }

/-- The words of an operand block. -/
def Shuttle.blockWords (s : Shuttle) (y n : Nat) : List Nat := (regRange y n).map s.sval

/-- The instruction completes with a status. -/
def Shuttle.status (s : Shuttle) (is : Issue) (x v : Nat) : Shuttle := (s.putS x v 1).advance is

/-- The issue ordering of R281: every access before the command has been performed. -/
def Shuttle.settled (s : Shuttle) : Bool := s.drained && s.allPerformed

/-! ## The descriptor (R351) -/

def copyEsize (ws : List Nat) : Nat := bits (blockWord ws 4) 11 8
def copyNdim (ws : List Nat) : Nat := bits (blockWord ws 4) 15 12
def copyXform (ws : List Nat) : Nat := bits (blockWord ws 4) 19 16
def copySignal (ws : List Nat) : Bool := bit (blockWord ws 4) 20
def copyReg (ws : List Nat) : Bool := bit (blockWord ws 4) 21
def copySspace (ws : List Nat) : Nat := blockWord ws 4 % 16
def copyDspace (ws : List Nat) : Nat := blockWord ws 4 / 16 % 16
def copyDev (ws : List Nat) : Nat := blockWord ws 5 / 2 ^ 22
def copySfifo (ws : List Nat) : Nat := blockWord ws 5 / 16 % 16
def copyDfifo (ws : List Nat) : Nat := blockWord ws 5 % 16
def copyScale (ws : List Nat) : Nat := blockWord ws 29 + 2 ^ 32 * blockWord ws 39

/-- The extents of the dimensions in use. -/
def copyExts (ws : List Nat) : List Nat := (List.range (copyNdim ws)).map fun k => blockWord ws (10 + k)

/-- NE. -/
def copyCount (ws : List Nat) : Nat := (copyExts ws).foldl (· * ·) 1

/-- Bytes of a source element, and of a destination element. -/
def srcBytes (ws : List Nat) : Nat := 2 ^ copyEsize ws
def dstBytes (ws : List Nat) : Nat := if copyXform ws == 1 then 64 else 2 ^ copyEsize ws

/-- The index vector of element k, innermost first (R311). -/
def elemIndex : List Nat → Nat → List Nat
  | [], _ => []
  | e :: es, k => k % e :: elemIndex es (k / e)

/-- Σ kd × stride d, the strides being signed words from an offset of the block. -/
def strideSum (ws : List Nat) (off : Nat) : List Nat → Int
  | [] => 0
  | k :: ks => (k : Int) * sext 32 (blockWord ws off) + strideSum ws (off + 1) ks

/-- The source, destination and scale addresses of element k. -/
def srcAddr (ws : List Nat) (k : Nat) : Nat :=
  low 64 ((blockPair ws 0 : Int) + srcBytes ws * strideSum ws 20 (elemIndex (copyExts ws) k))
def dstAddr (ws : List Nat) (k : Nat) : Nat :=
  low 64 ((blockPair ws 2 : Int) + dstBytes ws * strideSum ws 30 (elemIndex (copyExts ws) k))
def scaleAddr (ws : List Nat) (k : Nat) : Nat :=
  low 64 ((copyScale ws : Int) + strideSum ws 20 (elemIndex (copyExts ws) k))

/-- The space of the scales: that of the source where it is the host's, else generic addresses. -/
def scaleSpace (ws : List Nat) : Nat := if copySspace ws == 4 then 4 else 0

/-- Whether the top byte of an address belongs to a space. -/
def topOk (space a : Nat) : Bool :=
  let top := a / 2 ^ 56
  if space == 0 || space == 3 then top == 0
  else if space == 1 then top == 0xFE || top == 0xFC
  else true

/-- Whether an address lies in a window and sets a bit that R32 requires to be zero. -/
def windowBad (a : Nat) : Bool := a / 2 ^ 56 == 0xFE && a % 2 ^ 56 ≥ 2 ^ 23

/-- Whether a FIFO side fits its entry (R314): slots of whole elements of the side, and NE × 2^ESIZE bytes of whole slots. -/
def fifoFits (team : Option Team) (entry size total : Nat) : Bool :=
  match team.bind fun t => t.bank entry with
  | some ⟨_, _, some (b, _), _, _⟩ => b % size == 0 && total % b == 0
  | _ => false

/-- Whether a window address lies in an entry in SCRATCH mode, or in the team-state window. -/
def scratchSide (team : Option Team) (a : Nat) : Bool :=
  a / 2 ^ 56 != 0xFE ||
    (match team.bind fun t => t.bank (a % 2 ^ 56 / 2 ^ 19) with
      | some ⟨_, _, none, _, _⟩ => true
      | _ => false)

/-- The checks of R351 in ascending word order; a COPY block belongs to no team (R380). DESIGN CHOICE (log 93): the 'first element'
of a SCRATCH side is element 0 under RESTART too, and an ESIZE other than 4 under XFORM 1 is FIELD; R351 leaves both open. -/
def copyCheck (f : Func) (team : Option Team) (ws : List Nat) : Option Failed :=
  let ss := copySspace ws
  let ds := copyDspace ws
  let xf := copyXform ws
  let es := copyEsize ws
  let nd := copyNdim ws
  let src := blockPair ws 0
  let dst := blockPair ws 2
  let cnt := blockPair ws 6
  let w4 := blockWord ws 4
  let w5 := blockWord ws 5
  let noTeam := team.isNone
  let srcAddressed := xf != 2 && (ss == 0 || ss == 1)
  firstFailed [
    (xf != 2 && !topOk ss src, codeSpace, 0),
    (srcAddressed && (src % 2 ^ min es 4 != 0 || windowBad src), codeAlign, 0),
    (xf != 2 && ss == 4 && src % 2 ^ min es 4 != 0, codeAlign, 0),
    (xf != 2 && ss == 1 && !noTeam && !scratchSide team src, codeFifo, 0),
    (!topOk ds dst, codeSpace, 2),
    (ds != 2 && ds < 5 && (dst % (if xf == 1 then 64 else 2 ^ min es 4) != 0 || (ds == 1 && windowBad dst)), codeAlign, 2),
    (ds == 1 && !noTeam && !scratchSide team dst, codeFifo, 2),
    (w4 / 2 ^ 22 != 0 || nd == 0 || nd > 10 || es > 4 || (xf == 1 && (nd > 9 || es != 4)), codeField, 4),
    (xf > 2 || ss > 4 || ds > 4 || ss == 3 || (ss == 4 && ds == 4) || (xf == 2 && ss != 0) ||
      (noTeam && (ss == 1 || ss == 2 || ds == 1 || ds == 2)), codeSpace, 4),
    (bits w5 21 8 != 0 || (ds != 3 && copyDev ws != 0) || (ss != 2 && copySfifo ws != 0) ||
      (ds != 2 && copyDfifo ws != 0), codeField, 5),
    ((ss == 2 && !fifoFits team (copySfifo ws) (srcBytes ws) (copyCount ws * srcBytes ws)) ||
      (ds == 2 && !fifoFits team (copyDfifo ws) (dstBytes ws) (copyCount ws * srcBytes ws)), codeFifo, 5),
    (ds == 3 && !f.reaches (copyDev ws), codeDevice, 5),
    (cnt != 0 && !(cnt / 2 ^ 56 == 0 || (!noTeam && (cnt / 2 ^ 56 == 0xFE || cnt / 2 ^ 56 == 0xFC))), codeSpace, 6),
    (cnt % 8 != 0 || windowBad cnt, codeAlign, 6)]

/-! ## Where engines reach -/

/-- What an engine's access meets. -/
inductive EngineAt where
  | loc (l : Loc)
  | replay (f : WalkFault)
  | fatal (cause addr : Nat)
  deriving DecidableEq, Repr

/-- A generic address as an engine reaches it. -/
def Dev.engineAt (d : Dev) (fn ctx : Nat) (team : Option Team) (a n : Nat) (k : AccKind) : Dev × EngineAt :=
  if a % n != 0 then (d, .fatal 0x14 a)
  else if a / 2 ^ 56 == 0 then
    match d.meet fn ctx a k with
    | (d, .loc l) => (d, .loc l)
    | (d, .replay f) => (d, .replay f)
    | (d, .fatal) => (d, .fatal 0x15 a)
  else
    match team.map fun t => reach fn t a n with
    | some (.window l) => (d, .loc l)
    | _ => (d, .fatal 0x14 a)

def peerLoc (dom dev a : Nat) : Loc := { key := peerKey dom dev a, keyid := 0, hctx := 0, space := spacePeer, ro := false }
def hostLoc (a : Nat) : Loc := { key := hostKey a, keyid := 0, hctx := 0, space := spaceHost, ro := false }

/-- Whether an address of a space is a virtual one, which a segment translates. -/
def isVirtual (space a : Nat) : Bool := (space == 0 || space == 1) && a / 2 ^ 56 == 0

/-- The page of a side that a segment has translated and an address lies in. -/
def CopyCmd.pageAt (c : CopyCmd) (side a : Nat) : Option HeldPage :=
  c.held.find? fun h => h.side == side && decide (h.lo ≤ a) && decide (a < h.lo + h.size)

/-- An address of a space (R312): under the segment's translation where it has one (R316). -/
def Dev.spaceAt (d : Dev) (c : CopyCmd) (team : Option Team) (side space a n : Nat) (k : AccKind) : Dev × EngineAt :=
  if space == 3 then (d, .loc (peerLoc (d.func c.fn).fdom (copyDev c.words) a))
  else if space == 4 then (d, if d.streamSecure c.fn then .loc (hostLoc a) else .fatal 0x15 a)
  else
    match (if isVirtual space a && a % n == 0 then c.pageAt side a else none) with
    | some h =>
      (d, if d.linked c.fn h.loc then .loc { h.loc with key := h.loc.key + (a - h.lo) } else .fatal 0x15 a)
    | none => d.engineAt c.fn c.ctx team a n k

/-- The addresses of the 16-byte pieces of an element, with their sizes. -/
def pieces (a n : Nat) : List (Nat × Nat) :=
  if n ≤ 16 then [(a, n)] else (List.range (n / 16)).map fun i => (a + 16 * i, 16)

/-- Where some pieces lie, or what the first of them that faults meets. -/
def Dev.piecesAt (d : Dev) (c : CopyCmd) (team : Option Team) (side space : Nat) (k : AccKind) :
    List (Nat × Nat) → Dev × Except EngineAt (List (Loc × Nat))
  | [] => (d, .ok [])
  | p :: ps =>
    match d.spaceAt c team side space p.1 p.2 k with
    | (d, .loc l) =>
      match d.piecesAt c team side space k ps with
      | (d, .ok ls) => (d, .ok ((l, p.2) :: ls))
      | r => r
    | (d, e) => (d, .error e)

/-! ## Registration (R281, R319, R321) -/

/-- Whether a granule takes in one more of its owner: those of single bytes stay apart. -/
def Granule.joins (x g : Granule) : Bool :=
  x.owner == g.owner && x.page == g.page && x.dst == g.dst && x.virt == g.virt && x.hold == g.hold && x.hold != .bytes

/-- A granule with the pieces of another. -/
def Granule.join (x g : Granule) : Granule :=
  let lo := min x.lo g.lo
  { x with left := x.left + g.left, lo := lo, size := max (x.lo + x.size) (g.lo + g.size) - lo }

/-- One more granule. -/
def addGranule (gs : List Granule) (g : Granule) : List Granule :=
  if gs.any fun x => x.joins g then gs.map fun x => if x.joins g then x.join g else x else gs ++ [g]

/-- One piece of a granule done; the granule goes with its last one (R282). -/
def doneGranule (gs : List Granule) (owner page : Nat) (dst : Bool) : List Granule :=
  (gs.map fun g =>
    if g.owner == owner && g.page == page && g.dst == dst && g.virt.isNone && g.hold != .bytes then
      { g with left := g.left - 1 }
    else g).filter fun g => g.left != 0

/-- The granules of a range of keys. -/
def pagesOf (key n : Nat) : List Nat := (List.range ((key + n - 1) / 4096 + 1 - key / 4096)).map fun i => key / 4096 + i

/-- The granule in a page of a piece of n bytes at an address. -/
def pieceGranule (owner : Nat) (dst : Bool) (hold : GranuleHold) (virt : Option (Nat × Nat)) (a n page : Nat) : Granule :=
  let lo := max a (page * 4096) - page * 4096
  { owner := owner, page := page, dst := dst, left := 1, lo := if hold == .page then 0 else lo,
    size := if hold == .page then 4096 else min (a + n) (page * 4096 + 4096) - page * 4096 - lo, hold := hold, virt := virt }

/-- A granule registered: the copies of a destination granule leave the cluster L1s, and a serial attempt that has read a word
of it aborts (R281, R305). -/
def Dev.registerGranule (d : Dev) (g : Granule) : Dev :=
  let d := { d with granules := addGranule d.granules g }
  if g.virt.isSome || g.hold == .bytes then d
  else
    let d := if g.dst then { d with l1 := dropAll d.l1 (g.page * 4096) 4096 } else d
    d.abortSerial (g.page * 4096) 4096

/-- A piece of a range of keys registered. -/
def Dev.registerRange (d : Dev) (owner key n : Nat) (dst : Bool) (hold : GranuleHold) : Dev :=
  (pagesOf key n).foldl (fun d p => d.registerGranule (pieceGranule owner dst hold none key n p)) d

/-- A piece of a range at a generic address registered; one that nothing translates yet, by its virtual page. -/
def Dev.registerPiece (d : Dev) (fn ctx : Nat) (team : Option Team) (owner : Nat) (dst : Bool) (hold : GranuleHold)
    (p : Nat × Nat) : Dev :=
  match d.engineAt fn ctx team p.1 p.2 (if dst then .store else .load) with
  | (d, .loc l) => d.registerRange owner l.key p.2 dst hold
  | (d, _) =>
    if p.1 / 2 ^ 56 == 0 then d.registerGranule (pieceGranule owner dst hold (some (fn, ctx)) p.1 p.2 (p.1 / 4096)) else d

/-- The granules of an owner whose virtual page has come to translate are registered where they lie. -/
def Dev.settle (d : Dev) (owner : Nat) : Dev :=
  (d.granules.filter fun g => g.owner == owner && g.virt.isSome).foldl
    (fun d g =>
      match d.granulePage g with
      | none => d
      | some p =>
        { d with granules := d.granules.filter (· != g) }.registerGranule { g with page := p, virt := none }) d

/-- The pieces of an element's source, scale and destination: space, address and size, and whether it is the destination. -/
def elementPieces (ws : List Nat) (k : Nat) : List (Nat × (Nat × Nat) × Bool) :=
  let of := fun space a n (dst : Bool) => (pieces a n).map fun p => (space, p, dst)
  (if copyXform ws == 2 || copySspace ws == 2 then [] else of (copySspace ws) (srcAddr ws k) (srcBytes ws) false) ++
    (if copyXform ws == 1 then of (scaleSpace ws) (scaleAddr ws k) 1 false else []) ++
    (if copyDspace ws == 2 || !copyReg ws then [] else of (copyDspace ws) (dstAddr ws k) (dstBytes ws) true)

/-- A piece of a command registered, in its space (R312). -/
def Dev.registerOf (d : Dev) (c : CopyCmd) (team : Option Team) (x : Nat × (Nat × Nat) × Bool) : Dev :=
  if x.1 == 3 then
    d.registerRange c.id (peerLoc (d.func c.fn).fdom (copyDev c.words) x.2.1.1).key x.2.1.2 x.2.2 .page
  else if x.1 == 4 then d.registerRange c.id (hostLoc x.2.1.1).key x.2.1.2 x.2.2 .page
  else d.registerPiece c.fn c.ctx team c.id x.2.2 .page x.2.1

/-- A command registers the ranges of its elements from its position on. -/
def Dev.registerCopy (d : Dev) (c : CopyCmd) (team : Option Team) : Dev :=
  (List.range (copyCount c.words - c.pos)).foldl
    (fun d i => (elementPieces c.words (c.pos + i)).foldl (fun d x => d.registerOf c team x) d) d

/-- The granules of a command that is over. -/
def Dev.dropGranules (d : Dev) (owner : Nat) : Dev := { d with granules := d.granules.filter fun g => g.owner != owner }

/-- The team of a command. -/
def Dev.cmdTeam (d : Dev) (c : CopyCmd) : Option Team :=
  match c.issuer with
  | .shuttle _ t => d.team t
  | .queue _ _ _ _ => none

/-- The launch of an engine's command, operation or tile, by the owner of its granules. -/
def Dev.ownerLaunch (d : Dev) (owner : Nat) : Option Nat :=
  match d.cmd owner with
  | some c => (d.cmdTeam c).map (·.launch)
  | none =>
    match d.matOps.find? fun o => o.id == owner || o.id + 1 == owner with
    | some o => (d.team o.team).map (·.launch)
    | none => (d.tiles.find? fun t => t.id == owner || t.id + 1 == owner).map (·.launch)

/-- Whether a command may access a location now: no granule of an earlier command, or of any when it registers nothing
itself, holds it, and neither does a serial attempt or a change of hash or key. -/
def Dev.engineOpen (d : Dev) (fn owner : Nat) (earlier : Bool) (l : Loc) (n : Nat) (writes : Bool) : Bool :=
  !(d.granules.any fun g =>
      (if earlier then decide (g.owner < owner) else g.owner != owner) && g.left != 0 && (g.dst || writes) &&
        d.granuleMeets (d.ownerLaunch owner) g l.key n) &&
    !(writes && d.serialHolds 0 none l.key n) && !(d.func fn).remapHolds l

/-! ## Request buffers (R397, R404) -/

/-- Whether a command holds a request buffer. -/
def CopyCmd.buffered (c : CopyCmd) : Bool :=
  match c.status with
  | .fifoWait _ => false
  | .unaccepted => false
  | _ => true

/-- Whether an operand's fetch is unfinished. -/
def Operand.fetching (o : Operand) : Bool := o.handle.isSome && decide (o.pushed < o.rows * o.fetchRow)

/-- The buffers that a team uses: its copies, its handle fetches and its dynamic slices. -/
def Dev.buffersOf (d : Dev) (t : Team) : Nat :=
  (d.cmds.filter fun c => c.ofTeam t.id && c.buffered).length +
    (d.matOps.filter fun o => o.team == t.id && o.a.buffered).length +
    (d.matOps.filter fun o => o.team == t.id && o.b.buffered).length +
    ((t.streams.filter (·.dynamic)).map fun s => (s.sh, s.q)).eraseDups.length

/-- The buffers that a function uses; each team keeps four until it retires (R397). -/
def Dev.buffersUsed (d : Dev) (fn : Nat) : Nat :=
  (d.teams.filter fun t => t.fn == fn).foldl (fun n t => n + max 4 (d.buffersOf t)) 0 +
    (d.cmds.filter fun c => c.fn == fn && c.buffered && match c.issuer with
      | .queue _ _ _ _ => true
      | .shuttle _ _ => false).length

/-- Whether a team, or a COPY block, may take one more buffer. -/
def Dev.bufferRoom (d : Dev) (fn : Nat) (team : Option Team) : Bool :=
  (match team with
    | some t => decide (d.buffersOf t < 4)
    | none => false) || decide (d.buffersUsed fn < (d.func fn).cq)

/-! ## `scpy` (R352) -/

/-- A command before it is accepted. -/
def newCopy (id fn ctx : Nat) (issuer : CmdIssuer) (prio : Nat) (ws : List Nat) (first : Nat) (status : CmdStatus)
    (origin : Origin) : CopyCmd :=
  { id := id, fn := fn, ctx := ctx, part := partOf fn, issuer := issuer, prio := prio, words := ws, pos := first,
    inbuf := [], outbuf := [], peer := if copyDspace ws == 3 then some (copyDev ws) else none, status := status,
    origin := origin }

/-- A command is accepted: its ranges are registered. -/
def Dev.acceptCopy (d : Dev) (c : CopyCmd) (team : Option Team) : Dev :=
  { d.registerCopy c team with cmds := d.cmds.filter (fun x => x.id != c.id) ++ [{ c with status := .waiting }] }

/-- `scpy`: it exposes its shuttle whatever its status (R423). -/
def execScpy (x y : Nat) (restart : Bool) (r : Nat) (s : State) : Outcome :=
  onIssue s fun is sh env d =>
    let u := engineUse sh.handler x y 40 8
    let u := if restart then
        { u with names := u.names ++ regRange r 2, aligned := u.aligned ++ [(r, 2)], reads := u.reads ++ regRange r 2 }
      else u
    scalarGo u is sh env d
      (if !sh.settled then d
       else
        let ws := sh.blockWords y 40
        let fn := env.launch.fn
        match copyCheck (d.func fn) (some env.team) ws with
        | some e => d.setShuttle { sh.status is x (statusWord e) with exposed := true }
        | none =>
          if !d.bufferRoom fn (some env.team) then d
          else
            let c := newCopy d.nextId fn env.launch.ctx (.shuttle sh.id env.team.id) env.launch.prio ws
              (if restart then sh.pair r else 0) .waiting (is.command sh env)
            ({ d with nextId := d.nextId + 1 }.setShuttle { sh.status is x 0 with exposed := true }).acceptCopy c
              (some env.team))

/-! ## Moving elements (R313, R315, R317) -/

/-- A BF16 value of an MX block (R315). -/
def mxValue (scale nibble : Nat) : Nat :=
  match e8m0Val scale, floatVal .e2m1 nibble with
  | .fin _ _ e, .fin neg m e' => (roundConv .bf16 0 false 0 (.fin neg m (e + e'))).1
  | _, _ => canonNaN .bf16

/-- The 64 bytes of an MX block of 16 bytes under a scale. -/
def mxBytes (scale : Nat) (bs : List Byte) : List Byte :=
  let v := leNat bs
  (List.range 32).flatMap fun j => leBytes 2 (mxValue scale (v / 16 ^ j % 16))

/-- The bytes of an element under a fill constant: ESIZE 4 takes the 8 bytes twice. -/
def fillBytes (ws : List Nat) : List Byte :=
  let v := blockPair ws 0
  if copyEsize ws == 4 then leBytes 8 v ++ leBytes 8 v else leBytes (srcBytes ws) v

/-- What one element does: it moves, waits at a bank with what it has popped, waits at a granule, or faults with an ACCESS
code, or with a cause and an address. -/
inductive ElemStep where
  | done (d : Dev) (c : CopyCmd)
  | parked (d : Dev) (c : CopyCmd) (entry : Nat)
  | held
  | replay (f : WalkFault) (access : Nat)
  | fatal (cause addr : Nat)

/-- Bytes read at located pieces. -/
def Dev.readPieces (d : Dev) (fn : Nat) (ls : List (Loc × Nat)) : List Byte :=
  ls.flatMap fun l => d.homeRead fn l.1 l.2

/-- Bytes written at located pieces. -/
def Dev.writePieces (d : Dev) (fn : Nat) : List (Loc × Nat) → List Byte → Dev
  | [], _ => d
  | l :: ls, bs =>
    (d.homeWrite (d.keyFor fn l.1.keyid l.1.key) l.1.key (bs.take l.2)).writePieces fn ls (bs.drop l.2)

/-- The granules of located pieces with one element done. -/
def Dev.pieceDone (d : Dev) (owner : Nat) (ls : List (Loc × Nat)) (dst : Bool) : Dev :=
  let one := fun gs (l : Loc × Nat) => (pagesOf l.1.key l.2).foldl (fun gs p => doneGranule gs owner p dst) gs
  { d with granules := ls.foldl one d.granules }

/-- A read of an engine: the bytes and the locations, or what stops it. -/
def Dev.fetch (d : Dev) (c : CopyCmd) (team : Option Team) (side space a n : Nat) :
    Dev × Except ElemStep (List Byte × List (Loc × Nat)) :=
  match d.piecesAt c team side space .load (pieces a n) with
  | (d, .error (.replay f)) => (d, .error (.replay f 3))
  | (d, .error (.fatal cause a)) => (d, .error (.fatal cause a))
  | (d, .error (.loc _)) => (d, .error .held)
  | (d, .ok ls) =>
    if ls.any fun l => !d.engineOpen c.fn c.id true l.1 l.2 false then (d, .error .held)
    else
      match (ls.zip (pieces a n)).find? fun x => d.poisoned x.1.1.key x.1.2 with
      | some x => (d, .error (.fatal 0x15 x.2.1))
      | none => (d, .ok (d.readPieces c.fn ls, ls))

/-- The source bytes of element k: from a slot, a constant, or memory. -/
def Dev.elemSource (d : Dev) (c : CopyCmd) (team : Option Team) (k : Nat) :
    Dev × CopyCmd × Except ElemStep (List Byte × List (Loc × Nat)) :=
  let ws := c.words
  if copyXform ws == 2 then (d, c, .ok (fillBytes ws, []))
  else if copySspace ws == 2 then
    let n := srcBytes ws
    if c.inbuf.length ≥ n then (d, { c with inbuf := c.inbuf.drop n }, .ok (c.inbuf.take n, []))
    else
      match team with
      | none => (d, c, .error (.fatal 0x14 0))
      | some t =>
        match t.bank (copySfifo ws) with
        | some ⟨e, b, some g, sh, slots⟩ =>
          match slots with
          | [] => (d, c, .error (.parked d c (copySfifo ws)))
          | v :: vs =>
            (d.setTeam (t.setBank ⟨e, b, some g, sh, vs⟩), { c with inbuf := v.drop n }, .ok (v.take n, []))
        | _ => (d, c, .error (.fatal 0x14 0))
  else
    match d.fetch c team 0 (copySspace ws) (srcAddr ws k) (srcBytes ws) with
    | (d, r) => (d, c, r)

/-- The bytes that element k writes. -/
def Dev.elemBytes (d : Dev) (c : CopyCmd) (team : Option Team) (k : Nat) :
    Dev × CopyCmd × Except ElemStep (List Byte × List (Loc × Nat)) :=
  match d.elemSource c team k with
  | (d, c, .error e) => (d, c, .error e)
  | (d, c, .ok (bs, ls)) =>
    if copyXform c.words == 1 then
      match d.fetch c team 2 (scaleSpace c.words) (scaleAddr c.words k) 1 with
      | (d, .error e) => (d, c, .error e)
      | (d, .ok (sb, sl)) => (d, c, .ok (mxBytes (leNat sb) bs, ls ++ sl))
    else (d, c, .ok (bs, ls))

/-- Whether a FIFO destination has no room for the slot that an element would complete. -/
def fifoFull (c : CopyCmd) (team : Option Team) : Bool :=
  match team.bind fun t => t.bank (copyDfifo c.words) with
  | some ⟨_, _, some (b, m), _, slots⟩ => decide (c.outbuf.length + dstBytes c.words ≥ b) && decide (slots.length ≥ m)
  | _ => false

/-- A command that has popped an element and cannot push it keeps the element's bytes. -/
def CopyCmd.keepPopped (c : CopyCmd) (bs : List Byte) : CopyCmd :=
  if copySspace c.words == 2 && copyXform c.words != 2 then { c with inbuf := bs ++ c.inbuf } else c

/-- Element k moves: it is read and then written before the next one is read (R313). -/
def Dev.copyElem (d0 : Dev) (c0 : CopyCmd) (k : Nat) : ElemStep :=
  let team := d0.cmdTeam c0
  let ws := c0.words
  match d0.elemSource c0 team k with
  | (_, _, .error e) => e
  | (ds, cs, .ok (src, _)) =>
    if copyDspace ws == 2 && fifoFull cs (ds.cmdTeam cs) then .parked ds (cs.keepPopped src) (copyDfifo ws)
    else
      match d0.elemBytes c0 team k with
      | (_, _, .error e) => e
      | (d, c, .ok (bs, ls)) =>
        let c := { c with pos := k + 1, waitAt := none }
        if copyDspace ws == 2 then
          let d := d.pieceDone c.id ls false
          match d.cmdTeam c with
          | none => .fatal 0x14 0
          | some t =>
            match t.bank (copyDfifo ws) with
            | some ⟨e, bk, some (b, m), sh, slots⟩ =>
              let out := c.outbuf ++ bs
              if out.length ≥ b then
                .done (d.setTeam (t.setBank ⟨e, bk, some (b, m), sh, slots ++ [out.take b]⟩))
                  { c with outbuf := out.drop b }
              else .done d { c with outbuf := out }
            | _ => .fatal 0x14 0
        else
          match d.piecesAt c team 1 (copyDspace ws) .store (pieces (dstAddr ws k) (dstBytes ws)) with
          | (_, .error (.replay f)) => .replay f 4
          | (_, .error (.fatal cause a)) => .fatal cause a
          | (_, .error (.loc _)) => .held
          | (d, .ok ds) =>
            if ds.any fun l => !d.engineOpen c.fn c.id (copyReg ws) l.1 l.2 true then .held
            else
              let peer := (ds.find? fun l => l.1.space == spacePeer).map fun l => l.1.device
              .done (((d.writePieces c.fn ds bs).pieceDone c.id ls false).pieceDone c.id ds true)
                { c with peer := if peer.isSome then peer else c.peer }

/-! ## Segments (R316) and COPY_SEGMENT (R322) -/

/-- The page of the translation that an address has just used, which stays cached. -/
def Dev.usedBytes (d : Dev) (fn ctx va : Nat) : Nat :=
  ((d.tlb.find? fun t => t.fn == fn && t.ctx == ctx && t.page == va / 4096).map (·.size)).getD 4096

/-- The addresses of element k that its segment translates: the source's and the destination's, each with its side and
space. A FIFO side and a constant have none. -/
def segmentSides (ws : List Nat) (k : Nat) : List (Nat × Nat × Nat) :=
  (if copySspace ws == 2 || copyXform ws == 2 then [] else [(0, copySspace ws, srcAddr ws k)]) ++
    (if copyDspace ws == 2 then [] else [(1, copyDspace ws, dstAddr ws k)])

/-- Whether a side of element k lies in the page that its segment began with: a virtual address in the page translated, a
window address in the bank of the element before; the other spaces are one page. -/
def CopyCmd.sideStays (c : CopyCmd) (k : Nat) (x : Nat × Nat × Nat) : Bool :=
  if isVirtual x.2.1 x.2.2 then (c.pageAt x.1 x.2.2).isSome
  else
    let before := if x.1 == 0 then srcAddr c.words (k - 1) else dstAddr c.words (k - 1)
    x.2.1 ≥ 3 || x.2.2 / 2 ^ 56 != 0xFE || x.2.2 / 2 ^ 19 == before / 2 ^ 19

/-- Whether element k belongs to the segment under way. -/
def CopyCmd.inSegment (c : CopyCmd) (k : Nat) : Bool := (segmentSides c.words k).all (c.sideStays k)

/-- The pages of some sides translated. -/
def Dev.holdPages (d : Dev) (c : CopyCmd) : List (Nat × Nat × Nat) → Dev × Except ElemStep (List HeldPage)
  | [] => (d, .ok [])
  | x :: xs =>
    if !isVirtual x.2.1 x.2.2 then d.holdPages c xs
    else
      match d.meet c.fn c.ctx x.2.2 (if x.1 == 1 then .store else .load) with
      | (d, .replay f) => (d, .error (.replay f (if x.1 == 1 then 4 else 3)))
      | (d, .fatal) => (d, .error (.fatal 0x15 x.2.2))
      | (d, .loc l) =>
        let n := d.usedBytes c.fn c.ctx x.2.2
        match d.holdPages c xs with
        | (d, .ok hs) =>
          (d, .ok ({ side := x.1, lo := x.2.2 / n * n, size := n,
                     loc := { l with key := l.key - x.2.2 % n } } :: hs))
        | r => r

/-- A new segment begins at an element. -/
def Dev.openSegment (d : Dev) (c : CopyCmd) (k : Nat) : Dev × Except ElemStep CopyCmd :=
  match d.holdPages c (segmentSides c.words k) with
  | (d, .error e) => (d, .error e)
  | (d, .ok hs) => (d, .ok { c with held := hs })

/-- The page of the scales of an element, translated when the element before had another. -/
def Dev.holdScale (d : Dev) (c : CopyCmd) (k : Nat) : Dev × Except ElemStep CopyCmd :=
  let a := scaleAddr c.words k
  if copyXform c.words != 1 || !isVirtual (scaleSpace c.words) a || (c.pageAt 2 a).isSome then (d, .ok c)
  else
    match d.holdPages c [(2, scaleSpace c.words, a)] with
    | (d, .error e) => (d, .error e)
    | (d, .ok hs) => (d, .ok { c with held := c.held.filter (fun h => h.side != 2) ++ hs })

/-- The elements of one segment in order, at most 4,096 destination bytes, up to the first that stops. `opened` tells that
an element of it has moved in this step. -/
def Dev.runSegment (opened : Bool) : Nat → Dev → CopyCmd → Dev × CopyCmd × Option ElemStep
  | 0, d, c => (d, c, none)
  | fuel + 1, d, c =>
    if c.pos ≥ copyCount c.words then (d, { c with held := [] }, none)
    else if opened && !c.inSegment c.pos then (d, { c with held := [] }, none)
    else
      match (if c.pos != 0 && c.inSegment c.pos then (d, .ok c) else d.openSegment c c.pos) with
      | (d, .error e) => (d, c, some e)
      | (d, .ok c) =>
        match d.holdScale c c.pos with
        | (d, .error e) => (d, c, some e)
        | (d, .ok c) =>
          match d.copyElem c c.pos with
          | .done d c => Dev.runSegment true fuel d c
          | e => (d, c, some e)

/-- Whether a function has budget (R419, R420). -/
def Func.hasBudget (f : Func) : Bool := f.bref == 0xFFFFFFFF || decide (f.bbal > 0)

/-- The block that a COPY command completes. -/
def CopyCmd.blockEnd (c : CopyCmd) (q addr : Nat) (nots : List Nat) (irq : Bool) : BlockEnd :=
  { fn := c.fn, ctx := c.ctx, q := q, addr := addr, cnt := 0, inc := 0, nots := nots, irq := irq }

/-- A command is over. -/
def Dev.dropCmd (d : Dev) (c : CopyCmd) : Dev := { d.dropGranules c.id with cmds := d.cmds.filter fun x => x.id != c.id }

/-- Whether what ends a command waits at a home. -/
def Dev.cmdHeld (d : Dev) (c : CopyCmd) : Bool :=
  match c.issuer with
  | .shuttle _ _ => false
  | .queue q a nots irq => d.blockHeld (c.blockEnd q a nots irq)

/-- A non-replayable fault at an address ends a copy (R317, R380): its team terminates, or its block completes with FAULT. -/
def Dev.copyFault (d : Dev) (c : CopyCmd) (cause addr : Nat) : Dev :=
  let moved := c.pos * dstBytes c.words
  match c.issuer with
  | .queue q a nots irq =>
    let d := d.postError c.fn { kind := 6, cause := cause, place := q, addr := a, copy := c.words, moved := moved }
    (d.dropCmd c).completeBlock (c.blockEnd q a nots irq) resFault cause
  | .shuttle sh _ =>
    let d := d.dropCmd c
    match d.shuttle sh with
    | some s => d.engineTrap s c.origin cause addr c.words moved
    | none => d.orphanError c.fn 1 cause 0 c.origin c.words moved

/-- A fault-queue entry of an engine. -/
def engineFault (f : WalkFault) (ctx team access : Nat) (owner : FaultOwner) : FaultEntry :=
  { id := 0, kind := f.kind, stage := f.stage, access := if f.tableWalk then 5 else access, ctx := ctx,
    unitLo := f.unitLo, unitSize := f.unitSize, addr := f.addr, team := team, joined := 0, posted := false,
    resolved := false, owner := owner, va := f.va }

/-- A replayable fault of a command: it releases its engine and waits. -/
def Dev.copyReplay (d : Dev) (c : CopyCmd) (f : WalkFault) (access : Nat) : Dev :=
  let (d, id) := d.postFault c.fn (engineFault f c.ctx c.origin.team access (.command c.id))
  d.setCmd { c with status := .faulted id, held := [], waitAt := none }

/-- A command parks at a bank: it gives up its engine and its buffer, as the last of the bank's waiters (R247). -/
def Dev.parkCmd (d : Dev) (c : CopyCmd) (entry : Nat) : Dev :=
  { d with nextId := d.nextId + 1 }.setCmd { c with status := .fifoWait entry, waitAt := some (d.nextId, entry) }

/-- Whether a command's team is out of residence with storage that the command uses, or has been saved. What a terminating
team has accepted runs to its end all the same (R412). -/
def Dev.cmdAway (d : Dev) (c : CopyCmd) : Bool :=
  match d.cmdTeam c with
  | none => false
  | some t => !t.dying && (t.image == some .saved || (t.image.isSome && c.usesStorage))

/-- COPY_SEGMENT: a command with an engine moves its next elements. -/
def execCopySegment (cmd : Nat) (s : State) : Outcome :=
  .next { s with dev :=
    match s.dev.cmd cmd with
    | none => s.dev
    | some c =>
      match c.status with
      | .running e =>
        if c.pos ≥ copyCount c.words then s.dev.setCmd { c with status := .moved e }
        else if s.dev.cmdAway c then s.dev.setCmd { c with status := .waiting }
        else if !(s.dev.func c.fn).hasBudget then s.dev
        else
          match Dev.runSegment false (max 1 (4096 / dstBytes c.words)) (s.dev.settle c.id) c with
          | (d, c, none) =>
            d.setCmd { c with status := if c.pos ≥ copyCount c.words then .moved e else .running e }
          | (_, _, some (.parked d c entry)) => d.parkCmd c entry
          | (d, c, some (.replay f access)) => d.copyReplay c f access
          | (d, c, some (.fatal cause a)) => if d.cmdHeld c then d.setCmd c else d.copyFault c cause a
          | (d, c, some _) => d.setCmd c
      | _ => s.dev }

/-! ## Engines (R322) -/

/-- The copy engines of a partition (R417). -/
def Dev.enginesOf (d : Dev) (p : Nat) : List Nat :=
  if bit (d.part p).pdesc 63 then (List.range Config.numEngines).filter fun e => bit (d.part p).pdesc e else []

/-- Whether an engine moves a command. -/
def CopyCmd.onEngine (c : CopyCmd) (e : Nat) : Bool :=
  match c.status with
  | .running x => x == e
  | .moved x => x == e
  | _ => false

/-- Whether a command competes for an engine. -/
def Dev.competes (d : Dev) (c : CopyCmd) : Bool :=
  match c.status with
  | .waiting => !d.cmdAway c
  | .paused => (d.func c.fn).hasBudget
  | _ => false

/-- COPY_BUDGET_PAUSE: a command of a function without budget gives up its engine. -/
def execCopyBudgetPause (cmd : Nat) (s : State) : Outcome :=
  .next { s with dev :=
    match s.dev.cmd cmd with
    | none => s.dev
    | some c =>
      match c.status with
      | .running _ => if (s.dev.func c.fn).hasBudget then s.dev else s.dev.setCmd { c with status := .paused }
      | _ => s.dev }

/-- Whether a command that waits at an entry waits to push into it. -/
def CopyCmd.pushWaits (c : CopyCmd) (entry : Nat) : Bool :=
  copyDspace c.words == 2 && copyDfifo c.words == entry &&
    !(copySspace c.words == 2 && copySfifo c.words == entry && decide (c.inbuf.length < srcBytes c.words))

/-- Whether a command is parked at a bank. -/
def CopyCmd.parked (c : CopyCmd) : Bool :=
  match c.status with
  | .fifoWait _ => true
  | _ => false

/-- The places of the waiters of an entry of a team on one side, those parked or those woken that have not moved yet (R247): copies,
and fetches that wait to push into their STAGE, which are woken as an engine takes them up. -/
def Dev.waitersAt (d : Dev) (t : Team) (entry : Nat) (push parked : Bool) : List Nat :=
  (d.cmds.filterMap fun c => match c.waitAt with
    | some (n, e) =>
      if c.ofTeam t.id && e == entry && c.pushWaits entry == push && c.parked == parked then some n else none
    | none => none) ++
    if !push then []
    else (d.matOps.filter fun o => o.team == t.id).flatMap fun o =>
      [o.a, o.b].filterMap fun p =>
        if (p.handle.map (·.stage)) == some entry && p.engine.isNone == parked then p.waitNo else none

/-- Whether a waiter of an entry is to be woken: one for each slot that frees, each after those that arrived before it (R247). A
slot is spoken for by every waiter that has been woken and has not moved; `parked` are the places of those still asleep. -/
def Dev.wakes (d : Dev) (t : Team) (entry : Nat) (push : Bool) (no : Nat) : Bool :=
  match t.bank entry with
  | some ⟨_, _, some (_, m), _, slots⟩ =>
    decide ((d.waitersAt t entry push false).length < if push then m - slots.length else slots.length) &&
      (d.waitersAt t entry push true).all fun n => decide (no ≤ n)
  | _ => true

/-- A COPY block that waited for a request buffer is accepted: it takes its place in the order, and registers. -/
def Dev.acceptBlock (d : Dev) (c : CopyCmd) : Dev :=
  let c' := { c with id := d.nextId }
  { d with nextId := d.nextId + 1, cmds := d.cmds.filter fun (x : CopyCmd) => x.id != c.id }.acceptCopy c' none

/-- Whether a COPY block is the first of its function that waits for a request buffer. -/
def Dev.firstUnaccepted (d : Dev) (c : CopyCmd) : Bool :=
  d.cmds.all fun x => x.fn != c.fn || x.status != .unaccepted || decide (c.id ≤ x.id)

/-- COPY_WAITER_WAKE: a command that waits at a bank competes again once a slot has freed for it and a request buffer is
free (R247); a COPY block that waits for a buffer is accepted once one is (R404). -/
def execCopyWaiterWake (cmd : Nat) (s : State) : Outcome :=
  .next { s with dev :=
    match s.dev.cmd cmd with
    | none => s.dev
    | some c =>
      match c.status, s.dev.cmdTeam c with
      | .unaccepted, _ =>
        if s.dev.firstUnaccepted c && s.dev.bufferRoom c.fn none then s.dev.acceptBlock c else s.dev
      | .fifoWait e, some t =>
        if (t.image.isNone || t.dying) && s.dev.wakes t e (c.pushWaits e) ((c.waitAt.map (·.1)).getD 0) &&
            s.dev.bufferRoom c.fn (some t)
        then s.dev.setCmd { c with status := .waiting }
        else s.dev
      | _, _ => s.dev }

/-! ## COPY_COMPLETE (R318, R320) -/

/-- Where a command's counter lies. -/
def Dev.counterAt (d : Dev) (c : CopyCmd) : Dev × EngineAt :=
  match copySignal c.words, c.peer with
  | true, some dev => (d, .loc (peerLoc (d.func c.fn).fdom dev c.cnt))
  | _, _ => d.engineAt c.fn c.ctx (d.cmdTeam c) c.cnt 8 addKind

/-- A command completes: its block does, or nothing more is to do. -/
def Dev.copyDone (d : Dev) (c : CopyCmd) : Dev :=
  match c.issuer with
  | .shuttle _ _ => d.dropCmd c
  | .queue q a nots irq => (d.dropCmd c).completeBlock (c.blockEnd q a nots irq) resOk 0

/-- COPY_COMPLETE: the counter increment, as one atomic. -/
def execCopyComplete (cmd : Nat) (s : State) : Outcome :=
  .next { s with dev :=
    match s.dev.cmd cmd with
    | none => s.dev
    | some c =>
      match c.status with
      | .moved _ =>
        if s.dev.cmdHeld c then s.dev
        else if c.cnt == 0 then s.dev.copyDone c
        else
          match s.dev.counterAt c with
          | (d, .loc l) =>
            if !d.engineOpen c.fn c.id false l 8 true then s.dev
            else
              let v := leNat (d.homeRead c.fn l 8)
              (d.homeWrite (d.keyFor c.fn l.keyid l.key) l.key (leBytes 8 (addW 64 v (blockPair c.words 8)))).copyDone c
          | (d, .replay f) => d.copyReplay c f 4
          | (d, .fatal cause a) => d.copyFault c cause a
      | _ => s.dev }

end Sys2Proof.Machine
end

