-- ==== Sys2Proof/Machine/EngineOps.lean ====
section
/-!
DEFINITION. `swaitc` and `ssig` (spec/16 R353, R354), the end of a walk (spec/12 R262), tile handles (R355) and `sbank`
(R367; spec/12 R239 to R244).
-/
namespace Sys2Proof.Machine

/-! ## Counter waiters (R404) -/

/-- The counter waiters in use by a function. -/
def Dev.waitersUsed (d : Dev) (fn : Nat) : Nat :=
  (d.shuttles.filter fun s => s.waiter && ((d.team s.team).map fun t => t.fn == fn).getD false).length

/-- Whether a shuttle holds a counter waiter or may take one. -/
def Dev.waiterRoom (d : Dev) (s : Shuttle) (fn : Nat) : Bool := s.waiter || decide (d.waitersUsed fn < (d.func fn).wq)

/-! ## `swaitc` -/

/-- `swaitc`: a bad address is a fault at issue; else the counter is read at its home until it is at least the target, and
each read acquires. -/
def execSwaitc (x y : Nat) (s : State) : Outcome :=
  onIssue s fun is sh env d =>
    scalarGo { names := regRange x 2 ++ regRange y 2, aligned := [(x, 2), (y, 2)], reads := regRange x 2 ++ regRange y 2 }
      is sh env d
      (let a := sh.pair x
       match sh.waitingAccess is with
       | none =>
          if a / 2 ^ 56 == 0xFD || reach env.launch.fn env.team a 8 == .bad then d.addressTrap is sh env a
          else if !d.waiterRoom sh env.launch.fn then d
          else d.scalarAccess is { sh with waiter := true } env
            { newScalarAccess .load a 8 0 1 .stream [is.first] with dst := .stream } false id
       | some acc =>
          match acc.status with
          | .arrived v =>
            let sh := sh.dropAcc acc.id
            if v ≥ sh.pair y then d.setShuttle { sh.advance is with waiter := false } else d.setShuttle sh
          | _ => d)

/-! ## `ssig` and its delivery -/

/-- The status of an `ssig`; it has no operand block (R348). -/
def ssigCheck (f : Func) (loc : Bool) (dev a : Nat) : Option Failed :=
  firstFailed [
    (!loc && (dev ≥ 1024 || !f.reaches dev), codeDevice, 255),
    (a / 2 ^ 56 != 0, codeSpace, 255),
    (a % 8 != 0, codeAlign, 255)]

/-- `ssig`: an ordered signal follows every access so far; the stream does not wait for its delivery. It exposes its shuttle
whatever its status (R423). -/
def execSsig (x y op : Nat) (ord loc : Bool) (dreg sreg : Nat) (s : State) : Outcome :=
  onIssue s fun is sh env d =>
    scalarGo
      { sub0 := sh.handler, dests := [sreg], names := regRange x 2 ++ regRange y 2 ++ (if loc then [] else [dreg]) ++ [sreg],
        aligned := [(x, 2), (y, 2)], reads := regRange x 2 ++ regRange y 2 ++ (if loc then [] else [dreg]),
        writes := [sreg] } is sh env d
      (if !(sh.drained && (!ord || sh.allPerformed)) then d
       else
        let fn := env.launch.fn
        let dev := sh.sval dreg
        match ssigCheck (d.func fn) loc dev (sh.pair y) with
        | some e => d.setShuttle { sh.status is sreg (statusWord e) with exposed := true }
        | none =>
          let g : Signal :=
            { id := d.nextId, sh := sh.id, team := env.team.id, fn := fn, ctx := env.launch.ctx, store := op == 1,
              value := sh.pair x, addr := sh.pair y, device := if loc then none else some dev, fault := none,
              ord := ord, origin := is.command sh env }
          { d with nextId := d.nextId + 1, signals := d.signals ++ [g] }.setShuttle
            { sh.status is sreg 0 with exposed := true })

/-- Where a signal's target lies. -/
def Dev.signalAt (d : Dev) (g : Signal) : Dev × EngineAt :=
  match g.device with
  | some dev => (d, .loc (peerLoc (d.func g.fn).fdom dev g.addr))
  | none => d.engineAt g.fn g.ctx none g.addr 8 (if g.store then .store else addKind)

def Dev.dropSignal (d : Dev) (g : Signal) : Dev := { d with signals := d.signals.filter fun x => x.id != g.id }

/-- A signal that ends in a fault terminates its team. -/
def Dev.signalFault (d : Dev) (g : Signal) (cause : Nat) : Dev :=
  let d := d.dropSignal g
  match d.shuttle g.sh with
  | some s => d.engineTrap s g.origin cause g.addr [] 0
  | none => d.orphanError g.fn 1 cause 0 g.origin [] 0

/-- Whether an ordered signal must still wait for an earlier one: toward a peer for every signal to that device (R285), toward
this device, as a release, for those of its shuttle (R354). -/
def Dev.signalBehind (d : Dev) (g : Signal) : Bool :=
  g.ord && d.signals.any fun x =>
    decide (x.id < g.id) && (if g.device.isSome then x.device == g.device else x.sh == g.sh)

/-- A signal is performed at its destination, or meets a fault. -/
def Dev.deliver (d : Dev) (g : Signal) : Dev :=
  if g.fault.isSome || d.signalBehind g then d
  else
    match d.signalAt g with
    | (d, .loc l) =>
      if !d.homeOpen g.fn 0 none l 8 true then d
      else
        let v := if g.store then g.value else addW 64 (leNat (d.homeRead g.fn l 8)) g.value
        (d.homeWrite (d.keyFor g.fn l.keyid l.key) l.key (leBytes 8 v)).dropSignal g
    | (d, .replay f) =>
      let (d, id) := d.postFault g.fn (engineFault f g.ctx g.origin.team 4 (.signal g.id))
      { d with signals := d.signals.map fun x => if x.id == g.id then { g with fault := some id } else x }
    | (d, .fatal cause _) => d.signalFault g cause

/-- TRANSLATION_WALK: the walk of a scalar access ends and the access is performed at its home, a lane access is performed
there, or a signal is delivered. -/
def execTranslationWalk (sh id : Nat) (s : State) : Outcome :=
  .next { s with dev :=
    match s.dev.signals.find? fun g => g.id == id && g.sh == sh with
    | some g => s.dev.deliver g
    | none =>
      s.dev.withAccess sh id fun t env a => if t.canPerform a then s.dev.walkAccess t env a else s.dev }

/-! ## Tile handles (R323, R355) -/

/-- The entry of a team in FIFO mode. -/
def Team.isFifo (t : Team) (entry : Nat) : Bool :=
  match t.bank entry with
  | some ⟨_, _, some _, _, _⟩ => true
  | _ => false

/-- The checks of an `sthd` block. -/
def sthdCheck (t : Team) (ws : List Nat) : Option Failed :=
  let w := blockWord ws
  firstFailed [
    (blockPair ws 0 % 16 != 0, codeAlign, 0),
    (w 2 == 0 || w 2 > 65536, codeField, 2),
    (w 3 == 0 || w 3 > 65536 || (w 5 % 16 == 4 && w 3 % 2 != 0), codeField, 3),
    (w 4 % 16 != 0, codeAlign, 4),
    (w 5 / 256 != 0 || w 5 % 16 == 5 || w 5 % 16 ≥ 8, codeField, 5),
    (!t.isFifo (w 5 / 16 % 16), codeFifo, 5),
    (w 6 != 0, codeField, 6), (w 7 != 0, codeField, 7)]

/-- The handle that an `sthd` block defines. -/
def handleOf (n : Nat) (ws : List Nat) : Handle :=
  { num := n, base := blockPair ws 0, rows := blockWord ws 2, cols := blockWord ws 3, stride := blockWord ws 4,
    stage := blockWord ws 5 / 16 % 16, fmtc := blockWord ws 5 % 16 }

def Team.setHandle (t : Team) (h : Handle) : Team :=
  { t with handles := h :: t.handles.filter fun x => x.num != h.num }

def execSthd (x y n : Nat) (s : State) : Outcome :=
  onIssue s fun is sh env d =>
    scalarGo (engineUse false x y 8 8) is sh env d
      (let ws := sh.blockWords y 8
       match sthdCheck env.team ws with
       | some e => d.setShuttle (sh.status is x (statusWord e))
       | none => (d.setTeam (env.team.setHandle (handleOf n ws))).setShuttle (sh.status is x 0))

/-! ## `sbank` (R243, R367) -/

/-- The use of an `sbank`: a geometry pair where one is used; Y zero there is SUB 3. -/
def sbankUse (handler geom : Bool) (x y : Nat) : ScalarUse :=
  { sub0 := handler, dests := [x], names := x :: (if geom then regRange y 2 else []),
    aligned := if geom then (if y == 0 then [(1, 2)] else [(y, 2)]) else [], reads := if geom then regRange y 2 else [],
    writes := [x] }

/-- Whether a generic address lies in an entry of the bank table. -/
def touchesEntry (entry a : Nat) : Bool :=
  (a / 2 ^ 56 == 0xFE || a / 2 ^ 56 == 0xFD) && a % 2 ^ 56 / 2 ^ 19 == entry

/-- Whether a command reaches an entry with an element that it has left, with a FIFO side or with its counter. -/
def CopyCmd.touches (c : CopyCmd) (entry : Nat) : Bool :=
  let ws := c.words
  (c.sspace == 2 && copySfifo ws == entry) || (c.dspace == 2 && copyDfifo ws == entry) || touchesEntry entry c.cnt ||
    (List.range (copyCount ws - c.pos)).any fun i =>
      (copyXform ws != 2 && c.sspace < 2 && touchesEntry entry (srcAddr ws (c.pos + i))) ||
        (copyXform ws == 1 && scaleSpace ws == 0 && touchesEntry entry (scaleAddr ws (c.pos + i))) ||
        (c.dspace < 2 && touchesEntry entry (dstAddr ws (c.pos + i)))

/-! ### Access streams (R326) -/

/-- Elements of a stream. -/
def Stream.count (s : Stream) : Nat := s.exts.foldl (· * ·) 1

/-- The sum of products of some naturals and integers. -/
def dotInt : List Nat → List Int → Int
  | k :: ks, c :: cs => (k : Int) * c + dotInt ks cs
  | _, _ => 0

/-- The address of element k. -/
def Stream.addr (s : Stream) (k : Nat) : Nat := low 64 ((s.base : Int) + dotInt (elemIndex s.exts k) s.strides)

/-- Whether a stream reaches an entry with an element that it has left. -/
def Stream.touches (x : Stream) (entry : Nat) : Bool :=
  if x.ready then (List.range (x.count - x.pos)).any fun i => touchesEntry entry (x.addr (x.pos + i))
  else touchesEntry entry x.base

/-- Whether an engine command of a team reaches an entry: a copy, a matrix operation or a scan tile that has registered bytes
of it, or an access stream (R243). -/
def Dev.entryBusy (d : Dev) (t : Team) (entry : Nat) : Bool :=
  (d.cmds.any fun c => c.ofTeam t.id && c.touches entry) || t.streams.any (fun x => x.touches entry) ||
    (d.matOps.any fun o => o.team == t.id && [o.a, o.b].any fun p =>
      (p.handle.map (·.stage)) == some entry && decide (p.bytes.length < p.rows * p.rowBytes)) ||
    d.granules.any fun g =>
      g.virt.isNone && decide (scratchKey t.id entry 0 ≤ g.page * 4096) && decide (g.page * 4096 < scratchKey t.id (entry + 1) 0)

/-- Whether an entry is the STAGE of a handle with a fetch in flight. -/
def Dev.entryFetching (d : Dev) (t : Team) (entry : Nat) : Bool :=
  d.matOps.any fun o => o.team == t.id && [o.a, o.b].any fun p => p.fetching && (p.handle.map (·.stage)) == some entry

/-- Whether every access that a shuttle made to an entry has been performed. -/
def Shuttle.entryPerformed (s : Shuttle) (entry : Nat) : Bool :=
  s.accs.all fun a => a.performed || !touchesEntry entry a.va

/-- Whether a geometry is within the limits of R244. -/
def geometryOk (b m : Nat) : Bool :=
  decide (4 ≤ b) && decide (b ≤ 4096) && b == 2 ^ Nat.log2 b && decide (1 ≤ m) && decide (b * m ≤ 524288)

/-- An entry set anew, its bytes zero and its counters restarted. -/
def Dev.resetEntry (d : Dev) (t : Team) (b : BankEntry) : Dev :=
  (d.zeroRange (scratchKey t.id b.entry 0) Config.bankBytes).setTeam
    { t with banks := b :: t.banks.filter fun x => x.entry != b.entry }

/-- The lowest bank of a cluster's pool, when it can give one and keep two (R240, R243). -/
def Dev.poolBank (d : Dev) (cluster : Nat) : Option Nat :=
  if d.heldBanks cluster + 3 > Config.banksPerCluster then none
  else
    (List.range Config.banksPerCluster).find? fun b =>
      !d.teams.any fun t => t.cluster == cluster && t.resident && t.banks.any fun e => e.bank == b

/-- The completion of an `sbank` with a status; it exposes its shuttle whatever that is (R423). -/
def Dev.sbankDone (d : Dev) (is : Issue) (s : Shuttle) (x v : Nat) : Dev :=
  d.setShuttle { s.status is x v with exposed := true }

/-- An `sbank` on an assigned entry: `mode` is its new mode, or none when the bank returns to the pool. -/
def sbankChange (geom : Bool) (x y e : Nat) (mode : Shuttle → Option (Option (Nat × Nat))) (s : State) : Outcome :=
  onIssue s fun is sh env d =>
    scalarGo (sbankUse sh.handler geom x y) is sh env d
      (match env.team.bank e with
       | none => if sh.drained then d.sbankDone is sh x (statusWord (codeState, 255)) else d
       | some b =>
        if !sh.drained then d
        else if b.shared || d.entryFetching env.team e then d.sbankDone is sh x (statusWord (codeState, 255))
        else if geom && !geometryOk (sh.sval y) (sh.sval (y + 1)) then d.sbankDone is sh x (statusWord (codeField, 255))
        else if !sh.entryPerformed e || d.entryBusy env.team e then d
        else
          match mode sh with
          | some fifo => (d.resetEntry env.team { b with fifo := fifo, slots := [] }).sbankDone is sh x 0
          | none =>
            ((d.zeroRange (scratchKey env.team.id e 0) Config.bankBytes).setTeam
              { env.team with banks := env.team.banks.filter fun z => z.entry != e }).sbankDone is sh x 0)

def execSbankScr (x e : Nat) (s : State) : Outcome := sbankChange false x 0 e (fun _ => some none) s
def execSbankFifo (x y e : Nat) (s : State) : Outcome :=
  sbankChange true x y e (fun sh => some (some (sh.sval y, sh.sval (y + 1)))) s
def execSbankRel (x e : Nat) (s : State) : Outcome := sbankChange false x 0 e (fun _ => none) s

/-- `sbank.take`: a bank of the pool becomes the entry's; a shortage does not wait. -/
def execSbankTake (x y : Nat) (mode : Bool) (e : Nat) (s : State) : Outcome :=
  onIssue s fun is sh env d =>
    scalarGo (sbankUse sh.handler mode x y) is sh env d
      (if !sh.drained then d
       else if (env.team.bank e).isSome || d.entryFetching env.team e then d.sbankDone is sh x (statusWord (codeState, 255))
       else if mode && !geometryOk (sh.sval y) (sh.sval (y + 1)) then d.sbankDone is sh x (statusWord (codeField, 255))
       else
        match d.poolBank env.team.cluster with
        | none => d.sbankDone is sh x (statusWord (codeBanks, 255))
        | some bank =>
          if !sh.entryPerformed e || d.entryBusy env.team e then d
          else
            (d.resetEntry env.team
              { entry := e, bank := bank, fifo := if mode then some (sh.sval y, sh.sval (y + 1)) else none,
                shared := false, slots := [] }).sbankDone is sh x 0)

end Sys2Proof.Machine
end

