-- ==== Sys2Proof/Machine/Matrix.lean ====
section
/-!
DEFINITION. The matrix unit: the block sum (spec/02 R64 to R66), `smma` and its operands (spec/15 R324, R330 to R335;
spec/16 R356 to R358), tile tokens (spec/13 R283; spec/16 R359, R360), and `smst` and `smld` (spec/15 R336; spec/16 R361).
-/
namespace Sys2Proof.Machine

/-! ## FMT (R18, R332) -/

def fmtA (f : Nat) : Nat := f % 16
def fmtB (f : Nat) : Nat := bits f 7 4
def fmtScale (f : Nat) : Nat := bits f 11 8
def fmtBlock (f : Nat) : Nat := bits f 15 12
def fmtAccout (f : Nat) : Nat := bits f 17 16
def fmtNround (f : Nat) : Nat := bits f 20 18
def fmtMap (f : Nat) : Nat := bits f 23 21

/-- Whether a format code is an integer one. -/
def codeInt (c : Nat) : Bool := c == 6 || c == 7

/-- Whether an `smma` consumes an illegal code or pairing. -/
def fmtIllegal (f : Nat) : Bool :=
  fmtA f == 5 || decide (fmtA f ≥ 8) || decide (fmtB f ≥ 8) || codeInt (fmtA f) != codeInt (fmtB f) ||
    (!codeInt (fmtA f) && (decide (fmtScale f ≥ 3) || decide (fmtBlock f ≥ 3)))

/-- Bits of an element of a format code; a TW2 index holds 8 weights in 16 bits. -/
def codeBits : Nat → Nat
  | 0 => 16 | 1 => 16 | 2 => 8 | 3 => 8 | 4 => 4 | 5 => 2 | _ => 8

def codeFloat : Nat → FloatFmt
  | 0 => .bf16 | 1 => .f16 | 2 => .e4m3 | 3 => .e5m2 | _ => .e2m1

/-- The scale block that BLOCK selects. -/
def blockOf : Nat → Nat
  | 1 => 16 | 2 => 64 | _ => 32

/-! ## The block sum (R64, R65) -/

/-- Element k of a row as a number. -/
def matValue (code map : Nat) (row : List Byte) (k : Nat) : FloatVal :=
  if code == 5 then tw2Weight map (row.getD (k / 4) 0).toNat (k % 4)
  else
    let w := codeBits code
    floatVal (codeFloat code) (leNat ((row.drop (k * w / 8)).take 2) / 2 ^ (k * w % 8) % 2 ^ w)

/-- Element k of an integer row. -/
def matInt (code : Nat) (row : List Byte) (k : Nat) : Int :=
  let b := (row.getD k 0).toNat
  if code == 6 then sext 8 b else b

/-- floor(log2 |p|) of a nonzero finite product. -/
def productExp : RawResult → Option Int
  | .exact v => if v.m == 0 then none else some ((Nat.log2 v.m : Int) + v.e)
  | _ => none

/-- The largest exponent of some products. -/
def topProduct (ps : List RawResult) : Option Int :=
  ps.foldl
    (fun acc p => match acc, productExp p with
      | none, e => e
      | some a, some e => some (max a e)
      | a, none => a) none

/-- A product truncated toward zero to a multiple of 2^q, in units of 2^q. -/
def truncatedTo (q : Int) : RawResult → Int
  | .exact v =>
    let mag := if v.e ≥ q then v.m * 2 ^ (v.e - q).toNat else v.m / 2 ^ (q - v.e).toNat
    if v.neg then -(mag : Int) else mag
  | _ => 0

def RawResult.isNaN : RawResult → Bool
  | .nan _ => true
  | _ => false
def RawResult.isInf (neg : Bool) : RawResult → Bool
  | .inf n _ => n == neg
  | _ => false

/-- The F32 result of one sum block, from its products and the product of its scales. -/
def blockResult (ps : List RawResult) (scale : RawResult) : Nat :=
  match scale with
  | .exact s =>
    let pos := ps.any (RawResult.isInf false)
    let neg := ps.any (RawResult.isInf true)
    if ps.any RawResult.isNaN || (pos && neg) || (s.m == 0 && (pos || neg)) then canonNaN .f32
    else if pos || neg then withSign .f32 (neg != s.neg) 0x7F800000
    else
      match topProduct ps with
      | none => 0
      | some e =>
        let q := e - 40
        let sum := ps.foldl (fun n p => n + truncatedTo q p) 0
        let m := sum.natAbs * s.m
        if m == 0 then 0
        else (roundExact .f32 0 false 0 (ExactVal.mk (decide (sum < 0) != s.neg) m (q + s.e) false)).1
  | _ => canonNaN .f32

/-- F32 addition in RNE with canonical NaN. -/
def accumulate (acc v : Nat) : Nat := (roundRaw .f32 0 false 0 (rawAdd 0 (floatVal .f32 acc) (floatVal .f32 v))).1

/-- The scale byte of a code: 0 none, 1 E8M0, 2 E4M3. -/
def scaleValue (code b : Nat) : FloatVal :=
  match code with
  | 1 => e8m0Val b
  | 2 => floatVal .e4m3 b
  | _ => .fin false 1 0

/-- The formats of the scales of B and A: a TW2 B has E4M3 ones whatever SCALEF says (R331), and an I8 or U8 operand has none
whatever SCALEF says, so that its SRS and SCALE must be zero (DESIGN CHOICE, log 93: R357 looks at SCALEF, and R332 says that an
integer pair does not consume it). -/
def scaleOfB (f : Nat) : Nat := if fmtB f == 5 then 2 else if codeInt (fmtB f) then 0 else fmtScale f
def scaleOfA (f : Nat) : Nat := if codeInt (fmtA f) then 0 else fmtScale f

/-- The elements along K that share a scale. -/
def groupOfA (f : Nat) : Nat := blockOf (fmtBlock f)
def groupOfB (f : Nat) : Nat := if fmtB f == 5 then 32 else blockOf (fmtBlock f)

/-- The scale of K index k of a row. -/
def Operand.scaleAt (o : Operand) (code group row k : Nat) : FloatVal :=
  scaleValue code (o.scales.getD (row * o.scaleCols + k / group) 0).toNat

/-- Row r of an operand. -/
def Operand.rowOf (o : Operand) (r : Nat) : List Byte := (o.bytes.drop (r * o.rowBytes)).take o.rowBytes

/-- One output element of an operation on K elements, from its accumulator. -/
def mmaElem (o : MatOp) (k r n acc : Nat) : Nat :=
  let f := o.fmt
  let a := o.a.rowOf r
  let b := o.b.rowOf n
  if codeInt (fmtA f) then
    low 32 ((List.range k).foldl (fun s i => s + matInt (fmtA f) a i * matInt (fmtB f) b i) (acc : Int))
  else
    let size := if fmtBlock f == 1 then 16 else 32
    (List.range (k / size)).foldl
      (fun acc i =>
        let ps := (List.range size).map fun j =>
          rawMul (matValue (fmtA f) o.map a (i * size + j)) (matValue (fmtB f) o.map b (i * size + j))
        accumulate acc
          (blockResult ps
            (rawMul (o.a.scaleAt (scaleOfA f) (groupOfA f) r (i * size))
              (o.b.scaleAt (scaleOfB f) (groupOfB f) n (i * size))))) acc

/-! ## Tiles -/

/-- Bytes of a tile written from element 0 on, row by row. -/
def tileElems : Nat := 16384

/-- An element of a tile, and its new value. -/
def tileRead (m : Memory) (team pos tile i : Nat) : Nat := leNat (readBytes m (tileKey team pos tile (i / 128) (i % 128)) 4)
def tileWrite (m : Memory) (team pos tile i v : Nat) : Memory :=
  writeBytes m (tileKey team pos tile (i / 128) (i % 128)) (leBytes 4 v)

/-- Whether a range of a tile's elements holds poison (R430). -/
def Dev.tilePoisoned (d : Dev) (team pos tile i n : Nat) : Bool := d.poisoned (tileKey team pos tile (i / 128) (i % 128)) (4 * n)

/-- Elements of a tile that are written hold no poison. -/
def Dev.clearTile (d : Dev) (team pos tile i n : Nat) : Dev :=
  { d with poison := dropPoison d.poison (tileKey team pos tile (i / 128) (i % 128)) (4 * n) }

/-- The tile of one core of an operation: column group `side` of the output. -/
def mmaTile (o : MatOp) (zero : Bool) (k pos side : Nat) (m : Memory) : Memory :=
  (List.range tileElems).foldl
    (fun m' i =>
      let acc := if zero then 0 else tileRead m' o.team pos o.tile i
      tileWrite m' o.team pos o.tile i (mmaElem o k (i / 128) (128 * side + i % 128) acc)) m

/-- tN ← (ZERO ? 0 : tN) + A·B on each core of an operation. -/
def Dev.mmaCompute (d : Dev) (t : Team) (o : MatOp) (zero : Bool) (k : Nat) : Dev :=
  let m := mmaTile o zero k (t.corePos (o.cores.headD 0)) 0 d.mem
  let m := match o.cores with
    | _ :: c :: _ => mmaTile o zero k (t.corePos c) 1 m
    | _ => m
  { o.cores.foldl (fun d c => d.clearTile o.team (t.corePos c) o.tile 0 tileElems) d with mem := m }

/-! ## The queue of a unit (R334) -/

/-- The operations on a core, in acceptance order. -/
def Dev.matOn (d : Dev) (core : Nat) : List MatOp := d.matOps.filter fun o => o.cores.contains core

def Dev.matRoom (d : Dev) (cores : List Nat) : Bool := cores.all fun c => decide ((d.matOn c).length < 8)

/-- Whether a pair operation has slaved a core's array. -/
def Dev.slaved (d : Dev) (core : Nat) : Bool := d.matOps.any fun o => (o.cores.drop 1).contains core

/-- Whether an operation is the first on each of its cores. -/
def Dev.matFirst (d : Dev) (o : MatOp) : Bool :=
  o.cores.all fun c => ((d.matOn c).head?.map fun x => x.id == o.id).getD false

/-! ## Reaching operands -/

/-- Where some bytes lie, or what the first that faults meets. -/
def Dev.locate (d : Dev) (fn ctx : Nat) (team : Option Team) (k : AccKind) :
    List (Nat × Nat) → Dev × Except EngineAt (List (Loc × Nat))
  | [] => (d, .ok [])
  | p :: ps =>
    match d.engineAt fn ctx team p.1 p.2 k with
    | (d, .loc l) =>
      match d.locate fn ctx team k ps with
      | (d, .ok ls) => (d, .ok ((l, p.2) :: ls))
      | r => r
    | (d, e) => (d, .error e)

/-- Pieces registered under an owner (R281). -/
def Dev.registerPieces (d : Dev) (fn ctx : Nat) (team : Option Team) (owner : Nat) (dst : Bool) (hold : GranuleHold)
    (ps : List (Nat × Nat)) : Dev :=
  ps.foldl (fun d p => d.registerPiece fn ctx team owner dst hold p) d

/-- Bytes replaced from an index on. -/
def patchBytes (l : List Byte) (i : Nat) (bs : List Byte) : List Byte := l.take i ++ bs ++ l.drop (i + bs.length)

/-- An operand with the bytes of a piece. -/
def Operand.fill (o : Operand) (p : OperandPiece) (bs : List Byte) : Operand :=
  if p.scale then { o with scales := patchBytes o.scales p.index bs } else { o with bytes := patchBytes o.bytes p.index bs }

/-- What reading a piece comes to. -/
inductive PieceStep where
  | got (bs : List Byte)
  | held
  | replay (f : WalkFault)
  | fatal (cause addr : Nat)

/-- A piece of an operand read, unless an earlier command holds it. -/
def Dev.readPiece (d : Dev) (fn ctx owner : Nat) (t : Team) (p : OperandPiece) : Dev × PieceStep :=
  match d.engineAt fn ctx (some t) p.va p.size .load with
  | (d, .loc l) =>
    if !d.engineOpen fn owner true l p.size false then (d, .held)
    else if d.poisoned l.key p.size then (d, .fatal 0x15 p.va)
    else (d, .got (d.homeRead fn l p.size))
  | (d, .replay f) => (d, .replay f)
  | (d, .fatal c a) => (d, .fatal c a)

/-- The pieces of an operand that can be read are read; the others stay to be read. -/
def Dev.capturePieces (fn ctx owner : Nat) (t : Team) : List OperandPiece → Dev → Operand → Dev × Operand
  | [], d, o => (d, o)
  | p :: ps, d, o =>
    match d.readPiece fn ctx owner t p with
    | (d, .got bs) => Dev.capturePieces fn ctx owner t ps d (o.fill p bs)
    | (d, _) => Dev.capturePieces fn ctx owner t ps d { o with todo := o.todo ++ [p] }

/-- The bytes of an operand that are still unread are held against writes (R335). -/
def Dev.registerTodo (d : Dev) (fn ctx owner : Nat) (t : Team) (o : Operand) : Dev :=
  d.registerPieces fn ctx (some t) owner false .bytes (o.todo.map fun p => (p.va, p.size))

/-- A piece that has been read is no longer held. -/
def Dev.dropPiece (d : Dev) (fn ctx owner : Nat) (t : Team) (p : OperandPiece) : Dev :=
  match (d.engineAt fn ctx (some t) p.va p.size .load).2 with
  | .loc l =>
    { d with granules := d.granules.filter fun g =>
        !(g.owner == owner && g.page == l.key / 4096 && g.lo == l.key % 4096 && g.size == p.size && g.hold == .bytes) }
  | _ => d

/-- Whether an operand has all its bytes and scales. -/
def Operand.ready (o : Operand) : Bool :=
  decide (o.bytes.length ≥ o.rows * o.rowBytes) && o.todo.isEmpty && o.fault.isNone

/-! ## Operand blocks (R357, R332) -/

/-- An operand block as `smma` reads it: words, first WORD, format code, whether it has scales, and the K of the other. -/
structure OperandBlock where
  ws : List Nat
  word : Nat
  code : Nat
  scaled : Bool
  k64 : Bool
  other : Nat

/-- The checks of an operand block in ascending word order; DATA may lie in either window (R32, R455). -/
def operandCheck (t : Team) (b : OperandBlock) : Option Failed :=
  let w := blockWord b.ws
  let kind := w 0 % 16
  let h := t.handles.find? fun x => x.num == bits (w 0) 7 4
  let data := blockPair b.ws 2
  let window := data / 2 ^ 56 == 0xFC || (data / 2 ^ 56 == 0xFE && !windowBad data)
  firstFailed [
    (w 0 / 256 != 0 || kind ≥ 2 || (kind == 0 && w 0 / 16 != 0) || (kind == 1 && h.isNone), codeField, b.word),
    (w 1 < 32 || w 1 > 65536 || w 1 % 32 != 0 || (b.k64 && w 1 % 64 != 0) || w 1 != b.other, codeField, b.word + 1),
    (kind == 0 && !window, codeField, b.word + 2),
    (kind == 0 && data % 16 != 0, codeAlign, b.word + 2),
    (kind == 0 && !scratchSide (some t) data, codeFifo, b.word + 2),
    (kind == 1 && ((h.map (·.fmtc)).getD 0) == 4 && w 3 % 2 != 0, codeField, b.word + 3),
    (kind == 0 && w 4 % 16 != 0, codeAlign, b.word + 4),
    (kind == 1 && w 4 != 0, codeField, b.word + 4),
    (!b.scaled && w 5 != 0, codeField, b.word + 5),
    (!b.scaled && w 6 != 0, codeField, b.word + 6), (!b.scaled && w 7 != 0, codeField, b.word + 7)]

/-- The operand that a block names, with nothing read: `group` elements share a scale. -/
def operandOf (t : Team) (b : OperandBlock) (rows group : Nat) : Operand :=
  let w := blockWord b.ws
  let h := if w 0 % 16 == 1 then t.handles.find? fun x => x.num == bits (w 0) 7 4 else none
  { bytes := [], handle := h, row0 := w 2, col0 := w 3, rows := rows, rowBytes := w 1 * codeBits b.code / 8,
    fetchRow := (h.map fun h => w 1 * codeBits h.fmtc / 8).getD 0, pushed := 0, scale := blockPair b.ws 6, srs := w 5,
    scaleCols := if b.scaled then (w 1 + group - 1) / group else 0, scales := [], fault := none }

/-- The pieces of an operand that are read at issue: the bytes of a scratch operand, 8 at a time, and its scales. -/
def Operand.piecesOf (b : OperandBlock) (o : Operand) : List OperandPiece :=
  let data := blockPair b.ws 2
  let rs := blockWord b.ws 4
  let scratch := if o.handle.isSome then [] else
    (List.range o.rows).flatMap fun r =>
      (List.range (o.rowBytes / 8)).map fun i =>
        OperandPiece.mk false (r * o.rowBytes + 8 * i) ((data + r * rs + 8 * i) % 2 ^ 64) 8
  scratch ++
    (List.range (o.rows * o.scaleCols)).map fun i =>
      OperandPiece.mk true i ((o.scale + i / o.scaleCols * o.srs + i % o.scaleCols) % 2 ^ 64) 1

/-- What an operand holds at issue: the bytes and scales that can be read then. The others are read later, held until then
with the values that they had (R335, R358). -/
def Dev.captureOperand (d : Dev) (fn ctx owner : Nat) (t : Team) (b : OperandBlock) (o : Operand) : Dev × Operand :=
  let blank := { o with
    bytes := if o.handle.isSome then [] else List.replicate (o.rows * o.rowBytes) 0
    scales := List.replicate (o.rows * o.scaleCols) 0 }
  Dev.capturePieces fn ctx owner t (o.piecesOf b) d blank

/-! ## The range of a handle operand (R323, R324) -/

/-- The generic address of byte i of the stream that a fetch pushes, or none where the element reads as zero. -/
def Operand.streamAddr (o : Operand) (h : Handle) (i : Nat) : Option Nat :=
  let w := codeBits h.fmtc
  let r := o.row0 + i / o.fetchRow
  let off := i % o.fetchRow
  if r ≥ h.rows || o.col0 + off * 8 / w ≥ h.cols then none
  else some ((h.base + r * h.stride + o.col0 * w / 8 + off) % 2 ^ 64)

/-- The source bytes of one row of a fetch that are not in STAGE yet. -/
def Operand.rowSource (o : Operand) (h : Handle) (r : Nat) : List (Nat × Nat) :=
  ((List.range o.fetchRow).filterMap fun i =>
    if r * o.fetchRow + i < o.pushed then none else o.streamAddr h (r * o.fetchRow + i)).map fun a => (a, 1)

/-- A fetch registers its source as a copy does. -/
def Dev.registerFetch (d : Dev) (fn ctx owner : Nat) (t : Team) (o : Operand) : Dev :=
  match o.handle with
  | none => d
  | some h => d.registerPieces fn ctx (some t) owner false .page ((List.range o.rows).flatMap (o.rowSource h))

/-! ## `smma` (R356, R358) -/

/-- The cores of an operation, or none when they are no pair of the team. -/
def matCores (t : Team) (core : Nat) (pair : Bool) : Option (List Nat) :=
  if !pair then some [core]
  else if core % 2 == 0 && t.cores.contains (core + 1) then some [core, core + 1]
  else none

/-- Acceptance of an operation: it is queued, the fetches of its handle operands are registered, and what is unread of its
operands is held. Each operand's granules have an owner of their own: the operation's number for A, and the next for B. -/
def Dev.acceptMat (d : Dev) (fn ctx : Nat) (t : Team) (o : MatOp) : Dev :=
  let d := { d with nextId := d.nextId + 2, matOps := d.matOps ++ [o] }
  (((d.registerFetch fn ctx o.id t o.a).registerFetch fn ctx (o.id + 1) t o.b).registerTodo fn ctx o.id t
    o.a).registerTodo fn ctx (o.id + 1) t o.b

/-- `smma` after its checks: what can be read of its operands is captured, and the tokens pass. -/
def Dev.issueMma (d : Dev) (is : Issue) (sh : Shuttle) (env : Env) (sreg tile : Nat) (zero : Bool) (cores : List Nat)
    (ba bb : OperandBlock) : Dev :=
  let fn := env.launch.fn
  let ctx := env.launch.ctx
  let f := sh.fmt
  let id := d.nextId
  let (d, a) := d.captureOperand fn ctx id env.team ba (operandOf env.team ba 128 (groupOfA f))
  let (d, b) := d.captureOperand fn ctx (id + 1) env.team bb (operandOf env.team bb (128 * cores.length) (groupOfB f))
  let o : MatOp :=
    { id := id, team := env.team.id, sh := sh.id, cores := cores, tile := tile, kind := .mma zero (blockWord ba.ws 1),
      fmt := f, map := d.tw2Map (cores.headD 0) (fmtMap f), draw := [], a := a, b := b, row := 0, fault := none,
      origin := is.command sh env }
  (d.setShuttle (sh.status is sreg 0)).acceptMat fn ctx env.team o

/-- `smma` (R358). K must be a multiple of 64 where SCALEF with BLOCK = 64 is consumed, and need not be where the only scales are a
TW2 B's own (DESIGN CHOICE, log 93: R332 says 'when a scale is used with BLOCK = 64'). -/
def execSmma (x y sreg : Nat) (own zero pair : Bool) (tile : Nat) (s : State) : Outcome :=
  onIssue s fun is sh env d =>
    scalarGo
      { sub0 := sh.handler, dests := [sreg],
        sub2 := decide (tile ≥ env.nest.tiles) || decide (x + 8 > 1008) || decide (y + 8 > 1008),
        names := sreg :: (regRange x 8 ++ regRange y 8), aligned := [(x, 8), (y, 8)],
        reads := regRange x 8 ++ regRange y 8, writes := [sreg] } is sh env d
      (let core := env.team.tileCore sh.core own
       let f := sh.fmt
       if !sh.settled || (!pair && d.slaved core) then d
       else if fmtIllegal f then d.scalarTrapOf is sh env 0x10 5
       else
        let wa := sh.blockWords x 8
        let wb := sh.blockWords y 8
        let k64 := !codeInt (fmtA f) && fmtScale f != 0 && fmtBlock f == 2
        let ba : OperandBlock :=
          { ws := wa, word := 0, code := fmtA f, scaled := scaleOfA f != 0, k64 := k64, other := blockWord wa 1 }
        let bb : OperandBlock :=
          { ws := wb, word := 8, code := fmtB f, scaled := scaleOfB f != 0, k64 := k64, other := blockWord wa 1 }
        match operandCheck env.team ba, operandCheck env.team bb with
        | some e, _ => d.setShuttle (sh.status is sreg (statusWord e))
        | none, some e => d.setShuttle (sh.status is sreg (statusWord e))
        | none, none =>
          match matCores env.team core pair with
          | none => d.setShuttle (sh.status is sreg (statusWord (codeNopair, 255)))
          | some cores =>
            if d.matRoom cores then d.issueMma is sh env sreg tile zero cores ba bb else d)

/-! ## Tokens (R359, R360) -/

/-- `smacq`: it waits for the token, and acquires. -/
def execSmacq (own : Bool) (tile : Nat) (s : State) : Outcome :=
  onIssue s fun is sh env d =>
    scalarGo { sub2 := decide (tile ≥ env.nest.tiles) } is sh env d
      (if d.tokenOut env.team.id (env.team.tileCore sh.core own) tile then d
       else (d.acquire env.team.cluster).setShuttle (sh.advance is))

/-- `smrel`: with no operation of its own, the token comes back with the operations queued on the tile. -/
def execSmrel (_own : Bool) (tile : Nat) (s : State) : Outcome :=
  onIssue s fun is sh env d =>
    scalarGo { sub0 := sh.handler, sub2 := decide (tile ≥ env.nest.tiles) } is sh env d
      (if sh.settled then d.setShuttle (sh.advance is) else d)

/-! ## `smst` and `smld` (R336, R361) -/

/-- The bytes of an element in memory. -/
def MatOp.elemBytes (o : MatOp) : Nat :=
  match o.kind with
  | .store _ _ _ => if fmtAccout o.fmt == 0 then 4 else 2
  | .load _ _ _ bf => if bf then 2 else 4
  | .mma _ _ => 4

/-- The pieces of row r in memory. -/
def MatOp.rowPieces (o : MatOp) (r : Nat) : List (Nat × Nat) :=
  match o.kind with
  | .store a rs _ => pieces ((a + r * rs) % 2 ^ 64) (128 * o.elemBytes)
  | .load a rs _ _ => pieces ((a + r * rs) % 2 ^ 64) (128 * o.elemBytes)
  | .mma _ _ => []

def MatOp.isStore (o : MatOp) : Bool :=
  match o.kind with
  | .store _ _ _ => true
  | _ => false

/-- The rows that a move has left are registered. -/
def Dev.registerMove (d : Dev) (fn ctx : Nat) (t : Team) (o : MatOp) : Dev :=
  d.registerPieces fn ctx (some t) o.id o.isStore .page ((List.range (128 - o.row)).flatMap fun i => o.rowPieces (o.row + i))

/-- The use of a tile move. -/
def moveUse (handler : Bool) (x y tile tiles sreg : Nat) : ScalarUse :=
  { sub0 := handler, dests := [sreg], sub2 := decide (tile ≥ tiles), names := sreg :: y :: regRange x 2,
    aligned := [(x, 2)], reads := y :: regRange x 2, writes := [sreg] }

/-- An operand that an operation does not have. -/
def noOperand : Operand :=
  { bytes := [], handle := none, row0 := 0, col0 := 0, rows := 0, rowBytes := 0, fetchRow := 0, pushed := 0, scale := 0,
    srs := 0, scaleCols := 0, scales := [], fault := none }

/-- A tile move at issue: its checks, and its acceptance. `draw` gives the draws of an `smst` and the shuttle after
them. -/
def tileMove (x y tile sreg : Nat) (own : Bool) (bad : Nat → Bool) (kind : Nat → Nat → MatKind)
    (draw : Shuttle → Env → List Nat × Shuttle) (s : State) : Outcome :=
  onIssue s fun is sh env d =>
    scalarGo (moveUse sh.handler x y tile env.nest.tiles sreg) is sh env d
      (if !sh.settled then d
       else if bad sh.fmt then d.scalarTrapOf is sh env 0x10 5
       else if sh.pair x % 16 != 0 || sh.sval y % 16 != 0 then
        d.setShuttle (sh.status is sreg (statusWord (codeAlign, 255)))
       else
        let core := env.team.tileCore sh.core own
        if !d.matRoom [core] then d
        else
          let (dr, sh') := draw sh env
          let o : MatOp :=
            { id := d.nextId, team := env.team.id, sh := sh.id, cores := [core], tile := tile,
              kind := kind (sh.pair x) (sh.sval y), fmt := sh.fmt, map := 0, draw := dr, a := noOperand, b := noOperand,
              row := 0, fault := none, origin := is.command sh env }
          ((d.setShuttle (sh'.status is sreg 0)).acceptMat env.launch.fn env.launch.ctx env.team
            o).registerMove env.launch.fn env.launch.ctx env.team o)

/-- The draws of an `smst` (R54, R361): those of the lowest existing beat; each group of four elements takes one. -/
def storeDraw (e : Int) (sh : Shuttle) (env : Env) : List Nat × Shuttle :=
  let b := (sh.threads env.launch.levels env.team.num sh.seq).headD 0
  let c := sh.coord env.launch.levels env.team.num sh.seq b
  let draws := fmtNround sh.fmt == 5 && !(fmtAccout sh.fmt == 0 && e == 0)
  ([sh.seed, c.getD 0 0, c.getD 1 0, c.getD 2 0, c.getD 3 0, sh.count b, sh.stage],
    if draws then sh.setCount b (sh.count b + tileElems / 4) else sh)

def execSmst (x y tile sreg : Nat) (e : Int) (own : Bool) (s : State) : Outcome :=
  tileMove x y tile sreg own
    (fun f => fmtAccout f == 3 || (fmtNround f != 0 && fmtNround f != 5))
    (fun a rs => .store a rs e) (storeDraw e) s

def execSmld (x y tile sreg : Nat) (e : Int) (bf own : Bool) (s : State) : Outcome :=
  tileMove x y tile sreg own (fun _ => false) (fun a rs => .load a rs e bf) (fun sh _ => ([], sh)) s

/-- A value times 2^e. -/
def timesPow (e : Int) : FloatVal → FloatVal
  | .fin n m x => .fin n m (x + e)
  | v => v

/-- What `smst` writes for element i of a tile. -/
def storeElem (o : MatOp) (e : Int) (i v : Nat) : Nat :=
  let f := match fmtAccout o.fmt with
    | 0 => FloatFmt.f32
    | 1 => .bf16
    | _ => .f16
  let g := fun k => o.draw.getD k 0
  if fmtAccout o.fmt == 0 && e == 0 then v
  else
    (roundConv f (fmtNround o.fmt) false (srElem (srBits (g 0) (g 1) (g 2) (g 3) (g 4) (g 5 + i / 4) (g 6)) (i % 4))
      (timesPow e (floatVal .f32 v))).1

/-- What `smld` writes for an element read. -/
def loadElem (bf : Bool) (e : Int) (v : Nat) : Nat :=
  if !bf && e == 0 then v else (roundConv .f32 0 false 0 (timesPow e (floatVal (if bf then .bf16 else .f32) v))).1

/-- What one row of a move comes to. -/
inductive RowStep where
  | done (d : Dev)
  | held
  | replay (f : WalkFault)
  | fatal (cause addr : Nat)

/-- Row r of a move. -/
def Dev.moveRow (d : Dev) (fn ctx : Nat) (t : Team) (o : MatOp) (r : Nat) : Dev × RowStep :=
  let n := o.elemBytes
  let pos := t.corePos (o.cores.headD 0)
  match d.locate fn ctx (some t) (if o.isStore then .store else .load) (o.rowPieces r) with
  | (d, .error (.replay f)) => (d, .replay f)
  | (d, .error (.fatal c a)) => (d, .fatal c a)
  | (d, .error (.loc _)) => (d, .held)
  | (d, .ok ls) =>
    if ls.any fun l => !d.engineOpen fn o.id true l.1 l.2 o.isStore then (d, .held)
    else
      match o.kind with
      | .store _ _ e =>
        if d.tilePoisoned o.team pos o.tile (r * 128) 128 then (d, .fatal 0x15 0)
        else
        let bs := (List.range 128).flatMap fun c =>
          leBytes n (storeElem o e (r * 128 + c) (tileRead d.mem o.team pos o.tile (r * 128 + c)))
        (d, .done ((d.writePieces fn ls bs).pieceDone o.id ls true))
      | .load _ _ e bf =>
        match (ls.zip (o.rowPieces r)).find? fun x => d.poisoned x.1.1.key x.1.2 with
        | some x => (d, .fatal 0x15 x.2.1)
        | none =>
          let bs := d.readPieces fn ls
          let m := (List.range 128).foldl
            (fun m c => tileWrite m o.team pos o.tile (r * 128 + c) (loadElem bf e (leNat ((bs.drop (n * c)).take n))))
            d.mem
          (d, .done ({ d.clearTile o.team pos o.tile (r * 128) 128 with mem := m }.pieceDone o.id ls false))
      | .mma _ _ => (d, .done d)

/-! ## Faults of an operation (R317, R358) -/

/-- An operation is over: its token and its granules go. -/
def Dev.dropMat (d : Dev) (o : MatOp) : Dev :=
  { (d.dropGranules o.id).dropGranules (o.id + 1) with matOps := d.matOps.filter fun x => x.id != o.id }

/-- A non-replayable fault ends the operation and its team. -/
def Dev.matFatal (d : Dev) (o : MatOp) (cause addr : Nat) : Dev :=
  let d := d.dropMat o
  match d.shuttle o.sh with
  | some s => d.engineTrap s o.origin cause addr [] 0
  | none => d

/-- A replayable fault is posted for an operation. -/
def Dev.matReplay (d : Dev) (t : Team) (ctx : Nat) (o : MatOp) (f : WalkFault) (access : Nat) : Dev × Nat :=
  d.postFault t.fn (engineFault f ctx t.num access (.matOp o.id))

/-- The rows of a move from its progress on. -/
def Dev.moveRows (fn ctx : Nat) (t : Team) : Nat → Dev → MatOp → Dev
  | 0, d, _ => d
  | fuel + 1, d, o =>
    if o.row ≥ 128 then d.dropMat o
    else
      match d.moveRow fn ctx t o o.row with
      | (_, .done d) =>
        let o := { o with row := o.row + 1 }
        Dev.moveRows fn ctx t fuel (d.setMatOp o) o
      | (d, .held) => d
      | (d, .replay f) =>
        let (d, id) := d.matReplay t ctx o f (if o.isStore then 4 else 3)
        d.setMatOp { o with fault := some id }
      | (d, .fatal c a) => d.matFatal o c a

/-! ## OPERAND_FETCH (R324) -/

/-- Slots popped from an operand's STAGE entry until it has its bytes or the entry is empty. -/
def popStage (t : Team) (o : Operand) : Nat → Team × Operand
  | 0 => (t, o)
  | fuel + 1 =>
    match o.handle with
    | none => (t, o)
    | some h =>
      if o.bytes.length ≥ o.rows * o.rowBytes then (t, o)
      else
        match t.bank h.stage with
        | some ⟨e, b, g, sh, v :: vs⟩ =>
          popStage (t.setBank ⟨e, b, g, sh, vs⟩) { o with bytes := o.bytes ++ v } fuel
        | _ => (t, o)

/-- Whether an operand still has bytes to pop from a STAGE entry. -/
def Operand.popsFrom (p : Operand) (stage : Nat) : Bool :=
  (p.handle.map (·.stage)) == some stage && decide (p.bytes.length < p.rows * p.rowBytes)

/-- Whether an earlier operation of the team has bytes to pop from a STAGE entry: operand bytes are read in operation order
(R335). -/
def Dev.stageBehind (d : Dev) (o : MatOp) (stage : Nat) : Bool :=
  d.matOps.any fun x => x.team == o.team && decide (x.id < o.id) && (x.a.popsFrom stage || x.b.popsFrom stage)

/-- The first operation of its cores takes what its STAGE entries hold, A before B. -/
def Dev.takeStages (d : Dev) (o : MatOp) : Dev × MatOp :=
  match d.team o.team with
  | none => (d, o)
  | some t =>
    if !d.matFirst o then (d, o)
    else
      let open_ := fun (p : Operand) => (p.handle.map fun h => !d.stageBehind o h.stage).getD false
      let (t, a) := if open_ o.a then popStage t o.a (o.a.rows * o.a.rowBytes) else (t, o.a)
      let (t, b) := if open_ o.b && !(o.b.handle.map fun h => a.popsFrom h.stage).getD false
        then popStage t o.b (o.b.rows * o.b.rowBytes) else (t, o.b)
      let o := { o with a := a, b := b }
      ((d.setTeam t).setMatOp o, o)

/-- Whether an earlier fetch of the team goes into the same STAGE entry. -/
def Dev.fetchBehind (d : Dev) (o : MatOp) (sideB : Bool) (stage : Nat) : Bool :=
  let into := fun (p : Operand) => p.fetching && (p.handle.map fun h => h.stage == stage).getD false
  (sideB && into o.a) || d.matOps.any fun x => x.team == o.team && decide (x.id < o.id) && (into x.a || into x.b)

/-- The bytes of a slot of a fetch: what is there, and zeros at the edges (R324). Where the operand's bytes are no whole number of
slots, the last slot is filled with zeros past its end, and its pop takes the whole slot (DESIGN CHOICE, log 93: R324 speaks of
no such operand). -/
def Dev.slotBytes (fn ctx owner : Nat) (t : Team) (p : Operand) (h : Handle) : List Nat → Dev → Dev × Except PieceStep (List Byte)
  | [], d => (d, .ok [])
  | i :: is, d =>
    match (if i < p.rows * p.fetchRow then p.streamAddr h i else none) with
    | none =>
      match Dev.slotBytes fn ctx owner t p h is d with
      | (d, .ok bs) => (d, .ok (0 :: bs))
      | r => r
    | some a =>
      match d.engineAt fn ctx (some t) a 1 .load with
      | (d, .loc l) =>
        if !d.engineOpen fn owner true l 1 false then (d, .error .held)
        else if d.poisoned l.key 1 then (d, .error (.fatal 0x15 a))
        else
          match Dev.slotBytes fn ctx owner t p h is d with
          | (d, .ok bs) => (d, .ok (d.homeRead fn l 1 ++ bs))
          | r => r
      | (d, .replay f) => (d, .error (.replay f))
      | (d, .fatal c a) => (d, .error (.fatal c a))

/-- The source bytes of a slot that has gone into STAGE are no longer held (R282). -/
def Dev.slotDone (d : Dev) (fn ctx owner : Nat) (t : Team) (p : Operand) (h : Handle) (is : List Nat) : Dev :=
  is.foldl
    (fun d i =>
      match (if i < p.rows * p.fetchRow then p.streamAddr h i else none) with
      | none => d
      | some a =>
        match (d.engineAt fn ctx (some t) a 1 .load).2 with
        | .loc l => d.pieceDone owner [(l, 1)] false
        | _ => d) d

/-- An operand's fetch without its engine, and without its buffer. -/
def Operand.release (p : Operand) : Operand := { p with engine := none, buffered := false }

/-- What a step of an operand's fetcher comes to. -/
inductive FetchStep where
  | went (p : Operand)
  | held
  | replay (f : WalkFault)
  | fatal (cause addr : Nat)

/-- One slot of a fetch goes into its STAGE entry; at a full one the fetch parks without its engine and its buffer, as the last
waiter (R247, R324). -/
def Dev.fetchSlot (d : Dev) (fn ctx : Nat) (t : Team) (owner : Nat) (p : Operand) (h : Handle) : Dev × FetchStep :=
  match t.bank h.stage with
  | some ⟨e, bk, some (b, m), sh, slots⟩ =>
    if slots.length ≥ m then
      ({ d with nextId := d.nextId + 1 }, .went { p.release with waitNo := some d.nextId })
    else
      let is := (List.range b).map (p.pushed + ·)
      match Dev.slotBytes fn ctx owner t p h is d with
      | (d, .error .held) => (d, .held)
      | (d, .error (.got _)) => (d, .held)
      | (d, .error (.replay f)) => (d, .replay f)
      | (d, .error (.fatal c a)) => (d, .fatal c a)
      | (d, .ok bs) =>
        let d := (d.slotDone fn ctx owner t p h is).setTeam (t.setBank ⟨e, bk, some (b, m), sh, slots ++ [bs]⟩)
        let p := { p with pushed := p.pushed + b, waitNo := none }
        if p.fetching then (d, .went p) else (d.dropGranules owner, .went p.release)
  | _ => (d, .fatal 0x14 h.base)

/-- The next part of an operand: a piece that issue left unread, or a slot of its fetch. A fetch of a function without budget
gives up its engine. -/
def Dev.fetchPart (d : Dev) (fn ctx : Nat) (t : Team) (owner : Nat) (p : Operand) : Dev × FetchStep :=
  match p.todo with
  | x :: xs =>
    match d.readPiece fn ctx owner t x with
    | (d, .got bs) => (d.dropPiece fn ctx owner t x, .went ({ p with todo := xs }.fill x bs))
    | (d, .held) => (d, .held)
    | (d, .replay f) => (d, .replay f)
    | (d, .fatal c a) => (d, .fatal c a)
  | [] =>
    match p.handle, p.engine with
    | some h, some _ =>
      if !(d.func fn).hasBudget then (d, .went { p with engine := none }) else d.fetchSlot fn ctx t owner p h
    | _, _ => (d, .held)

/-- OPERAND_FETCH: the fetcher goes on with an operand of an operation. -/
def execOperandFetch (op : Nat) (sideB : Bool) (s : State) : Outcome :=
  .next { s with dev :=
    match s.dev.matOp op with
    | none => s.dev
    | some o =>
      match s.dev.team o.team with
      | none => s.dev
      | some t =>
        let p := if sideB then o.b else o.a
        let put := fun p => if sideB then { o with b := p } else { o with a := p }
        let ctx := ((s.dev.launch t.launch).map (·.ctx)).getD 0
        if p.fault.isSome then s.dev
        else
          let owner := if sideB then o.id + 1 else o.id
          match (s.dev.settle owner).fetchPart t.fn ctx t owner p with
          | (d, .went p) => ((d.setMatOp (put p)).takeStages (put p)).1
          | (d, .held) => (d.takeStages o).1
          | (d, .replay f) =>
            let (d, id) := d.matReplay t ctx o f 3
            d.setMatOp (put { p with fault := some id, engine := none, waitNo := none })
          | (d, .fatal c a) => d.matFatal o c a }

/-! ## COPY_ENGINE_GRANT (R322, R324) -/

/-- What an engine serves: a copy command, or the fetch of an operand of an operation. -/
inductive EngineUser where
  | cmd (c : CopyCmd)
  | fetch (o : MatOp) (sideB : Bool) (p : Operand)

/-- Whether the fetch of an operand competes for an engine: its turn at its STAGE entry, budget, and a request buffer. -/
def Dev.fetchCompetes (d : Dev) (t : Team) (o : MatOp) (sideB : Bool) (p : Operand) : Bool :=
  match p.handle with
  | none => false
  | some h =>
    p.fetching && p.engine.isNone && p.fault.isNone && !d.fetchBehind o sideB h.stage && (d.func t.fn).hasBudget &&
      ((p.waitNo.map fun n => d.wakes t h.stage true n).getD true) && (p.buffered || d.bufferRoom t.fn (some t))

/-- Those that compete for the engines of a partition, each with its priority and its place in the order of acceptance. -/
def Dev.engineUsers (d : Dev) (part : Nat) : List (Nat × Nat × EngineUser) :=
  ((d.cmds.filter fun c => c.part == part && d.competes c).map fun c =>
      (c.prio, c.id, .cmd c)) ++
    d.matOps.flatMap fun o =>
      match d.team o.team with
      | none => []
      | some t =>
        if partOf t.fn != part then []
        else
          ([(false, o.a), (true, o.b)].filter fun x => d.fetchCompetes t o x.1 x.2).map fun x =>
            (((d.launch t.launch).map (·.prio)).getD 0, (if x.1 then o.id + 1 else o.id), .fetch o x.1 x.2)

/-- What an engine of a partition serves next: the highest priority, then the first accepted. -/
def Dev.nextUser (d : Dev) (part : Nat) : Option EngineUser :=
  ((d.engineUsers part).foldl
    (fun acc x => match acc with
      | none => some x
      | some y => if x.1 > y.1 || (x.1 == y.1 && x.2.1 < y.2.1) then some x else some y) none).map (·.2.2)

/-- Whether an engine is in use. -/
def Dev.engineTaken (d : Dev) (e : Nat) : Bool :=
  d.cmds.any (fun c => c.onEngine e) || d.matOps.any fun o => o.a.engine == some e || o.b.engine == some e

/-- COPY_ENGINE_GRANT: a free engine of a partition goes to the one that it is to serve next. -/
def execCopyEngineGrant (part : Nat) (s : State) : Outcome :=
  .next { s with dev :=
    match (s.dev.enginesOf part).find? fun e => !s.dev.engineTaken e with
    | none => s.dev
    | some e =>
      match s.dev.nextUser part with
      | none => s.dev
      | some (.cmd c) => s.dev.setCmd { c with status := .running e }
      | some (.fetch o sideB p) =>
        let p := { p with engine := some e, buffered := true }
        s.dev.setMatOp (if sideB then { o with b := p } else { o with a := p }) }

/-! ## MATRIX_OP_RETIRE (R334) -/

/-- MATRIX_OP_RETIRE: the first operation of a core is computed once its operands are there, or its rows move; it then
returns its token. -/
def execMatrixOpRetire (core : Nat) (s : State) : Outcome :=
  .next { s with dev :=
    match (s.dev.matOn core).head? with
    | none => s.dev
    | some o =>
      match s.dev.team o.team with
      | none => s.dev
      | some t =>
        let ctx := ((s.dev.launch t.launch).map (·.ctx)).getD 0
        if o.fault.isSome || !s.dev.matFirst o then s.dev
        else
          match o.kind with
          | .mma zero k =>
            let (d, o) := s.dev.takeStages o
            if o.a.ready && o.b.ready then
              match d.team o.team with
              | none => d
              | some t =>
                if !zero && o.cores.any fun c => d.tilePoisoned o.team (t.corePos c) o.tile 0 tileElems then
                  d.matFatal o 0x15 0
                else (d.mmaCompute t o zero k).dropMat o
            else d
          | _ => Dev.moveRows t.fn ctx t 129 (s.dev.settle o.id) o }

end Sys2Proof.Machine
end

