-- ==== Sys2Proof/Machine/Scan.lean ====
section
/-!
DEFINITION. The scan unit: operators and combine order (spec/15 R337 to R340), chains and their tiles (R341 to R345),
`sscan` and `sscw` (spec/16 R363 to R365; spec/13 R284).
-/
namespace Sys2Proof.Machine

/-! ## F32 arithmetic of the unit (R337) -/

def f32Val (a : Nat) : FloatVal := floatVal .f32 a
def f32Round (r : RawResult) : Nat := (roundRaw .f32 0 false 0 r).1
def f32Mul (a b : Nat) : Nat := f32Round (rawMul (f32Val a) (f32Val b))
def f32Add (a b : Nat) : Nat := f32Round (rawAdd 0 (f32Val a) (f32Val b))
def f32Fma (a b c : Nat) : Nat := f32Round (rawFma 0 (f32Val a) (f32Val b) (f32Val c))
def f32Max (a b : Nat) : Nat := (floatMinMax .f32 true a b).1
def f32Min (a b : Nat) : Nat := (floatMinMax .f32 false a b).1

/-- A NaN delivered is the canonical one (R310). -/
def f32Canon (a : Nat) : Nat := if anyNaN [f32Val a] then canonNaN .f32 else a

/-! ### LAE

With M the larger operand and d the difference, ln(e^x + e^y) = M + ln(1 + e^(-d)), which is never a dyadic number. -/

/-- ln of p / 2^v for p from 2^v to 2^(v+1), in units of 2^(-v). -/
def lnFix (v p : Nat) : Int :=
  let high := decide (2 * p ≥ 3 * 2 ^ v)
  let q := if high then p / 2 else p
  let below := decide (q < 2 ^ v)
  let num := if below then 2 ^ v - q else q - 2 ^ v
  let z := num * 2 ^ v / (q + 2 ^ v)
  let ln : Int := (2 * atanhSeries v (z * z / 2 ^ v) (v + 8) 0 z : Nat)
  (if below then -ln else ln) + (if high then (ln2Fix v : Int) else 0)

/-- Bounds of M + ln(1 + e^(-d)) in units of 2^(-w), for M = mm * 2^me signed and d = dm * 2^de. -/
def laeBounds (neg : Bool) (mm : Nat) (me : Int) (dm : Nat) (de : Int) (w : Nat) : Int × Int :=
  let v := w + 32
  let (n, lo, hi) := expNeg v dm de
  let err : Int := (fixErr v * 4 : Nat)
  let a := (lnFix v (2 ^ v + lo / 2 ^ n) - err) / 2 ^ 32
  let b := (lnFix v (2 ^ v + min (2 ^ v) (hi / 2 ^ n + 1)) + err) / 2 ^ 32 + 1
  let m := onGrid neg mm me (-(w : Int))
  (m + a, m + b)

/-- The exact value of LAE on finite operands. -/
def laeExact (neg : Bool) (mm : Nat) (me : Int) (dm : Nat) (de : Int) : ExactVal :=
  let sign := decide ((laeBounds neg mm me dm de 512).2 < 0)
  zivLoop sign
    (fun w =>
      let (a, b) := laeBounds neg mm me dm de w
      if sign then FixInterval.mk (-b).toNat (-a).toNat (-(w : Int)) else FixInterval.mk a.toNat b.toNat (-(w : Int)))
    7 512

/-- LAE(x, y), rounded once to F32 with RNE. -/
def f32Lae (x y : Nat) : Nat :=
  match f32Val x, f32Val y with
  | .fin n1 m1 e1, .fin n2 m2 e2 =>
    let s := exactAdd 0 n1 m1 e1 (!n2) m2 e2
    let (n, m, e) := if s.neg then (n2, m2, e2) else (n1, m1, e1)
    let far := decide (onGrid false s.m s.e (min s.e 0) > onGrid false 300 0 (min s.e 0))
    let (dm, de) := if far then (300, 0) else (s.m, s.e)
    f32Round (.exact (laeExact n m e dm de))
  | .nan _, _ => canonNaN .f32
  | _, .nan _ => canonNaN .f32
  | .inf false, _ => 0x7F800000
  | _, .inf false => 0x7F800000
  | .inf true, .inf true => 0xFF800000
  | .inf true, .fin n m e => f32Round (.exact (ExactVal.mk (n && m != 0) m e false))
  | .fin n m e, .inf true => f32Round (.exact (ExactVal.mk (n && m != 0) m e false))

/-! ## CUSTOM programs (R338) -/

/-- The registers at the start of a combine: E's words, L's, four zeros, and the constants. -/
def customRegs (w : Nat) (e l : List Nat) : List Nat :=
  (List.range 4).map (fun k => if k < w then e.getD k 0 else 0) ++
    (List.range 4).map (fun k => if k < w then l.getD k 0 else 0) ++ [0, 0, 0, 0, 0, 0x3F800000, 0xFF800000, 0x7F800000]

/-- One micro-operation. -/
def customStep (r : List Nat) (u : Nat) : List Nat :=
  let a := r.getD (bits u 23 20) 0
  let b := r.getD (bits u 19 16) 0
  let c := r.getD (bits u 15 12) 0
  let v := match bits u 31 28 with
    | 0 => f32Add a b
    | 1 => f32Mul a b
    | 2 => f32Fma a b c
    | 3 => f32Max a b
    | 4 => f32Min a b
    | _ => f32Canon (if (FloatVal.fin false 0 0).lt (f32Val a) then b else c)
  setAt r (bits u 27 24) v

/-- W and N of a program. -/
def customW (prog : List Nat) : Nat := bits (prog.getD 0 0) 7 4
def customN (header : Nat) : Nat := header % 16

/-- Whether a header is legal. -/
def headerOk (h : Nat) : Bool :=
  h / 256 == 0 && decide (1 ≤ bits h 7 4) && decide (bits h 7 4 ≤ 4) && decide (1 ≤ customN h) && decide (customN h ≤ 8)

/-- Whether a micro-operation word is legal for W state words. -/
def microOk (w u : Nat) : Bool :=
  let op := bits u 31 28
  let three := op == 2 || op == 5
  let ok := fun r => !(decide (r < 8) && decide (r % 4 ≥ w))
  decide (op ≤ 5) && decide (8 ≤ bits u 27 24) && decide (bits u 27 24 ≤ 11) && u % 4096 == 0 &&
    (three || bits u 15 12 == 0) && ok (bits u 23 20) && ok (bits u 19 16) && (!three || ok (bits u 15 12))

/-! ## Combine (R337) -/

/-- Combine on one AFF1 channel. -/
def affine (ea eb la lb : Nat) : Nat × Nat := (f32Mul la ea, f32Fma la eb lb)

/-- Combine(E, L) of a KIND with d channels. -/
def combine (kind d : Nat) (prog : List Nat) (e l : List Nat) : List Nat :=
  let E := fun k => e.getD k 0
  let L := fun k => l.getD k 0
  match kind with
  | 0 => let r := affine (E 0) (E 1) (L 0) (L 1); [r.1, r.2]
  | 1 =>
    (List.range d).map (fun i => (affine (E i) (E (d + i)) (L i) (L (d + i))).1) ++
      (List.range d).map fun i => (affine (E i) (E (d + i)) (L i) (L (d + i))).2
  | 2 =>
    let m := fun i j => f32Fma (L (2 * i + 1)) (E (2 + j)) (f32Mul (L (2 * i)) (E j))
    let b := fun i => f32Fma (L (2 * i + 1)) (E 5) (f32Fma (L (2 * i)) (E 4) (L (4 + i)))
    [m 0 0, m 0 1, m 1 0, m 1 1, b 0, b 1]
  | 3 => [f32Add (E 0) (L 0), f32Max (f32Add (L 0) (E 1)) (L 1)]
  | 4 => [f32Add (E 0) (L 0), f32Lae (f32Add (L 0) (E 1)) (L 1)]
  | 5 => [addW 32 (E 0) (L 0)]
  | 6 => [f32Add (E 0) (L 0)]
  | _ =>
    let w := customW prog
    (((prog.drop 1).foldl customStep (customRegs w e l)).drop 8).take w

/-- The words of an element as read. -/
def elemWords (kind d w : Nat) : Nat :=
  match kind with
  | 0 => 2 | 1 => 2 * d | 2 => 6 | 3 => 2 | 4 => 2 | 5 => 1 | 6 => 1 | _ => w

/-- The words of an element as written. -/
def outWords (kind d : Nat) : Nat := if kind == 1 then d else if kind == 2 then 2 else 1

/-- The output of a state: its projection, with canonical NaNs. -/
def projection (kind d : Nat) (s : List Nat) : List Nat :=
  match kind with
  | 0 => [f32Canon (s.getD 1 0)]
  | 1 => ((s.drop d).take d).map f32Canon
  | 2 => ((s.drop 4).take 2).map f32Canon
  | 3 => [f32Canon (s.getD 1 0)]
  | 4 => [f32Canon (s.getD 1 0)]
  | 5 => [s.getD 0 0]
  | _ => [f32Canon (s.getD 0 0)]

/-! ## Combine order (R339) -/

/-- Running combines: each value joined with all before it. -/
def runningFrom (f : List Nat → List Nat → List Nat) (acc : List Nat) : List (List Nat) → List (List Nat)
  | [] => []
  | x :: xs => let v := f acc x; v :: runningFrom f v xs
def running (f : List Nat → List Nat → List Nat) : List (List Nat) → List (List Nat)
  | [] => []
  | x :: xs => x :: runningFrom f x xs

/-- A list cut into pieces of k. -/
def piecesOf {α : Type} (k : Nat) : Nat → List α → List (List α)
  | 0, _ => []
  | fuel + 1, xs => if xs.isEmpty then [] else xs.take k :: piecesOf k fuel (xs.drop k)

/-- Each chunk after the first joined with the prefix before it. -/
def joinPrefixes (f : List Nat → List Nat → List Nat) : List (List Nat) → List (List (List Nat)) → List (List Nat)
  | p :: ps, c :: cs => c.map (f p) ++ joinPrefixes f ps cs
  | _, _ => []

/-- ScanTile: chunks of 16 in sequence, the chunk totals in sequence, and each element of a later chunk joined with the
prefix before its chunk. -/
def scanTile (f : List Nat → List Nat → List Nat) (xs : List (List Nat)) : List (List Nat) :=
  let chunks := (piecesOf 16 xs.length xs).map (running f)
  let ps := running f (chunks.map fun c => c.getLastD [])
  chunks.headD [] ++ joinPrefixes f ps (chunks.drop 1)

/-! ## The ring (R341, R417) -/

/-- The cores of a partition in index order: 12 in each of its slices. -/
def Dev.partCores (d : Dev) (p : Nat) : List Nat :=
  let v := (d.part p).pdesc
  if bit v 63 then (List.range (12 * bits v 55 52)).map (12 * bits v 59 56 + ·) else []

/-- The core after one on the ring of a partition. -/
def Dev.nextCore (d : Dev) (p core : Nat) : Nat :=
  let ring := d.partCores p
  match ring.findIdx? (· == core) with
  | some i => ring.getD ((i + 1) % ring.length) core
  | none => core

/-! ## Chains -/

/-- Whether a chain's completion has passed every core of its ring. -/
def Dev.chainRetired (d : Dev) (c : Chain) : Bool := c.complete && (d.partCores c.part).all c.passed.contains

/-- The slots that a chain holds: one on each core where it has been opened. -/
def Dev.chainCores (d : Dev) (uid : Nat) : List Nat := ((d.tiles.filter fun t => t.chain == uid).map (·.core)).eraseDups

/-- The chain slots in use by a function (R404). -/
def Dev.chainSlots (d : Dev) (fn : Nat) : Nat :=
  (d.chains.filter fun c => c.fn == fn && !d.chainRetired c).foldl (fun n c => n + (d.chainCores c.uid).length) 0

/-- The open chain of a launch with an id. -/
def Dev.openChain (d : Dev) (launch id : Nat) : Option Chain :=
  d.chains.find? fun c => c.launch == launch && c.id == id && !c.complete

/-- Whether a tile still has its in-tile work to do. -/
def ScanTile.waiting (t : ScanTile) : Bool :=
  match t.status with
  | .queued => true
  | .faulted _ => t.ys.isEmpty
  | _ => false

/-- The tiles in a core's scan unit, in acceptance order (R342). -/
def Dev.tilesOn (d : Dev) (core : Nat) : List ScanTile := d.tiles.filter fun t => t.core == core && t.waiting

/-! ## `sscan` (R363, R364) -/

/-- The checks of an `sscan` block in ascending word order. -/
def scanCheck (ws : List Nat) : Option Failed :=
  let w := blockWord ws
  let kind := w 5 % 16
  let d := bits (w 5) 14 8
  firstFailed [
    (blockPair ws 0 % 4 != 0, codeAlign, 0),
    (blockPair ws 2 % 4 != 0, codeAlign, 2),
    (w 4 == 0 || w 4 > 4096, codeField, 4),
    (w 5 / 2 ^ 15 != 0 || bits (w 5) 7 4 != 0 || kind > 7 || (kind == 1 && (d == 0 || d > 64)) || (kind != 1 && d != 0),
      codeField, 5),
    (w 6 ≥ w 7, codeField, 6),
    (w 7 == 0 || w 7 > 65535, codeField, 7),
    ((kind == 7 && blockPair ws 8 / 2 ^ 56 != 0) || (kind != 7 && blockPair ws 8 != 0), codeField, 8),
    (kind == 7 && blockPair ws 8 % 4 != 0, codeAlign, 8),
    (w 10 != 0, codeField, 10), (w 11 != 0, codeField, 11)]

/-- How far the reading of a CUSTOM program is. -/
inductive ProgramRead where
  | reading (d : Dev)
  | words (ws : List Nat)
  | rejected

/-- The n low words of a number. -/
def wordsOfNat (n v : Nat) : List Nat := (List.range n).map fun k => v / 2 ^ (32 * k) % 2 ^ 32

/-- The program at an address, read a word at a time by plain loads of the issuing shuttle; an access keeps the words
before it. -/
def Dev.readProgram (d : Dev) (is : Issue) (sh : Shuttle) (env : Env) (addr : Nat) : ProgramRead :=
  let next := fun (sh : Shuttle) k got =>
    ProgramRead.reading
      (d.scalarAccess is sh env (newScalarAccess .load (addr + 4 * k) 4 got 0 .stream [is.first]) false id)
  match sh.waitingAccess is with
  | none => next sh 0 0
  | some a =>
    match a.status with
    | .arrived v =>
      let k := (a.va - addr) / 4
      let got := a.data + v * 2 ^ (32 * k)
      let ws := wordsOfNat (k + 1) got
      if !headerOk (ws.getD 0 0) then .rejected
      else if k < customN (ws.getD 0 0) then next (sh.dropAcc a.id) (k + 1) got
      else if (ws.drop 1).all (microOk (customW ws)) then .words ws
      else .rejected
    | _ => .reading d

/-- What the tiles of a chain must agree on (R343): KIND, d, W, n, the program address and the program. -/
def shapeOf (kind d n progAddr : Nat) (prog : List Nat) : List Nat :=
  [kind, d, if kind == 7 then customW prog else 0, n, progAddr] ++ prog

/-- Words from an address on, as the pieces of a range. -/
def wordPieces (a n : Nat) : List (Nat × Nat) := (List.range n).map fun i => ((a + 4 * i) % 2 ^ 64, 4)

/-- The ranges of a tile: its input, and its output. -/
def ScanTile.inPieces (t : ScanTile) : List (Nat × Nat) :=
  wordPieces t.inAddr (t.len * elemWords t.kind t.chans (customW t.prog))
def ScanTile.outPieces (t : ScanTile) : List (Nat × Nat) := wordPieces t.outAddr (t.len * outWords t.kind t.chans)

/-- A tile registers IN as a source, until it has read it, and what it has left of OUT as a destination, under the tile's number
and the next, as a copy does (R310). Until its carry has come, its granules of OUT hold the agents of its launch, its chain's
other tiles among them, over the bytes of OUT alone: R374 and R375 give the image of such a chain whatever the order of its
tiles, which a hold of theirs on one another over whole granules would keep from its end (DEDUCED, log 69). -/
def Dev.registerTile (d : Dev) (fn ctx : Nat) (team : Option Team) (t : ScanTile) : Dev :=
  let d := if t.ys.isEmpty then d.registerPieces fn ctx team t.id false .page t.inPieces else d
  let came := (d.chain t.chain).any fun c => decide (t.j ≤ c.sentTo)
  d.registerPieces fn ctx team (t.id + 1) true (if came then .page else .near t.launch) (t.outPieces.drop t.outPos)

/-- The carry of a tile has come: its granules hold every agent alike. -/
def Dev.carryCame (d : Dev) (chain j : Nat) : Dev :=
  let mine := fun owner => d.tiles.any fun t => t.chain == chain && t.j == j && t.id + 1 == owner
  { d with granules := d.granules.map fun (g : Granule) => if mine g.owner then { g with hold := .page } else g }

/-- The granules of a tile are released. -/
def Dev.dropTileGranules (d : Dev) (t : ScanTile) : Dev := (d.dropGranules t.id).dropGranules (t.id + 1)

/-- A tile joins its chain: what disagrees poisons the chain there. -/
def Chain.join (c : Chain) (t : ScanTile) (shape : List Nat) (first last : Bool) : Chain :=
  let bad := shape != c.shape || first != (t.j == 0) || last != (t.j + 1 == t.n) || t.dup
  let c := if bad then c.poison t.j else c
  { c with seen := if t.dup then c.seen else t.j :: c.seen }

/-- Acceptance of a tile. -/
def Dev.acceptTile (d : Dev) (sh : Shuttle) (env : Env) (is : Issue) (ws prog : List Nat) (id : Nat)
    (first last : Bool) : Dev :=
  let w := blockWord ws
  let kind := w 5 % 16
  let chans := bits (w 5) 14 8
  let shape := shapeOf kind chans (w 7) (blockPair ws 8) prog
  let c : Chain := (d.openChain env.launch.id id).getD
    { uid := d.nextId, launch := env.launch.id, id := id, part := env.launch.part, fn := env.launch.fn, n := w 7,
      shape := shape, seen := [], carries := [], sentTo := 0, poisonFrom := none, complete := false, passed := [] }
  let dup := c.seen.contains (w 6)
  let t : ScanTile :=
    { id := d.nextId + 1, launch := env.launch.id, chain := c.uid, team := env.team.id, sh := sh.id, core := sh.core,
      inAddr := blockPair ws 0, outAddr := blockPair ws 2, len := w 4, chans := chans, kind := kind, j := w 6, n := w 7,
      prog := prog, progAddr := blockPair ws 8, dup := dup, ys := [], status := if dup then .sent else .queued,
      origin := is.command sh env }
  let c' := c.join t shape first last
  let d := { d with
    nextId := d.nextId + 3
    tiles := d.tiles ++ [t]
    chains := if c.uid == d.nextId then d.chains ++ [c'] else d.chains.map fun x => if x.uid == c.uid then c' else x }
  if dup then d else d.registerTile env.launch.fn env.launch.ctx (some env.team) t

/-- Whether a chain slot and room in the core's unit are free. -/
def Dev.scanRoom (d : Dev) (sh : Shuttle) (env : Env) (id : Nat) : Bool :=
  let opened := match d.openChain env.launch.id id with
    | none => false
    | some c => (d.chainCores c.uid).contains sh.core
  (opened || decide (d.chainSlots env.launch.fn < (d.func env.launch.fn).sq)) && decide ((d.tilesOn sh.core).length < 4)

def execSscan (x y c : Nat) (first last : Bool) (s : State) : Outcome :=
  onIssue s fun is sh env d =>
    scalarGo (engineUse sh.handler x y 12 4) is sh env d
      (if !sh.settled then d
       else
        let ws := sh.blockWords y 12
        let accept := fun (sh : Shuttle) prog =>
          if !d.scanRoom sh env c then d
          else (d.setShuttle (sh.status is x 0)).acceptTile sh env is ws prog c first last
        match scanCheck ws with
        | some e => d.setShuttle (sh.status is x (statusWord e))
        | none =>
          if blockWord ws 5 % 16 != 7 then accept sh []
          else
            let quiet := match sh.waitingAccess is with
              | some a => sh.dropAcc a.id
              | none => sh
            match d.readProgram is sh env (blockPair ws 8) with
            | .reading d => d
            | .rejected => d.setShuttle (quiet.status is x (statusWord (codeField, 8)))
            | .words prog => accept quiet prog)

/-! ## SCAN_TILE_RUN (R339, R344) -/

/-- A tile's fault that ends its team: it poisons its chain, and forwards the poison. -/
def Dev.tileFatal (d : Dev) (t : ScanTile) (cause addr : Nat) : Dev :=
  let d := (d.dropTileGranules t).setTile { t with status := .computed }
  let d := { d with chains := d.chains.map fun (c : Chain) => if c.uid == t.chain then c.poison t.j else c }
  match d.shuttle t.sh with
  | some s => d.engineTrap s t.origin cause addr [] 0
  | none => d

/-- A replayable fault stalls a tile; it keeps its granules, as a copy does. -/
def Dev.tileReplay (d : Dev) (t : ScanTile) (fn ctx : Nat) (f : WalkFault) (access : Nat) : Dev :=
  let (d, id) := d.postFault fn (engineFault f ctx t.origin.team access (.tile t.id))
  d.setTile { t with status := .faulted id }

/-- The 32-bit words of some bytes. -/
def wordsOfBytes (bs : List Byte) : List Nat := (piecesOf 4 bs.length bs).map leNat

/-- The in-tile work of the first tile of a unit. -/
def Dev.runTile (d : Dev) (t : ScanTile) (fn : Nat) : Dev :=
  let ctx := ((d.launch t.launch).map (·.ctx)).getD 0
  match d.locate fn ctx (d.team t.team) .load t.inPieces with
  | (d, .error (.replay f)) => d.tileReplay t fn ctx f 3
  | (d, .error (.fatal cause a)) => d.tileFatal t cause a
  | (d, .error (.loc _)) => d
  | (d, .ok ls) =>
    if ls.any fun l => !d.engineOpen fn t.id true l.1 l.2 false then d
    else
      match (ls.zip t.inPieces).find? fun l => d.poisoned l.1.1.key l.1.2 with
      | some l => d.tileFatal t 0x15 l.2.1
      | none =>
        let w := elemWords t.kind t.chans (customW t.prog)
        let xs := piecesOf w t.len (wordsOfBytes (d.readPieces fn ls))
        (d.dropGranules t.id).setTile { t with ys := scanTile (combine t.kind t.chans t.prog) xs, status := .computed }

/-- SCAN_TILE_RUN: the first tile of a core's unit reads its elements and combines them. -/
def execScanTileRun (tile : Nat) (s : State) : Outcome :=
  .next { s with dev :=
    match s.dev.tile tile with
    | none => s.dev
    | some t =>
      match s.dev.chain t.chain with
      | none => s.dev
      | some c =>
        if t.status == .queued && ((s.dev.tilesOn t.core).head?.map fun x => x.id) == some t.id then
          (s.dev.settle t.id).runTile t c.fn
        else s.dev }

/-! ## CARRY_RECEIPT (R340, R342, R343) -/

/-- Whether a chain is poisoned at a tile. -/
def Chain.poisonedAt (c : Chain) (j : Nat) : Bool :=
  match c.poisonFrom with
  | some i => decide (i ≤ j)
  | none => false

/-- A tile sends its carry, or as the last tile starts the chain's completion from its core. -/
def Dev.sendCarry (d : Dev) (t : ScanTile) (c : Chain) (carry : List Nat) : Dev :=
  let d := (d.dropTileGranules t).setTile { t with status := .sent, ys := [] }
  (d.carryCame t.chain (t.j + 1)).setChain
    { c with
      sentTo := t.j + 1
      carries := if c.poisonedAt t.j then [] else [(t.j + 1, carry)]
      complete := c.complete || t.j + 1 == c.n
      passed := if t.j + 1 == c.n then [t.core] else c.passed }

/-- Output words written in order until one stops: what is left, and what stopped it. Each is released as it is written
(R282), and no cluster keeps a copy that another agent's load of a neighbouring word may have left. -/
def Dev.writeOutputs (fn ctx owner : Nat) (team : Option Team) :
    List (Nat × Nat) → Dev → Dev × List (Nat × Nat) × Option EngineAt
  | [], d => (d, [], none)
  | p :: ps, d =>
    match d.engineAt fn ctx team p.1 4 .store with
    | (d, .loc l) =>
      if !d.engineOpen fn owner true l 4 true then (d, p :: ps, some (.loc l))
      else
        let d := d.homeWrite (d.keyFor fn l.keyid l.key) l.key (leBytes 4 p.2)
        Dev.writeOutputs fn ctx owner team ps ({ d with l1 := dropAll d.l1 l.key 4 }.pieceDone owner [(l, 4)] true)
    | (d, e) => (d, p :: ps, some e)

/-- A tile with its carry writes its outputs and sends its own. -/
def Dev.finishTile (d : Dev) (t : ScanTile) (c : Chain) : Dev :=
  let ctx := ((d.launch t.launch).map (·.ctx)).getD 0
  let zs := match c.carries.find? fun p => p.1 == t.j with
    | some p => if t.j == 0 then t.ys else t.ys.map (combine t.kind t.chans t.prog p.2)
    | none => t.ys
  let out := zs.flatMap (projection t.kind t.chans)
  let words := (t.outPieces.map (·.1)).zip out
  match Dev.writeOutputs c.fn ctx (t.id + 1) (d.team t.team) (words.drop t.outPos) (d.settle (t.id + 1)) with
  | (d, left, stop) =>
    let t := { t with outPos := words.length - left.length }
    match stop with
    | none => d.sendCarry t c (zs.getLastD [])
    | some (.replay f) => d.tileReplay t c.fn ctx f 4
    | some (.fatal cause a) => d.tileFatal t cause a
    | some (.loc _) => d.setTile t

/-- CARRY_RECEIPT: the carry of a tile has come. A tile at or after the poison writes nothing and forwards it. -/
def execCarryReceipt (tile : Nat) (s : State) : Outcome :=
  .next { s with dev :=
    match s.dev.tile tile with
    | none => s.dev
    | some t =>
      match s.dev.chain t.chain with
      | none => s.dev
      | some c =>
        if t.dup || t.status == .sent || c.sentTo != t.j then s.dev
        else if c.poisonedAt t.j then s.dev.sendCarry t c []
        else if t.status == .computed then s.dev.finishTile t c
        else s.dev }

/-! ## CHAIN_COMPLETION and `sscw` (R345, R365) -/

/-- CHAIN_COMPLETION: the completion of a chain passes the next core of the ring. -/
def execChainCompletion (chain core : Nat) (s : State) : Outcome :=
  .next { s with dev :=
    match s.dev.chain chain with
    | none => s.dev
    | some c =>
      if c.complete && !s.dev.chainRetired c && !c.passed.contains core &&
          (c.passed.head?.map fun p => s.dev.nextCore c.part p) == some core then
        s.dev.setChain { c with passed := core :: c.passed }
      else s.dev }

/-- The completions of a launch's chains with an id, in order. -/
def Dev.completions (d : Dev) (launch id : Nat) : List Chain :=
  d.chains.filter fun c => c.launch == launch && c.id == id && c.complete

/-- `sscw`: the next completion of a chain with the id, once it has passed the shuttle's core. -/
def execSscw (x c : Nat) (s : State) : Outcome :=
  onIssue s fun is sh env d =>
    scalarGo { dests := [x], names := [x], writes := [x] } is sh env d
      (if !d.waiterRoom sh env.launch.fn then d
       else
        let k := getK 0 sh.sscw c
        match (d.completions env.launch.id c)[k]? with
        | some ch =>
          if ch.passed.contains sh.core then
            (d.acquire env.team.cluster).setShuttle
              { sh.status is x (if ch.poisonFrom.isSome then statusWord (codePoison, 255) else 0) with
                waiter := false, sscw := putK 0 sh.sscw c (k + 1) }
          else d.setShuttle { sh with waiter := true }
        | none => d.setShuttle { sh with waiter := true })

end Sys2Proof.Machine
end

