-- ==== Sys2Proof/Machine/Streams.lean ====
section
/-!
DEFINITION. Access streams: ACCESS_STREAM_PUSH (spec/15 R326 to R328) and `sacc` (spec/15 R329; spec/16 R366).
-/
namespace Sys2Proof.Machine

/-! ## Streams -/

def Dev.streamTeam (d : Dev) (id : Nat) : Option (Team × Stream) :=
  d.teams.findSome? fun t => (t.streams.find? fun s => s.id == id).map fun s => (t, s)

def Dev.putStream (d : Dev) (team : Nat) (s : Stream) : Dev :=
  match d.team team with
  | none => d
  | some t => d.setTeam { t with streams := t.streams.map fun x => if x.id == s.id then s else x }

def Dev.dropStream (d : Dev) (team id : Nat) : Dev :=
  match d.team team with
  | none => d
  | some t => d.setTeam { t with streams := t.streams.filter fun x => x.id != id }

/-- What one read of a stream comes to. -/
inductive StreamRead where
  | val (v : Nat)
  | held
  | replay (f : WalkFault)
  | fatal (cause a : Nat)

/-- A plain load of a stream. -/
def Dev.streamLoad (d : Dev) (fn ctx : Nat) (t : Team) (a n : Nat) : Dev × StreamRead :=
  match d.engineAt fn ctx (some t) a n .load with
  | (d, .replay f) => (d, .replay f)
  | (d, .fatal c x) => (d, .fatal c x)
  | (d, .loc l) =>
    if !d.openFor (some t.launch) fn 0 none l n false then (d, .held)
    else if d.poisoned l.key n then (d, .fatal 0x15 a)
    else
      let (d, v) := d.loadValue fn t.cluster l n false
      (d, .val v)

/-- The argument words that give extents, read in order. -/
def Dev.streamExts (fn ctx : Nat) (t : Team) (args mask : Nat) : List (Nat × Nat) → Dev → Dev × Except StreamRead (List Nat)
  | [], d => (d, .ok [])
  | (k, e) :: es, d =>
    if bit mask k then
      match d.streamLoad fn ctx t ((args + e) % 2 ^ 64) 4 with
      | (d, .val v) =>
        match Dev.streamExts fn ctx t args mask es d with
        | (d, .ok vs) => (d, .ok (v :: vs))
        | r => r
      | (d, r) => (d, .error r)
    else
      match Dev.streamExts fn ctx t args mask es d with
      | (d, .ok vs) => (d, .ok (e :: vs))
      | r => r

/-- A declared slice's base and extents. -/
def Dev.openStream (d : Dev) (fn ctx args : Nat) (t : Team) (s : Stream) (a : AccessDecl) : Dev × Except StreamRead Stream :=
  match d.streamLoad fn ctx t s.base 8 with
  | (d, .val b) =>
    match Dev.streamExts fn ctx t args a.argmask ((List.range s.exts.length).zip s.exts) d with
    | (d, .ok es) =>
      (d, .ok { s with base := low 64 ((b : Int) + dotInt s.coord a.coefs), exts := es, ready := true })
    | (d, .error r) => (d, .error r)
  | (d, r) => (d, .error r)

/-- The record of a stream's fault names its queue (R328), and the `sacc` that started it. -/
def streamTrap (s : Shuttle) (x : Stream) (cause a : Nat) : TrapInfo :=
  { cause := cause, sub := 0, lane := true, threads := 2 ^ x.beat, resume := if x.dynamic then x.origin.off else s.pc,
    laneOff := 0xFFFFFFFF, addr := a, words := x.origin.words, operand := 784 + x.q, code := 0, fmt := s.fmt,
    blocks := s.blocks.length, detail0 := 0, detail1 := 0 }

/-- A read that gave no value: the stream waits, parks, or ends its team. -/
def Dev.streamStop (d : Dev) (fn ctx : Nat) (t : Team) (x : Stream) (r : StreamRead) : Dev :=
  match r with
  | .replay f =>
    let (d, id) := d.postFault fn (engineFault f ctx t.num 3 (.stream x.id))
    d.putStream t.id { x with fault := some id }
  | .fatal cause a =>
    match d.shuttle x.sh with
    | none => d
    | some s => d.terminate s 1 cause 0 0 (trapWords (streamTrap s x cause a) (s.traps + 1)) [] 0
  | _ => d

/-- The values that an element gives: one, or its 32-bit words, low first. -/
def elementValues (size v : Nat) : List Word := (wordsOfNat (max 1 (size / 4)) v).map (BitVec.ofNat 32)

/-- The next element of a stream is read and pushed. -/
def Dev.pushElement (d : Dev) (fn ctx : Nat) (t : Team) (x : Stream) : Dev :=
  let vals := t.queueVals x.stage x.coord x.q
  if x.pos ≥ x.count || vals.length + max 1 (x.size / 4) > queueDepth then d
  else
    match d.streamLoad fn ctx t (x.addr x.pos) x.size with
    | (d, .val v) =>
      let d := d.setTeam (t.setQueue x.stage x.coord x.q (vals ++ elementValues x.size v))
      if x.dynamic && x.pos + 1 == x.count then d.dropStream t.id x.id else d.putStream t.id { x with pos := x.pos + 1 }
    | (d, r) => d.streamStop fn ctx t x r

/-- ACCESS_STREAM_PUSH. A slice of the nest first reads its base and its argument extents. -/
def execAccessStreamPush (stream : Nat) (s : State) : Outcome :=
  .next { s with dev :=
    match s.dev.streamTeam stream with
    | none => s.dev
    | some (t, x) =>
      match s.dev.envOfTeam t with
      | none => s.dev
      | some env =>
        let fn := env.launch.fn
        let ctx := env.launch.ctx
        if !t.resident || t.dying || x.fault.isSome then s.dev
        else if x.ready then s.dev.pushElement fn ctx t x
        else
          match (env.nest.slicesOf x.stage).find? fun a => a.queue == x.q with
          | none => s.dev
          | some a =>
            match s.dev.openStream fn ctx env.launch.runArgs t x a with
            | (d, .ok x) => d.putStream t.id x
            | (d, .error r) => d.streamStop fn ctx t x r }

/-! ## `sacc` -/

/-- The stage of a shuttle as MAPS gives it: 0 in a spawned one (R218). -/
def Shuttle.mapStage (s : Shuttle) : Nat := if s.spawned then 0 else s.stage

/-- Whether queue q of a shuttle's stage is declared `dynamic`. -/
def Shuttle.dynamicQueue (s : Shuttle) (n : Nest) (q : Nat) : Bool :=
  n.access.any fun a => a.stage == s.mapStage && a.queue == q && a.dynamic

/-- The key of a thread's queue: its coordinate; the threads of a spawned shuttle share theirs with others, so that theirs has
the shuttle after it (log 41). -/
def Shuttle.queueCoord (s : Shuttle) (coord : List Nat) : List Nat := if s.spawned then coord ++ [s.id] else coord

/-- The checks of an `sacc` block in ascending word order. -/
def saccCheck (ws : List Nat) : Option Failed :=
  let w := blockWord ws
  let size := bits (w 4) 11 8
  let nd := bits (w 4) 15 12
  let zero := fun k => (w k != 0, codeField, k)
  firstFailed
    ([(blockPair ws 0 % 2 ^ min size 4 != 0, codeAlign, 0), zero 2, zero 3,
        (w 4 / 2 ^ 16 != 0 || w 4 % 256 != 0 || size > 4 || nd == 0 || nd > 10, codeField, 4)] ++
      (regRange 5 5).map zero ++ ((List.range (min nd 10)).map fun k => (w (10 + k) == 0, codeField, 10 + k)) ++
      (regRange 34 6).map zero)

/-- The stream of an `sacc` for a thread with a coordinate, (beat, 0, 0, 0) in a spawned shuttle. -/
def saccStream (is : Issue) (s : Shuttle) (ws : List Nat) (q id beat : Nat) (coord : List Nat) : Stream :=
  let nd := bits (blockWord ws 4) 15 12
  let coefs := (List.range 4).map fun k => sext 32 (blockWord ws (30 + k))
  { id := id, sh := s.id, beat := beat, seq := s.seq, stage := s.mapStage, coord := s.queueCoord coord, q := q,
    base := low 64 ((blockPair ws 0 : Int) + dotInt coord coefs), size := 2 ^ bits (blockWord ws 4) 11 8,
    exts := (List.range nd).map fun k => blockWord ws (10 + k),
    strides := (List.range nd).map fun k => sext 32 (blockWord ws (20 + k)), pos := 0, fault := none, dynamic := true,
    ready := true, origin := is.origin s.fmt }

/-- One stream starts for each thread of the present iteration. -/
def Dev.startDynamic (d : Dev) (is : Issue) (s : Shuttle) (env : Env) (ws : List Nat) (q : Nat) : Dev :=
  (s.threads env.launch.levels env.team.num s.seq).foldl
    (fun d b =>
      match d.team s.team with
      | none => d
      | some t =>
        { d with nextId := d.nextId + 1 }.setTeam
          { t with streams :=
              t.streams ++ [saccStream is s ws q d.nextId b (s.coord env.launch.levels env.team.num s.seq b)] }) d

/-- `sacc`: it exposes its shuttle whatever its status (R423). -/
def execSacc (x y q : Nat) (s : State) : Outcome :=
  onIssue s fun is sh env d =>
    scalarGo (engineUse sh.handler x y 40 8) is sh env d
      (if !sh.settled then d
       else
        let ws := sh.blockWords y 40
        let fail := fun e => d.setShuttle { sh.status is x (statusWord e) with exposed := true }
        if !sh.dynamicQueue env.nest q then fail (codeFifo, 255)
        else
          match saccCheck ws with
          | some e => fail e
          | none =>
            if env.team.streams.any fun z => z.dynamic && z.sh == sh.id && z.q == q && z.seq == sh.seq then fail (codeBusy, 255)
            else if !d.bufferRoom env.launch.fn (some env.team) then d
            else (d.setShuttle { sh.status is x 0 with exposed := true }).startDynamic is sh env ws q)

end Sys2Proof.Machine
end

