-- ==== Sys2Proof/Machine/Faults.lean ====
section
/-!
DEFINITION. The answers to fault-queue entries (spec/20 R413, R416) and the replay of what waits on them (spec/12 R263;
spec/15 R317, R344).
-/
namespace Sys2Proof.Machine

/-- An outstanding entry that software can name: it stands in the queue and has no answer yet. -/
def Func.entry (f : Func) (id : Nat) : Option FaultEntry := f.faults.find? fun e => e.id == id && e.posted && !e.resolved

/-- An entry is gone: its room serves those that wait for it. -/
def Dev.dropEntry (d : Dev) (fn id : Nat) : Dev :=
  let f := d.func fn
  (d.setFunc fn { f with faults := f.faults.filter fun e => e.id != id }).flushFaults fn f.faults.length

/-- An entry is resolved: its unit of the quota is free, and what waits on it can be replayed. -/
def Dev.resolveEntry (d : Dev) (fn id : Nat) : Dev :=
  let f := d.func fn
  (d.setFunc fn { f with
    faults := f.faults.map fun e => if e.id == id then { e with posted := false, resolved := true } else e }).flushFaults
    fn f.faults.length

/-- Whether a shuttle stays stopped for a discard: it is IN and its team is being discarded (R424). -/
def Dev.heldByDiscard (d : Dev) (s : Shuttle) : Bool :=
  !s.exposed && (((d.team s.team).map fun t => t.pausing == some .discard).getD false)

/-- A shuttle stopped at a breakpoint resumes, unless a later breakpoint or a discard holds it. -/
def Dev.resumeShuttle (d : Dev) (fn sh : Nat) : Dev :=
  match d.shuttle sh with
  | none => d
  | some s =>
    if d.heldByDiscard s || (d.func fn).faults.any fun e => e.kind == 3 && e.owner == .shuttle sh then d
    else d.setShuttle { s with stopped := false }

/-- The shuttle that an entry's owner names for a breakpoint. -/
def FaultEntry.breakShuttle (e : FaultEntry) : Nat :=
  match e.owner with
  | .shuttle sh => sh
  | _ => 0

/-- FQRES_REPLAY: a page fault is resolved, or a shuttle resumes at the recorded offset. -/
def execFqresReplay (fn id : Nat) (s : State) : Outcome :=
  onDev s fn fun d =>
    match (d.func fn).entry id with
    | none => d
    | some e => if e.kind == 3 then (d.dropEntry fn id).resumeShuttle fn e.breakShuttle else d.resolveEntry fn id

/-- The COPY blocks whose commands wait on an entry. -/
def Dev.blocksOn (d : Dev) (fn id : Nat) : List CopyCmd :=
  d.cmds.filter fun c => c.fn == fn && c.status == .faulted id && match c.issuer with
    | .queue _ _ _ _ => true
    | .shuttle _ _ => false

/-- The record of a shuttle whose entry is unrecoverable: of its parked threads, its waiting access, its stream or its
breakpoint. -/
def Dev.entryTrap (d : Dev) (s : Shuttle) (e : FaultEntry) : Option TrapInfo :=
  let base : TrapInfo :=
    { cause := 0x15, sub := 0, lane := false, threads := 0, resume := s.pc, laneOff := 0xFFFFFFFF, addr := 0, words := [],
      operand := 0, code := 0, fmt := s.fmt, blocks := s.blocks.length, detail0 := 0, detail1 := 0 }
  match e.owner with
  | .shuttle _ =>
    if e.kind == 3 then
      some { base with
        cause := 0x01, resume := e.addr, words := ((d.env s).map fun env => [env.bolt.scode.getD (e.addr - 1) 0]).getD [] }
    else
      match s.frontier.filter fun p => p.status == .parked e.id with
      | p :: ps =>
        let h := p.held.head?
        some { base with
          lane := true, threads := beatMask ((p :: ps).flatMap (·.beats)), laneOff := p.pc, fmt := p.fmt,
          addr := (h.map (·.va)).getD e.addr, words := (h.map (·.raw)).getD [] }
      | [] => (s.accs.find? fun a => a.status == .faulted e.id).map fun a => accessTrap s a 0x15
  | .stream id =>
    ((d.team s.team).bind fun t => t.streams.find? fun x => x.id == id).map fun x =>
      streamTrap s x 0x15 (if x.ready then x.addr x.pos else x.base)
  | _ => none

/-- What is engine work of an entry's owner ends as by a non-replayable fault (R317); a shuttle or a stream ends its team with CAUSE
0x15, or 0x01 for a breakpoint. -/
def Dev.endOwner (d : Dev) (e : FaultEntry) : Dev :=
  match e.owner with
  | .command id => ((d.cmd id).map fun c => d.copyFault c 0x15 e.va).getD d
  | .signal id => ((d.signals.find? fun g => g.id == id).map fun g => d.signalFault g 0x15).getD d
  | .tile id => ((d.tile id).map fun t => d.tileFatal t 0x15 e.va).getD d
  | .matOp id => ((d.matOp id).map fun o => d.matFatal o 0x15 e.va).getD d
  | _ =>
    match d.ownerShuttle e with
    | none => d
    | some s =>
      d.terminate s 1 (if e.kind == 3 then 0x01 else 0x15) 0 0
        (((d.entryTrap s e).map fun t => trapWords t (s.traps + 1)).getD []) [] 0

/-- Whether an operation waits on an entry. -/
def MatOp.waitsOn (o : MatOp) (id : Nat) : Bool := o.fault == some id || o.a.fault == some id || o.b.fault == some id

/-- The engine work that joined an entry ends with it: copies, signals, matrix operations and tiles. -/
def Dev.endJoined (d : Dev) (fn : Nat) (e : FaultEntry) : Dev :=
  let d := (d.cmds.filter fun c => c.fn == fn && c.status == .faulted e.id).foldl (fun d c => d.copyFault c 0x15 e.va) d
  let d := (d.signals.filter fun g => g.fn == fn && g.fault == some e.id).foldl (fun d g => d.signalFault g 0x15) d
  let d := (d.matOps.filter fun o => o.waitsOn e.id && ((d.team o.team).map (·.fn)) == some fn).foldl
    (fun d o => d.matFatal o 0x15 e.va) d
  (d.tiles.filter fun t => t.status == .faulted e.id && ((d.chain t.chain).map (·.fn)) == some fn).foldl
    (fun d t => d.tileFatal t 0x15 e.va) d

/-- What an unrecoverable entry ends: its owner, and all engine work that waits on it. -/
def Dev.unrecoverable (d : Dev) (fn : Nat) (e : FaultEntry) : Dev := (d.endOwner e).endJoined fn e

/-- FQRES_UNRECOVERABLE. A COPY block whose completion waits at a home makes the answer wait. -/
def execFqresUnrecoverable (fn id : Nat) (s : State) : Outcome :=
  onUpWait s (.fqresUnrecoverable fn id) fun d =>
    if !d.present fn then some d
    else
      match (d.func fn).entry id with
      | none => some d
      | some e =>
        if (d.blocksOn fn id).any fun c => d.cmdHeld c then none else some ((d.unrecoverable fn e).dropEntry fn id)

/-! ## FAULT_REPLAY (R263) -/

/-- The shuttles of a function go on with the threads and accesses that wait on an entry. -/
def Dev.replayShuttles (d : Dev) (fn id : Nat) : Dev :=
  { d with shuttles := d.shuttles.map fun (s : Shuttle) =>
      match d.env s with
      | none => s
      | some env => if env.launch.fn == fn then s.replay env.bolt.lcode id else s }

/-- A command that waits on an entry registers what it has left again, and competes for an engine. -/
def Dev.replayCommands (d : Dev) (fn id : Nat) : Dev :=
  (d.cmds.filter fun c => c.fn == fn && c.status == .faulted id).foldl
    (fun d c => ((d.dropGranules c.id).registerCopy c (d.cmdTeam c)).setCmd { c with status := .waiting }) d

/-- The streams of a function that wait on an entry. -/
def Dev.replayStreams (d : Dev) (fn id : Nat) : Dev :=
  { d with teams := d.teams.map fun (t : Team) =>
      if t.fn == fn then
        { t with streams := t.streams.map fun x => if x.fault == some id then { x with fault := none } else x }
      else t }

def Dev.replaySignals (d : Dev) (fn id : Nat) : Dev :=
  { d with signals := d.signals.map fun g => if g.fn == fn && g.fault == some id then { g with fault := none } else g }

/-- The address context of a team's launch. -/
def Dev.ctxOf (d : Dev) (t : Team) : Nat := ((d.launch t.launch).map (·.ctx)).getD 0

/-- An operation, or an operand of it, that waits on an entry. -/
def Dev.replayMatOp (d : Dev) (fn id : Nat) (o : MatOp) : Dev :=
  match d.team o.team with
  | none => d
  | some t =>
    if t.fn != fn then d
    else
      let ctx := d.ctxOf t
      let d := if o.fault == some id then (d.dropGranules o.id).registerMove fn ctx t o else d
      let d := if o.a.fault == some id then
          ((d.dropGranules o.id).registerFetch fn ctx o.id t o.a).registerTodo fn ctx o.id t o.a
        else d
      let d := if o.b.fault == some id then
          ((d.dropGranules (o.id + 1)).registerFetch fn ctx (o.id + 1) t o.b).registerTodo fn ctx (o.id + 1) t o.b
        else d
      let clear := fun (f : Option Nat) => if f == some id then none else f
      d.setMatOp
        { o with
          fault := clear o.fault
          a := { o.a with fault := clear o.a.fault }
          b := { o.b with fault := clear o.b.fault } }

/-- A tile that waits on an entry. -/
def Dev.replayTile (d : Dev) (fn id : Nat) (t : ScanTile) : Dev :=
  match d.chain t.chain with
  | none => d
  | some c =>
    if c.fn != fn || t.status != .faulted id then d
    else
      let ctx := ((d.launch t.launch).map (·.ctx)).getD 0
      let d := (d.dropTileGranules t).registerTile fn ctx (d.team t.team) t
      d.setTile { t with status := if t.ys.isEmpty then .queued else .computed }

/-- Everything of a function that waits on an entry. -/
def Dev.replayAll (d : Dev) (fn id : Nat) : Dev :=
  let d := (((d.replayShuttles fn id).replayCommands fn id).replayStreams fn id).replaySignals fn id
  let d := d.matOps.foldl (fun d o => d.replayMatOp fn id o) d
  d.tiles.foldl (fun d t => d.replayTile fn id t) d

/-- FAULT_REPLAY: what waits on a resolved entry is translated again. -/
def execFaultReplay (fn id : Nat) (s : State) : Outcome :=
  .next { s with dev :=
    match (s.dev.func fn).faults.find? fun e => e.id == id && e.resolved with
    | none => s.dev
    | some _ => (s.dev.replayAll fn id).dropEntry fn id }

end Sys2Proof.Machine
end

