-- ==== Sys2Proof/Machine/Sxt.lean ====
section
/-!
DEFINITION. The `sxt` prefix (spec/04 R87): the prefixed instruction with its immediate, offset or word offset widened.
-/
namespace Sys2Proof.Machine

/-- The 40-bit immediate of a prefixed word. -/
def widened (h body : Nat) : Int := sext 40 (h * 2 ^ 15 + body % 2 ^ 15)

/-- The 30-bit word offset of a prefixed memory word. -/
def widenedOffset (h body : Nat) : Int := sext 30 (h * 2 ^ 5 + body % 2 ^ 5)

/-- `sxt` before a word that takes no prefix: SUB 0 at the prefix word. -/
def badPrefix (h : Nat) (s : State) : Outcome :=
  onIssue s fun is sh env d => d.scalarTrapOf { is with words := [0x7F * 2 ^ 25 + h] } sh env 0x10 0

/-- `sxt` and the word after it. -/
def execSxt (h body : Nat) (s : State) : Outcome :=
  let x := xOf body
  let y := yOf body
  let imm := widened h body
  let off := widenedOffset h body
  match opOf body with
  | 0x04 => execSli x imm s
  | 0x05 => execSli64 x imm s
  | 0x06 => execSaddi x imm s
  | 0x07 => execSandi x imm s
  | 0x08 => execSori x imm s
  | 0x09 => execSxori x imm s
  | 0x0A => execSshli x imm s
  | 0x0B => execSshri x imm s
  | 0x0C => execSsrai x imm s
  | 0x0D => execSsltiu x imm s
  | 0x0E => execSaddi64 x imm s
  | 0x10 => execSld x y off s
  | 0x11 => execSld64 x y off s
  | 0x12 => execSld128 x y off s
  | 0x13 => execSst x y off s
  | 0x14 => execSst64 x y off s
  | 0x15 => execSst128 x y off s
  | 0x16 => execSldacq x y off s
  | 0x17 => execSstrel x y off s
  | 0x20 => if x == 0 then execSbr imm s else execUnassignedOpcode 1 s
  | 0x21 => execSbz x imm s
  | 0x22 => execSbnz x imm s
  | 0x23 => execSblz x imm s
  | 0x24 => execSbgez x imm s
  | 0x25 => execScall x imm s
  | 0x27 => execSloop x imm s
  | 0x70 => if x == 0 then execStrap imm s else if x == 1 then execStrapRet s else execUnassignedOpcode 0 s
  | _ => badPrefix h s

end Sys2Proof.Machine
end

