-- ==== Sys2Proof/Machine/Launch.lean ====
section
/-!
DEFINITION. Launches from the device: the 16-word block with its checks, `slaunch`, `sarm` and armed tags (spec/16 R368 to
R370; spec/18 R400).
-/
namespace Sys2Proof.Machine

/-! ## Pending-launch entries (R400, R404) -/

def LaunchSource.pending : LaunchSource → Bool
  | .block _ _ _ _ => false
  | _ => true

/-- The pending-launch entries in use by a function: its children, its firings and its armed tags. -/
def Dev.pendingUsed (d : Dev) (fn : Nat) : Nat :=
  (d.launches.filter fun l => l.fn == fn && l.source.pending).length + (d.func fn).tags.length

/-- Whether a pending-launch entry is free. -/
def Dev.pendingRoom (d : Dev) (fn : Nat) : Bool := decide (d.pendingUsed fn < (d.func fn).pq)

/-- The nesting limit of a function (R389, R400). -/
def Func.depthLimit (f : Func) : Nat := min 8 f.nlim

/-- Whether a DESC address is a loaded nest of a function (R395, R403). -/
def Func.hasNest (f : Func) (desc : Nat) : Bool := (f.boltAt desc).isSome

/-! ## The block (R368) -/

/-- The checks of the block, in the order of R369; for an arming ARGS is zero. WORD is the first word of a field of 64 bits, also
where only its high word is at fault (DESIGN CHOICE, log 93: R348 asks for 'the first word that failed a check'). -/
def launchFieldCheck (arm : Bool) (ws : List Nat) : Option Failed :=
  let w := blockWord ws
  firstFailed [
    (arm && blockPair ws 6 != 0, codeField, 6),
    (w 12 / 16 != 0 || (bit (w 12) 3 && w 12 % 8 != 0), codeField, 12),
    (blockPair ws 8 % 8 != 0, codeAlign, 8),
    (blockPair ws 14 % 8 != 0, codeAlign, 14)]

/-- The checks of a launch of a depth, up to the pool. BUSY stands after NODESC and before DEPTH, with WORD 0xFF (DESIGN CHOICE,
log 93: R370 adds BUSY to the statuses of R369 and gives it no place). -/
def Dev.launchCheck (d : Dev) (fn : Nat) (arm : Bool) (ws : List Nat) (busy : Bool) (depth : Nat) : Option Failed :=
  match launchFieldCheck arm ws with
  | some e => some e
  | none =>
    firstFailed [
      (!(d.func fn).hasNest (blockPair ws 0), codeNodesc, 0),
      (busy, codeBusy, 255),
      (depth > (d.func fn).depthLimit, codeDepth, 255),
      (!d.pendingRoom fn, codePool, 255)]

/-- The priority that a block gives: its own, or the parent's. -/
def blockPrio (ws : List Nat) (parent : Nat) : Nat := if bit (blockWord ws 12) 3 then parent else blockWord ws 12 % 8

/-- The launch that a block starts. It is held until the word at DEP reads zero. -/
def launchOf (id fn ctx root depth parent : Nat) (source : LaunchSource) (ws : List Nat) (args : Nat) : Launch :=
  { id := id, fn := fn, part := partOf fn, ctx := ctx, source := source, rootQueue := root, desc := blockPair ws 0,
    exts := (List.range 4).map fun k => blockWord ws (2 + k), args := args, cnt := blockPair ws 8,
    inc := blockPair ws 10, pin := blockWord ws 13, dep := blockPair ws 14, prio := blockPrio ws parent, depth := depth,
    prog := none, depFault := false, runNo := 0, runLeft := 0, phase := if blockPair ws 14 == 0 then .toMap else .held, levels := [],
    runExts := (List.range 4).map fun k => blockWord ws (2 + k), runPin := blockWord ws 13, runArgs := args, nextTeam := 0,
    terminated := none }

/-- `slaunch`: it exposes its shuttle whatever its status (R423). -/
def execSlaunch (x y : Nat) (s : State) : Outcome :=
  onIssue s fun is sh env d =>
    scalarGo (engineUse sh.handler x y 16 8) is sh env d
      (if !sh.drained then d
       else
        let ws := sh.blockWords y 16
        let l := env.launch
        match d.launchCheck l.fn false ws false (l.depth + 1) with
        | some e => d.setShuttle { sh.status is x (statusWord e) with exposed := true }
        | none =>
          if !sh.allPerformed then d
          else
            let c := launchOf d.nextId l.fn l.ctx l.rootQueue (l.depth + 1) l.prio .child ws (blockPair ws 6)
            { d with nextId := d.nextId + 1, launches := d.launches ++ [c] }.setShuttle
              { sh.status is x 0 with exposed := true })

/-! ## Armed tags (R370) -/

def Func.armed (f : Func) (tag : Nat) : Option ArmedTag := f.tags.find? fun t => t.tag == tag
def Func.disarm (f : Func) (tag : Nat) : Func := { f with tags := f.tags.filter fun t => t.tag != tag }
def Func.arm (f : Func) (t : ArmedTag) : Func := { f with tags := f.tags ++ [t] }

/-- `sarm`: a COUNT of 0 disarms, and then the block is not checked (log 48). It exposes its shuttle
whatever its status (R423). -/
def execSarm (x y tag count : Nat) (s : State) : Outcome :=
  onIssue s fun is sh env d =>
    scalarGo (engineUse sh.handler x y 16 8) is sh env d
      (if !sh.drained then d
       else
        let ws := sh.blockWords y 16
        let l := env.launch
        let f := d.func l.fn
        let done := { sh.status is x 0 with exposed := true }
        if count == 0 then
          if !sh.allPerformed then d else (d.setFunc l.fn (f.disarm tag)).setShuttle done
        else
          match d.launchCheck l.fn true ws (f.armed tag).isSome (l.depth + 1) with
          | some e => d.setShuttle { sh.status is x (statusWord e) with exposed := true }
          | none =>
            if !sh.allPerformed then d
            else
              (d.setFunc l.fn
                (f.arm { tag := tag, count := count, words := ws, depth := l.depth + 1, ctx := l.ctx, prio := l.prio,
                         rootQueue := l.rootQueue })).setShuttle done)

end Sys2Proof.Machine
end

