-- ==== Sys2Proof/Machine/Walk.lean ====
section
/-!
DEFINITION. Command queues: capture (spec/20 R431), the walk with its six kinds of block (spec/18 R376 to R387), and binding
(R388 to R390).
-/
namespace Sys2Proof.Machine

/-! ## Capture (R383, R431) -/

/-- A queue changed in place. -/
def Dev.mapQueue (d : Dev) (q : Nat) (f : Queue → Queue) : Dev :=
  { d with queues := d.queues.map fun x => if x.id == q then f x else x }

/-- The writes of a queue's capture that wait are performed in order, up to the first that a home holds (R282, R305). -/
def Dev.drainCapture (d : Dev) (q : Nat) : Nat → Dev
  | 0 => d
  | fuel + 1 =>
    match d.queue q with
    | none => d
    | some x =>
      match x.captureDue with
      | [] => d
      | (va, v) :: ws =>
        if d.hubHeld x.fn x.ctx va 16 .store then d
        else
          let d := (d.hubWrite x.fn x.ctx q va 16 v).1
          (d.mapQueue q fun y => { y with captureDue := ws }).drainCapture q fuel

/-- The writes that wait are performed as far as they can be. -/
def Dev.flushCapture (d : Dev) (q : Nat) : Dev := d.drainCapture q (((d.queue q).map (·.captureDue.length)).getD 0)

/-- Bytes from an address on, in 16-byte accesses of the Treadle. -/
def hubPieces (va : Nat) (bs : List Byte) : List (Nat × Nat) :=
  (List.range (bs.length / 16)).map fun i => (va + 16 * i, leNat ((bs.drop (16 * i)).take 16))

/-- The bytes of an entry, padded to 16. -/
def captureBytes (kind seqNo : Nat) (payload : List Byte) : List Byte :=
  leBytes 4 kind ++ leBytes 4 payload.length ++ leBytes 8 seqNo ++ payload ++
    leBytes ((16 - payload.length % 16) % 16) 0

/-- An entry of a capturing queue that fits. Its writes follow those before it (R431). -/
def Dev.putCapture (d : Dev) (q : Queue) (c : Capture) (kind : Nat) (payload : List Byte) (last : Bool) : Dev :=
  let bs := captureBytes kind c.seqNo payload
  let ws := if c.pos + bs.length ≤ c.len then hubPieces (c.buf + c.pos) bs else []
  (d.mapQueue q.id fun x =>
    { x with
      captureDue := x.captureDue ++ ws
      capture := if last then none else some { c with pos := c.pos + bs.length, seqNo := c.seqNo + 1 } }).flushCapture q.id

/-- An event that a queue captures; an entry that would not fit ends the capture. -/
def Dev.captureOn (d : Dev) (q : Nat) (kind : Nat) (payload : List Byte) : Dev :=
  match d.queue q with
  | none => d
  | some qu =>
    match qu.capture with
    | none => d
    | some c =>
      if c.pos + (captureBytes kind 0 payload).length ≤ c.len then d.putCapture qu c kind payload false
      else d.putCapture qu c 5 (leBytes 8 1) true

/-- An event that every capturing queue of a function sees. -/
def Dev.captureAll (d : Dev) (fn kind : Nat) (payload : List Byte) : Dev :=
  (d.queues.filter fun q => q.fn == fn).foldl (fun d q => d.captureOn q.id kind payload) d

/-! ## The checks of step 1 (R377, R379 to R384) -/

/-- The first word of some that is nonzero. -/
def nonzeroWord (ws : List Nat) (lo n : Nat) : List (Bool × Nat) := (regRange lo n).map fun k => (blockWord ws k != 0, k)

/-- Whether the address at a word is misaligned. -/
def badAddr (ws : List Nat) (k n : Nat) : Bool × Nat := (blockPair ws k % n != 0, k)

def blockKind (ws : List Nat) : Nat := blockWord ws 0 % 256
def blockNnot (ws : List Nat) : Nat := bits (blockWord ws 0) 15 13

/-- What a kind's body must satisfy, by ascending word. -/
def bodyChecks (ws : List Nat) : Nat → List (Bool × Nat)
  | 1 => badAddr ws 24 8 :: nonzeroWord ws 30 34
  | 2 => nonzeroWord ws 56 8
  | 3 =>
    let w := blockWord ws 22
    [badAddr ws 16 8, (w / 64 != 0 || bit w 3 || bits w 5 4 == 3 || w % 8 ≥ 6, 22), badAddr ws 24 256]
  | 4 =>
    let w := blockWord ws 20
    [badAddr ws 16 (if w % 4 == 2 then 4 else 8), (w / 4 != 0 || w % 4 == 3, 20)]
  | 6 => [badAddr ws 16 4096, badAddr ws 18 4096, (blockWord ws 20 / 2 != 0, 20)]
  | _ => []

/-- The offset of the first failing word of a block. -/
def formatFailure (ws : List Nat) : Option Nat :=
  let w := blockWord ws 0
  (((w / 2 ^ 16 != 0 || bits w 11 8 != 0 || blockNnot ws > 4 || blockKind ws == 0 || blockKind ws > 6, 0) ::
    badAddr ws 2 256 :: badAddr ws 4 8 :: nonzeroWord ws 6 2 ++
    ((List.range (min 4 (blockNnot ws))).map fun i => badAddr ws (8 + 2 * i) 8) ++
    bodyChecks ws (blockKind ws)).find? fun c => c.1).map fun c => c.2

/-- What completing a block performs. -/
def blockEndOf (q : Queue) (a : Nat) (ws : List Nat) : BlockEnd :=
  { fn := q.fn, ctx := q.ctx, q := q.id, addr := a, cnt := if blockKind ws == 1 then blockPair ws 24 else 0,
    inc := blockPair ws 26, nots := (List.range (min 4 (blockNnot ws))).map fun i => blockPair ws (8 + 2 * i),
    irq := bit (blockWord ws 0) 12 }

/-! ## Moving the walk -/

/-- The walk goes on to a block, or parks. -/
def Queue.goTo (q : Queue) (a : Nat) : Queue :=
  if a == 0 || a % 256 != 0 then { q with parked := true } else { q with pos := some a, parked := false }

/-- The walk waits for a re-evaluation point. -/
def Dev.holdWalk (d : Dev) (q : Nat) : Dev := d.mapQueue q fun x => { x with held := true }

/-- What a read of the walk answers. -/
inductive WalkRead where
  | val (v : Nat)
  | waits
  | faults
  deriving DecidableEq, Repr

/-- A read of the walk: one that faults is recorded until the address has been read. -/
def Dev.walkRead (d : Dev) (q : Queue) (ctx va n : Nat) : Dev × WalkRead :=
  if d.hubHeld q.fn ctx va n .load then (d, .waits)
  else
    match d.hubRead q.fn ctx va n with
    | (d, some v) =>
      (d.mapQueue q.id fun x => { x with readFault := x.readFault.filter fun p => p != (ctx, va) }, .val v)
    | (d, none) =>
      (if ((d.queue q.id).map fun x => x.readFault.contains (ctx, va)).getD false then d
       else (d.hubFault q.fn q.id va).mapQueue q.id fun x => { x with readFault := (ctx, va) :: x.readFault }, .faults)

/-- A block completes and the walk goes on, unless an access of the completion waits at its home; answers whether it has. -/
def Dev.walkDone (d : Dev) (b : BlockEnd) (result detail succ : Nat) : Dev × Bool :=
  if d.blockHeld b then (d, false) else ((d.completeBlock b result detail).mapQueue b.q fun q => q.goTo succ, true)

/-! ## Kinds

Each answers whether the block has been admitted. -/

/-- Ready-list entries in use (R384 step 3). -/
def Dev.readyUsed (d : Dev) (fn : Nat) : Nat :=
  (d.launches.filter fun l => l.fn == fn && !l.source.pending && l.phase != .finishing).length +
    (d.cmds.filter fun c => c.fn == fn && c.status == .unaccepted).length

def Dev.readyRoom (d : Dev) (fn : Nat) : Bool := decide (d.readyUsed fn < (d.func fn).rq)

/-- LAUNCH (R379). -/
def blockLaunch (id : Nat) (q : Queue) (b : BlockEnd) (ws : List Nat) : Launch :=
  let prolog := bit (blockWord ws 29) 31
  { id := id, fn := q.fn, part := partOf q.fn, ctx := q.ctx, source := .block q.id b.addr b.nots b.irq,
    rootQueue := q.id, desc := blockPair ws 16, exts := (List.range 4).map fun k => blockWord ws (18 + k),
    args := blockPair ws 22, cnt := b.cnt, inc := b.inc, pin := blockWord ws 28, dep := 0, prio := q.prio, depth := 0,
    prog := if prolog then some (blockWord ws 29 % 2 ^ 31) else none, depFault := false, runNo := 0, runLeft := 0,
    phase := if prolog then .prologue else .toMap, levels := [],
    runExts := (List.range 4).map fun k => blockWord ws (18 + k), runPin := blockWord ws 28, runArgs := blockPair ws 22, nextTeam := 0,
    terminated := none }

def Dev.launchBlock (d : Dev) (q : Queue) (b : BlockEnd) (ws : List Nat) (next : Nat) : Dev × Bool :=
  ({ d with nextId := d.nextId + 1, launches := d.launches ++ [blockLaunch d.nextId q b ws] }.mapQueue q.id
    fun x => x.goTo next, true)

/-- COPY (R380): its command is accepted when a request buffer is free, and waits for one otherwise. -/
def Dev.copyBlock (d : Dev) (q : Queue) (b : BlockEnd) (ws : List Nat) (next : Nat) : Dev × Bool :=
  let body := (ws.drop 16).take 40
  match copyCheck (d.func q.fn) none body with
  | some e => d.walkDone b resEngine e.1 next
  | none =>
    let c := newCopy d.nextId q.fn q.ctx (.queue q.id b.addr b.nots b.irq) q.prio body 0 .unaccepted {}
    let d := { d with nextId := d.nextId + 1 }
    ((if d.bufferRoom q.fn none then d.acceptCopy c none else { d with cmds := d.cmds ++ [c] }).mapQueue q.id
      fun x => x.goTo next, true)

/-- The condition of a WAITMEM block (R381). -/
def waitCond (c a b : Nat) : Bool :=
  if c == 0 then a == b
  else if c == 1 then a != b
  else if c == 2 then decide (a < b)
  else if c == 3 then decide (a ≥ b)
  else if c == 4 then decide (sext 64 a < sext 64 b)
  else decide (sext 64 a ≥ sext 64 b)

/-- WAITMEM. -/
def Dev.waitmem (d : Dev) (q : Queue) (b : BlockEnd) (ws : List Nat) (next : Nat) : Dev × Bool :=
  match d.walkRead q q.ctx (blockPair ws 16) 8 with
  | (_, .waits) => (d, false)
  | (d, .faults) => (d.holdWalk q.id, false)
  | (d, .val v) =>
    let w := blockWord ws 22
    if waitCond (w % 8) (v &&& blockPair ws 18) (blockPair ws 20) then d.walkDone b resOk 0 next
    else if bits w 5 4 == 0 then (d.holdWalk q.id, false)
    else if bits w 5 4 == 1 then d.walkDone { b with nots := [] } resCancelled 1 next
    else d.walkDone b resOk 0 (blockPair ws 24)

/-- SIGNAL (R382); its completion follows the write. -/
def Dev.signalBlock (d : Dev) (q : Queue) (b : BlockEnd) (ws : List Nat) (next : Nat) : Dev × Bool :=
  let a := blockPair ws 16
  let v := blockPair ws 18
  let op := blockWord ws 20 % 4
  let n := if op == 2 then 4 else 8
  if d.hubHeld q.fn q.ctx a n (if op == 1 then addKind else .store) || d.blockHeld b then (d, false)
  else
    let r := if op == 1 then d.hubAdd q.fn q.ctx q.id a v else d.hubWrite q.fn q.ctx q.id a n v
    if r.2 then r.1.walkDone b resOk 0 next else r.1.walkDone b resFault 0x15 next

/-- ARM (R383), at depth 0. -/
def Dev.armBlock (d : Dev) (q : Queue) (b : BlockEnd) (ws : List Nat) (next : Nat) : Dev × Bool :=
  let body := (ws.drop 16).take 16
  let tag := blockWord ws 32 / 2 ^ 16
  let count := blockWord ws 32 % 2 ^ 16
  let f := d.func q.fn
  if d.blockHeld b then (d, false)
  else if count == 0 then (d.setFunc q.fn (f.disarm tag)).walkDone b resOk 0 next
  else
    match d.launchCheck q.fn true body (f.armed tag).isSome 0 with
    | some e => d.walkDone b resEngine e.1 next
    | none =>
      (d.setFunc q.fn
        (f.arm { tag := tag, count := count, words := body, depth := 0, ctx := q.ctx, prio := q.prio,
                 rootQueue := q.id })).walkDone b resOk 0 next

/-- CAPTURE (R383): a start begins a new record; a stop ends the present one. -/
def Dev.captureBlock (d : Dev) (q : Queue) (b : BlockEnd) (ws : List Nat) (next : Nat) : Dev :=
  if !q.capen then (d.walkDone b resDenied 0 next).1
  else if d.blockHeld b then d
  else if bit (blockWord ws 20) 0 then
    ((d.mapQueue q.id fun x =>
      { x with capture := some { buf := blockPair ws 16, len := blockPair ws 18, pos := 0, seqNo := 0 } }).walkDone b
        resOk 0 next).1
  else
    ((match q.capture with
      | some c => d.putCapture q c 5 (leBytes 8 0) true
      | none => d).walkDone b resOk 0 next).1

/-- The record of an admitted block. -/
def Dev.recordBlock (r : Dev × Bool) (q : Queue) (ws : List Nat) : Dev :=
  if r.2 then r.1.captureOn q.id 1 (wordsBytes 64 ws) else r.1

/-- Steps 3 and 4 for a block whose counter reads zero. -/
def Dev.admitBlock (d : Dev) (q : Queue) (a : Nat) (ws : List Nat) : Dev :=
  let b := blockEndOf q a ws
  let next := blockPair ws 2
  let kind := blockKind ws
  if kind == 3 then Dev.recordBlock (d.waitmem q b ws next) q ws
  else if kind == 4 then Dev.recordBlock (d.signalBlock q b ws next) q ws
  else if !d.readyRoom q.fn then d
  else if kind == 1 then Dev.recordBlock (d.launchBlock q b ws next) q ws
  else if kind == 2 then Dev.recordBlock (d.copyBlock q b ws next) q ws
  else if kind == 5 then Dev.recordBlock (d.armBlock q b ws next) q ws
  else d.captureBlock q b ws next

/-- The walk at a block: its checks and its DEP counter, then its admission. -/
def Dev.walkBlock (d : Dev) (q : Queue) (a : Nat) : Dev :=
  match d.walkRead q q.ctx a 256 with
  | (_, .waits) => d
  | (d, .faults) => d.holdWalk q.id
  | (d, .val v) =>
    let ws := (List.range 64).map fun k => v / 2 ^ (32 * k) % 2 ^ 32
    match formatFailure ws with
    | some w => (d.walkDone (blockEndOf q a ws) resFormat w (blockPair ws 2)).1
    | none =>
      if blockPair ws 4 == 0 then d.admitBlock q a ws
      else
        match d.walkRead q q.ctx (blockPair ws 4) 8 with
        | (_, .waits) => d
        | (d, .faults) => d.holdWalk q.id
        | (d, .val c) => if c == 0 then d.admitBlock q a ws else d.holdWalk q.id

/-! ## Links and notifies (R384 step 4, R387, R388) -/

/-- The QCB read after a notify: DONEADDR, and HEAD while the walk has no position. -/
def Dev.relinkQcb (d : Dev) (q : Queue) : Dev :=
  match d.walkRead q 0 q.qcb 16 with
  | (_, .waits) => d
  | (d, .faults) =>
    d.mapQueue q.id fun x => { x with qcbDue := some true, relink := if x.pos.isNone then some true else x.relink }
  | (d, .val v) =>
    d.mapQueue q.id fun x =>
      let x := { x with doneAddr := v / 2 ^ 64, qcbDue := none }
      if x.pos.isNone then { x.goTo (v % 2 ^ 64) with relink := none, parked := false } else x

/-- The NEXT of the block that a walk is parked at, read after a notify (R384 step 4), whether or not the QCB can be. -/
def Dev.relinkNext (d : Dev) (q : Queue) : Dev :=
  match q.pos, q.parked with
  | some a, true =>
    match d.walkRead q q.ctx (a + 8) 8 with
    | (_, .waits) => d
    | (d, .faults) => d.mapQueue q.id fun x => { x with relink := some true }
    | (d, .val n) => d.mapQueue q.id fun x => { x.goTo n with relink := none }
  | some _, false => d.mapQueue q.id fun x => { x with relink := none }
  | none, _ => d

/-- What a notify has asked for and is due: the QCB, then a link. -/
def Dev.relinkWalk (d : Dev) (q : Queue) : Dev :=
  let d := if q.qcbDue == some false then d.relinkQcb q else d
  if q.relink == some false then d.relinkNext q else d

/-- QUEUE_NOTIFY: dropped for a queue that the function has not bound, and on an insecure stream (R443). -/
def execQueueNotify (fn q : Nat) (s : State) : Outcome :=
  onDev s fn fun d =>
    if !s.streamSecure fn then d
    else match d.queue q with
    | none => d
    | some x =>
      if x.fn != fn || x.unbinding then d
      else
        ((d.reevaluate fn).mapQueue q fun y => { y with relink := some false, qcbDue := some false }).relinkWalk
          { x with held := false, relink := some false, qcbDue := some false }

/-- BLOCK_ADMIT: what a notify asked for, and else the block at the position; before it, what the queue's capture still has to
write. -/
def execBlockAdmit (q : Nat) (s : State) : Outcome :=
  .next { s with dev :=
    let d := s.dev.flushCapture q
    match d.queue q with
    | none => d
    | some x =>
      if x.unbinding then d
      else
        let d := d.relinkWalk x
        match x.pos with
        | some a => if x.relink == some false || x.parked || x.held then d else d.walkBlock x a
        | none => d }

/-- REEVALUATION_TICK: every function's held walks read again. -/
def execReevaluationTick (s : State) : Outcome :=
  .next { s with dev := (s.dev.queues.map fun q => q.fn).foldl (fun d fn => d.reevaluate fn) s.dev }

/-! ## Binding (R389, R390) -/

/-- QBSTAT of an operation that has finished. -/
def bindStatus (result q : Nat) : Nat := result * 2 ^ 16 + q

/-- Whether a command of a queue is admitted and not complete, or its capture has still to write. -/
def Dev.queueBusy (d : Dev) (q : Nat) : Bool :=
  d.launches.any (fun l => match l.source with
    | .block x _ _ _ => x == q
    | _ => false) ||
  (d.cmds.any fun c => match c.issuer with
    | .queue x _ _ _ => x == q
    | _ => false) || ((d.queue q).map fun x => !x.captureDue.isEmpty).getD false

/-- A queue as it is bound: its privileged words, and HEAD. -/
def newQueue (fn qcb q priv : Nat) : Queue :=
  { id := q, fn := fn, ctx := bits priv 9 4, prio := priv % 8, vec := bits priv 31 21, capen := bit priv 3, qcb := qcb,
    pos := none, parked := false, held := false, relink := none, readFault := [], unbinding := false, done := 0,
    doneAddr := 0, capture := none }

/-- The outcome of a bind: its RESULT, and the queue when it is 0. -/
def Dev.bindResult (d : Dev) (fn qcb q : Nat) : Nat × Option Queue :=
  let mine := (d.queues.filter fun x => x.fn == fn).length
  match d.queue q with
  | some x => if x.fn == fn then (5, none) else (1, none)
  | none =>
    if mine ≥ (d.func fn).qq then (2, none)
    else
      match (d.hubRead fn 0 qcb 256).2 with
      | none => (6, none)
      | some v =>
        let priv := v / 2 ^ 512 % 2 ^ 32
        if bits priv 20 10 != 0 || v / 2 ^ 544 != 0 then (3, none)
        else (0, some { (newQueue fn qcb q priv).goTo (v % 2 ^ 64) with parked := false })

def Dev.setQbstat (d : Dev) (fn v : Nat) : Dev := d.setFunc fn { d.func fn with qbstat := v }

/-- A bind. -/
def Dev.bindQueue (d : Dev) (fn qcb q : Nat) : Dev :=
  let r := d.bindResult fn qcb q
  let d := d.setQbstat fn (bindStatus r.1 q)
  match r.2 with
  | none => d
  | some x => { d with queues := d.queues ++ [x] }

/-- An unbind: the walk stops, and the queue is free once its commands are done. RESULT is 4 for a queue that another function holds
(DESIGN CHOICE, log 93: R390 gives RESULT 1 for a bind only). -/
def Dev.unbindQueue (d : Dev) (fn q : Nat) : Dev :=
  match d.queue q with
  | none => d.setQbstat fn (bindStatus 4 q)
  | some x =>
    if x.fn != fn then d.setQbstat fn (bindStatus 4 q)
    else if d.queueBusy q then
      (d.setQueue { x with unbinding := true }).setQbstat fn (2 ^ 31 + q)
    else { d with queues := d.queues.filter fun y => y.id != q }.setQbstat fn (bindStatus 0 q)

/-- The writes of QBIND that wait, in order, until one is not finished. -/
def Dev.nextBinds (fn : Nat) : List (Nat × Nat × Bool) → Dev → Dev
  | [], d => d.setFunc fn { d.func fn with qwrites := [] }
  | (qcb, q, bind) :: ws, d =>
    let d := if bind then d.bindQueue fn qcb q else d.unbindQueue fn q
    if bit (d.func fn).qbstat 31 then d.setFunc fn { d.func fn with qwrites := ws } else Dev.nextBinds fn ws d

/-- A write of QBIND: at once, or after those before it. -/
def Dev.qbind (d : Dev) (fn qcb q : Nat) (bind : Bool) : Dev :=
  let f := d.func fn
  if bit f.qbstat 31 then d.setFunc fn { f with qwrites := f.qwrites ++ [(qcb, q, bind)] }
  else Dev.nextBinds fn [(qcb, q, bind)] d

/-- QBIND_BIND. -/
def execQbindBind (fn qcb q : Nat) (s : State) : Outcome := onDev s fn fun d => d.qbind fn qcb q true

/-- QBIND_UNBIND. -/
def execQbindUnbind (fn q : Nat) (s : State) : Outcome := onDev s fn fun d => d.qbind fn 0 q false

/-- The end of an unbind, once the queue's commands are done; the writes of QBIND that wait follow. -/
def Dev.endUnbind (d : Dev) (q : Nat) : Dev :=
  match d.queue q with
  | some x =>
    if x.unbinding && !d.queueBusy q then Dev.nextBinds x.fn (d.func x.fn).qwrites (d.unbindQueue x.fn q) else d
  | none => d

end Sys2Proof.Machine
end

