-- ==== Sys2Proof/Machine/Prologue.lean ====
section
/-!
DEFINITION. The prologue engine (spec/18 R392 to R394): PROLOGUE_RUN is one whole run. Register instructions have the effects
of the scalar stream: they execute on a shuttle with 128 registers and nothing else.
-/
namespace Sys2Proof.Machine

/-! ## The state of a run -/

/-- The nest under which the engine's register file is checked: 128 registers and no handler. -/
def prologueBolt : Bolt :=
  { addr := 0, nnest := 1, nestBase := 0, nest := leBytes 4 0 ++ leBytes 4 (128 * 2 ^ 16) ++ leBytes 248 0, scode := [],
    lcode := [], size := 0 }

/-- The registers at the start of a run. -/
def prologueStart (l : Launch) (prog : Nat) : Shuttle :=
  ((({ Shuttle.fresh 0 0 with pc := prog }.putS 0 l.args 2).putS 64 l.args 2).putS 66 l.blockAddr 2).putWords 68
    (l.exts ++ [l.pin, l.runNo, 0])

/-- The machine that a register instruction of the engine executes in. -/
def prologueMachine (l : Launch) (p : Shuttle) (is : Issue) : State :=
  { State.reset with dev :=
    { Dev.reset with
      issue := some is, shuttles := [p], launches := [{ l with id := 0, fn := 0, desc := 0 }],
      funcs := [(0, { bolts := [prologueBolt] })],
      teams := [{ id := 0, launch := 0, fn := 0, num := 0, cluster := 0, cores := [0], resident := true, started := true,
                  dying := false, pausing := none, image := none, banks := [], handles := [], copies := [], queues := [],
                  streams := [], arrivals := [], stateBase := 0, stateSize := 0 }] } }

/-! ## Instructions -/

/-- The OPs that a prologue may use (R392). -/
def prologueOp (op : Nat) : Bool :=
  op == 1 || op == 2 || (decide (4 ≤ op) && decide (op ≤ 0x0E)) || (decide (0x10 ≤ op) && decide (op ≤ 0x12)) ||
    (decide (0x20 ≤ op) && decide (op ≤ 0x27)) || op == 0x72 || op == 0x75 || op == 0x7F

/-- Whether a word names a register at or beyond s1008, which the register file does not have. -/
def namesRecord (w : Nat) : Bool :=
  let op := opOf w
  let x := decide (xOf w ≥ 1008)
  let y := decide (yOf w ≥ 1008)
  if op == 1 || op == 2 || (decide (0x10 ≤ op) && decide (op ≤ 0x12)) then x || y
  else if op == 0x26 then x || (fnOf w == 1 && y)
  else if op == 0x72 || op == 0x75 || op == 0x7F || op == 0x20 then false
  else x

/-- A permitted instruction that acts on registers and the pc only. -/
def prologueAlu : Instr → State → Outcome
  | .smov x y, s => execSmov x y s
  | .sadd x y, s => execSadd x y s
  | .ssub x y, s => execSsub x y s
  | .sand x y, s => execSand x y s
  | .sor x y, s => execSor x y s
  | .sxor x y, s => execSxor x y s
  | .sshl x y, s => execSshl x y s
  | .sshr x y, s => execSshr x y s
  | .ssra x y, s => execSsra x y s
  | .smul x y, s => execSmul x y s
  | .smulh x y, s => execSmulh x y s
  | .smulhu x y, s => execSmulhu x y s
  | .sdiv x y, s => execSdiv x y s
  | .sdivu x y, s => execSdivu x y s
  | .srem x y, s => execSrem x y s
  | .sremu x y, s => execSremu x y s
  | .smin x y, s => execSmin x y s
  | .smax x y, s => execSmax x y s
  | .sminu x y, s => execSminu x y s
  | .smaxu x y, s => execSmaxu x y s
  | .sslt x y, s => execSslt x y s
  | .ssltu x y, s => execSsltu x y s
  | .sseq x y, s => execSseq x y s
  | .snot x y, s => execSnot x y s
  | .sclz x y, s => execSclz x y s
  | .spopc x y, s => execSpopc x y s
  | .sbrev x y, s => execSbrev x y s
  | .sneg x y, s => execSneg x y s
  | .smov64 x y, s => execSmov64 x y s
  | .sadd64 x y, s => execSadd64 x y s
  | .ssub64 x y, s => execSsub64 x y s
  | .sshl64 x y, s => execSshl64 x y s
  | .sshr64 x y, s => execSshr64 x y s
  | .ssra64 x y, s => execSsra64 x y s
  | .smul64 x y, s => execSmul64 x y s
  | .sli x imm, s => execSli x imm s
  | .sli64 x imm, s => execSli64 x imm s
  | .saddi x imm, s => execSaddi x imm s
  | .sandi x imm, s => execSandi x imm s
  | .sori x imm, s => execSori x imm s
  | .sxori x imm, s => execSxori x imm s
  | .sshli x imm, s => execSshli x imm s
  | .sshri x imm, s => execSshri x imm s
  | .ssrai x imm, s => execSsrai x imm s
  | .ssltiu x imm, s => execSsltiu x imm s
  | .saddi64 x imm, s => execSaddi64 x imm s
  | .sbr off, s => execSbr off s
  | .sbz x off, s => execSbz x off s
  | .sbnz x off, s => execSbnz x off s
  | .sblz x off, s => execSblz x off s
  | .sbgez x off, s => execSbgez x off s
  | .scall x off, s => execScall x off s
  | .sjr x, s => execSjr x s
  | .sjrL x y, s => execSjrL x y s
  | .sloop x off, s => execSloop x off s
  | .sxt h body, s => execSxt h body s
  | _, s => execSnop s

/-- The number of registers, base, destination and offset of a load, prefixed or not. -/
def prologueLoad : Instr → Option (Nat × Nat × Nat × Int)
  | .sld x y off => some (1, x, y, off)
  | .sld64 x y off => some (2, x, y, off)
  | .sld128 x y off => some (4, x, y, off)
  | .sxt h body =>
    if opOf body == 0x10 then some (1, xOf body, yOf body, widenedOffset h body)
    else if opOf body == 0x11 then some (2, xOf body, yOf body, widenedOffset h body)
    else if opOf body == 0x12 then some (4, xOf body, yOf body, widenedOffset h body)
    else none
  | _ => none

/-! ## A run -/

/-- How an instruction or a run ends: the register file goes on, `sexit`, a fault of R394, or a load that waits at its
home. -/
inductive RunEnd where
  | go (p : Shuttle)
  | exit (p : Shuttle)
  | fault (code : Nat)
  | waits
  deriving DecidableEq, Repr

/-- The register file after a register instruction, or fault 5 where it is illegal. -/
def prologueReg (l : Launch) (p : Shuttle) (is : Issue) (i : Instr) : RunEnd :=
  match prologueAlu i (prologueMachine l p is) with
  | .next t =>
    match t.dev.shuttles, t.dev.teams with
    | q :: _, team :: _ => if team.dying then .fault 5 else .go q
    | _, _ => .fault 5
  | _ => .fault 5

/-- The captures of a prologue's load: its address and its value, 8 bytes each; a 16-byte load gives two entries (R431; log 84). -/
def Dev.captureLoad (d : Dev) (q a k v : Nat) : Dev :=
  let d := d.captureOn q 2 (leBytes 8 a ++ leBytes 8 v)
  if k ≤ 2 then d else d.captureOn q 2 (leBytes 8 (a + 8) ++ leBytes 8 (v / 2 ^ 64))

/-- A load of a prologue, captured as it is performed (R431). -/
def Dev.prologueRead (d : Dev) (l : Launch) (p : Shuttle) (is : Issue) (k x y : Nat) (off : Int) : Dev × RunEnd :=
  if ((loadUse k x y).illegal 128).isSome then (d, .fault 5)
  else
    let a := p.scalarAddr y off
    if d.hubHeld l.fn l.ctx a (4 * k) .load then (d, .waits)
    else
      match d.hubRead l.fn l.ctx a (4 * k) with
      | (d, none) => (d, .fault 4)
      | (d, some v) => (d.captureLoad l.rootQueue a k v, .go ((p.putS x v k).advance is))

/-- One instruction of a run, with the loads made so far. -/
def Dev.prologueStep (d : Dev) (l : Launch) (scode : List Nat) (p : Shuttle) (loads : Nat) : Dev × RunEnd × Nat :=
  match scode[p.pc]? with
  | none => (d, .fault 5, loads)
  | some w =>
    let pre := opOf w == 0x7F
    let nxt := scode[p.pc + 1]?
    let body := if pre then nxt.getD 0 else w
    if !prologueOp (opOf w) || (pre && nxt.isSome && !prologueOp (opOf body)) then (d, .fault 1, loads)
    else
      match decodeScalar w nxt with
      | .error _ => (d, .fault 5, loads)
      | .ok i =>
        let is : Issue :=
          { sh := 0, lane := false, first := p.pc, pc := if pre then p.pc + 1 else p.pc,
            next := if pre then p.pc + 2 else p.pc + 1, words := [w] }
        if namesRecord body then (d, .fault 5, loads)
        else if opOf w == 0x72 then (d, .exit p, loads)
        else
          match prologueLoad i with
          | some (k, x, y, off) =>
            if loads ≥ 32 then (d, .fault 3, loads)
            else
              let r := d.prologueRead l p is k x y off
              (r.1, r.2, loads + 1)
          | none => (d, prologueReg l p is i, loads)

/-- A run of at most `n` instructions; the next one is fault 2. -/
def Dev.prologueSteps (l : Launch) (scode : List Nat) : Nat → Dev → Shuttle → Nat → Dev × RunEnd
  | 0, d, _, _ => (d, .fault 2)
  | n + 1, d, p, loads =>
    match d.prologueStep l scode p loads with
    | (d, .go p, loads) => Dev.prologueSteps l scode n d p loads
    | (d, r, _) => (d, r)

/-- A launch takes what the registers hold at `sexit`. -/
def Launch.takeRun (l : Launch) (p : Shuttle) : Launch :=
  { l with
    runArgs := p.pair 64, runExts := [p.sval 68, p.sval 69, p.sval 70, p.sval 71], runPin := p.sval 72, phase := .toMap }

/-- The outcome word (R393): a later run's KIND 2 acts as 0. -/
def Dev.prologueOutcome (d : Dev) (l : Launch) (p : Shuttle) (fault : Dev → Dev) : Dev :=
  let w := p.sval 74
  let n := w / 2 ^ 16
  let kind := w % 4
  if w / 4 % 2 ^ 14 != 0 || kind == 3 then fault d
  else if kind == 1 then d.completeLaunch l resCancelled 0
  else if kind == 2 && l.runNo == 0 then
    if n == 0 then fault d else d.setLaunch { l.takeRun p with runLeft := n }
  else d.setLaunch (l.takeRun p)

/-- A prologue fault (R394). -/
def Dev.prologueFault (d : Dev) (l : Launch) (code : Nat) : Dev :=
  (d.postError l.fn
    { kind := 4, detail := code, place := l.rootQueue, addr := l.blockAddr, block := l.blockAddr, depth := l.depth }).completeLaunch
    l resPrologue code

/-- PROLOGUE_RUN. A DESC that is no loaded nest gives the engine nothing to run: NODESC. -/
def execPrologueRun (launch : Nat) (s : State) : Outcome :=
  .next { s with dev :=
    match s.dev.launch launch with
    | none => s.dev
    | some l =>
      match l.prog, l.phase with
      | some prog, .prologue =>
        if s.dev.launchHeld l then s.dev
        else
          match (s.dev.func l.fn).boltAt l.desc with
          | none => s.dev.completeLaunch l resNodesc 0
          | some b =>
            match Dev.prologueSteps l b.scode 256 s.dev (prologueStart l prog) 0 with
            | (d, .exit p) => d.prologueOutcome l p fun d => d.prologueFault l 6
            | (d, .fault code) => d.prologueFault l code
            | _ => s.dev
      | _, _ => s.dev }

end Sys2Proof.Machine
end

