-- ==== Sys2Proof/Machine/Mapper.lean ====
section
/-!
DEFINITION. The mapper (spec/07 R159, R166 to R172) and LAUNCH_MAP with the checks of spec/18 R395.
-/
namespace Sys2Proof.Machine

/-! ## Extents and pins (R159, R168, R169) -/

/-- The extent of a level at launch. -/
def levelExtent (l : LevelDecl) (n : Nat) : Except Nat Nat :=
  let fixed := if l.decl then l.extent else 1
  if l.decl && l.extent == 0 then (if n == 0 then .error 1 else .ok n)
  else if n == 0 || n == fixed then .ok fixed
  else .error 1

/-- Each of some results, or the first error. -/
def allOk {α : Type} : List (Except Nat α) → Except Nat (List α)
  | [] => .ok []
  | .error e :: _ => .error e
  | .ok a :: rest =>
    match allOk rest with
    | .error e => .error e
    | .ok as => .ok (a :: as)

/-- The extents of a launch. -/
def launchExtents (n : Nest) (exts : List Nat) : Except Nat (List Nat) :=
  match allOk ((List.range 4).map fun k => levelExtent (n.level k) (exts.getD k 0)) with
  | .error e => .error e
  | .ok es => if es.foldl (· * ·) 1 ≥ 2 ^ 48 then .error 1 else .ok es

/-- Whether a pin byte is one that R169 rejects. -/
def pinBad (b : Nat) : Bool :=
  let kind := bits b 5 3
  if !bit b 7 then b != 0
  else kind > 4 || (bit b 6 && kind < 2) || (b % 8 != 0 && !bit b 6 && kind != kindLane)

/-- What a pin byte decides of a level of an extent. -/
def pinnedLevel (b e : Nat) : Except Nat LevelMap :=
  let kind := bits b 5 3
  let f := b % 8 + 1
  if pinBad b then .error 2
  else if e == 1 then .ok ⟨1, kindNone, kindElide, 0⟩
  else if bit b 6 then .ok ⟨e, kind, kindLane, f⟩
  else if kind == kindElide then .error 2
  else if kind == kindLane then (if e ≤ f then .ok ⟨e, kindNone, kindLane, f⟩ else .error 2)
  else .ok ⟨e, kindNone, kind, if kind == kindShut then e else 0⟩

/-- The pin of a level: of the pinned mapping word, else of the nest. -/
def pinOf (n : Nest) (word k : Nat) : Nat :=
  let b := word / 2 ^ (8 * k) % 256
  if bit b 7 then b else (n.level k).pin

/-- A level decided before the mapper places it, if it is. -/
def decidedLevel (n : Nest) (word k e : Nat) : Except Nat (Option LevelMap) :=
  let b := pinOf n word k
  if pinBad (word / 2 ^ (8 * k) % 256) then .error 2
  else if b == 0 then .ok (if e == 1 then some ⟨1, kindNone, kindElide, 0⟩ else none)
  else
    match pinnedLevel b e with
    | .error c => .error c
    | .ok l => if (k ≥ n.syncl && l.has kindTeam) || ((n.level k).uniform && l.has kindLane) then .error 2 else .ok (some l)

/-! ## Capacity and the default mapping (R170, R171) -/

/-- Shuttles in a partition that its registers and slots can hold. -/
def perPart (p nv ns : Nat) : Nat := min (16 * min 16 (6144 / (p * nv))) (8192 / (ns + 16))

def capacity (p nv ns s : Nat) : Nat := min 1536 (48 * perPart p nv ns) / s

/-- The decided levels of a list of options. -/
def decidedOnly (ls : List (Option LevelMap)) : List LevelMap := ls.filterMap id

/-- The level that takes the lanes: the largest undecided one that is not uniform, unless a pinned level has a LANE part. -/
def laneLevel (n : Nest) (ls : List (Option LevelMap)) : Option Nat :=
  if (decidedOnly ls).any fun l => l.has kindLane then none
  else [3, 2, 1, 0].find? fun k => (ls.getD k none).isNone && !(n.level k).uniform

/-- A level's parts, with the product of the SHUT factors so far; `lane` is its LANE factor when it takes the lanes. -/
def placeLevel (cap u syncl k e : Nat) (lane : Option Nat) : LevelMap × Nat :=
  let need := match lane with
    | some f => ceilDiv e f
    | none => e
  let a := cap / u
  let far := if k ≥ syncl then kindSeq else kindTeam
  match lane with
  | some f =>
    if need == 1 then (⟨e, kindNone, kindLane, f⟩, u)
    else if need ≤ a then (⟨e, kindShut, kindLane, f⟩, u * need)
    else (⟨e, far, kindLane, f⟩, u)
  | none =>
    if need ≤ a then (⟨e, kindNone, kindShut, need⟩, u * need)
    else if a ≥ 2 then (⟨e, far, kindShut, a⟩, u * a)
    else (⟨e, kindNone, far, 0⟩, u)

/-- The levels from the innermost outward: those decided stay, the others are placed. -/
def placeLevels (cap syncl : Nat) (laneAt : Option Nat) (f : Nat) (es : List Nat) (ls : List (Option LevelMap)) :
    List Nat → Nat → List LevelMap → List LevelMap
  | [], _, acc => acc
  | k :: ks, u, acc =>
    match ls.getD k none with
    | some l => placeLevels cap syncl laneAt f es ls ks u (l :: acc)
    | none =>
      let r := placeLevel cap u syncl k (es.getD k 1) (if laneAt == some k then some f else none)
      placeLevels cap syncl laneAt f es ls ks r.2 (r.1 :: acc)

/-- Map: the levels' parts, or MAPERR. A launch that breaks R159 as well as R168 or R169 reports code 1 (DESIGN CHOICE, log 79:
R172 gives no priority). -/
def mapLaunch (n : Nest) (exts : List Nat) (word : Nat) : Except Nat (List LevelMap) :=
  match launchExtents n exts with
  | .error e => .error e
  | .ok es =>
    if n.bperm && word != 0 then .error 2
    else
      match allOk ((List.range 4).map fun k => decidedLevel n word k (es.getD k 1)) with
      | .error e => .error e
      | .ok ls =>
        let pinned := decidedOnly ls
        let lanes := partProduct pinned kindLane
        if lanes > 8 then .error 2
        else
          let laneAt := laneLevel n ls
          let f := match laneAt with
            | some k => min 8 (es.getD k 1)
            | none => lanes
          let cap := capacity f n.nv n.ns n.nstage
          let u := partProduct pinned kindShut
          if u > cap then .error 3 else .ok (placeLevels cap n.syncl laneAt f es ls [3, 2, 1, 0] u [])

/-! ## LAUNCH_MAP (R369, R395) -/

/-- A rejected launch completes; one from the device leaves an error record (R411). -/
def Dev.rejectLaunch (d : Dev) (l : Launch) (maperr : Nat) : Dev :=
  (if l.source.pending then
      d.postError l.fn { kind := 5, detail := maperr, place := l.rootQueue, addr := l.desc, depth := l.depth }
    else d).completeLaunch l resMapping maperr

/-- A held child whose DEP word reads zero goes on to the mapper. -/
def Dev.readDep (d : Dev) (l : Launch) : Dev :=
  if d.hubHeld l.fn l.ctx l.dep 8 .load then d
  else
    match d.hubRead l.fn l.ctx l.dep 8 with
    | (d, some v) => d.setLaunch { l with depFault := false, phase := if v == 0 then .toMap else .held }
    | (d, none) =>
      if l.depFault then d else (d.hubFault l.fn l.rootQueue l.dep).setLaunch { l with depFault := true }

/-- LAUNCH_MAP. -/
def execLaunchMap (launch : Nat) (s : State) : Outcome :=
  .next { s with dev :=
    match s.dev.launch launch with
    | none => s.dev
    | some l =>
      if l.phase == .held then s.dev.readDep l
      else if l.phase != .toMap || s.dev.launchHeld l then s.dev
      else
        match (s.dev.func l.fn).boltAt l.desc with
        | none => s.dev.completeLaunch l resNodesc 0
        | some b =>
          match mapLaunch (b.nestOf l.desc) l.runExts l.runPin with
          | .error e => s.dev.rejectLaunch l e
          | .ok levels => s.dev.setLaunch { l with levels := levels, phase := .placing, nextTeam := 0 } }

end Sys2Proof.Machine
end

