-- ==== Sys2Proof/Machine/Place.lean ====
section
/-!
DEFINITION. Where a team is placed (spec/18 R397, R398): its shuttles, cores, banks (spec/12 R239, R240), shared copies
(spec/07 R185) and team-state area.
-/
namespace Sys2Proof.Machine

/-! ## Shuttles of a team (R165, R189) -/

/-- The shuttles that a launch creates in a team, by (stage, number). -/
def Launch.shuttlesIn (l : Launch) (n : Nest) (team : Nat) : List (Nat × Nat) :=
  let nums := (List.range (partProduct l.levels kindShut)).filter fun k => !(beatsAt l.levels team k [0, 0, 0, 0]).isEmpty
  (List.range n.nstage).flatMap fun s => nums.map fun k => (s, k)

/-- The shuttles of a group, for q of them in all (R398). -/
def groupSize (n : Nest) (lanes q : Nat) : Nat :=
  max 1 (if n.scan then ceilDiv q 4 else 12 * perPart lanes n.nv n.ns)

/-- The cores that q shuttles occupy. -/
def coresNeeded (n : Nest) (lanes q : Nat) : Nat :=
  let c := max 1 (ceilDiv q (groupSize n lanes q))
  if n.pair then max 2 (c + c % 2) else c

/-- The clusters of a partition, ascending (R417). -/
def Dev.clustersOf (d : Dev) (part : Nat) : List Nat :=
  let v := (d.part part).pdesc
  if pdValid v then (List.range (3 * pdK v)).map (3 * pdFirst v + ·) else []

/-! ## Seats (R13, R398) -/

/-- What asks for a seat: a key, the position of its core in the team, and its threads. -/
structure SeatReq where
  key : Nat
  pos : Nat
  threads : Nat
  deriving DecidableEq, Repr

/-- A seat: the key, and the core, partition, lane and slot. -/
structure Seat where
  key : Nat
  core : Nat
  part : Nat
  lane : Nat
  slot : Nat
  deriving DecidableEq, Repr

/-- Every resident shuttle of a cluster, with its nv and ns. -/
def Dev.onCluster (d : Dev) (cluster : Nat) : List (Shuttle × Nat × Nat) :=
  (List.range Config.coresPerCluster).flatMap fun i => d.onCore (Config.coresPerCluster * cluster + i)

/-- Seats for all, on given cores, with what already sits there; none when one of them has no room. -/
def seatAll (cores : List Nat) (nv ns : Nat) : List SeatReq → List (Shuttle × Nat × Nat) → Option (List Seat)
  | [], _ => some []
  | r :: rs, on =>
    let core := cores.getD r.pos 0
    match coreRoom (on.filter fun s => s.1.core == core) r.threads nv ns with
    | none => none
    | some (p, l, k) =>
      let here : Shuttle :=
        { Shuttle.fresh 0 0 with nthreads := r.threads, core := core, part := p, lane := l, slot := k }
      match seatAll cores nv ns rs (on ++ [(here, nv, ns)]) with
      | none => none
      | some ss => some ({ key := r.key, core := core, part := p, lane := l, slot := k } :: ss)

/-! ## Shared copies (R185) -/

/-- The indices of a level that a team holds, from the first. -/
def levelSpan (l : LevelMap) (digit : Nat) : List Nat :=
  if l.outer == kindNone then (if l.inner == kindTeam then [digit] else List.range l.extent)
  else if l.outer == kindTeam then
    (List.range (min l.fact (l.extent - digit * l.fact))).map (digit * l.fact + ·)
  else List.range l.extent

/-- Every choice of one element of each list, ascending. -/
def choices : List (List Nat) → List (List Nat)
  | [] => [[]]
  | xs :: rest => xs.flatMap fun x => (choices rest).map (x :: ·)

/-- The level-k instances of a team, ascending. -/
def instancesOf (lv : List LevelMap) (team k : Nat) : List (List Nat) :=
  choices (((lv.zip (partDigits lv kindTeam team)).take k).map fun p => levelSpan p.1 p.2)

/-- A copy's handle, instance and size, rounded up to 128 bytes. -/
def sharedCopies (n : Nest) (lv : List LevelMap) (team : Nat) : List (Nat × List Nat × Nat) :=
  ((List.range n.shared.length).zip n.shared).flatMap fun h =>
    (instancesOf lv team h.2.level).map fun i => (h.1, i, (h.2.bytes + 127) / 128 * 128)

/-- First fit of a size in banks used up to some offsets: the bank, its offset, and the banks afterwards. -/
def firstFit (size : Nat) : List Nat → Nat → Nat × Nat × List Nat
  | [], k => (k, 0, [size])
  | u :: us, k =>
    if u + size ≤ Config.bankBytes then (k, u, (u + size) :: us)
    else
      let r := firstFit size us (k + 1)
      (r.1, r.2.1, u :: r.2.2)

/-- The copies packed into banks numbered from an entry, with the banks opened. -/
def packBanks (first : Nat) : List (Nat × List Nat × Nat) → List Nat → List SharedCopy × List Nat
  | [], used => ([], used)
  | (h, i, size) :: cs, used =>
    let r := firstFit size used 0
    let rest := packBanks first cs r.2.2
    ({ handle := h, inst := i, entry := some (first + r.1), offset := r.2.1, size := size } :: rest.1, rest.2)

/-- The copies laid out in the team-state area, with their total size. -/
def packArea : List (Nat × List Nat × Nat) → Nat → List SharedCopy × Nat
  | [], off => ([], off)
  | (h, i, size) :: cs, off =>
    let rest := packArea cs (off + size)
    ({ handle := h, inst := i, entry := none, offset := off, size := size } :: rest.1, rest.2)

/-! ## The team-state area (R389, R397; log 21) -/

/-- The areas of a function's teams, by base. -/
def Dev.areasOf (d : Dev) (fn : Nat) : List (Nat × Nat) :=
  (d.teams.filter fun t => t.fn == fn && t.stateSize != 0).map fun t => (t.stateBase, t.stateSize)

/-- The bytes that the code store takes of the reserved area. -/
def Func.codeStore (f : Func) : Nat := f.bolts.foldl (fun n b => n + b.size) 0

/-- The lowest base at which a size fits beside some areas; `fuel` bounds the areas. -/
def areaFit (areas : List (Nat × Nat)) (size top : Nat) : Nat → Nat → Option Nat
  | 0, _ => none
  | fuel + 1, base =>
    if base + size > top then none
    else
      match areas.find? fun a => decide (a.1 < base + size) && decide (base < a.1 + a.2) with
      | none => some base
      | some a => areaFit areas size top fuel (a.1 + a.2)

/-- The carry store of a team (R181, R182; log 21): for each of its shuttles and each iteration of the SEQ levels that a
barrier can split, the largest carried ranges, the predicates, FLAGS and the count of every beat. A nest without a
synchronising construct has none. -/
def carryBytes (n : Nest) (lv : List LevelMap) (shuttles : Nat) : Nat :=
  let its := partProduct (lv.drop n.syncl) kindSeq
  if n.syncl ≥ 4 || its ≤ 1 then 0
  else
    let v := n.barriers.foldl (fun m b => max m (b.v1 + 1 - b.v0)) 0
    let s := n.barriers.foldl (fun m b => max m (b.s1 + 1 - b.s0)) 0
    shuttles * its * (laneCount lv * (4 * v + 16) + 4 * s)

/-- The room of the serial log of a team whose bolt holds a transaction: 1,024 entries (R304; log 21). -/
def Bolt.logBytes (b : Bolt) : Nat := if b.lcode.any fun w => bits w 95 86 == 0x0E0 then 1024 * 32 else 0

/-- The end of a function's reserved area in the partition's physical range (R389, R249; log 87). -/
def Dev.reservedEnd (d : Dev) (fn : Nat) : Nat := min ((d.func fn).rsvb + (d.func fn).rsvs) (d.partBytes (partOf fn))

/-- Room for a team's state: its base. -/
def Dev.stateRoom (d : Dev) (fn size : Nat) : Option Nat :=
  let f := d.func fn
  let areas := d.areasOf fn
  if size == 0 then some 0 else areaFit areas size (d.reservedEnd fn - f.codeStore) (areas.length + 1) f.rsvb

/-! ## A place for a team (R397, R240) -/

/-- What a team asks for: its seats, cores, banks for what it must hold in them, and, where its shared copies may go into
banks, how many; the bytes of state otherwise, those of its own state, and the request buffers that it does not hold yet. -/
structure TeamNeed where
  reqs : List SeatReq
  cores : Nat
  pair : Bool
  nv : Nat
  ns : Nat
  tiles : Nat
  banks : Nat
  sharedBanks : Option Nat
  stateBytes : Nat
  ownState : Nat := 0
  buffers : Nat := 4
  deriving DecidableEq, Repr

/-- Where a team goes. -/
structure TeamPlace where
  cluster : Nat
  cores : List Nat
  seats : List Seat
  banks : List Nat
  sharedIn : Bool
  stateBase : Nat
  stateSize : Nat
  copyBytes : Nat := 0
  deriving DecidableEq, Repr

/-- The accumulator tiles that resident teams claim on a core. -/
def Dev.accTilesOn (d : Dev) (core : Nat) : Nat :=
  d.teams.foldl
    (fun n t =>
      if t.resident && t.cores.contains core then n + ((d.envOfTeam t).map fun e => e.nest.tiles).getD 0 else n) 0

/-- The free banks of a cluster, those at home on a core first. -/
def Dev.freeBanks (d : Dev) (cluster core : Nat) : List Nat :=
  let free := (List.range Config.banksPerCluster).filter fun b =>
    !d.teams.any fun t => t.cluster == cluster && t.resident && t.banks.any fun e => e.bank == b
  let home := fun b => b / 4 == core % Config.coresPerCluster
  free.filter home ++ free.filter fun b => !home b

/-- The lowest cores of a cluster on which a team's seats and tiles fit. -/
def Dev.fitCores (d : Dev) (need : TeamNeed) (cluster : Nat) : Option (List Nat × List Seat) :=
  let on := d.onCluster cluster
  ((List.range (Config.coresPerCluster + 1 - need.cores)).filter fun j => !need.pair || j % 2 == 0).findSome? fun j =>
    let cores := (List.range need.cores).map fun i => Config.coresPerCluster * cluster + j + i
    if cores.any fun c => d.accTilesOn c + need.tiles > 32 then none
    else (seatAll cores need.nv need.ns need.reqs on).map fun ss => (cores, ss)

/-- The place of a team on a cluster. -/
def Dev.fitCluster (d : Dev) (fn : Nat) (need : TeamNeed) (cluster : Nat) : Option TeamPlace :=
  let free := Config.banksPerCluster - d.heldBanks cluster
  if need.banks + 2 > free then none
  else
    let shared := match need.sharedBanks with
      | some k => decide (need.banks + k ≤ 14) && decide (need.banks + k + 2 ≤ free)
      | none => false
    let copies := if shared then 0 else need.stateBytes
    let size := copies + need.ownState
    match d.stateRoom fn size, d.fitCores need cluster with
    | some base, some (cores, seats) =>
      some
        { cluster := cluster, cores := cores, seats := seats,
          banks := (d.freeBanks cluster (cores.getD 0 0)).take
            (need.banks + (if shared then need.sharedBanks.getD 0 else 0)),
          sharedIn := shared, stateBase := base, stateSize := size, copyBytes := copies }
    | _, _ => none

/-- The place of a team in its partition, if it fits: the function's L2BM is nonzero, four request buffers are free or its
own, and a cluster has room, the lowest first. -/
def Dev.fitTeam (d : Dev) (fn : Nat) (need : TeamNeed) : Option TeamPlace :=
  let f := d.func fn
  if f.l2bm == 0 || decide (need.buffers != 0 && d.buffersUsed fn + need.buffers > f.cq) then none
  else (d.clustersOf (partOf fn)).findSome? fun c => d.fitCluster fn need c

end Sys2Proof.Machine
end

