-- ==== Sys2Proof/Machine/Residence.lean ====
section
/-!
DEFINITION. Teams in and out of residence: dispatch (spec/18 R396, R399; spec/01 R30), pre-emption (spec/20 R424 to R428), and
the slices of a partition (R420, R421), and the end of a terminated team (R412).
-/
namespace Sys2Proof.Machine

/-! ## What a team needs (R397, R398) -/

/-- The position of the core of the i-th created shuttle. -/
def corePos (n : Nest) (lanes q i : Nat) : Nat := i / groupSize n lanes q

/-- The copies of a team in banks from an entry on, when every one fits within a bank. -/
def sharedNeed (n : Nest) (lv : List LevelMap) (team : Nat) : Option Nat × Nat :=
  let cs := sharedCopies n lv team
  let bytes := cs.foldl (fun m c => m + c.2.2) 0
  (if cs.all fun c => decide (c.2.2 ≤ Config.bankBytes) then some (packBanks 0 cs []).2.length else none, bytes)

/-- The needs that a nest of a bolt and a mapping fix (R397). -/
def needOf (b : Bolt) (n : Nest) (lv : List LevelMap) (team q : Nat) (reqs : List SeatReq) : TeamNeed :=
  let shared := sharedNeed n lv team
  { ownState := carryBytes n lv q + b.logBytes, reqs := reqs, cores := coresNeeded n (laneCount lv) q, pair := n.pair,
    nv := n.nv, ns := n.ns, tiles := n.tiles,
    banks := n.scratchBanks + n.fifoBanks, sharedBanks := shared.1, stateBytes := shared.2 }

/-- The needs of a team of a launch that has not been dispatched. -/
def Launch.needNew (l : Launch) (b : Bolt) (n : Nest) : TeamNeed :=
  let shs := l.shuttlesIn n l.nextTeam
  let lanes := laneCount l.levels
  needOf b n l.levels l.nextTeam shs.length
    ((List.range shs.length).map fun i => { key := i, pos := corePos n lanes shs.length i, threads := lanes })

/-- The seats of the live shuttles of a team that comes back: a created one by its place in the order, a spawned one at
the position where it was. -/
def Dev.seatReqs (d : Dev) (t : Team) (n : Nest) (lanes : Nat) : List SeatReq :=
  let all := d.shuttlesOf t.id
  let created := all.filter fun s => !s.spawned
  ((List.range created.length).zip created).filterMap (fun p =>
      if p.2.live then
        some { key := p.2.id, pos := corePos n lanes created.length p.1, threads := p.2.nthreads : SeatReq }
      else none) ++
    (all.filter fun s => s.spawned && s.live).map fun s =>
      { key := s.id, pos := (t.cores.findIdx? (· == s.core)).getD 0, threads := s.nthreads }

/-- The needs of a team that comes back: it holds its request buffers, and a saved one its banks, copies and state. -/
def Dev.needBack (d : Dev) (t : Team) (env : Env) : TeamNeed :=
  let lv := env.launch.levels
  let q := ((d.shuttlesOf t.id).filter fun s => !s.spawned).length
  let need := { needOf env.bolt env.nest lv t.num q (d.seatReqs t env.nest (laneCount lv)) with
    buffers := 0 }
  if t.image == some .saved then { need with banks := t.banks.length, sharedBanks := some 0, stateBytes := 0, ownState := 0 }
  else need

/-! ## Starting (R30, R185, R239, R425) -/

/-- The bank table and the shared copies of a team that starts afresh. -/
def freshBanks (n : Nest) (lv : List LevelMap) (team : Nat) (p : TeamPlace) : List BankEntry × List SharedCopy :=
  let claims := n.scratchBanks + n.fifoBanks
  let cs := sharedCopies n lv team
  let copies := if p.sharedIn then (packBanks claims cs []).1 else (packArea cs 0).1
  (((List.range p.banks.length).zip p.banks).map fun b =>
    { entry := b.1, bank := b.2,
      fifo := if n.scratchBanks ≤ b.1 && b.1 < claims then some (n.slotSize, n.slotCount) else none,
      shared := decide (claims ≤ b.1), slots := [] }, copies)

/-- A shuttle at its seat. -/
def Shuttle.seated (s : Shuttle) (x : Seat) : Shuttle :=
  { s with core := x.core, part := x.part, lane := x.lane, slot := x.slot }

/-- The start state of a created shuttle (R30). -/
def Shuttle.start (id team stage num lanes : Nat) (n : Nest) (args : Nat) : Shuttle :=
  ({ Shuttle.fresh id team with
      stage := stage, num := num, nthreads := lanes, pc := n.entries.getD stage 0, seed := n.seed }.putS 0 args 2).putS 2
    stage 1

/-- The zeros of shared copies in the team-state area. -/
def Dev.blankState (d : Dev) (fn : Nat) (p : TeamPlace) : Dev :=
  if p.copyBytes == 0 then d else d.writeReserved fn p.stateBase (List.replicate p.copyBytes blankByte)

/-- The streams of a team's shuttles start (R326). -/
def Dev.startTeam (d : Dev) (team : Nat) : Dev :=
  match d.team team with
  | none => d
  | some t =>
    match d.envOfTeam t with
    | none => d
    | some env =>
      ((d.shuttlesOf team).filter fun s => s.live).foldl (fun d s => d.startStreams s.id env)
        (d.acquire t.cluster)

/-- A launch has placed one more team; with the last of its last run it leaves the ready list (R384). -/
def Launch.placedOne (l : Launch) : Launch :=
  { l with
    nextTeam := l.nextTeam + 1
    phase := if l.nextTeam + 1 ≥ l.teamCount && l.runLeft == 0 then .finishing else l.phase }

/-- The next team of a launch at its place. -/
def Dev.placeNew (d : Dev) (l : Launch) (n : Nest) (p : TeamPlace) : Dev :=
  let id := d.nextId
  let b := freshBanks n l.levels l.nextTeam p
  let t : Team :=
    { id := id, launch := l.id, fn := l.fn, num := l.nextTeam, cluster := p.cluster, cores := p.cores, resident := true,
      started := true, dying := false, pausing := none, image := none, banks := b.1, handles := [], copies := b.2,
      queues := [], streams := [], arrivals := [], stateBase := p.stateBase, stateSize := p.stateSize, order := id }
  let keys := l.shuttlesIn n l.nextTeam
  let shs := p.seats.map fun x =>
    let k := keys.getD x.key (0, 0)
    (Shuttle.start (id + 1 + x.key) id k.1 k.2 (laneCount l.levels) n l.runArgs).seated x
  let d := d.blankState l.fn p
  let d := { d with nextId := id + 1 + keys.length, teams := d.teams ++ [t], shuttles := d.shuttles ++ shs }
  (d.setLaunch l.placedOne).startTeam id

/-- A discarded shuttle in its start state with its record (R425). -/
def Shuttle.restart (s : Shuttle) (n : Nest) (args : Nat) : Shuttle :=
  let f := Shuttle.start s.id s.team s.stage s.num s.nthreads n args
  let f := { f with record := s.record }
  match s.record with
  | none => f
  | some r =>
    let f := match r.creg with
      | some c => if c == noCreg then f else f.putS c r.cval 1
      | none => f
    { f with
      pc := r.resume, regions := r.regions, seq := r.seq, fmt := r.fmt, seed := r.seed, flags := r.flags,
      counts := r.counts }

/-- The TW2 maps of a team's cores, by position: eight for each. -/
def Dev.teamMaps (d : Dev) (t : Team) : List (Nat × Nat) :=
  d.tw2m.filterMap fun m => (t.cores.findIdx? (· == m.1 / 8)).map fun i => (i * 8 + m.1 % 8, m.2)

/-- The maps of a saved team on the cores that it comes back to (R129, R428). -/
def Dev.putMaps (d : Dev) (t : Team) (cores : List Nat) : Dev :=
  ((List.range cores.length).zip cores).foldl
    (fun d c => (List.range 8).foldl (fun d i => d.setTw2 [c.2] i (getK tw2Reset t.tw2 (c.1 * 8 + i))) d) d

/-- A team comes back to its place: a saved one as it was, a discarded one from its records. -/
def Dev.placeBack (d : Dev) (t : Team) (env : Env) (p : TeamPlace) : Dev :=
  let saved := t.image == some .saved
  let b := freshBanks env.nest env.launch.levels t.num p
  let t' : Team := { t with
    cluster := p.cluster, cores := p.cores, resident := true, pausing := none, image := none,
    banks := if saved then (t.banks.zip p.banks).map fun x => { x.1 with bank := x.2 } else b.1,
    copies := if saved then t.copies else b.2,
    stateBase := if saved then t.stateBase else p.stateBase, stateSize := if saved then t.stateSize else p.stateSize,
    order := d.nextId, yieldTo := none, tw2 := [] }
  let d := if saved then d.putMaps t p.cores else d.blankState t.fn p
  let d := { d with nextId := d.nextId + 1 }.setTeam t'
  let seat := fun (s : Shuttle) =>
    match p.seats.find? fun x => x.key == s.id with
    | some x => (if saved then s else s.restart env.nest env.launch.runArgs).seated x
    | none => s
  let d := { d with shuttles := d.shuttles.map seat }
  if saved then d.acquire p.cluster else d.startTeam t.id

/-! ## Which function runs (R420) -/

/-- Whether a launch is ready for dispatch: admitted, not ended, with a team to place or to be mapped. -/
def Launch.ready (l : Launch) : Bool :=
  l.terminated.isNone && !l.checked &&
    (match l.phase with
      | .prologue => true
      | .toMap => true
      | .placing => decide (l.nextTeam < l.teamCount)
      | _ => false)

/-- Whether a function has work. -/
def Dev.hasWork (d : Dev) (fn : Nat) : Bool :=
  d.launches.any (fun l => l.fn == fn && l.ready) || d.teams.any fun t => t.fn == fn

def Dev.eligible (d : Dev) (fn : Nat) : Bool := d.hasWork fn && (d.func fn).hasBudget

/-- The eligible function after one, in ascending cyclic order. -/
def Dev.nextFunction (d : Dev) (part after : Nat) : Option Nat :=
  ((List.range 4).map fun i => 4 * part + (after + 1 + i) % 4).find? fun f => d.eligible f

/-- The clearing of R421, before the next function issues: the partition's L1 copies go, and its TW2 maps return to
reset. -/
def Dev.clearPartition (d : Dev) (part : Nat) : Dev :=
  let clusters := d.clustersOf part
  { d with
    l1 := d.l1.filter fun c => !clusters.contains c.cluster
    tw2m := d.tw2m.filter fun m => !clusters.contains (m.1 / 8 / Config.coresPerCluster) }

/-- An idle partition runs the first eligible function after the one that it ran last; where another function follows, what
the cores held is cleared (R129, R420). -/
def Dev.wakePartition (d : Dev) (part : Nat) : Dev :=
  let p := d.part part
  if p.running.isSome || p.switching then d
  else
    match d.nextFunction part (p.last.getD 3) with
    | none => d
    | some f =>
      (if p.last == some f then d else d.clearPartition part).setPart part { p with running := some f, used := 0, last := some f }

/-! ## Pre-emption (R399, R424, R427) -/

/-- Whether a tile of a team belongs to an unfinished chain (R346). -/
def Dev.chainOpen (d : Dev) (team : Nat) : Bool :=
  d.tiles.any fun t => t.team == team && !((d.chain t.chain).map (·.complete)).getD true

/-- A discard begins: every shuttle that is IN stops. -/
def Dev.beginDiscard (d : Dev) (team : Nat) : Dev :=
  match d.team team with
  | none => d
  | some t =>
    let d := d.setTeam { t with pausing := some .discard }
    { d with shuttles := d.shuttles.map fun s =>
        if s.team == team && s.live && !s.spawned && !s.exposed then { s with stopped := true } else s }

def Dev.setPausing (d : Dev) (team : Nat) (p : Pausing) : Dev :=
  match d.team team with
  | none => d
  | some t => d.setTeam { t with pausing := some p }

/-- The OP of the scalar word that a shuttle is at. -/
def Shuttle.atOp (s : Shuttle) (scode : List Nat) : Nat := opOf (scode.getD s.pc 0)

/-- Whether a shuttle's `swaitc` waits: for a waiter, or for its counter to come to the target. -/
def Dev.counterWaits (d : Dev) (t : Team) (env : Env) (s : Shuttle) (x y : Nat) : Bool :=
  if s.waiter then
    match (d.engineAt t.fn env.launch.ctx (some t) (s.pair x) 8 .load).2 with
    | .loc l => decide (leNat (d.homeRead t.fn l 8) < s.pair y)
    | _ => true
  else !d.waiterRoom s t.fn

/-- Whether a shuttle's `sscw` waits: for a waiter, or for its chain's completion to pass its core. -/
def Dev.chainWaits (d : Dev) (t : Team) (env : Env) (s : Shuttle) (c : Nat) : Bool :=
  if s.waiter then
    (((d.completions env.launch.id c)[getK 0 s.sscw c]?).map fun ch => !ch.passed.contains s.core).getD true
  else !d.waiterRoom s t.fn

/-- Whether a shuttle's `sexit` waits: for its lane blocks and accesses, or, as the team's last, for its engine work. -/
def Dev.exitWaits (d : Dev) (t : Team) (env : Env) (s : Shuttle) : Bool :=
  (!s.handler && !s.blocks.isEmpty) || !s.allPerformed ||
    (d.lastLive s && (d.engineBusy t || (env.launch.lastRun && d.launchHeld env.launch)))

/-- Whether a shuttle waits in `swaitc`, `sscw` or `sexit`. -/
def Dev.shuttleWaits (d : Dev) (t : Team) (env : Env) (s : Shuttle) : Bool :=
  !s.stopped &&
    match decodeScalar (env.bolt.scode.getD s.pc 0) none with
    | .ok (.swaitc x y) => d.counterWaits t env s x y
    | .ok (.sscw _ c) => d.chainWaits t env s c
    | .ok .sexit => d.exitWaits t env s
    | _ => false

/-- Whether every shuttle of a team waits in `swaitc`, `sscw` or `sexit`; a saved team waits on where it waited. -/
def Dev.allWaiting (d : Dev) (t : Team) : Bool :=
  match d.envOfTeam t with
  | none => false
  | some env => t.image != some .discarded && (d.shuttlesOf t.id).all fun s => !s.live || d.shuttleWaits t env s

/-- Whether a team may be taken for a save that R399 requests; one with a tile of an unfinished chain is never saved
(R346). -/
def Dev.waitingTeam (d : Dev) (t : Team) : Bool :=
  t.resident && !t.dying && (t.pausing.isNone || t.pausing == some .drain) && !d.chainOpen t.id && d.allWaiting t

def Dev.teamPrio (d : Dev) (t : Team) : Nat := ((d.launch t.launch).map (·.prio)).getD 0

/-- The team of some that pre-emption takes first: lowest priority, then most recently dispatched. -/
def Dev.firstVictim (d : Dev) (ts : List Team) : Option Team :=
  ts.foldl
    (fun acc t => match acc with
      | none => some t
      | some a =>
        if d.teamPrio t < d.teamPrio a || (d.teamPrio t == d.teamPrio a && t.order > a.order) then some t else some a) none

/-- The three ways of R427, with those that are available. -/
def Dev.waysOf (d : Dev) (t : Team) : List Pausing :=
  let chain := d.chainOpen t.id
  let exposed := (d.shuttlesOf t.id).any fun s => s.live && s.exposed
  [.drain] ++ (if exposed || chain then [] else [.discard]) ++ (if chain then [] else [.save])

def Pausing.code : Pausing → Nat
  | .drain => 0
  | .discard => 1
  | .save => 2

/-- The cheapest of some ways by this part's estimates; ties fall to the earlier. -/
def cheapest (cost : Pausing → Nat) : List Pausing → Option Pausing
  | [] => none
  | w :: ws =>
    match cheapest cost ws with
    | none => some w
    | some v => if cost w ≤ cost v then some w else some v

/-- The way that the Treadle picks: the cheapest whose cost is at most PLB(P), else the cheapest. -/
def Dev.wayFor (d : Dev) (t : Team) (prio : Nat) : Pausing :=
  let cost := fun w : Pausing => Config.preemptCost w.code d.tick
  let plb := getK 0xFFFFFFFF (d.func t.fn).plb prio
  let ways := d.waysOf t
  ((cheapest cost (ways.filter fun w => decide (cost w ≤ plb))).or (cheapest cost ways)).getD .drain

def Dev.preempt (d : Dev) (t : Team) (way : Pausing) : Dev :=
  match way with
  | .discard => d.beginDiscard t.id
  | w => d.setPausing t.id w

/-- The teams of a function that can be pre-empted; none while a pre-emption is under way. -/
def Dev.victims (d : Dev) (fn : Nat) : List Team :=
  let mine := d.teams.filter fun t => t.fn == fn && t.resident && !t.dying
  if mine.any fun t => t.pausing == some .discard || t.pausing == some .save then [] else mine

/-- The save that R399 requests for a team of a launch: the team stays out until that one is placed. -/
def Dev.saveFor (d : Dev) (t : Team) (launch num : Nat) : Dev :=
  d.setTeam { t with pausing := some .save, yieldTo := some (launch, num) }

/-- The team that R399 saves for another, if one waits. -/
def Dev.waitingVictim (d : Dev) (fn : Nat) : Option Team := d.firstVictim ((d.victims fn).filter d.waitingTeam)

/-- Making room by priority (R427): a team of lower priority is pre-empted, one at a time. -/
def Dev.makeRoom (d : Dev) (fn prio : Nat) : Dev :=
  let mine := d.victims fn
  if mine.any fun t => t.pausing == some .drain then d
  else
    match d.firstVictim (mine.filter fun t => decide (d.teamPrio t < prio)) with
    | some t => d.preempt t (d.wayFor t prio)
    | none => d

/-- Making room for the next team of a launch: a waiting team is saved (R399), or one of lower priority pre-empted. -/
def Dev.makeRoomFor (d : Dev) (l : Launch) : Dev :=
  match d.waitingVictim l.fn with
  | some t => d.saveFor t l.id l.nextTeam
  | none => d.makeRoom l.fn l.prio

/-! ## TEAM_DISPATCH (R396) -/

/-- The launch of highest priority, and among equals the one admitted first. -/
def Dev.headLaunch (d : Dev) (fn : Nat) : Option Launch :=
  (d.launches.filter fun l => l.fn == fn && l.ready).foldl
    (fun acc l => match acc with
      | none => some l
      | some a => if l.prio > a.prio || (l.prio == a.prio && l.id < a.id) then some l else some a) none

/-- Where the next team of a mapped launch fits; `none` twice over when there is none to place. -/
def Dev.newPlace (d : Dev) (l : Launch) : Option (Nest × Option TeamPlace) :=
  if l.phase != .placing then none
  else ((d.func l.fn).boltAt l.desc).map fun b => (b.nestOf l.desc, d.fitTeam l.fn (l.needNew b (b.nestOf l.desc)))

/-- Where a team out of residence fits. -/
def Dev.backPlace (d : Dev) (t : Team) : Option TeamPlace :=
  (d.envOfTeam t).bind fun env => d.fitTeam t.fn (d.needBack t env)

/-- The device with the teams of a function that wait, and one that is being saved, out of residence. -/
def Dev.withoutWaiting (d : Dev) (fn : Nat) : Dev :=
  { d with teams := d.teams.map fun t =>
      if t.fn == fn && t.resident && !t.dying && (d.waitingTeam t || t.pausing == some .save) then
        { t with resident := false }
      else t }

/-- Whether a team that was saved under R399 still leaves its space to the one that it was saved for: the next team of the head
launch, or a team out of residence, that fits once those that wait are out (log 77). -/
def Dev.yields (d : Dev) (t : Team) : Bool :=
  match t.yieldTo with
  | none => false
  | some (l, n) =>
    let out := d.withoutWaiting t.fn
    (match d.headLaunch t.fn with
      | some x => x.id == l && x.nextTeam == n && ((out.newPlace x).map (·.2.isSome)).getD false
      | none => false) ||
      d.teams.any fun u => u.launch == l && u.num == n && u.image.isSome && !u.dying && (out.backPlace u).isSome

/-- Whether a team out of residence goes before another: the higher priority, then one that no longer waits, then the one
dispatched last (log 77). -/
def Dev.backBefore (d : Dev) (t a : Team) : Bool :=
  d.teamPrio t > d.teamPrio a ||
    (d.teamPrio t == d.teamPrio a &&
      ((d.allWaiting a && !d.allWaiting t) || (d.allWaiting a == d.allWaiting t && t.order > a.order)))

/-- The team out of residence that comes first. -/
def Dev.headBack (d : Dev) (fn : Nat) : Option Team :=
  (d.teams.filter fun t => t.fn == fn && t.image.isSome && !t.dying && !d.yields t).foldl
    (fun acc t => match acc with
      | none => some t
      | some a => if d.backBefore t a then some t else some a) none

/-- The next team of a launch is placed when it fits; a launch not yet mapped is waited for. -/
def Dev.dispatchNew (d : Dev) (l : Launch) : Dev :=
  match d.newPlace l with
  | none => d
  | some (n, some p) => d.placeNew l n p
  | some (_, none) => if (d.func l.fn).l2bm == 0 then d else d.makeRoomFor l

/-- Behind a team that fits nowhere a launch of its priority or lower places its next team only in the space that R399 frees for
it. -/
def Dev.dispatchBehind (d : Dev) (l : Launch) : Dev :=
  match d.newPlace l with
  | some (n, some p) => if d.teams.any fun t => t.image.isSome && t.yieldTo == some (l.id, l.nextTeam) then d.placeNew l n p else d
  | some (_, none) => ((d.waitingVictim l.fn).map fun t => d.saveFor t l.id l.nextTeam).getD d
  | none => d

/-- Making room for a team that comes back: when it no longer waits itself, a waiting team is saved for it as for a new one (log
77); or one of lower priority is pre-empted. -/
def Dev.makeRoomBack (d : Dev) (t : Team) (prio : Nat) : Dev :=
  match (if d.allWaiting t then none else d.waitingVictim t.fn) with
  | some w => d.saveFor w t.launch t.num
  | none => d.makeRoom t.fn prio

/-- A team out of residence is placed when it fits; while L2BM is zero it is not, as no new team is (DESIGN CHOICE, log 79: R254
speaks of teams that are resident then). -/
def Dev.dispatchBack (d : Dev) (t : Team) (behind : Option Launch) : Dev :=
  match d.envOfTeam t with
  | none => d
  | some env =>
    match d.fitTeam t.fn (d.needBack t env) with
    | some p => d.placeBack t env p
    | none =>
      if (d.func t.fn).l2bm == 0 then d
      else
        let d := d.makeRoomBack t env.launch.prio
        (behind.map fun l => d.dispatchBehind l).getD d

/-- One dispatch opportunity of a function: a saved or discarded team comes before a new one of equal priority (R428). -/
def Dev.dispatchFor (d : Dev) (fn : Nat) : Dev :=
  match d.headBack fn, d.headLaunch fn with
  | some t, some l => if l.prio > d.teamPrio t then d.dispatchNew l else d.dispatchBack t (some l)
  | some t, none => d.dispatchBack t none
  | none, some l => d.dispatchNew l
  | none, none => d

/-- TEAM_DISPATCH. -/
def execTeamDispatch (part : Nat) (s : State) : Outcome :=
  .next { s with dev :=
    let d := s.dev.wakePartition part
    match (d.part part).running with
    | none => d
    | some fn => if (d.part part).switching then d else d.dispatchFor fn }

/-! ## TEAM_SAVE (R428) -/

/-- Whether an access of a shuttle can still go on while its streams are stopped. -/
def Shuttle.accsMove (s : Shuttle) : Bool := s.accs.any fun a => s.canPerform a || s.canFill a

/-- Whether a copy of a team is still to move. -/
def CopyCmd.inFlight (c : CopyCmd) : Bool :=
  match c.status with
  | .fifoWait _ => false
  | .faulted _ => false
  | _ => true

/-- Whether a team's work has drained for a save. -/
def Dev.saveReady (d : Dev) (t : Team) : Bool :=
  !(d.cmds.any fun c => c.ofTeam t.id && c.inFlight) && !(d.matOps.any fun o => o.team == t.id) && !d.chainOpen t.id &&
    (d.shuttlesOf t.id).all fun s => !s.accsMove

/-- The open transactions of a team abort with INTERRUPT. -/
def Dev.interruptTxns (d : Dev) (team : Nat) : Dev :=
  (d.shuttlesOf team).foldl
    (fun d s => (s.txns.filter fun t => t.active).foldl (fun d t => d.abortAway s.id t.beat txnInterrupt) d) d

/-- TEAM_SAVE: once its work has drained, the team leaves with its whole state. -/
def execTeamSave (team : Nat) (s : State) : Outcome :=
  .next { s with dev :=
    match s.dev.team team with
    | none => s.dev
    | some t =>
      if t.pausing != some .save || t.dying || !t.resident then s.dev
      else
        let d := s.dev.interruptTxns team
        if !d.saveReady t then d
        else
          match d.team team with
          | none => d
          | some t =>
            d.setTeam { t with resident := false, pausing := none, image := some .saved, tw2 := d.teamMaps t } }

/-! ## TEAM_DISCARD (R424) -/

/-- Whether a breakpoint of a shuttle is outstanding. -/
def Dev.atBreakpoint (d : Dev) (fn sh : Nat) : Bool :=
  (d.func fn).faults.any fun e => e.kind == 3 && e.owner == .shuttle sh && !e.resolved

/-- Whether a shuttle has stopped for a discard: only one that is IN does. -/
def Shuttle.discardStopped (s : Shuttle) : Bool := s.stopped && !s.exposed && !s.spawned

/-- Whether a running shuttle of a team that is discarded can issue: it waits at no barrier or collective that is still to
be released, and in no `sscw`. -/
def Shuttle.canRun (s : Shuttle) (t : Team) (scode : List Nat) : Bool :=
  s.live && !s.discardStopped && !(s.arrived.isSome && t.arrivals.any fun a => a.sh == s.id) &&
    !(s.atOp scode == 0x5A && s.waiter)

/-- A shuttle with nothing but its record. -/
def Shuttle.discarded (s : Shuttle) : Shuttle :=
  { Shuttle.fresh s.id s.team with
    stage := s.stage, num := s.num, nthreads := s.nthreads, live := s.live, record := s.record }

/-- Whether matrix operations of a team are still to drain. Its copies do not hold a discard up: those that use its storage
pause until it is back (R322, R346). -/
def Dev.discardBusy (d : Dev) (t : Team) : Bool := d.matOps.any fun o => o.team == t.id

/-- The discard of a team whose shuttles have all stopped. -/
def Dev.finishDiscard (d : Dev) (t : Team) : Dev :=
  let d := (d.shuttlesOf t.id).foldl (fun d s => d.dropTxns t.fn s) d
  let kept := d.shuttles.filter fun (s : Shuttle) => s.team != t.id || !s.spawned
  let d := { d with
    shuttles := kept.map fun (s : Shuttle) => if s.team == t.id then s.discarded else s
    tiles := d.tiles.filter fun x => x.team != t.id
    mem := eraseRange d.mem (teamKey t.id) (2 ^ 32)
    poison := dropPoison d.poison (teamKey t.id) (2 ^ 32) }
  d.setTeam { t with
    resident := false, pausing := none, image := some .discarded, banks := [], handles := [], copies := [], queues := [],
    streams := [], arrivals := [], stateBase := 0, stateSize := 0 }

/-- Every stopped shuttle of a team runs again, but those at a breakpoint. -/
def Dev.wakeAll (d : Dev) (t : Team) : Dev :=
  { d with shuttles := d.shuttles.map fun s =>
      if s.team == t.id && s.live && !d.atBreakpoint t.fn s.id then { s with stopped := false } else s }

/-- TEAM_DISCARD: the next thing that a discard does, when it can. -/
def execTeamDiscard (team : Nat) (s : State) : Outcome :=
  .next { s with dev :=
    match s.dev.team team with
    | none => s.dev
    | some t =>
      if t.pausing != some .discard || t.dying || !t.resident then s.dev
      else
        match s.dev.envOfTeam t with
        | none => s.dev
        | some env =>
          let shs := s.dev.shuttlesOf team
          if shs.all (fun x => !x.live || x.discardStopped) && !s.dev.chainOpen team then
            if s.dev.discardBusy t then s.dev else s.dev.finishDiscard t
          else if shs.any fun x => x.canRun t env.bolt.scode then s.dev
          else s.dev.wakeAll t }

/-! ## SLICE_END (R420, R421) -/

/-- Whether the running function's slice is over: a limited one without budget, an unlimited one after 256 units, or one
without work, while another function is eligible. -/
def Dev.sliceOver (d : Dev) (part fn : Nat) : Bool :=
  let other := ((List.range 4).map (4 * part + ·)).any fun g => g != fn && d.eligible g
  !(d.func fn).hasBudget || (other && (!d.hasWork fn || ((d.func fn).bref == 0xFFFFFFFF && decide ((d.part part).used ≥ 256))))

/-- The teams of a partition that are resident. -/
def Dev.residentIn (d : Dev) (part : Nat) : List Team := d.teams.filter fun t => partOf t.fn == part && t.resident

/-- A slice ends: every team of the outgoing function is discarded. -/
def Dev.endSlice (d : Dev) (part fn : Nat) : Dev :=
  let d := d.setPart part { d.part part with switching := true }
  ((d.residentIn part).filter fun t => t.fn == fn && !t.dying).foldl
    (fun d t => d.beginDiscard t.id) d

/-- SLICE_END: the end of a slice, and, once its teams are gone, the choice of the next function. -/
def execSliceEnd (part : Nat) (s : State) : Outcome :=
  .next { s with dev :=
    match (s.dev.part part).running with
    | none => s.dev.wakePartition part
    | some fn =>
      if (s.dev.part part).switching then
        if !(s.dev.residentIn part).isEmpty then s.dev
        else
          let d := s.dev.clearPartition part
          let next := d.nextFunction part fn
          d.setPart part
            { d.part part with running := next, used := 0, switching := false, last := some (next.getD fn) }
      else if s.dev.sliceOver part fn then s.dev.endSlice part fn
      else s.dev }

/-! ## TEAM_TERMINATION (R412) -/

/-- Whether an operand of an operation gets further: it waits for a fault, has pieces to read, has a turn at its STAGE entry or a slot
that wakes it, or finds a slot to pop. -/
def Dev.operandMoves (d : Dev) (t : Team) (o : MatOp) (sideB : Bool) (p : Operand) : Bool :=
  p.fault.isSome || !p.todo.isEmpty ||
    match p.handle with
    | none => false
    | some h =>
      (p.fetching && !d.fetchBehind o sideB h.stage &&
          (p.engine.isSome || ((p.waitNo.map fun n => d.wakes t h.stage true n).getD true))) ||
        (d.matFirst o && p.popsFrom h.stage && !d.stageBehind o h.stage && !(sideB && o.a.popsFrom h.stage) &&
          match t.bank h.stage with
          | some ⟨_, _, _, _, slots⟩ => !slots.isEmpty
          | none => false)

/-- Whether an operation of a team gets further: a move, one whose operands are there or come, or one behind another team's. -/
def Dev.opMoves (d : Dev) (t : Team) (o : MatOp) : Bool :=
  match o.kind with
  | .mma _ _ =>
    (o.a.ready && o.b.ready && d.matFirst o) || d.operandMoves t o false o.a || d.operandMoves t o true o.b ||
      o.cores.any fun c => ((d.matOn c).head?.map fun x => x.team != t.id).getD false
  | _ => true

/-- Whether a copy of a terminating team gets further. -/
def Dev.copyMoves (d : Dev) (t : Team) (c : CopyCmd) : Bool :=
  match c.status with
  | .fifoWait e => d.wakes t e (c.pushWaits e) ((c.waitAt.map (·.1)).getD 0)
  | _ => true

/-- Engine work of a terminating team that nothing can end is dropped: copies whose storage went with a discard, and, once nothing of
the team gets further, what waits at its banks (log 88). -/
def Dev.dropStuck (d : Dev) (t : Team) : Dev :=
  let mine := d.cmds.filter fun c => c.ofTeam t.id
  let ops := d.matOps.filter fun o => o.team == t.id
  if t.image == some .discarded then (mine.filter (·.usesStorage)).foldl (fun d c => d.dropCmd c) d
  else if mine.any (d.copyMoves t) || ops.any (d.opMoves t) then d
  else ops.foldl (fun d o => d.dropMat o) (mine.foldl (fun d c => d.dropCmd c) d)

/-- TEAM_TERMINATION: a stopped team ends once its accepted copies are done and its matrix operations have drained; with
the last team of its launch, the launch completes. -/
def execTeamTermination (team : Nat) (s : State) : Outcome :=
  .next { s with dev :=
    match s.dev.team team with
    | none => s.dev
    | some t =>
      if !t.dying then s.dev
      else
        let d := (s.dev.dropTeamTxns t).dropStuck t
        if d.cmds.any (fun c => c.ofTeam team) || d.matOps.any (fun o => o.team == team) then d
        else
          match d.launch t.launch with
          | none => (d.poisonTiles team).endTeam t
          | some l =>
            if d.launchHeld l then d
            else
              let d := (d.poisonTiles team).endTeam t
              if d.teams.any fun x => x.launch == l.id then d
              else (d.dropChains l.id).completeLaunch l (if l.checked then resFormat else resTerminated)
                (if l.checked then 0 else l.terminated.getD 0) }

end Sys2Proof.Machine
end

