-- ==== Sys2Proof/Machine/Loader.lean ====
section
/-!
DEFINITION. The bolt loader (spec/18 R401 to R403): BLOAD_LOAD and BLOAD_UNLOAD.
-/
namespace Sys2Proof.Machine

/-! ## Reading the image -/

/-- What reading some bytes of an image comes to. -/
inductive ImageRead where
  | bytes (bs : List Byte)
  | waits
  | faults
  deriving DecidableEq, Repr

/-- `n` pieces of 16 bytes from an address of context 0 on. -/
def Dev.imageRead (fn : Nat) : Nat → Nat → Dev → Dev × ImageRead
  | _, 0, d => (d, .bytes [])
  | va, n + 1, d =>
    if d.hubHeld fn 0 va 16 .load then (d, .waits)
    else
      match d.hubRead fn 0 va 16 with
      | (d, none) => (d, .faults)
      | (d, some v) =>
        match Dev.imageRead fn (va + 16) n d with
        | (d, .bytes bs) => (d, .bytes (leBytes 16 v ++ bs))
        | r => r

/-! ## The header (R401) -/

def boltMagic : Nat := 0x544C4F42

/-- Offset and size of section k of a header. -/
def sectionAt (hdr : List Byte) (k : Nat) : Nat × Nat := (word64At hdr (32 + 16 * k), word64At hdr (40 + 16 * k))

/-- The bytes of a section. -/
def sectionBytes (img : List Byte) (k : Nat) : List Byte := (img.drop (sectionAt img k).1).take (sectionAt img k).2

/-- The total size that a header gives. -/
def boltSize (hdr : List Byte) : Nat := word64At hdr 8

/-- Step 1: magic, version, number of nests and section bounds. -/
def boltHeaderOk (hdr : List Byte) : Bool :=
  word32At hdr 0 == boltMagic && word32At hdr 4 % 2 ^ 16 == 1 && decide (1 ≤ word32At hdr 4 / 2 ^ 16) &&
    decide (word32At hdr 4 / 2 ^ 16 ≤ 1024) && decide ((sectionAt hdr 5).2 ≥ 800) &&
    (List.range 6).all fun k =>
      (sectionAt hdr k).1 % 256 == 0 && decide ((sectionAt hdr k).1 + (sectionAt hdr k).2 ≤ boltSize hdr)

def boltNests (hdr : List Byte) : Nat := word32At hdr 4 / 2 ^ 16

/-! ## Signatures (steps 2 and 3) -/

/-- The bytes of segment k. -/
def segmentBytes (img : List Byte) (k : Nat) : List Byte :=
  if k == 0 then img.take 112 ++ sectionBytes img 0 else sectionBytes img k

/-- Signature block k. -/
def sigBlock (img : List Byte) (k : Nat) : List Byte := ((sectionBytes img 5).drop (160 * k)).take 160

def measurement (img : List Byte) (k : Nat) : List Byte := (sigBlock img k).take 48

def measuredOk (img : List Byte) : Bool := (List.range 5).all fun k => sha384 (segmentBytes img k) == measurement img k

/-- The key in a BKEY slot: x, then y. -/
def Func.boltKey (f : Func) (slot : Nat) : Nat := if slot < 8 then getK 0 f.bkey slot else 0

/-- Whether signature k verifies under the slot that it names. -/
def sigOk (f : Func) (img : List Byte) (k : Nat) : Bool :=
  let b := sigBlock img k
  let key := f.boltKey ((b.getD 144 0).toNat)
  key != 0 &&
    ecdsaVerify (key % 2 ^ 384) (key / 2 ^ 384) (beNat (measurement img k)) (leNat ((b.drop 48).take 48))
      (leNat ((b.drop 96).take 48))

/-! ## Descriptors (step 4) -/

/-- The limits of `.regs` (R12). -/
def regsOk (nv ns : Nat) : Bool :=
  nv % 8 == 0 && decide (8 ≤ nv) && decide (nv ≤ 768) && ns % 16 == 0 && decide (64 ≤ ns) && decide (ns ≤ 1008)

/-- The limits of a barrier entry (R81). -/
def barrierOk (nv ns : Nat) (b : BarrierDecl) : Bool :=
  decide (b.level < 4) && decide (b.id < 16) && (b.v0 > b.v1 || decide (b.v1 < nv)) && (b.s0 > b.s1 || decide (b.s1 < ns))

/-- The limits of an access entry (R325). -/
def accessOk (nstage : Nat) (a : AccessDecl) : Bool :=
  decide (a.stage < nstage) &&
    (a.dynamic ||
      (a.baseOff % 8 == 0 && decide (a.size ≤ 16) && decide (1 ≤ a.ndim) && decide (a.ndim ≤ 10) &&
        (List.range a.ndim).all fun k => bit a.argmask k || a.exts.getD k 0 != 0))

/-- Whether two of the access entries name one queue of a stage. -/
def accessTwice : List AccessDecl → Bool
  | [] => false
  | a :: as => as.any (fun b => a.stage == b.stage && a.queue == b.queue) || accessTwice as

/-- Whether a level's declaration and pin are within R81 and R169; with a `bperm`, a declared level has a pin (R168). The EXTENT,
UNIFORM and pin of a level that is not declared must be 0, an EXTENT of 1 too (DESIGN CHOICE, log 93: R81 and R402 do not say
what they hold). -/
def levelOk (bperm : Bool) (l : LevelDecl) : Bool :=
  (l.decl || (l.extent == 0 && l.pin == 0 && !l.uniform)) && !pinBad l.pin && (!(bperm && l.decl) || bit l.pin 7)

/-- Whether a table lies within its section. -/
def tableOk (sec : List Byte) (desc off size : Nat) : Bool :=
  decide (word64At sec (desc + off + 8) + size * word32At sec (desc + off) ≤ sec.length)

/-- Whether the zero fields of a descriptor are zero. -/
def descZeros (sec : List Byte) (desc : Nat) : Bool :=
  let fl := word32At sec desc
  let regs := word32At sec (desc + 4)
  fl / 2 ^ 16 == 0 && bits fl 11 10 == 0 && fl % 16 == 0 && regs / 2 ^ 26 == 0 && bits regs 15 10 == 0 &&
    word32At sec (desc + 68) / 2 ^ 24 == 0 && (((sec.drop (desc + 144)).take 112).all fun b => b == 0#8)

/-- The limits of a descriptor and its tables (R12, R81, R325, R402). -/
def nestOk (sec : List Byte) (desc : Nat) : Bool :=
  let n := nestAt sec desc
  decide (desc + 256 ≤ sec.length) && tableOk sec desc 80 8 && tableOk sec desc 96 12 && tableOk sec desc 112 8 &&
    tableOk sec desc 128 128 && descZeros sec desc && regsOk n.nv n.ns && decide (n.syncl ≤ 4) &&
    n.levels.all (levelOk n.bperm) && decide (n.tiles ≤ 32) && decide (n.scratchBanks + n.fifoBanks ≤ 14) &&
    (n.fifoBanks == 0 || geometryOk n.slotSize n.slotCount) &&
    (n.shared.all fun h =>
      decide (h.level < 4) && (n.level h.level).decl && decide (1 ≤ h.bytes) && decide (h.bytes ≤ 2 ^ 24)) &&
    n.barriers.all (barrierOk n.nv n.ns) &&
    (n.regions.all fun r => decide (r.id < 2 ^ 14) && (r.creg == noCreg || nameable n.ns r.creg)) &&
    n.access.all (accessOk n.nstage) && !accessTwice n.access

def nestsOk (img : List Byte) : Bool := (List.range (boltNests img)).all fun k => nestOk (sectionBytes img 0) (256 * k)

/-! ## The load -/

/-- The words of n bytes each of a section. -/
def wordsOfSection (n : Nat) (bs : List Byte) : List Nat := (piecesOf n bs.length bs).map leNat

/-- The bolt of an image. -/
def boltOf (addr : Nat) (img : List Byte) : Bolt :=
  { addr := addr, nnest := boltNests img, nestBase := (sectionAt img 0).1, nest := sectionBytes img 0,
    scode := wordsOfSection 4 (sectionBytes img 1), lcode := wordsOfSection 12 (sectionBytes img 2),
    size := (sectionAt img 0).2 + (sectionAt img 1).2 + (sectionAt img 2).2 }

/-- Step 5: room in the reserved area for the code sections, above the team-state areas. -/
def Dev.codeRoom (d : Dev) (fn size : Nat) : Bool :=
  let f := d.func fn
  let top := (d.areasOf fn).foldl (fun m a => max m (a.1 + a.2)) f.rsvb
  decide (top + f.codeStore + size ≤ d.reservedEnd fn)

/-- Where a write of the loader lies; none when it faults. -/
def Dev.loaderWrite (d : Dev) (fn va v : Nat) : Dev × Bool :=
  match d.hubLoc fn 0 va 8 .store with
  | (d, some l) => (d.homeWrite (d.keyFor fn l.keyid l.key) l.key (leBytes 8 v), true)
  | (d, none) => (d, false)

/-- Step 6: the patch records, in order; false when a write faults. -/
def Dev.patchBolt (fn data : Nat) : List (Nat × Nat) → Dev → Dev × Bool
  | [], d => (d, true)
  | (off, sym) :: ps, d =>
    match d.loaderWrite fn (data + off) (data + sym) with
    | (d, true) => Dev.patchBolt fn data ps d
    | r => r

/-- The patch records of an image. -/
def patchRecords (img : List Byte) : List (Nat × Nat) :=
  let sec := sectionBytes img 4
  (List.range (sec.length / 16)).map fun k => (word64At sec (16 * k), word64At sec (16 * k + 8))

/-- Whether a write of step 6 waits at its home. -/
def Dev.patchHeld (d : Dev) (fn data : Nat) (ps : List (Nat × Nat)) : Bool :=
  ps.any fun p => d.hubHeld fn 0 (data + p.1) 8 .store

/-- Step 7: ATT after the measurements of the five segments. -/
def attAfter (att : Nat) (img : List Byte) : Nat :=
  (List.range 5).foldl (fun a k => leNat (sha384 (leBytes 48 a ++ measurement img k))) att

/-- BLSTAT of an operation that has finished. -/
def Dev.setBlstat (d : Dev) (fn v : Nat) : Dev := d.setFunc fn { d.func fn with blstat := v }

/-- The checks of steps 1 to 5: the RESULT of the first that fails. -/
def Dev.boltCheck (d : Dev) (fn : Nat) (img : List Byte) : Option Nat :=
  if !boltHeaderOk img then some 1
  else if !measuredOk img then some 2
  else if !((List.range 5).all fun k => sigOk (d.func fn) img k) then some 3
  else if !nestsOk img then some 4
  else if !d.codeRoom fn (boltOf 0 img).size then some 5
  else none

/-- Steps 1 to 7 on an image that has been read; none when a patch waits. -/
def Dev.loadBolt (d : Dev) (fn addr : Nat) (img : List Byte) : Option Dev :=
  match d.boltCheck fn img with
  | some r => some (d.setBlstat fn (r * 2 ^ 16))
  | none =>
    let data := addr + (sectionAt img 3).1
    let ps := patchRecords img
    if d.patchHeld fn data ps then none
    else
      match Dev.patchBolt fn data ps d with
      | (d, false) => some (d.setBlstat fn (6 * 2 ^ 16))
      | (d, true) =>
        let f := d.func fn
        some (d.setFunc fn { f with
          att := attAfter f.att img, attn := f.attn + 5, blstat := boltNests img
          bolts := (f.bolts.filter fun b => b.addr != addr) ++ [boltOf addr img] })

/-- A load: the header first, then the rest of the image when the header passes; none while it waits. -/
def Dev.loadFrom (d : Dev) (fn addr : Nat) : Option Dev :=
  match Dev.imageRead fn addr 8 d with
  | (_, .waits) => none
  | (d, .faults) => some (d.setBlstat fn (6 * 2 ^ 16))
  | (d, .bytes hdr) =>
    if !boltHeaderOk hdr then some (d.setBlstat fn (2 ^ 16))
    else
      match Dev.imageRead fn addr ((boltSize hdr + 15) / 16) d with
      | (_, .waits) => none
      | (d, .faults) => some (d.setBlstat fn (6 * 2 ^ 16))
      | (d, .bytes img) => d.loadBolt fn addr (img.take (boltSize hdr))

/-- A BLOAD operation that waits: BUSY. -/
def boltWaits (s : State) (fn : Nat) (i : Instr) : Outcome :=
  waitFor { s with dev := s.dev.setBlstat fn (2 ^ 31) } i

/-- BLOAD_LOAD. -/
def execBloadLoad (fn addr : Nat) (s : State) : Outcome :=
  if !s.up || !s.dev.present fn then .next s
  else
    match s.dev.loadFrom fn addr with
    | some d => .next { s with dev := d }
    | none => boltWaits s fn (.bloadLoad fn addr)

/-- Whether a launch of a bolt is pending, held or running. -/
def Dev.boltUsed (d : Dev) (fn : Nat) (b : Bolt) : Bool :=
  d.launches.any fun l => l.fn == fn && (b.nestOffset l.desc).isSome

/-- BLOAD_UNLOAD. -/
def execBloadUnload (fn addr : Nat) (s : State) : Outcome :=
  if !s.up || !s.dev.present fn then .next s
  else
    let f := s.dev.func fn
    if f.bolts.any fun b => b.addr == addr && s.dev.boltUsed fn b then boltWaits s fn (.bloadUnload fn addr)
    else
      .next { s with dev := s.dev.setFunc fn { f with
        blstat := 0, bolts := f.bolts.filter fun b => b.addr != addr } }

end Sys2Proof.Machine
end

