-- ==== Sys2Proof/Machine/Registers.lean ====
section
/-!
DEFINITION. The privileged registers of the functions and of the partitions (spec/20 R414 to R419, R427, R429, R457; spec/12
R252, R253, R264, R265; spec/18 R389, R404; spec/22 R436, R446, R447), as software writes and reads them.
-/
namespace Sys2Proof.Machine

/-! ## Words of a wide register -/

/-- 64-bit word k of a value, and the value with that word replaced. -/
def wordOf (v k : Nat) : Nat := v / 2 ^ (64 * k) % 2 ^ 64
def withWord (v k w : Nat) : Nat := v - wordOf v k * 2 ^ (64 * k) + w % 2 ^ 64 * 2 ^ (64 * k)

/-! ## L2BM, HSEED and TINV (R252, R253, R264, R265) -/

/-- The value that L2BM has once the changes before are done. -/
def Func.nextL2bm (f : Func) : Nat :=
  f.remap.foldl (fun v c => match c with
    | .l2bm x => x
    | .hseed _ _ => v) f.l2bm

/-- A write to L2BM: a bit of a bank outside the partition's 8 K makes it ignored. -/
def Dev.writeL2bm (d : Dev) (fn v : Nat) : Dev :=
  if v / 2 ^ (8 * pdK (d.part (partOf fn)).pdesc) != 0 then d
  else
    let f := d.func fn
    d.setFunc fn { f with remap := f.remap ++ [.l2bm v] }

def Dev.writeHseed (d : Dev) (fn i v : Nat) : Dev :=
  let f := d.func fn
  d.setFunc fn { f with remap := f.remap ++ [.hseed i (v % 2 ^ 64)] }

/-- The first change takes effect; accesses that it held go on. -/
def Func.applyRemap (f : Func) : Func :=
  match f.remap with
  | [] => f
  | .l2bm v :: cs => { f with remap := cs, l2bm := v }
  | .hseed i v :: cs => { f with remap := cs, hseed := putK 0 f.hseed i v }

/-- L2BM_WRITE, HSEED_WRITE and L2_REMAP_COMPLETE. -/
def execL2bmWrite (fn v : Nat) (s : State) : Outcome := onDev s fn fun d => d.writeL2bm fn v
def execHseedWrite (fn i v : Nat) (s : State) : Outcome :=
  onDev s fn fun d => if i < 64 then d.writeHseed fn i v else d
def execL2RemapComplete (fn : Nat) (s : State) : Outcome :=
  .next { s with dev := s.dev.setFunc fn (s.dev.func fn).applyRemap }

/-- Whether a TINV value is reserved (R264). SCOPE 1 with STAGE 1 counts as a reserved value (DESIGN CHOICE, log 93: the rule says
'stage 1 only' and not what such a write does). -/
def tinvReserved (v : Nat) : Bool :=
  v ≥ 2 ^ 56 || bits v 5 3 != 0 || v % 4 == 3 || (v % 4 == 1 && bit v 2)

def Dev.writeTinv (d : Dev) (fn v : Nat) : Dev :=
  if tinvReserved v then d
  else
    let f := d.func fn
    d.setFunc fn { f with tinv := f.tinv ++ [v] }

/-- Whether an invalidation names translations of a context. -/
def tinvNames (v ctx : Nat) : Bool := v % 4 == 2 || bit v 2 || bits v 11 6 == ctx

/-- Whether an access has been translated and has not been performed, or its value has not returned (R265). -/
def Access.translated (a : Access) : Bool :=
  match a.status with
  | .home _ => true
  | .arrived _ => a.dst != .stream
  | _ => false

/-- Whether accesses translated under what an invalidation names are still to be performed or to return their values: accesses,
the logs of open attempts, whose writes their commit performs, and segments of copies (R265). -/
def Dev.tinvWaits (d : Dev) (fn v : Nat) : Bool :=
  (d.shuttles.any fun s =>
    (s.accs.any Access.translated || s.txns.any fun t => t.active && !t.log.isEmpty) &&
      match d.env s with
      | some env => env.launch.fn == fn && tinvNames v env.launch.ctx
      | none => false) ||
    d.cmds.any fun c => c.fn == fn && !c.held.isEmpty && tinvNames v c.ctx

/-- The first invalidation of a function completes: no cached translation that it names is left. -/
def Dev.completeTinv (d : Dev) (fn : Nat) : Dev :=
  let f := d.func fn
  match f.tinv with
  | [] => d
  | v :: vs =>
    if d.tinvWaits fn v then d
    else { d with tlb := d.tlb.filter fun t => !(t.fn == fn && tinvNames v t.ctx) }.setFunc fn { f with tinv := vs }

/-- TINV_WRITE and TINV_COMPLETE. -/
def execTinvWrite (fn v : Nat) (s : State) : Outcome := onDev s fn fun d => d.writeTinv fn v
def execTinvComplete (fn : Nat) (s : State) : Outcome := .next { s with dev := s.dev.completeTinv fn }

/-! ## Memory shares (R418) -/

/-- Whether two shares overlap. -/
def sharesMeet (b n b' n' : Nat) : Bool := decide (b < b' + n') && decide (b' < b + n) && n != 0 && n' != 0

/-- Whether a share would overlap that of another function of the partition. -/
def Dev.shareClash (d : Dev) (fn base size : Nat) : Bool :=
  (List.range 4).any fun i =>
    let g := 4 * partOf fn + i
    g != fn && sharesMeet base size (d.func g).memb (d.func g).mems

def Dev.writeShare (d : Dev) (fn : Nat) (size : Bool) (v : Nat) : Dev :=
  let f := d.func fn
  let b := if size then f.memb else v
  let n := if size then v else f.mems
  if v % 2 ^ 30 != 0 || v ≥ 2 ^ 64 || d.shareClash fn b n then d else d.setFunc fn { f with memb := b, mems := n }

/-- MEM_SHARE_WRITE. -/
def execMemShareWrite (fn : Nat) (size : Bool) (v : Nat) (s : State) : Outcome :=
  onDev s fn fun d => d.writeShare fn size v

/-! ## Quotas (R404) -/

/-- The resources of R404: what a function has, the device total and the field. -/
def quotaOf (f : Func) : Nat → Nat
  | 0 => f.qq
  | 1 => f.rq
  | 2 => f.pq
  | 3 => f.tq
  | 4 => f.cq
  | 5 => f.sq
  | 6 => f.wq
  | _ => f.fq

/-- Bits of a quota register. -/
def quotaBits : List Nat := [11, 13, 13, 1, 12, 10, 14, 17]

/-- Device totals; TQ has none. -/
def quotaTotals : List Nat := [1024, 4096, 4096, 48, 2048, 512, 8192, 65536]

def Func.setQuota (f : Func) (k v : Nat) : Func :=
  match k with
  | 0 => { f with qq := v }
  | 1 => { f with rq := v }
  | 2 => { f with pq := v }
  | 3 => { f with tq := v }
  | 4 => { f with cq := v }
  | 5 => { f with sq := v }
  | 6 => { f with wq := v }
  | _ => { f with fq := v }

/-- A write of a quota: ignored when the sum over all functions would exceed the total. -/
def Dev.writeQuota (d : Dev) (fn k v : Nat) : Dev :=
  let v := v % 2 ^ quotaBits.getD k 0
  let others := (List.range Config.numFuncs).foldl (fun n g => if g == fn then n else n + quotaOf (d.func g) k) 0
  if others + v > quotaTotals.getD k 0 then d
  else
    let f := (d.func fn).setQuota k v
    (d.setFunc fn f).flushFaults fn f.faults.length

/-! ## Budgets (R419) -/

/-- BCAP as it acts. -/
def capOf (v : Nat) : Nat := if v == 0 then 1 else if v > 8 then 8 else v

/-- A refill. -/
def Dev.refill (d : Dev) (fn : Nat) : Dev :=
  let f := d.func fn
  if f.bref == 0xFFFFFFFF then d
  else d.setFunc fn { f with bbal := min (f.bbal + f.bref) ((capOf f.bcap * f.bref : Nat) : Int) }

/-- BCMD_REFILL. -/
def execBcmdRefill (fn : Nat) (s : State) : Outcome := onDev s fn fun d => d.refill fn

/-- Whether a core or a copy engine works for a function. -/
def Dev.usesUnits (d : Dev) (fn : Nat) : Bool :=
  (d.teams.any fun t => t.fn == fn && (t.resident || d.matOps.any fun o =>
      o.team == t.id && (o.a.engine.isSome || o.b.engine.isSome))) ||
    d.cmds.any fun c => c.fn == fn && match c.status with
      | .running _ => true
      | _ => false

/-- One unit counted for a function, and charged unless it is unlimited. -/
def Dev.chargeUnit (d : Dev) (fn : Nat) : Dev :=
  let f := d.func fn
  let p := d.part (partOf fn)
  let d := d.setFunc fn { f with
    bused := (f.bused + 1) % 2 ^ 64, bbal := if f.bref == 0xFFFFFFFF then f.bbal else f.bbal - 1 }
  if p.running == some fn then d.setPart (partOf fn) { p with used := p.used + 1 } else d

/-- BUDGET_UNIT_CHARGE. -/
def execBudgetUnitCharge (fn : Nat) (s : State) : Outcome :=
  .next { s with dev := if s.dev.usesUnits fn then s.dev.chargeUnit fn else s.dev }

/-! ## The rings (R414, R415) -/

/-- A base of a ring is aligned to 4,096. -/
def ringBase (old v : Nat) : Nat := if v % 4096 == 0 then v % 2 ^ 64 else old

def Dev.writeErrs (d : Dev) (fn v : Nat) : Dev := d.setFunc fn { d.func fn with errs := v % 2 ^ 64, errh := 0, errt := 0 }

def Dev.writeFqs (d : Dev) (fn v : Nat) : Dev :=
  let f := Func.forgetRing { d.func fn with fqs := v % 2 ^ 64, fqh := 0, fqt := 0 }
  (d.setFunc fn f).flushFaults fn f.faults.length

def Dev.writeFqh (d : Dev) (fn v : Nat) : Dev :=
  let f := d.func fn
  if v ≥ f.fqs then d else (d.setFunc fn (Func.forgetRing { f with fqh := v })).flushFaults fn f.faults.length

def Dev.writeErrh (d : Dev) (fn v : Nat) : Dev :=
  let f := d.func fn
  if v ≥ f.errs then d else d.setFunc fn { f with errh := v }

/-- ERRS_WRITE and FQS_WRITE. -/
def execErrsWrite (fn v : Nat) (s : State) : Outcome := onDev s fn fun d => d.writeErrs fn v
def execFqsWrite (fn v : Nat) (s : State) : Outcome := onDev s fn fun d => d.writeFqs fn v

/-! ## Keys (R446) -/

/-- A change of a slot begins: accesses to lines of the slot are held until it is done. -/
def Dev.changeKey (d : Dev) (fn slot : Nat) (k : Key) : Dev :=
  let f := d.func fn
  d.setFunc fn { f with keyChange := f.keyChange ++ [(slot, k)] }

/-- A key drawn from the random source: a new number names the draw. -/
def Dev.drawKey (d : Dev) (fn slot : Nat) : Dev :=
  { d with nextId := d.nextId + 1 }.changeKey fn slot (.drawn d.nextId fn slot)

/-- KEYCTL_LOAD and KEYCTL_DRAW. -/
def execKeyctlLoad (fn slot : Nat) (s : State) : Outcome :=
  onDev s fn fun d => if slot < 32 then d.changeKey fn slot (.loaded (d.func fn).keydata) else d
def execKeyctlDraw (fn slot : Nat) (s : State) : Outcome :=
  onDev s fn fun d => if slot < 32 then d.drawKey fn slot else d

/-- The slot takes its new key; no cluster keeps a copy of a line under that slot. -/
def Dev.completeKey (d : Dev) (fn : Nat) : Dev :=
  let f := d.func fn
  match f.keyChange with
  | [] => d
  | (slot, k) :: cs =>
    { d with l1 := d.l1.filter fun c => c.keyid != slot }.setFunc fn
      { f with keyChange := cs, keys := (slot, k) :: f.keys.filter fun x => x.1 != slot }

/-- KEY_SLOT_CHANGE_COMPLETE. -/
def execKeySlotChangeComplete (fn : Nat) (s : State) : Outcome := .next { s with dev := s.dev.completeKey fn }

/-- KEYSTAT: BUSY, and the slots that hold a key that the tenant loaded. -/
def Func.keystat (f : Func) : Nat :=
  (if f.keyChange.isEmpty then 0 else 2 ^ 63) +
    (List.range 32).foldl
      (fun n j => match f.keys.find? fun x => x.1 == j with
        | some (_, .loaded _) => n + 2 ^ j
        | _ => n) 0

/-! ## The fabric window (R436) -/

/-- A write to FDOM, ignored when another function has the domain. -/
def Dev.writeFdom (d : Dev) (fn v : Nat) : Dev :=
  let v := v % 2 ^ 16
  if v != 0 && (List.range Config.numFuncs).any fun g => g != fn && (d.func g).fdom == v then d
  else d.setFunc fn { d.func fn with fdom := v }

/-- FDOM_WRITE. -/
def execFdomWrite (fn v : Nat) (s : State) : Outcome := onDev s fn fun d => d.writeFdom fn v

/-- Whether MBS may hold a value. -/
def mbsOk (v : Nat) : Bool := v == 0 || (decide (v ≤ 4096) && v == 2 ^ Nat.log2 v)

/-! ## Partitions (R417) -/

/-- The slices of a partition. -/
def slicesOf (v : Nat) : List Nat := (List.range (pdK v)).map (pdFirst v + ·)

/-- The conditions under which a write that sets VALID takes effect. -/
def Dev.pdescOk (d : Dev) (p v : Nat) : Bool :=
  let others := ((List.range Config.numParts).filter fun q => q != p).map fun q => (d.part q).pdesc
  let valid := others.filter pdValid
  [1, 2, 3, 4, 6, 12].contains (pdK v) && pdFirst v % pdK v == 0 && decide (pdFirst v + pdK v ≤ 12) &&
    valid.all fun w => (slicesOf v).all (fun x => !(slicesOf w).contains x) && (v &&& w) % 2 ^ 48 == 0

/-- Whether a function of a partition has a bound queue, a resident or saved team, or a loaded bolt. -/
def Dev.partBusy (d : Dev) (p : Nat) : Bool :=
  d.queues.any (fun q => partOf q.fn == p) ||
    d.teams.any (fun t => partOf t.fn == p && (t.resident || t.image == some .saved)) ||
    (List.range 4).any fun i => !(d.func (4 * p + i)).bolts.isEmpty

/-- The TW2 maps of the cores of some slices return to reset: the cores pass to other functions (R129). -/
def Dev.resetMaps (d : Dev) (slices : List Nat) : Dev :=
  { d with tw2m := d.tw2m.filter fun m => !slices.contains (m.1 / 8 / Config.coresPerCluster / 3) }

/-- The slices that a partition with a descriptor owns: none while VALID is clear. -/
def validSlices (v : Nat) : List Nat := if pdValid v then slicesOf v else []

/-- A write to PDESC or PDESCX; the maps of the cores that leave or join a valid partition reset (R62). -/
def Dev.writePdesc (d : Dev) (p : Nat) (ext : Bool) (v : Nat) : Dev :=
  let x := d.part p
  if pdValid x.pdesc && d.partBusy p then d
  else if ext then
    if v ≥ 2 ^ 24 || bits v 19 16 != 0 then d else d.setPart p { x with pdescx := v }
  else if v ≥ 2 ^ 64 || bits v 62 60 != 0 || bits v 49 48 != 0 || (pdValid v && !d.pdescOk p v) then d
  else (d.resetMaps (validSlices x.pdesc ++ validSlices v)).setPart p { x with pdesc := v, running := none, used := 0, last := none }

/-- PDESC_WRITE. -/
def execPdescWrite (p : Nat) (ext : Bool) (v : Nat) (s : State) : Outcome :=
  onUp s fun d => if p < Config.numParts then d.writePdesc p ext v else d

/-! ## The register space of a function (R418) -/

/-- A write of the 32-bit registers of PLB (R427) by one of their 64-bit words. -/
def Func.writePlb (f : Func) (i v : Nat) : Func := { f with plb := putK 0xFFFFFFFF f.plb i (v % 2 ^ 32) }

/-- A write of an aligned 64-bit word of the space, by its offset; write-only, read-only and unlisted words that need no
more than this have no effect. An S2ROOT or S1ROOT keeps bits 51:12 of its ADDR and the walk goes from there, though its table be
larger and ADDR not aligned to it (DESIGN CHOICE, log 79: R257 gives no outcome). -/
def Dev.writeWord (d : Dev) (fn off v : Nat) : Dev :=
  let f := d.func fn
  if off == 0x000 then d.writeL2bm fn (withWord f.nextL2bm 0 v)
  else if off == 0x008 then d.writeL2bm fn (withWord f.nextL2bm 1 v)
  else if off == 0x010 then d.writeTinv fn v
  else if off == 0x018 then d.writeShare fn false v
  else if off == 0x020 then d.writeShare fn true v
  else if off == 0x028 then d.setFunc fn { f with s2root := bits v 51 12 * 4096 + v % 2 }
  else if off == 0x030 then if v % 2 ^ 21 == 0 then d.setFunc fn { f with rsvb := v } else d
  else if off == 0x038 then if v % 2 ^ 21 == 0 then d.setFunc fn { f with rsvs := v } else d
  else if off == 0x050 then d.setFunc fn { f with nlim := v % 16 }
  else if off == 0x068 then d.setFunc fn { f with dbgen := v % 2 }
  else if 0x070 ≤ off && off ≤ 0x0A8 then d.writeQuota fn ((off - 0x070) / 8) v
  else if off == 0x0B0 then d.setFunc fn { f with bref := v % 2 ^ 32 }
  else if off == 0x0B8 then d.setFunc fn { f with bcap := v % 16 }
  else if off == 0x0C8 then if v % 2 == 1 then d.refill fn else d
  else if 0x0D8 ≤ off && off ≤ 0x0F0 then
    d.setFunc fn ((f.writePlb ((off - 0x0D8) / 4) v).writePlb ((off - 0x0D8) / 4 + 1) (v / 2 ^ 32))
  else if off == 0x100 then
    d.setFunc fn { f with
      fqb := ringBase f.fqb v
      faults := if ringBase f.fqb v == f.fqb then f.faults else f.faults.map fun e => { e with ring := none } }
  else if off == 0x108 then d.writeFqs fn v
  else if off == 0x110 then d.writeFqh fn v
  else if off == 0x128 then d.setFunc fn { f with errb := ringBase f.errb v }
  else if off == 0x130 then d.writeErrs fn v
  else if off == 0x138 then d.writeErrh fn v
  else if 0x200 ≤ off && off < 0x400 then d.writeHseed fn ((off - 0x200) / 8) v
  else if 0x400 ≤ off && off < 0x600 then
    d.setFunc fn { f with s1root := putK 0 f.s1root ((off - 0x400) / 8) (bits v 51 12 * 4096 + v % 2) }
  else if 0x600 ≤ off && off < 0x900 then
    let j := (off - 0x600) / 96
    d.setFunc fn { f with bkey := putK 0 f.bkey j (withWord (getK 0 f.bkey j) ((off - 0x600) % 96 / 8) v) }
  else if off == 0x900 then
    if bits v 9 8 == 0 then d.changeKey fn (v % 32) (.loaded f.keydata)
    else if bits v 9 8 == 1 then d.drawKey fn (v % 32)
    else d
  else if 0x940 ≤ off && off < 0x980 then d.setFunc fn { f with keydata := withWord f.keydata ((off - 0x940) / 8) v }
  else if off == 0xA00 then d.writeFdom fn v
  else if off == 0xA08 then d.setFunc fn { f with fctx := v % 64 }
  else if off == 0xA10 then if v % 4096 == 0 then d.setFunc fn { f with mbb := v % 2 ^ 56 } else d
  else if off == 0xA18 then if mbsOk (v % 2 ^ 13) then d.setFunc fn { f with mbs := v % 2 ^ 13 } else d
  else if 0xA80 ≤ off && off < 0xB00 then d.setFunc fn { f with fwmask := withWord f.fwmask ((off - 0xA80) / 8) v }
  else d

/-- A signed 64-bit register. -/
def wordOfInt (v : Int) : Nat := (v % 2 ^ 64).toNat

/-- The aligned 64-bit word of the space at an offset. -/
def Dev.readWord (d : Dev) (fn off : Nat) : Nat :=
  let f := d.func fn
  if !d.present fn then 0
  else if off == 0x000 then wordOf f.l2bm 0
  else if off == 0x008 then wordOf f.l2bm 1
  else if off == 0x010 then if f.tinv.isEmpty then 0 else 1
  else if off == 0x018 then f.memb
  else if off == 0x020 then f.mems
  else if off == 0x028 then f.s2root
  else if off == 0x030 then f.rsvb
  else if off == 0x038 then f.rsvs
  else if off == 0x048 then f.qbstat
  else if off == 0x050 then f.nlim
  else if off == 0x060 then f.blstat
  else if off == 0x068 then f.dbgen
  else if 0x070 ≤ off && off ≤ 0x0A8 then quotaOf f ((off - 0x070) / 8)
  else if off == 0x0B0 then f.bref
  else if off == 0x0B8 then f.bcap
  else if off == 0x0C0 then wordOfInt f.bbal
  else if off == 0x0D0 then f.bused
  else if 0x0D8 ≤ off && off ≤ 0x0F0 then
    getK 0xFFFFFFFF f.plb ((off - 0x0D8) / 4) + 2 ^ 32 * getK 0xFFFFFFFF f.plb ((off - 0x0D8) / 4 + 1)
  else if off == 0x100 then f.fqb
  else if off == 0x108 then f.fqs
  else if off == 0x110 then f.fqh
  else if off == 0x118 then f.fqt
  else if off == 0x128 then f.errb
  else if off == 0x130 then f.errs
  else if off == 0x138 then f.errh
  else if off == 0x140 then f.errt
  else if off == 0x148 then f.errlost
  else if 0x200 ≤ off && off < 0x400 then getK 0 f.hseed ((off - 0x200) / 8)
  else if 0x400 ≤ off && off < 0x600 then getK 0 f.s1root ((off - 0x400) / 8)
  else if 0x600 ≤ off && off < 0x900 then wordOf (getK 0 f.bkey ((off - 0x600) / 96)) ((off - 0x600) % 96 / 8)
  else if off == 0x908 then f.keystat
  else if 0x980 ≤ off && off < 0x9B0 then wordOf f.att ((off - 0x980) / 8)
  else if off == 0x9B0 then f.attn
  else if off == 0xA00 then f.fdom
  else if off == 0xA08 then f.fctx
  else if off == 0xA10 then f.mbb
  else if off == 0xA18 then f.mbs
  else if off == 0xA20 then f.mbdrop
  else if 0xA80 ≤ off && off < 0xB00 then wordOf f.fwmask ((off - 0xA80) / 8)
  else 0

/-- A write of an aligned 64-bit word of a function's space: QBIND, BLOAD and FQRES start what they name. -/
def State.writeSpace (s : State) (fn off v : Nat) : Outcome :=
  if off == 0x040 then
    if bits v 11 10 == 0 then execQbindBind fn (v / 4096 * 4096) (v % 1024) s
    else if bits v 11 10 == 1 then execQbindUnbind fn (v % 1024) s
    else .next s
  else if off == 0x058 then
    if v % 4 == 0 then execBloadLoad fn (bits v 55 12 * 4096) s
    else if v % 4 == 1 then execBloadUnload fn (bits v 55 12 * 4096) s
    else .next s
  else if off == 0x120 then
    if v % 4 == 0 then execFqresReplay fn (v / 256) s
    else if v % 4 == 1 then execFqresUnrecoverable fn (v / 256) s
    else .next s
  else onDev s fn fun d => d.writeWord fn off v

/-! ## The partition page (R417, R429, R444) -/

/-- PWRSTAT (R453). -/
def Board.pwrstat (b : Board) : Nat := b.clock + 2 ^ 8 * b.causes + (if b.d3refused then 2 ^ 16 else 0)

/-- A register whose place the manual does not give: PWRSTAT, and SOFTERR by its order, by the places that it has in an
area. -/
def State.statIn (s : State) (place : Nat → Nat) (off : Nat) : Nat :=
  match (List.range 11).find? fun k => place k == off with
  | none => 0
  | some 0 => s.board.pwrstat
  | some (k + 1) => getK 0 s.board.softerr k

/-- Those registers in the partition page, and in the PF's BAR0 (R440). -/
def State.statAt (s : State) (off : Nat) : Nat := s.statIn Config.statOffset off
def State.pfWord (s : State) (off : Nat) : Nat := s.statIn Config.pfOffset off

/-- The aligned 64-bit word of the partition page at an offset. -/
def State.readPage (s : State) (off : Nat) : Nat :=
  if off < 16 * Config.numParts then
    let x := s.dev.part (off / 16)
    if off % 16 == 0 then x.pdesc else x.pdescx
  else if off == 0x100 then s.dev.smode
  else s.statAt off

/-- A write of an aligned 64-bit word of the partition page. -/
def State.writePage (s : State) (off v : Nat) : Outcome :=
  onUp s fun d =>
    if off < 16 * Config.numParts then d.writePdesc (off / 16) (off % 16 == 8) v
    else if off == 0x100 then { d with smode := v % 2 }
    else d

/-- Where the two register areas lie in the firmware complex's map. -/
def spaceBase : Nat := 0x3E0000000
def pageBase : Nat := 0x3F0000000

/-- A write of an aligned 64-bit register word. -/
def State.writeRegWord (s : State) (addr v : Nat) : Outcome :=
  if spaceBase ≤ addr && addr < spaceBase + 0x1000 * Config.numFuncs then
    s.writeSpace ((addr - spaceBase) / 0x1000) ((addr - spaceBase) % 0x1000) v
  else if pageBase ≤ addr && addr < pageBase + 0x1000 then s.writePage (addr - pageBase) v
  else .next s

/-- An aligned 64-bit register word. -/
def State.readRegWord (s : State) (addr : Nat) : Nat :=
  if spaceBase ≤ addr && addr < spaceBase + 0x1000 * Config.numFuncs then
    s.dev.readWord ((addr - spaceBase) / 0x1000) ((addr - spaceBase) % 0x1000)
  else if pageBase ≤ addr && addr < pageBase + 0x1000 then s.readPage (addr - pageBase)
  else 0

/-- A write narrower than its word replaces its part of what the word reads as. -/
def State.writeReg (s : State) (addr size v : Nat) : Outcome :=
  if size ≥ 8 then s.writeRegWord (addr / 8 * 8) (v % 2 ^ 64)
  else
    let old := leBytes 8 (s.readRegWord (addr / 8 * 8))
    let k := addr % 8
    s.writeRegWord (addr / 8 * 8) (leNat (old.take k ++ leBytes size v ++ old.drop (k + size)))

/-- REGISTER_WRITE: of 32 bits at PLB0 to PLB7, and of 64 bits elsewhere. -/
def execRegisterWrite (addr v : Nat) (s : State) : Outcome :=
  let off := addr % 0x1000
  if spaceBase ≤ addr && addr < spaceBase + 0x1000 * Config.numFuncs && 0x0D8 ≤ off && off < 0x0F8 then
    s.writeReg (addr / 4 * 4) 4 v
  else s.writeReg (addr / 8 * 8) 8 v

end Sys2Proof.Machine
end

