-- ==== Sys2Proof/Machine/Harts.lean ====
section
/-!
DEFINITION. The firmware harts (spec/22 R444, R445): their loads, stores and fetches through PMP and Sv48 paging, their control
registers, exceptions, interrupts and modes. The manual names RV64GC and the RISC-V privileged architecture and does not give
them: layouts and entries are that family's (log 7).
-/
namespace Sys2Proof.Machine

/-! ## PMP (log 7) -/

def pmpCfg (h : Hart) (i : Nat) : Nat := getK 0 h.pmpcfg i
def pmpAddr (h : Hart) (i : Nat) : Nat := getK 0 h.pmpaddr i

/-- The ones at the low end of a number of at most n bits. -/
def lowOnes : Nat → Nat → Nat
  | 0, _ => 0
  | n + 1, v => if v % 2 == 1 then 1 + lowOnes n (v / 2) else 0

/-- The range of an entry: off, top of range, 4 bytes, or a power of two. -/
def pmpRange (h : Hart) (i : Nat) : Option (Nat × Nat) :=
  let a := pmpAddr h i
  let mode := bits (pmpCfg h i) 4 3
  if mode == 0 then none
  else if mode == 1 then some (if i == 0 then 0 else 4 * pmpAddr h (i - 1), 4 * a)
  else if mode == 2 then some (4 * a, 4 * a + 4)
  else
    let k := lowOnes 54 a
    let lo := 4 * (a / 2 ^ (k + 1) * 2 ^ (k + 1))
    some (lo, lo + 8 * 2 ^ k)

/-- The first entry that matches a byte of an access. -/
def pmpMatch (h : Hart) (a n : Nat) : Option (Nat × Nat × Nat) :=
  (List.range 16).findSome? fun i =>
    match pmpRange h i with
    | some (lo, hi) => if lo < a + n && a < hi then some (i, lo, hi) else none
    | none => none

/-- What an access is for. -/
inductive HartUse where
  | load
  | store
  | fetch
  deriving DecidableEq, Repr

def useOf (write : Bool) : HartUse := if write then .store else .load

/-- Whether the PMP entries allow an access in a mode. -/
def Hart.allowedIn (h : Hart) (mode : HartMode) (a n : Nat) (use : HartUse) : Bool :=
  match pmpMatch h a n with
  | none => mode == .m
  | some (i, lo, hi) =>
    let c := pmpCfg h i
    decide (lo ≤ a) && decide (a + n ≤ hi) && ((mode == .m && !bit c 7) ||
      (match use with
        | .load => bit c 0
        | .store => bit c 1
        | .fetch => bit c 2))

/-! ## mstatus and the modes (log 7) -/

def HartMode.code : HartMode → Nat
  | .u => 0
  | .s => 1
  | .m => 3

def modeOf (c : Nat) : HartMode := if c == 3 then .m else if c == 1 then .s else .u

/-- A field of a status word replaced. -/
def putBits (v hi lo x : Nat) : Nat := v - bits v hi lo * 2 ^ lo + x % 2 ^ (hi + 1 - lo) * 2 ^ lo

/-- The mode in which a hart's loads and stores are made: with MPRV, that of MPP. -/
def Hart.dataMode (h : Hart) : HartMode :=
  if h.mode == .m && bit h.mstatus 17 then modeOf (bits h.mstatus 12 11) else h.mode

/-- Whether the PMP entries allow a load or store. -/
def Hart.allowed (h : Hart) (a n : Nat) (write : Bool) : Bool := h.allowedIn h.dataMode a n (useOf write)

/-- mstatus after an entry to M mode: MPIE takes MIE, MIE clears and MPP takes the mode. -/
def mstatusEntered (v mode : Nat) : Nat :=
  v - bits v 12 11 * 2 ^ 11 - bits v 7 7 * 2 ^ 7 - bits v 3 3 * 2 ^ 3 + mode * 2 ^ 11 + bits v 3 3 * 2 ^ 7

/-- mstatus after an entry to S mode: SPIE takes SIE, SIE clears and SPP takes the mode. -/
def sstatusEntered (v mode : Nat) : Nat := putBits (putBits (putBits v 5 5 (bits v 1 1)) 1 1 0) 8 8 mode

/-! ## Exceptions and returns from them (log 7) -/

/-- An exception: taken in S mode when it is delegated and the hart is not in M mode, else in M mode. -/
def Hart.take (h : Hart) (cause tval : Nat) : Hart :=
  if h.mode != .m && bit h.medeleg cause then
    { h with
      sepc := h.pc, scause := cause, stval := tval, mstatus := sstatusEntered h.mstatus h.mode.code, mode := .s,
      pc := h.stvec / 4 * 4 }
  else
    { h with
      mepc := h.pc, mcause := cause, mtval := tval, mstatus := mstatusEntered h.mstatus h.mode.code, mode := .m,
      pc := h.mtvec / 4 * 4 }

/-- A load or store access fault. -/
def Hart.accessFault (h : Hart) (a : Nat) (write : Bool) : Hart := h.take (if write then 7 else 5) a

/-- A load or store page fault. -/
def Hart.pageFault (h : Hart) (a : Nat) (write : Bool) : Hart := h.take (if write then 15 else 13) a

/-- The fault of an access: an access fault, or a page fault. -/
def Hart.denied (h : Hart) (page : Bool) (va : Nat) : HartUse → Hart
  | .load => h.take (if page then 13 else 5) va
  | .store => h.take (if page then 15 else 7) va
  | .fetch => h.take (if page then 12 else 1) va

/-! ### Interrupts -/

/-- The pending interrupts that are enabled, by mip and mie. -/
def Hart.pending (h : Hart) : Nat := getK 0 h.csrs 0x344 &&& getK 0 h.csrs 0x304

/-- Whether an interrupt goes to S mode, by mideleg. -/
def Hart.toS (h : Hart) (c : Nat) : Bool := bit (getK 0 h.csrs 0x303) c

/-- Whether the mode lets an interrupt be taken. -/
def Hart.takes (h : Hart) (c : Nat) : Bool :=
  if h.toS c then h.mode == .u || (h.mode == .s && bit h.mstatus 1) else h.mode != .m || bit h.mstatus 3

/-- The interrupt that a hart takes next: those of M mode first, external, software, timer. -/
def Hart.nextInterrupt (h : Hart) : Option Nat :=
  let ready := [11, 3, 7, 9, 1, 5].filter fun c => bit h.pending c && h.takes c
  (ready.filter fun c => !h.toS c).head?.or ready.head?

/-- The handler's address of an interrupt, vectored or not. -/
def interruptVector (tvec c : Nat) : Nat := (tvec / 4 * 4 + if tvec % 4 == 1 then 4 * c else 0) % 2 ^ 64

/-- A hart takes its next interrupt, if there is one. -/
def Hart.interrupted (h : Hart) : Hart :=
  match h.nextInterrupt with
  | none => h
  | some c =>
    if h.toS c then
      { h with
        sepc := h.pc, scause := 2 ^ 63 + c, stval := 0, mstatus := sstatusEntered h.mstatus h.mode.code, mode := .s,
        pc := interruptVector h.stvec c }
    else
      { h with
        mepc := h.pc, mcause := 2 ^ 63 + c, mtval := 0, mstatus := mstatusEntered h.mstatus h.mode.code, mode := .m,
        pc := interruptVector h.mtvec c }

/-- An interrupt becomes pending, or is no longer. -/
def Hart.pend (h : Hart) (c : Nat) (on : Bool) : Hart :=
  if c ≥ 64 then h
  else { h with csrs := putK 0 h.csrs 0x344 (putBits (getK 0 h.csrs 0x344) c c (if on then 1 else 0)) }

/-! ### Returns -/

/-- A return from an exception; one that the mode may not make is an illegal instruction. -/
def Hart.ret (h : Hart) (machine : Bool) : Hart :=
  let v := h.mstatus
  if machine then
    if h.mode != .m then h.take 2 0
    else
      let v' := putBits (putBits (putBits v 3 3 (bits v 7 7)) 7 7 1) 12 11 0
      { h with
        mode := modeOf (bits v 12 11), pc := h.mepc,
        mstatus := if modeOf (bits v 12 11) == .m then v' else putBits v' 17 17 0 }
  else if h.mode == .u || (h.mode == .s && bit v 22) then h.take 2 0
  else
    { h with
      mode := if bit v 8 then .s else .u, pc := h.sepc,
      mstatus := putBits (putBits (putBits (putBits v 1 1 (bits v 5 5)) 5 5 1) 8 8 0) 17 17 0 }

def State.setHart (s : State) (i : Nat) (h : Hart) : State := { s with harts := s.harts.set i h }

/-- A hart that is changed. -/
def State.mapHart (s : State) (i : Nat) (f : Hart → Hart) : State :=
  match s.harts[i]? with
  | some h => s.setHart i (f h)
  | none => s

/-- A hart takes an access fault. -/
def State.hartFault (s : State) (i : Nat) (a : Nat) (write : Bool) : State := s.mapHart i fun h => h.accessFault a write

/-- An integer register with a value; x0 stays zero. -/
def Hart.setX (h : Hart) (rd v : Nat) : Hart :=
  if rd % 32 == 0 then h else { h with xregs := putK 0 h.xregs (rd % 32) (v % 2 ^ 64) }

/-- The value of a load as its register takes it. -/
def loadExtended (r : HartAccess) (v : Nat) : Nat := if r.signed then low 64 (sext (8 * r.size) v) else v

/-- A load that has its value. -/
def State.hartLoad (s : State) (r : HartAccess) (v : Nat) : State :=
  s.mapHart r.hart fun h => { h.setX r.rd (loadExtended r v) with loaded := v }

/-! ## Control registers (R445; log 7) -/

/-- A PMP configuration byte as it is kept: reserved bits read zero, and one that would write without reading is not
taken. -/
def pmpCfgKept (old v : Nat) : Nat :=
  if bit old 7 || (bit v 1 && !bit v 0) then old else v % 2 ^ 8 - bits v 6 5 * 2 ^ 5

/-- A write of the eight configuration bytes from entry i on: a lock bit, once set, holds until reset. -/
def Hart.writePmpcfg (h : Hart) (i v : Nat) : Hart :=
  (List.range 8).foldl
    (fun h k => { h with
      pmpcfg := putK 0 h.pmpcfg (i + k) (pmpCfgKept (pmpCfg h (i + k)) (v / 2 ^ (8 * k) % 2 ^ 8)) }) h

/-- Whether an address register is locked: by its own entry, or by the next one when that is a locked top of range. -/
def Hart.pmpLocked (h : Hart) (i : Nat) : Bool :=
  bit (pmpCfg h i) 7 || (bit (pmpCfg h (i + 1)) 7 && bits (pmpCfg h (i + 1)) 4 3 == 1)

def Hart.writePmpaddr (h : Hart) (i v : Nat) : Hart :=
  if h.pmpLocked i then h else { h with pmpaddr := putK 0 h.pmpaddr i (v % 2 ^ 54) }

/-- The bits of mstatus that sstatus shows. -/
def sstatusMask : Nat := 0x80000003000DE762

/-- A write of a control register by its number; the mode and the number's own bits say whether it is allowed. -/
def Hart.writeCsr (h : Hart) (csr v : Nat) : Hart :=
  let v := v % 2 ^ 64
  if bits csr 11 10 == 3 || h.mode.code < bits csr 9 8 then h.take 2 0
  else if csr == 0x3A0 then h.writePmpcfg 0 v
  else if csr == 0x3A2 then h.writePmpcfg 8 v
  else if 0x3B0 ≤ csr && csr < 0x3C0 then h.writePmpaddr (csr - 0x3B0) v
  else if csr == 0x300 then { h with mstatus := if bits v 12 11 == 2 then putBits v 12 11 (bits h.mstatus 12 11) else v }
  else if csr == 0x100 then { h with mstatus := h.mstatus - (h.mstatus &&& sstatusMask) + (v &&& sstatusMask) }
  else if csr == 0x302 then { h with medeleg := v }
  else if csr == 0x305 then { h with mtvec := v }
  else if csr == 0x341 then { h with mepc := v / 2 * 2 }
  else if csr == 0x342 then { h with mcause := v }
  else if csr == 0x343 then { h with mtval := v }
  else if csr == 0x105 then { h with stvec := v }
  else if csr == 0x141 then { h with sepc := v / 2 * 2 }
  else if csr == 0x142 then { h with scause := v }
  else if csr == 0x143 then { h with stval := v }
  else if csr == 0x180 then
    if h.mode == .s && bit h.mstatus 20 then h.take 2 0
    else if bits v 63 60 == 0 || bits v 63 60 == 9 then { h with satp := v }
    else h
  else if csr == 0x104 || csr == 0x144 then
    let own := getK 0 h.csrs 0x303 &&& (if csr == 0x104 then 2 ^ 64 - 1 else 2)
    let old := getK 0 h.csrs (csr + 0x200)
    { h with csrs := putK 0 h.csrs (csr + 0x200) (old - (old &&& own) + (v &&& own)) }
  else { h with csrs := putK 0 h.csrs csr v }

/-! ## The physical map (R444) -/

/-- Whether an access lies in a region. -/
def inRegion (a n base size : Nat) : Bool := decide (base ≤ a) && decide (a + n ≤ base + size)

def romBytes : Nat := 131072
def sramBase : Nat := 0x80000000
def sramBytes : Nat := 4194304
def flashBase : Nat := 0x100000000
def flashBytes : Nat := 67108864

/-- Bytes of the boot ROM, which no store reaches. -/
def romRead (a n : Nat) : List Byte := (List.range n).map fun i => Config.bootRom (a + i)

/-- The partition whose physical range holds an access: k slices of 80 GiB each (R249). -/
def Dev.rangeOf (d : Dev) (a n : Nat) : Option Nat :=
  (List.range Config.numParts).find? fun p =>
    pdValid (d.part p).pdesc && inRegion a n (partBase p) (pdK (d.part p).pdesc * 80 * 2 ^ 30)

/-- The function of a partition whose share, or whose reserved area, holds an address. -/
def Dev.ownerOf (d : Dev) (p pa : Nat) : Option Nat :=
  ((List.range 4).map fun i => 4 * p + i).find? fun fn =>
    let f := d.func fn
    inRegion pa 1 f.memb f.mems || inRegion pa 1 f.rsvb f.rsvs

/-- The key under which a hart reaches a partition's range: slot 0 of the function whose memory it is, and none elsewhere, so
that it meets ciphertext there. -/
def Dev.hartKey (d : Dev) (p a : Nat) : Option Key :=
  some (((d.ownerOf p (a - partBase p)).map fun fn => (d.func fn).keyAt fn 0).getD .raw)

/-- Whether an access of a hart waits at its home. -/
def Dev.hartHeld (d : Dev) (p a n : Nat) (write : Bool) : Bool :=
  d.granuleHolds none a n write || (write && d.serialHolds 0 none a n) ||
    match d.ownerOf p (a - partBase p) with
    | some fn => !(d.func fn).remap.isEmpty || !(d.func fn).keyChange.isEmpty
    | none => false

/-- A register access: aligned to its size and within a 64-bit word. -/
def State.hartRegister (s : State) (r : HartAccess) : Outcome :=
  if r.addr % r.size != 0 then .next (s.hartFault r.hart r.addr r.write)
  else if r.write then s.writeReg r.addr r.size r.value
  else
    let w := leBytes 8 (s.readRegWord (r.addr / 8 * 8))
    .next (s.hartLoad r (leNat ((w.drop (r.addr % 8)).take r.size)))

/-- What a read of memory in the physical map comes to. -/
inductive PhysRead where
  | val (v : Nat)
  | waits
  | bad

/-- A read of memory in the physical map. -/
def State.physRead (s : State) (a n : Nat) : PhysRead :=
  if inRegion a n 0 romBytes then .val (leNat (romRead a n))
  else if inRegion a n sramBase sramBytes || inRegion a n flashBase flashBytes then .val (leNat (readBytes s.dev.mem a n))
  else
    match s.dev.rangeOf a n with
    | none => .bad
    | some p =>
      if s.dev.hartHeld p a n false then .waits else .val (leNat (s.dev.readUnder (s.dev.hartKey p a) a n))

/-- Whether an access is one of registers: in the functions' configuration spaces, or in the page of the device's own. -/
def isRegister (a n : Nat) : Bool := inRegion a n spaceBase (0x1000 * Config.numFuncs) || inRegion a n pageBase 0x1000

/-- Whether a store may land in memory, and whether it waits at its home. -/
def State.storeAt (s : State) (a n : Nat) : PhysRead :=
  if inRegion a n sramBase sramBytes then .val 0
  else
    match s.dev.rangeOf a n with
    | none => .bad
    | some p => if s.dev.hartHeld p a n true then .waits else .val 0

/-- A store in memory. -/
def State.physWrite (s : State) (a : Nat) (bs : List Byte) : State :=
  if inRegion a bs.length sramBase sramBytes then { s with dev := { s.dev with mem := writeBytes s.dev.mem a bs } }
  else
    match s.dev.rangeOf a bs.length with
    | none => s
    | some p => { s with dev := s.dev.homeWrite (s.dev.hartKey p a) a bs }

/-- A hart's write takes every hart's reservation of the bytes. -/
def State.takeReservations (s : State) (a n : Nat) : State :=
  { s with harts := s.harts.map fun h => match h.reserved with
      | some (b, m, _) => if a < b + m && b < a + n then { h with reserved := none } else h
      | none => h }

/-- The new value of an atomic operation of a hart, by its code: swap, add, xor, and, or, min, max, minu, maxu. -/
def amoNew (f size old v : Nat) : Nat :=
  let w := 8 * size
  if f == 0 then v % 2 ^ w
  else if f == 1 then (old + v) % 2 ^ w
  else if f == 2 then (old ^^^ v) % 2 ^ w
  else if f == 3 then old &&& (v % 2 ^ w)
  else if f == 4 then (old ||| v) % 2 ^ w
  else if f == 5 then (if sext w old ≤ sext w v then old else v % 2 ^ w)
  else if f == 6 then (if sext w old ≤ sext w v then v % 2 ^ w else old)
  else if f == 7 then min old (v % 2 ^ w)
  else max old (v % 2 ^ w)

/-- What a hart reads: its register extends the sign where the access says so, and of an atomic operation always. -/
def State.hartReads (s : State) (r : HartAccess) (v : Nat) : State :=
  s.hartLoad (if r.op == .plain then r else { r with signed := true }) v

/-- A store-conditional: it writes when the hart holds a reservation of these bytes that nothing has written; the register takes
0, or 1 when it fails. -/
def State.hartConditional (s : State) (r : HartAccess) (old : Nat) : State :=
  let held := (s.harts[r.hart]?).bind (·.reserved) == some (r.addr, r.size, old)
  let t := s.mapHart r.hart fun h => { h.setX r.rd (if held && !Config.scFails s.dev.tick then 0 else 1) with reserved := none }
  if held && !Config.scFails s.dev.tick then (t.takeReservations r.addr r.size).physWrite r.addr (leBytes r.size r.value) else t

/-- A read of memory that has its value, and what its access does with it. -/
def State.hartUsed (s : State) (r : HartAccess) (old : Nat) : State :=
  match r.op with
  | .plain => s.hartLoad r old
  | .lr => (s.hartReads r old).mapHart r.hart fun h => { h with reserved := some (r.addr, r.size, old) }
  | .sc => s.hartConditional r old
  | .amo f =>
    ((s.takeReservations r.addr r.size).physWrite r.addr (leBytes r.size (amoNew f r.size old r.value))).hartReads r old

/-- Whether an access writes. -/
def accessStores (r : HartAccess) : Bool :=
  match r.op with
  | .plain => r.write
  | .lr => false
  | _ => true

/-- An access at a physical address that the PMP entries allow; `va` is the address that a fault reports. Registers take no
atomic access. -/
def State.hartReach (s : State) (r : HartAccess) (va : Nat) (i : Instr) : Outcome :=
  let fails : Outcome := .next (s.hartFault r.hart va (accessStores r))
  if isRegister r.addr r.size then (if r.op == .plain then s.hartRegister r else fails)
  else
    match (if (accessStores r) then s.storeAt r.addr r.size else .val 0) with
    | .bad => fails
    | .waits => waitFor s i
    | .val _ =>
      if r.op == .plain && r.write then
        .next ((s.takeReservations r.addr r.size).physWrite r.addr (leBytes r.size r.value))
      else
        match s.physRead r.addr r.size with
        | .bad => fails
        | .waits => waitFor s i
        | .val v => .next (s.hartUsed r v)

/-- A plain access in two pieces of memory, the second at an address of its own (log 7). -/
def State.hartSplit (s : State) (r : HartAccess) (b n : Nat) (i : Instr) : Outcome :=
  let m := r.size - n
  let fails := fun va => (.next (s.hartFault r.hart va r.write) : Outcome)
  let meets := fun a k => if isRegister a k then PhysRead.bad else if r.write then s.storeAt a k else s.physRead a k
  match meets r.addr n, meets b m with
  | .bad, _ => fails r.addr
  | _, .bad => fails b
  | .val x, .val y =>
    if r.write then
      .next (((s.takeReservations r.addr n).physWrite r.addr (leBytes n r.value)).takeReservations b m |>.physWrite b
        (leBytes m (r.value / 2 ^ (8 * n))))
    else .next (s.hartLoad r (x + 2 ^ (8 * n) * y))
  | _, _ => waitFor s i

/-! ## Sv48 paging (R444; log 7) -/

/-- Where a walk of a hart's page tables ends. -/
inductive HartWalk where
  | pa (a : Nat)
  | page
  | access
  | waits

/-- Whether a leaf entry at a level permits an access, and the frame is aligned. S mode never executes a page of U mode. -/
def leafPermits (h : Hart) (mode : HartMode) (e level : Nat) (use : HartUse) : Bool :=
  (if mode == .u then bit e 4 else !bit e 4 || (bit h.mstatus 18 && use != .fetch)) &&
    (match use with
      | .load => bit e 1 || (bit e 3 && bit h.mstatus 19)
      | .store => bit e 2
      | .fetch => bit e 3) &&
    bits e 53 10 % 2 ^ (9 * level) == 0 && bit e 6 && (use != .store || bit e 7)

/-- A walk over the levels left. -/
def sv48Levels (s : State) (h : Hart) (mode : HartMode) (va : Nat) (use : HartUse) : List Nat → Nat → HartWalk
  | [], _ => .page
  | level :: rest, tbl =>
    let pa := tbl + 8 * (va / 2 ^ (12 + 9 * level) % 512)
    if !h.allowedIn .s pa 8 .load then .access
    else
      match s.physRead pa 8 with
      | .bad => .access
      | .waits => .waits
      | .val e =>
        if !bit e 0 || (!bit e 1 && bit e 2) || bits e 63 54 != 0 then .page
        else if bit e 1 || bit e 3 then
          if leafPermits h mode e level use then .pa (bits e 53 10 * 4096 + va % 2 ^ (12 + 9 * level)) else .page
        else sv48Levels s h mode va use rest (bits e 53 10 * 4096)

/-- The physical address of an access in a mode: as it stands in M mode or with satp off, else through Sv48. -/
def State.walkIn (s : State) (h : Hart) (mode : HartMode) (va : Nat) (use : HartUse) : HartWalk :=
  if mode == .m || bits h.satp 63 60 == 0 then .pa va
  else if va % 2 ^ 64 / 2 ^ 47 != 0 && va % 2 ^ 64 / 2 ^ 47 != 2 ^ 17 - 1 then .page
  else sv48Levels s h mode va use [3, 2, 1, 0] (bits h.satp 43 0 * 4096)

/-- The physical address of a load or store. -/
def State.hartWalk (s : State) (h : Hart) (va : Nat) (write : Bool) : HartWalk := s.walkIn h h.dataMode va (useOf write)

/-! ## Fetching (log 7) -/

/-- What the two bytes at an address come to when they are fetched. -/
def State.parcel (s : State) (h : Hart) (va : Nat) : HartWalk × Nat :=
  match s.walkIn h h.mode va .fetch with
  | .pa a =>
    if !h.allowedIn h.mode a 2 .fetch || isRegister a 2 then (.access, 0)
    else
      match s.physRead a 2 with
      | .bad => (.access, 0)
      | .waits => (.waits, 0)
      | .val v => (.pa a, v)
  | w => (w, 0)

/-- What the fetch of the instruction at a hart's pc comes to, with the address of the two bytes that decide it: the instruction has
four bytes when its first two say so. -/
def State.hartFetch (s : State) (h : Hart) : HartWalk × Nat :=
  match s.parcel h h.pc with
  | (.pa a, v) => if v % 4 == 3 then ((s.parcel h ((h.pc + 2) % 2 ^ 64)).1, (h.pc + 2) % 2 ^ 64) else (.pa a, h.pc)
  | (w, _) => (w, h.pc)

/-- Whether the firmware complex runs: a complex whose images all fail is halted (R448). -/
def State.complexUp (s : State) : Bool := s.up && !s.lease.bootfail

/-- What an instruction of a hart does, once it has been fetched; a fetch that is not permitted is its exception instead. -/
def State.hartStep (s : State) (i : Nat) (f : Hart → Hart) : State :=
  match s.harts[i]? with
  | none => s
  | some h =>
    if !s.complexUp then s
    else
      match s.hartFetch h with
      | (.pa _, _) => s.setHart i (f h)
      | (.page, va) => s.setHart i (h.denied true va .fetch)
      | (.access, va) => s.setHart i (h.denied false va .fetch)
      | (.waits, _) => s

/-- The boot ROM's jump to the image that it has loaded, of a hart that reset has left at its start (R445, R448; log 12). -/
def State.romJump (s : State) (i : Nat) : State :=
  if s.complexUp && s.lease.image != .none then
    s.mapHart i fun h => if h.mode == .m && h.pc == 0 then { h with pc := s.lease.entry } else h
  else s

/-- Whether an atomic access is misaligned. -/
def accessSkewed (r : HartAccess) : Bool := r.op != .plain && r.addr % r.size != 0

/-- The second page's share of an access: where it begins, when the access crosses into it. -/
def accessCrosses (r : HartAccess) : Option Nat :=
  if r.addr % 4096 + r.size > 4096 then some ((r.addr / 4096 + 1) * 4096 % 2 ^ 64) else none

/-- A load or store of a hart whose instruction has been fetched: each page of it is translated and checked. -/
def State.hartData (s : State) (h : Hart) (r : HartAccess) : Outcome :=
  let i := Instr.hartMemoryAccess r
  let use := useOf (accessStores r)
  let meets := fun va n => match s.walkIn h h.dataMode va use with
    | .pa a => if h.allowed a n (accessStores r) then HartWalk.pa a else .access
    | w => w
  let fails := fun page va => (.next (s.setHart r.hart (h.denied page va use)) : Outcome)
  if accessSkewed r then .next (s.setHart r.hart (h.take (if (accessStores r) then 6 else 4) r.addr))
  else
    match accessCrosses r with
    | none =>
      match meets r.addr r.size with
      | .page => fails true r.addr
      | .access => fails false r.addr
      | .waits => waitFor s i
      | .pa a => s.hartReach { r with addr := a } r.addr i
    | some b =>
      let n := 4096 - r.addr % 4096
      match meets r.addr n, meets b (r.size - n) with
      | .page, _ => fails true r.addr
      | .access, _ => fails false r.addr
      | _, .page => fails true b
      | _, .access => fails false b
      | .pa a, .pa c => s.hartSplit { r with addr := a } c n i
      | _, _ => waitFor s i

/-- HART_MEMORY_ACCESS: a load, store or atomic access of 1, 2, 4 or 8 bytes, an atomic one of 4 or 8. -/
def execHartMemoryAccess (r : HartAccess) (s : State) : Outcome :=
  match s.harts[r.hart]? with
  | none => .next s
  | some h =>
    if !s.complexUp || !((if r.op == .plain then [1, 2, 4, 8] else [4, 8]).contains r.size) then .next s
    else
      match s.hartFetch h with
      | (.pa _, _) => s.hartData h r
      | (.page, va) => .next (s.setHart r.hart (h.denied true va .fetch))
      | (.access, va) => .next (s.setHart r.hart (h.denied false va .fetch))
      | (.waits, _) => waitFor s (.hartMemoryAccess r)

end Sys2Proof.Machine
end

