-- ==== Sys2Proof/Machine/Fabric.lean ====
section
/-!
DEFINITION. What arrives over the fabric and the host link: inbound requests and mailbox messages (spec/22 R436 to R439), BAR2
accesses (R440), machine checks, link errors and IDE (R435, R443; spec/20 R430), and SPDM requests (R447).
-/
namespace Sys2Proof.Machine

/-! ## Delivery (R436, R438) -/

/-- The function that owns a domain. -/
def Dev.domainFn (d : Dev) (dom : Nat) : Option Nat :=
  if dom == 0 then none else (List.range Config.numFuncs).find? fun fn => d.present fn && (d.func fn).fdom == dom

/-- A refused request: the receiving function's ring gets an entry of KIND 7. -/
def Dev.refuseInbound (d : Dev) (fn : Nat) (addr : Nat) : Dev := d.postError fn { kind := 7, cause := 0x15, addr := addr }

/-- How an inbound request ends: performed with the bytes that it answers, refused, or waiting at its home. -/
inductive Inbound where
  | done (d : Dev) (answer : List Byte)
  | refused (d : Dev)
  | waits

/-! ## Mailboxes (R439) -/

def isMailbox (addr : Nat) : Bool := bits addr 55 40 == 3

/-- The bytes of a slot up to the end of its payload. -/
def slotImage (tag src : Nat) (payload : List Byte) : List Byte :=
  leBytes 2 tag ++ leBytes 2 payload.length ++ leBytes 2 src ++ leBytes 2 0 ++ payload

/-- The next slot in ring order, when the function has a mailbox and the slot is free. -/
def Func.nextSlot (f : Func) : Option Nat :=
  if f.mbs == 0 then none
  else if f.slots.any fun x => x.slot == f.mbi % f.mbs then none
  else some (f.mbi % f.mbs)

/-- A refused mailbox message is counted. -/
def Dev.dropMessage (d : Dev) (fn addr : Nat) : Dev :=
  let f := d.func fn
  (d.setFunc fn { f with mbdrop := (f.mbdrop + 1) % 2 ^ 64 }).refuseInbound fn addr

/-- The payload that a capturing queue records. -/
def fabricPayload (src addr : Nat) (data : List Byte) : List Byte := leBytes 8 src ++ leBytes 8 addr ++ data

/-- A mailbox message for a function. -/
def Dev.mailbox (d : Dev) (fn src addr : Nat) (payload : List Byte) : Inbound :=
  let f := d.func fn
  let tag := bits addr 39 24
  if addr % 2 ^ 24 != 0 || payload.length < 8 || payload.length > 248 || payload.length % 8 != 0 then
    .refused (d.refuseInbound fn addr)
  else
    match f.nextSlot with
    | none => .refused (d.dropMessage fn addr)
    | some slot =>
      let bs := slotImage tag src payload
      match d.meet fn f.fctx ((f.mbb + 256 * slot) % 2 ^ 56) .store with
      | (d, .loc l) =>
        if !d.homeOpen fn 0 none l bs.length true then .waits
        else
          let d := d.homeWrite (d.keyFor fn l.keyid l.key) l.key bs
          let m : MboxSlot := { slot := slot, tag := tag, order := d.nextId, launch := none }
          let f := d.func fn
          let d := { d with nextId := d.nextId + 1 }.setFunc fn { f with mbi := f.mbi + 1, slots := f.slots ++ [m] }
          .done (d.captureAll fn 4 (fabricPayload src addr payload)) []
      | (d, _) => .refused (d.dropMessage fn addr)

/-! ## Requests (R437) -/

def opAtomic : FabricOp → Bool
  | .read => false
  | .write => false
  | _ => true

/-- The AOP and the type of a carried atomic of a size (R293). -/
def opAop (o : FabricOp) (size : Nat) : Nat × Nat :=
  let u := if size == 8 then 7 else 1
  let s := if size == 8 then 6 else 0
  match o with
  | .atomAdd => (0, u)
  | .atomMinS => (1, s)
  | .atomMinU => (1, u)
  | .atomMaxS => (2, s)
  | .atomMaxU => (2, u)
  | .atomAnd => (3, u)
  | .atomOr => (4, u)
  | .atomXor => (5, u)
  | .swap => (6, u)
  | .compareSwap => (7, u)
  | _ => (0, u)

/-- Whether a request has a size that the fabric carries. -/
def requestSized (r : FabricRequest) : Bool :=
  if opAtomic r.op then (r.size == 4 || r.size == 8) && r.addr % r.size == 0
  else
    decide (1 ≤ r.size) && decide (r.addr % 256 + r.size ≤ 256) && (r.op == .read || r.data.length == r.size)

/-- What a request does at its location. -/
def requestKind (r : FabricRequest) : AccKind :=
  match r.op with
  | .read => .load
  | .write => .store
  | o => .atom (opAop o r.size).1 (opAop o r.size).2 (leNat ((r.data.drop r.size).take r.size))

/-- The bytes of a write that its byte enables keep, each at its location. -/
def Dev.writeEnabled (d : Dev) (fn : Nat) (r : FabricRequest) (l : Loc) : Dev :=
  if r.off.isEmpty then d.homeWrite (d.keyFor fn l.keyid l.key) l.key r.data
  else
    ((List.range r.size).filter fun i => !r.off.contains i).foldl
      (fun d i => d.homeWrite (d.keyFor fn l.keyid l.key) (l.key + i) [r.data.getD i 0]) d

/-- A request performed at its home, with the bytes that it wrote; a write with bytes left out is recorded as it was sent. -/
def Dev.performInbound (d : Dev) (fn : Nat) (r : FabricRequest) (l : Loc) : Dev × List Byte × List Byte :=
  let put := fun (bs : List Byte) => d.homeWrite (d.keyFor fn l.keyid l.key) l.key bs
  match r.op with
  | .read => (d, d.homeRead fn l r.size, [])
  | .write => (d.writeEnabled fn r l, [], r.data)
  | o =>
    let old := leNat (d.homeRead fn l r.size)
    match (atomNew (opAop o r.size).1 (opAop o r.size).2 old (leNat (r.data.take r.size))
        (leNat ((r.data.drop r.size).take r.size))).1 with
    | none => (d, leBytes r.size old, [])
    | some v => (put (leBytes r.size v), leBytes r.size old, leBytes r.size v)

/-- A request at an address that is no mailbox's. -/
def Dev.inboundAt (d : Dev) (fn : Nat) (r : FabricRequest) : Inbound :=
  if !requestSized r || r.addr ≥ 2 ^ 56 then .refused (d.refuseInbound fn r.addr)
  else
    match d.meet fn (d.func fn).fctx r.addr (requestKind r) with
    | (d, .loc l) =>
      if !d.homeOpen fn 0 none l r.size (requestKind r).writes then .waits
      else
        match d.performInbound fn r l with
        | (d, answer, []) => .done d answer
        | (d, answer, wrote) => .done (d.captureAll fn 4 (fabricPayload r.src r.addr wrote)) answer
    | (d, _) => .refused (d.refuseInbound fn r.addr)

/-- A request of a peer: delivered to the function of its domain when that function admits the sender. -/
def Dev.inbound (d : Dev) (r : FabricRequest) : Inbound :=
  match d.domainFn r.dom with
  | none => .refused d
  | some fn =>
    if !bit (d.func fn).fwmask r.src || r.src ≥ 1024 then .refused (d.refuseInbound fn r.addr)
    else if isMailbox r.addr then
      if r.op == .write && r.off.isEmpty then d.mailbox fn r.src r.addr r.data else .refused (d.refuseInbound fn r.addr)
    else d.inboundAt fn r

/-- The completion that a peer sees. -/
def fabricEnd (s : State) (i : Instr) (r : Inbound) : Outcome :=
  match r with
  | .done d bs => .next { s with dev := d, board := { s.board with fabricReply := some bs, fabricError := false } }
  | .refused d => .next { s with dev := d, board := { s.board with fabricReply := none, fabricError := true } }
  | .waits => waitFor s i

/-- INBOUND_FABRIC_REQUEST. -/
def execInboundFabricRequest (r : FabricRequest) (s : State) : Outcome :=
  if !s.up then .next s else fabricEnd s (.inboundFabricRequest r) (s.dev.inbound r)

/-- MAILBOX_MESSAGE: a write request at the mailbox address of a tag. -/
def execMailboxMessage (dom src tag : Nat) (payload : List Byte) (s : State) : Outcome :=
  if !s.up then .next s
  else
    fabricEnd s (.mailboxMessage dom src tag payload)
      (s.dev.inbound
        { dom := dom, src := src, op := .write, addr := 3 * 2 ^ 40 + tag % 2 ^ 16 * 2 ^ 24, size := payload.length,
          data := payload })

/-- The oldest waiting message whose tag is armed. -/
def Func.nextMessage (f : Func) : Option (MboxSlot × ArmedTag) :=
  (f.slots.filterMap fun m => if m.launch.isSome then none else (f.armed m.tag).map fun t => (m, t)).foldl
    (fun acc p => match acc with
      | none => some p
      | some q => if p.1.order < q.1.order then some p else some q) none

/-- A firing of a tag: its count falls, and its launch takes the slot. -/
def Dev.fire (d : Dev) (fn : Nat) (m : MboxSlot) (t : ArmedTag) : Dev :=
  let f := d.func fn
  let l := launchOf d.nextId fn t.ctx t.rootQueue t.depth t.prio (.fired t.tag m.slot) t.words (f.mbb + 256 * m.slot + 8)
  let f := if t.count ≤ 1 then f.disarm t.tag
    else { f with tags := f.tags.map fun x => if x.tag == t.tag then { t with count := t.count - 1 } else x }
  { d with nextId := d.nextId + 1, launches := d.launches ++ [l] }.setFunc fn
    { f with slots := f.slots.map fun (x : MboxSlot) => if x.slot == m.slot then { m with launch := some l.id } else x }

/-- MAILBOX_FIRE. -/
def execMailboxFire (fn : Nat) (s : State) : Outcome :=
  .next { s with dev :=
    match (s.dev.func fn).nextMessage with
    | none => s.dev
    | some p => if s.dev.pendingRoom fn then s.dev.fire fn p.1 p.2 else s.dev }

/-! ## BAR2 (R440) -/

/-- The entries of a stage-2 table at a level. -/
def tableEntries (level : Nat) : Nat := if level == 0 then 8192 else 512

/-- The KEYID of the first leaf of a table that maps a physical address, by rising guest address. -/
def Dev.leafKey (d : Dev) (fn pa : Nat) : List Nat → Nat → Option Nat
  | [], _ => none
  | level :: rest, tbl =>
    (List.range (tableEntries level)).findSome? fun i =>
      let e := d.tableWord fn (tbl + 8 * i)
      match checkEntry true level i e with
      | .table a => d.leafKey fn pa rest a
      | .leaf =>
        let a := bits e 51 12 * 4096
        let n := leafSize level (bit e 5)
        if bits e 10 8 == 0 && (!bit e 5 || i % 16 == 0) && decide (a ≤ pa) && decide (pa < a + n) then some (bits e 62 58) else none
      | _ => none

/-- The key slot of a page of a function's share: of the stage-2 leaf that maps it, or 0. -/
def Dev.pageKey (d : Dev) (fn pa : Nat) : Nat :=
  let root := (d.func fn).s2root
  if !bit root 0 then 0 else (d.leafKey fn pa [0, 1, 2, 3] (bits root 51 12 * 4096)).getD 0

/-- A BAR2 access cut at pages: partition physical addresses with sizes. -/
def bar2Pieces (pa n : Nat) : List (Nat × Nat) :=
  (List.range ((pa + n + 4095) / 4096 - pa / 4096)).map fun i =>
    let lo := max pa ((pa / 4096 + i) * 4096)
    (lo, min (pa + n) ((pa / 4096 + i + 1) * 4096) - lo)

/-- Whether a piece waits at its home. -/
def Dev.bar2Held (d : Dev) (fn pa n : Nat) (write : Bool) : Bool :=
  let key := partBase (partOf fn) + pa
  d.granuleHolds none key n write || (write && d.serialHolds 0 none key n) || !(d.func fn).remap.isEmpty ||
    !(d.func fn).keyChange.isEmpty

/-- The bytes of some pieces. -/
def Dev.bar2Read (d : Dev) (fn : Nat) (ps : List (Nat × Nat)) : List Byte :=
  ps.flatMap fun p =>
    let key := partBase (partOf fn) + p.1
    d.readUnder (d.keyFor fn (d.pageKey fn p.1) key) key p.2

/-- Bytes written to some pieces, each recorded by the capturing queues. -/
def Dev.bar2Write (d : Dev) (fn : Nat) : List (Nat × Nat) → List Byte → Dev
  | [], _ => d
  | p :: ps, bs =>
    let key := partBase (partOf fn) + p.1
    let d := d.homeWrite (d.keyFor fn (d.pageKey fn p.1) key) key (bs.take p.2)
    (d.captureAll fn 3 (leBytes 8 p.1 ++ bs.take p.2)).bar2Write fn ps (bs.drop p.2)

/-- A completion with an error. -/
def State.hostRefused (s : State) : State := { s with board := { s.board with hostReply := none, hostError := true } }

/-- HOST_BAR2_ACCESS at an offset in the function's share, of which only the bytes in the partition's range exist. -/
def execHostBar2Access (fn off size : Nat) (write : Bool) (data : List Byte) (s : State) : Outcome :=
  if !s.up then .next s
  else
    let d := s.dev
    let f := d.func fn
    if !d.present fn || !s.streamSecure fn || off + size > f.mems || f.memb + off + size > d.partBytes (partOf fn) ||
        size == 0 || (write && data.length != size) then
      .next s.hostRefused
    else
      let ps := bar2Pieces (f.memb + off) size
      if ps.any fun p => d.bar2Held fn p.1 p.2 write then waitFor s (.hostBar2Access fn off size write data)
      else if write then
        .next { s with
          dev := d.bar2Write fn ps data, board := { s.board with hostReply := some [], hostError := false } }
      else .next { s with board := { s.board with hostReply := some (d.bar2Read fn ps), hostError := false } }

/-! ## Machine checks and link errors (R435, R452; spec/20 R430) -/

/-- One more of a counter of SOFTERR, by its order in R452. -/
def Board.countError (b : Board) (k : Nat) : Board :=
  { b with softerr := putK 0 b.softerr k ((getK 0 b.softerr k + 1) % 2 ^ 64) }

/-- The image of the record of an engine command's machine check: which of its addresses the flit carried is not known of it. -/
def checkImage (s : Shuttle) (o : Origin) : List Nat := trapWords (engineTrapInfo s o 0x17 0) (s.traps + 1)

/-- A machine check of a copy command: it ends as by a non-replayable fault, with an entry of KIND 3. -/
def Dev.copyCheckError (d : Dev) (c : CopyCmd) (die : Nat) : Dev :=
  let moved := c.pos * dstBytes c.words
  match c.issuer with
  | .queue q a nots irq =>
    let d := d.postError c.fn { kind := 3, cause := 0x17, detail := die, place := q, addr := a, copy := c.words, moved := moved }
    (d.dropCmd c).completeBlock (c.blockEnd q a nots irq) resFault 0x17
  | .shuttle sh _ =>
    let d := d.dropCmd c
    match d.shuttle sh with
    | some s => d.terminate s 3 0x17 0 die (checkImage s c.origin) c.words moved
    | none => d.orphanError c.fn 3 0x17 die c.origin c.words moved

/-- A machine check of a signal. -/
def Dev.signalCheck (d : Dev) (g : Signal) (die : Nat) : Dev :=
  let d := d.dropSignal g
  match d.shuttle g.sh with
  | some s => d.terminate s 3 0x17 0 die (checkImage s g.origin) [] 0
  | none => d.orphanError g.fn 3 0x17 die g.origin [] 0

/-- A machine check of an engine command: a copy, a matrix operation, a tile or a signal. -/
def Dev.engineCheck (d : Dev) (id die : Nat) : Option Dev :=
  match d.cmd id with
  | some c => if d.cmdHeld c then none else some (d.copyCheckError c die)
  | none =>
    match d.matOp id with
    | some o =>
      some (match d.shuttle o.sh with
        | some s => (d.dropMat o).terminate s 3 0x17 0 die (checkImage s o.origin) [] 0
        | none => ((d.team o.team).map fun t => (d.dropMat o).orphanError t.fn 3 0x17 die o.origin [] 0).getD (d.dropMat o))
    | none =>
      match d.tile id with
      | some t =>
        let d1 := { d with chains := d.chains.map fun (c : Chain) => if c.uid == t.chain then c.poison t.j else c }
        let d2 := d1.setTile { t with status := .computed }
        some (match d2.shuttle t.sh with
          | some s => d2.terminate s 3 0x17 0 die (checkImage s t.origin) [] 0
          | none => ((d2.chain t.chain).map fun c => d2.orphanError c.fn 3 0x17 die t.origin [] 0).getD d2)
      | none =>
        match d.signals.find? fun g => g.id == id with
        | some g => some (d.signalCheck g die)
        | none => some d

/-- A machine check of the walk at a queue's block: the block completes with FORMAT, and the function's ring gets an entry
of KIND 3. -/
def Dev.walkCheck (d : Dev) (q die : Nat) : Option Dev :=
  match d.queue q with
  | none => some d
  | some x =>
    let note := fun (d : Dev) (a : Nat) =>
      d.postError x.fn { kind := 3, cause := 0x17, detail := die, place := q, addr := a }
    match x.pos with
    | none => some (note d 0)
    | some a =>
      if x.parked then some (note d a)
      else
        match d.walkRead x x.ctx a 256 with
        | (_, .waits) => none
        | (d, .faults) => some (note d a)
        | (d, .val v) =>
          let ws := (List.range 64).map fun k => v / 2 ^ (32 * k) % 2 ^ 32
          match d.walkDone (blockEndOf x a ws) resFormat 0 (blockPair ws 2) with
          | (_, false) => none
          | (d, true) => some (note d a)

/-- A machine check of the Treadle's accesses for an admitted block, a launch or a COPY block: the block completes with FORMAT, and
the function's ring gets an entry of KIND 3. A launch with teams places no more, and completes when those that run have ended (log
90). -/
def Dev.blockCheck (d : Dev) (id die : Nat) : Option Dev :=
  match d.launch id with
  | some l =>
    let d' := d.postError l.fn
      { kind := 3, cause := 0x17, detail := die, place := l.rootQueue, addr := l.blockAddr, block := l.blockAddr,
        depth := l.depth }
    if l.checked then some d'
    else if d.teams.any fun t => t.launch == l.id then some (d'.setLaunch { l with checked := true })
    else if d.launchHeld l then none
    else some ((d'.dropChains l.id).completeLaunch l resFormat 0)
  | none =>
    match d.cmd id with
    | none => some d
    | some c =>
      match c.issuer with
      | .shuttle _ _ => some d
      | .queue q a nots irq =>
        if d.cmdHeld c then none
        else
          some (((d.postError c.fn { kind := 3, cause := 0x17, detail := die, place := q, addr := a }).dropCmd c).completeBlock
            (c.blockEnd q a nots irq) resFormat 0)

/-- The record of a machine check of a shuttle's access: that of the access, or of the scalar stream where it has none under that
number, as of a fetch. -/
def checkTrap (s : Shuttle) (acc : Nat) : TrapInfo :=
  match s.accs.find? fun a => a.id == acc with
  | some a => accessTrap s a 0x17
  | none => engineTrapInfo s { off := s.pc } 0x17 0

/-- A machine check of an access of a team's shuttle: the team terminates. -/
def Dev.shuttleCheck (d : Dev) (sh acc die : Nat) : Dev :=
  match d.shuttle sh with
  | some s => d.terminate s 3 0x17 0 die (trapWords (checkTrap s acc) (s.traps + 1)) [] 0
  | none => d

/-- What a dropped flit does to its agent; none when what follows waits at a home. -/
def State.flitCheck (s : State) (agent : FlitAgent) (die : Nat) : Option State :=
  match agent with
  | .shuttle sh acc => some { s with dev := s.dev.shuttleCheck sh acc die }
  | .command c => (s.dev.engineCheck c die).map fun d => { s with dev := d }
  | .treadle q => (s.dev.walkCheck q die).map fun d => { s with dev := d }
  | .treadleBlock id => (s.dev.blockCheck id die).map fun d => { s with dev := d }
  | .hart h a w => some (if s.complexUp then s.hartFault h a w else s)
  | .inbound true => some s.hostRefused
  | .inbound false => some { s with board := { s.board with fabricReply := none, fabricError := true } }

/-- FLIT_PARITY_ERROR: a machine check, counted in NETPAR. -/
def execFlitParityError (agent : FlitAgent) (die : Nat) (s : State) : Outcome :=
  if !s.up then .next s
  else
    match s.flitCheck agent die with
    | some t => .next { t with board := t.board.countError 6 }
    | none => waitFor s (.flitParityError agent die)

def linkCounter : Link → Nat
  | .pcie => 7
  | .ualink => 8
  | .dieLink => 9

/-- LINK_CRC_ERROR: the frame is sent again, and the retry counted. -/
def execLinkCrcError (link : Link) (s : State) : Outcome :=
  .next (if s.up then { s with board := s.board.countError (linkCounter link) } else s)

/-- The access of a shuttle at an address that has not been performed. -/
def Shuttle.waitingAt (s : Shuttle) (addr : Nat) : Option Access :=
  s.accs.find? fun a => a.va == addr && !a.performed

/-- A peer's error ends the sender's access as a non-replayable fault; none when what follows waits at a home. -/
def Dev.peerError (d : Dev) (sender : FabricSender) (addr : Nat) : Option Dev :=
  match sender with
  | .shuttle sh =>
    some (match d.shuttle sh with
      | none => d
      | some s =>
        match s.waitingAt addr with
        | none => d
        | some a => d.terminate s 1 0x15 0 0 (trapWords (accessTrap s a 0x15) (s.traps + 1)) [] 0)
  | .command c =>
    match d.cmd c with
    | none => some d
    | some c => if d.cmdHeld c then none else some (d.copyFault c 0x15 addr)
  | .signal sh =>
    some (match d.signals.find? fun g => g.sh == sh && g.addr == addr && g.device.isSome with
      | none => d
      | some g => d.signalFault g 0x15)

/-- UALINK_ERROR_COMPLETION. -/
def execUalinkErrorCompletion (sender : FabricSender) (addr : Nat) (s : State) : Outcome :=
  onUpWait s (.ualinkErrorCompletion sender addr) fun d => d.peerError sender addr

/-! ## IDE and SPDM (R443, R447) -/

/-- IDE_INTEGRITY_FAILURE: the TLP is dropped, its stream becomes insecure, and AER reports it. The link stream comes after
the 48 selective ones. -/
def execIdeIntegrityFailure (fn : Nat) (s : State) : Outcome :=
  .next
    (if !s.up || fn > Config.numFuncs then s
     else if fn == Config.numFuncs then
      { s with
        dev := { s.dev with linkInsecure := true }
        board := { s.board with aer := s.board.aer + 1, aerStreams := fn :: s.board.aerStreams } }
     else
      { s with
        dev := s.dev.setFunc fn { s.dev.func fn with insecure := true }
        board := { s.board with aer := s.board.aer + 1, aerStreams := fn :: s.board.aerStreams } })

/-- Where an image's header begins. -/
def imageBase (tenant : Bool) : Nat := flashBase + Config.slotOffset tenant

/-- The header of an image: 256 bytes (R448). -/
def imageHeader (m : Memory) (tenant : Bool) : List Byte := readBytes m (imageBase tenant) 256

/-- The bytes of an image, which follow its header. -/
def imageBytes (m : Memory) (tenant : Bool) : List Byte :=
  readBytes m (imageBase tenant + 256) (Config.headerSize (imageHeader m tenant))

/-- The running image's slot. -/
def BootImage.isTenant : BootImage → Bool
  | .tenant => true
  | _ => false

/-- A measurement block (R447). -/
def State.measure (s : State) (index : Nat) : Option (List Byte) :=
  if index == 1 then some (sha384 (romRead 0 romBytes))
  else if index == 2 then some (sha384 (imageBytes s.dev.mem false))
  else if index == 3 then some (sha384 (imageBytes s.dev.mem s.lease.image.isTenant))
  else if index == 4 then some (leBytes 8 s.lease.lseq ++ leBytes 48 s.lease.lessee.toNat)
  else if 16 ≤ index && index < 16 + Config.numFuncs then
    let f := s.dev.func (index - 16)
    some (leBytes 48 f.att ++ leBytes 8 f.attn)
  else none

/-- The answer to a request: a measurement with its signature, or the chain of slot 0. -/
def State.spdmAnswer (s : State) (r : SpdmRequest) : List Byte :=
  match r with
  | .measurement i =>
    match s.measure i with
    | some m => m ++ leBytes 96 (Config.attestSign m).toNat
    | none => []
  | .certificate => Config.certChain
  | .ideSetup _ => []

/-- SPDM_REQUEST: an answer, or the keys of a stream, which is then secure. -/
def execSpdmRequest (r : SpdmRequest) (s : State) : Outcome :=
  if s.board.power == .d3cold then .next s
  else
    let s := { s with board := { s.board with spdm := s.spdmAnswer r } }
    match r with
    | .ideSetup fn =>
      .next (if s.up && fn < Config.numFuncs then
          { s with dev := s.dev.setFunc fn { s.dev.func fn with insecure := false, selective := true } }
        else if s.up && fn == Config.numFuncs then { s with dev := { s.dev with linkInsecure := false } } else s)
    | _ => .next s

end Sys2Proof.Machine
end

