-- ==== Sys2Proof/Machine/Board.lean ====
section
/-!
DEFINITION. Resets of a function and of the device (spec/18 R391; spec/22 R442, R445), the boot ROM (R448), the lease controller
with its scrub and record (R449 to R451), and power (R453).
-/
namespace Sys2Proof.Machine

/-! ## Function-level reset (R391, R442) -/

/-- Whether a team of a function issued a command, or its queue did. -/
def Dev.ownersOf (d : Dev) (fn : Nat) : List Nat :=
  let mine := fun (t : Nat) => ((d.team t).map fun x => x.fn == fn).getD false
  (d.cmds.filter fun c => c.fn == fn).map (·.id) ++
    ((d.matOps.filter fun o => mine o.team).flatMap fun o => [o.id, o.id + 1]) ++
    ((d.tiles.filter fun t => mine t.team).flatMap fun t => [t.id, t.id + 1])

/-- A function after its reset: what the scheduler and the tenant's software have set stays, its work and its records
are gone, and its keys are new. -/
def Func.flr (f : Func) (gen : Nat) : Func :=
  { f with
    qbstat := 0, blstat := 0, dbgen := 0, faults := [], keys := [], keyGen := gen, keyChange := [], att := 0, attn := 0,
    mbi := 0, slots := [], bolts := [], tags := [], serial := none, serialWait := [], qwrites := [] }

/-- A partition whose running function is reset. -/
def Part.dropRunning (p : Part) (fn : Nat) : Part :=
  if p.running == some fn then { p with running := none, used := 0, switching := false } else p

/-- The compute dies without the work of a function. -/
def Dev.flr (d : Dev) (fn : Nat) : Dev :=
  let owners := d.ownersOf fn
  let teams := (d.teams.filter fun t => t.fn == fn).map (·.id)
  let launches := (d.launches.filter fun l => l.fn == fn).map (·.id)
  let shs := (d.shuttles.filter fun s => teams.contains s.team).map (·.id)
  { d with
    nextId := d.nextId + 1
    shuttles := d.shuttles.filter fun s => !teams.contains s.team
    teams := d.teams.filter fun t => t.fn != fn
    launches := d.launches.filter fun l => l.fn != fn
    queues := d.queues.filter fun q => q.fn != fn
    cmds := d.cmds.filter fun c => c.fn != fn
    signals := d.signals.filter fun g => g.fn != fn
    granules := d.granules.filter fun g => !owners.contains g.owner
    matOps := d.matOps.filter fun o => !teams.contains o.team
    tiles := d.tiles.filter fun t => !launches.contains t.launch
    chains := d.chains.filter fun c => c.fn != fn
    funcs := insK d.funcs fn ((d.func fn).flr d.nextId)
    parts := insK d.parts (partOf fn) ((d.part (partOf fn)).dropRunning fn)
    mem := teams.foldl (fun m t => eraseRange m (teamKey t) (2 ^ 32)) d.mem
    poison := teams.foldl (fun ps t => dropPoison ps (teamKey t) (2 ^ 32)) d.poison
    l1 := []
    tlb := d.tlb.filter fun t => t.fn != fn
    serialRegs := d.serialRegs.filter fun r => !shs.contains r.sh
    logWait := d.logWait.filter fun w => !shs.contains w.1 }

/-- Whether an input that waits was for a function. -/
def inputOf (fn : Nat) : Instr → Bool
  | .bloadLoad f _ => f == fn
  | .bloadUnload f _ => f == fn
  | .fqresUnrecoverable f _ => f == fn
  | .hostBar2Access f _ _ _ _ => f == fn
  | _ => false

def State.flr (s : State) (fn : Nat) : State :=
  { s with pending := s.pending.filter fun i => !inputOf fn i, dev := s.dev.flr fn }

/-- FUNCTION_LEVEL_RESET. -/
def execFunctionLevelReset (fn : Nat) (s : State) : Outcome :=
  .next (if !s.up || fn ≥ Config.numFuncs then s else if !s.streamSecure fn then s.hostRefused else s.flr fn)

/-- PF_FLR: every function and every partition descriptor. -/
def execPfFlr (s : State) : Outcome :=
  .next
    (if !s.up then s
     else if s.dev.linkInsecure then s.hostRefused
     else
      let t := (List.range Config.numFuncs).foldl (fun s fn => s.flr fn) s
      { t with dev := { t.dev with parts := [], tw2m := [] } })

/-! ## Reset and boot (R445, R446, R448) -/

/-- The functions after a reset of the device: every key slot is drawn anew. -/
def freshFuncs (gen : Nat) : List (Nat × Func) :=
  (List.range Config.numFuncs).map fun fn => (fn, { Func.reset with keyGen := gen })

/-- Memory that is not the device's own: the host's and the peers'. -/
def outsideMemory (m : Memory) : Memory := m.filter fun c => decide (2 ^ 64 ≤ c.1) && decide (c.1 < 2 ^ 100)

/-- The firmware flash. -/
def flashMemory (m : Memory) : Memory := m.filter fun c => inRegion c.1 1 flashBase flashBytes

/-- Memory that a reset keeps: all but the storage of the teams. -/
def keptMemory (m : Memory) : Memory := m.filter fun c => decide (c.1 < 2 ^ 100)

/-- The compute dies after a reset, with some memory. Numbers that have been issued are not issued again. -/
def Dev.resetWith (d : Dev) (mem : Memory) (tags : List (Nat × Key)) : Dev :=
  { Dev.reset with
    tick := d.tick, nextId := d.nextId + 1, funcs := freshFuncs d.nextId, mem := mem, keyTags := tags, msix := d.msix,
    scrubbed := d.scrubbed }

/-- Every hart in M mode at address 0. -/
def hartsReset : List Hart := List.replicate Config.numHarts Hart.reset

/-- Whether an image verifies under a key with a hash (R448; log 12): its SHA-384 stands behind it, then the signature over
that hash. -/
def imageVerifies (m : Memory) (tenant : Bool) (hash : BitVec 384) : Bool :=
  let n := Config.headerSize (imageHeader m tenant)
  let tail := imageBase tenant + 256 + n
  let sha := readBytes m tail 48
  let key := Config.imageKey tenant (imageHeader m tenant)
  decide (Config.slotOffset tenant + 400 + n ≤ flashBytes) && sha384 (imageBytes m tenant) == sha &&
    sha384 (leBytes 96 key.toNat) == leBytes 48 hash.toNat &&
    ecdsaVerify (key.toNat % 2 ^ 384) (key.toNat / 2 ^ 384) (beNat sha) (leNat (readBytes m (tail + 48) 48))
      (leNat (readBytes m (tail + 96) 48))

/-- What the boot ROM boots, or none when no image passes. -/
def State.bootChoice (s : State) : BootImage :=
  let l := s.lease
  if !l.recovery && imageVerifies s.dev.mem true l.lessee then .tenant
  else if imageVerifies s.dev.mem false Config.providerKeyHash then .baseline
  else .none

/-- The image loaded at the address that its header gives, in the firmware SRAM; elsewhere nothing takes it (log 12). -/
def State.loadImage (s : State) (tenant : Bool) : State :=
  let bs := imageBytes s.dev.mem tenant
  let a := Config.headerLoad (imageHeader s.dev.mem tenant)
  { s with
    dev := if inRegion a bs.length sramBase sramBytes then { s.dev with mem := writeBytes s.dev.mem a bs } else s.dev
    lease := { s.lease with entry := a % 2 ^ 64 } }

/-- The boot ROM runs: the recovery flag clears, the image is loaded, and a complex without an image halts. Each hart, which reset
leaves at address 0, then goes to the image in a turn of its own (State.romJump). -/
def State.boot (s : State) : State :=
  let img := s.bootChoice
  let t := if img == .none then s else s.loadImage img.isTenant
  { t with
    harts := hartsReset
    lease := { t.lease with recovery := false, image := img, bootfail := img == .none } }

/-! ## Commands of the lease controller (R449) -/

def LeaseState.code : LeaseState → Nat
  | .run => 0
  | .scrub => 1
  | .clean => 2

/-- An answer: the command, the response code and what follows. -/
def State.answer (s : State) (cmd code : Nat) (payload : List Byte) : State :=
  { s with lease := { s.lease with reply := [BitVec.ofNat 8 cmd, BitVec.ofNat 8 code] ++ payload } }

/-- A command: BUSY while a scrub runs, STATE outside its states, else its effect. Nothing answers without power. -/
def leaseCommand (s : State) (cmd : Nat) (states : List LeaseState) (f : State → State) : Outcome :=
  .next
    (if s.board.power == .d3cold then s
     else if s.lease.state == .scrub then s.answer cmd 1 []
     else if !states.contains s.lease.state then s.answer cmd 2 []
     else f s)

/-- GETSTATE: the state, LSEQ and BOOTFAIL. -/
def execGetstate (s : State) : Outcome :=
  .next
    (if s.board.power == .d3cold then s
     else
      s.answer 1 0 (leBytes 1 s.lease.state.code ++ leBytes 8 s.lease.lseq ++ leBytes 1 (if s.lease.bootfail then 1 else 0)))

/-- SCRUB: LSEQ counts it, and the device halts. -/
def execScrub (s : State) : Outcome :=
  leaseCommand s 2 [.run, .clean] fun s =>
    { s with
      pending := []
      lease := { s.lease with lseq := (s.lease.lseq + 1) % 2 ^ 64, state := .scrub } }.answer 2 0 []

/-- GETRECORD: the last record, which is one piece. -/
def execGetrecord (piece : Nat) (s : State) : Outcome :=
  leaseCommand s 3 [.run, .clean] fun s =>
    match s.lease.record with
    | none => s.answer 3 4 []
    | some r => if piece == 0 then s.answer 3 0 r else s.answer 3 3 []

/-- SETLESSEE. -/
def execSetlessee (hash : BitVec 384) (s : State) : Outcome :=
  leaseCommand s 4 [.clean] fun s => { s with lease := { s.lease with lessee := hash } }.answer 4 0 []

/-- RELEASE: the device leaves reset and the boot ROM runs. -/
def execRelease (s : State) : Outcome :=
  leaseCommand s 5 [.clean] fun s =>
    { s with lease := { s.lease with state := .run }, board := { s.board with power := .d0 } }.boot.answer 5 0 []

/-- RECOVER: a full reset of the device, which boots the baseline image. -/
def execRecover (s : State) : Outcome :=
  leaseCommand s 6 [.run, .clean] fun s =>
    { s with
      pending := []
      dev := s.dev.resetWith (keptMemory s.dev.mem) s.dev.keyTags
      board := { Board.reset with softerr := s.board.softerr }
      lease := { s.lease with state := .run, recovery := true } }.boot.answer 6 0 []

/-! ## The scrub and its record (R450, R451) -/

/-- Class entries of the record: the patterns and extents that R450 gives, and this part's where it gives none. -/
def recordClasses : List (Nat × Nat × Nat) :=
  let mib := 2 ^ 20
  let own := fun k => (k, Config.recordClass k)
  [(1, 0, 648 * mib), (2, 0, 54 * mib), (3, 0, 288 * mib), (4, 0, 288 * mib), (5, (Config.recordClass 5).1, 384 * mib),
    (6, 1, (Config.recordClass 6).2), own 7, (8, 0, 4 * mib), (9, 0, (Config.recordClass 9).2), (10, 0, 960 * 2 ^ 30),
    (11, 2, (Config.recordClass 11).2), (12, 3, (Config.recordClass 12).2)]

/-- Bytes 0 to 319 of the record. -/
def recordBody (l : Lease) : List Byte :=
  leBytes 4 0x5243534C ++ leBytes 4 1 ++ leBytes 8 l.lseq ++ leBytes 48 Config.serialNumber.toNat ++
    (recordClasses.flatMap fun c => leBytes 2 c.1 ++ leBytes 2 c.2.1 ++ leBytes 4 0 ++ leBytes 8 c.2.2) ++
    leBytes 16 15 ++ leBytes 48 l.lessee.toNat

/-- The 512 bytes of the record, signed by the device attestation key. -/
def scrubRecord (l : Lease) : List Byte :=
  let body := recordBody l
  body ++ leBytes 96 (Config.attestSign body).toNat ++ leBytes 96 0

/-- Memory after a scrub: the host's and the peers', and the flash but for the tenant's slot. -/
def scrubbedMemory (m : Memory) : Memory :=
  m.filter fun c =>
    (decide (2 ^ 64 ≤ c.1) && decide (c.1 < 2 ^ 100)) ||
      (inRegion c.1 1 flashBase flashBytes && !Config.tenantSlot (c.1 - flashBase))

/-- SCRUB_COMPLETE: every store is written and reset, the record is kept, and the state is CLEAN. -/
def execScrubComplete (s : State) : Outcome :=
  .next
    (if s.lease.state != .scrub || s.board.power == .d3cold then s
     else
      { s with
        pending := []
        dev := { s.dev.resetWith (scrubbedMemory s.dev.mem) [] with scrubbed := true }
        harts := hartsReset
        board := Board.reset
        lease := { s.lease with state := .clean, record := some (scrubRecord s.lease), image := .none, bootfail := false } })

/-! ## Power (R449, R453) -/

/-- Whether every function is idle. -/
def Dev.allIdle (d : Dev) : Bool :=
  d.teams.isEmpty && d.launches.isEmpty && d.cmds.isEmpty &&
    (List.range Config.numFuncs).all fun fn => (d.func fn).tags.isEmpty

/-- POWERSTATE_D3HOT_WRITE: taken when every function is idle, else refused. -/
def execPowerstateD3hotWrite (s : State) : Outcome :=
  .next
    (if !s.up then s
     else if s.dev.linkInsecure then s.hostRefused
     else if s.dev.allIdle then { s with pending := [], board := { s.board with power := .d3hot, d3refused := false } }
     else { s with board := { s.board with d3refused := true } })

/-- D3HOT_EXIT: the firmware complex starts from reset, with device memory kept. -/
def execD3hotExit (s : State) : Outcome :=
  .next
    (if s.board.power != .d3hot then s
     else
      let t := { s with board := { s.board with power := .d0, d3refused := false } }
      if s.lease.state == .run then t.boot else t)

/-- D3COLD_POWER_REMOVAL: the flash, the fuses and the lease controller's store stay. -/
def execD3coldPowerRemoval (s : State) : Outcome :=
  .next
    { s with
      pending := []
      dev := { s.dev.resetWith (flashMemory s.dev.mem ++ outsideMemory s.dev.mem) [] with scrubbed := false }
      harts := hartsReset
      board := { Board.reset with power := .d3cold }
      lease := { s.lease with image := .none, bootfail := false, reply := [] } }

/-- POWER_ON: an interrupted scrub starts again; a device that ran boots. -/
def execPowerOn (s : State) : Outcome :=
  .next
    (if s.board.power != .d3cold then s
     else
      let t := { s with board := { s.board with power := .d0 } }
      if s.lease.state == .run then t.boot else t)

def causeBit : ThrottleCause → Nat
  | .boardPower => 0
  | .coldPlate => 1
  | .current => 2

/-- THROTTLE_EVENT: the clock falls, to 600 MHz at the lowest. -/
def execThrottleEvent (cause : ThrottleCause) (clock : Nat) (s : State) : Outcome :=
  .next
    (if s.board.power == .d3cold then s
     else
      { s with board := { s.board with
          clock := max 6 (min clock s.board.clock), causes := s.board.causes ||| 2 ^ causeBit cause } })

/-- THROTTLE_CAUSE_CLEARED: the clock may rise again, to 1.3 GHz at the highest. -/
def execThrottleCauseCleared (cause : ThrottleCause) (s : State) : Outcome :=
  .next
    (if s.board.power == .d3cold then s
     else
      let b := s.board
      { s with board := { b with
          clock := b.clock + Config.clockRise s.dev.tick % (14 - b.clock)
          causes := if bit b.causes (causeBit cause) then b.causes - 2 ^ causeBit cause else b.causes } })

end Sys2Proof.Machine
end

