-- ==== Sys2Proof/Machine/LaneConv.lean ====
section
/-!
DEFINITION. The conversion words (spec/06 R147 to R151), each over the shared execution of a lane word (R133).
-/
namespace Sys2Proof.Machine

def execCvt (w : LaneWord) (st : State) : Outcome := laneArith 0x080 w opCvt st
def execPack (w : LaneWord) (st : State) : Outcome := laneArith 0x081 w opPack st
def execUnpk (w : LaneWord) (st : State) : Outcome := laneArith 0x082 w opUnpk st
def execTw2d (w : LaneWord) (st : State) : Outcome := laneArith 0x083 w opTw2d st

end Sys2Proof.Machine
end

