-- ==== Sys2Proof/Machine/LaneFloat.lean ====
section
/-!
DEFINITION. The float words (spec/06 R142 to R146), each over the shared execution of a lane word (R133).
-/
namespace Sys2Proof.Machine

def execFadd (w : LaneWord) (st : State) : Outcome := laneArith 0x040 w opFadd st
def execFsub (w : LaneWord) (st : State) : Outcome := laneArith 0x041 w opFsub st
def execFmul (w : LaneWord) (st : State) : Outcome := laneArith 0x042 w opFmul st
def execFma (w : LaneWord) (st : State) : Outcome := laneArith 0x043 w opFma st
def execFmin (w : LaneWord) (st : State) : Outcome := laneArith 0x044 w opFmin st
def execFmax (w : LaneWord) (st : State) : Outcome := laneArith 0x045 w opFmax st
def execFneg (w : LaneWord) (st : State) : Outcome := laneArith 0x046 w opFneg st
def execFabs (w : LaneWord) (st : State) : Outcome := laneArith 0x047 w opFabs st
def execFcmp (w : LaneWord) (st : State) : Outcome := laneArith 0x048 w opFcmp st
def execFclass (w : LaneWord) (st : State) : Outcome := laneArith 0x049 w opFclass st
def execFrnd (w : LaneWord) (st : State) : Outcome := laneArith 0x04A w opFrnd st
def execFrcp (w : LaneWord) (st : State) : Outcome := laneArith 0x04B w opFrcp st
def execFrsq (w : LaneWord) (st : State) : Outcome := laneArith 0x04C w opFrsq st
def execFsqrt (w : LaneWord) (st : State) : Outcome := laneArith 0x04D w opFsqrt st
def execFdiv (w : LaneWord) (st : State) : Outcome := laneArith 0x04E w opFdiv st
def execFexp2 (w : LaneWord) (st : State) : Outcome := laneArith 0x04F w opFexp2 st
def execFlog2 (w : LaneWord) (st : State) : Outcome := laneArith 0x050 w opFlog2 st
def execFsinpi (w : LaneWord) (st : State) : Outcome := laneArith 0x051 w opFsinpi st
def execFcospi (w : LaneWord) (st : State) : Outcome := laneArith 0x052 w opFcospi st
def execFtanh (w : LaneWord) (st : State) : Outcome := laneArith 0x053 w opFtanh st
def execFsigm (w : LaneWord) (st : State) : Outcome := laneArith 0x054 w opFsigm st
def execFcsgn (w : LaneWord) (st : State) : Outcome := laneArith 0x055 w opFcsgn st

end Sys2Proof.Machine
end

