-- ==== Sys2Proof/Machine/LaneInt.lean ====
section
/-!
DEFINITION. The integer words (spec/06 R137 to R141), each over the shared execution of a lane word (R133).
-/
namespace Sys2Proof.Machine

def execAdd (w : LaneWord) (st : State) : Outcome := laneArith 0x001 w opAdd st
def execSub (w : LaneWord) (st : State) : Outcome := laneArith 0x002 w opSub st
def execMul (w : LaneWord) (st : State) : Outcome := laneArith 0x003 w opMul st
def execMulh (w : LaneWord) (st : State) : Outcome := laneArith 0x004 w opMulh st
def execMad (w : LaneWord) (st : State) : Outcome := laneArith 0x005 w opMad st
def execAnd (w : LaneWord) (st : State) : Outcome := laneArith 0x006 w opAnd st
def execOr (w : LaneWord) (st : State) : Outcome := laneArith 0x007 w opOr st
def execXor (w : LaneWord) (st : State) : Outcome := laneArith 0x008 w opXor st
def execLop3 (w : LaneWord) (st : State) : Outcome := laneArith 0x009 w opLop3 st
def execShl (w : LaneWord) (st : State) : Outcome := laneArith 0x00A w opShl st
def execShr (w : LaneWord) (st : State) : Outcome := laneArith 0x00B w opShr st
def execSra (w : LaneWord) (st : State) : Outcome := laneArith 0x00C w opSra st
def execMin (w : LaneWord) (st : State) : Outcome := laneArith 0x00D w opMin st
def execMax (w : LaneWord) (st : State) : Outcome := laneArith 0x00E w opMax st
def execAbs (w : LaneWord) (st : State) : Outcome := laneArith 0x00F w opAbs st
def execNeg (w : LaneWord) (st : State) : Outcome := laneArith 0x010 w opNeg st
def execClz (w : LaneWord) (st : State) : Outcome := laneArith 0x011 w opClz st
def execPopc (w : LaneWord) (st : State) : Outcome := laneArith 0x012 w opPopc st
def execBrev (w : LaneWord) (st : State) : Outcome := laneArith 0x013 w opBrev st
def execBfe (w : LaneWord) (st : State) : Outcome := laneArith 0x014 w opBfe st
def execBfi (w : LaneWord) (st : State) : Outcome := laneArith 0x015 w opBfi st
def execSel (w : LaneWord) (st : State) : Outcome := laneArith 0x016 w opSel st
def execCmp (w : LaneWord) (st : State) : Outcome := laneArith 0x017 w opCmp st
def execDiv (w : LaneWord) (st : State) : Outcome := laneArith 0x018 w opDiv st
def execRem (w : LaneWord) (st : State) : Outcome := laneArith 0x019 w opRem st
def execAddsat (w : LaneWord) (st : State) : Outcome := laneArith 0x01A w opAddsat st
def execSubsat (w : LaneWord) (st : State) : Outcome := laneArith 0x01B w opSubsat st
def execDp2 (w : LaneWord) (st : State) : Outcome := laneArith 0x01C w opDp2 st
def execDp4 (w : LaneWord) (st : State) : Outcome := laneArith 0x01D w opDp4 st
def execShrr (w : LaneWord) (st : State) : Outcome := laneArith 0x01E w opShrr st
def execMov (w : LaneWord) (st : State) : Outcome := laneArith 0x01F w opMov st
def execMovi (w : LaneWord) (st : State) : Outcome := laneArith 0x020 w opMovi st
def execPlop (w : LaneWord) (st : State) : Outcome := laneArith 0x021 w opPlop st

end Sys2Proof.Machine
end

