-- ==== Sys2Proof/Machine/Outside.lean ====
section
/-!
DEFINITION. What reaches the device, or happens in it, that no step of the table names (log 76): soft errors (spec/20 R430;
spec/22 R452), a host's read of the PF's BAR0 (R440), a write through the flash interface of the baseline image (R444), and what
the instructions of a firmware hart do besides loads and stores (R444, R445).
-/
namespace Sys2Proof.Machine

/-- The word of 64 bits that holds a byte becomes poison. -/
def poisonWord (ps : List Nat) (key : Nat) : List Nat :=
  (List.range 8).foldl (fun ps i => if ps.contains (key / 8 * 8 + i) then ps else ps ++ [key / 8 * 8 + i]) ps

/-- A register whose parity breaks: only a full one is read. -/
def badCell (c : RegCell) : RegCell := if c.isFull then .bad else c

def Dev.mapShuttle (d : Dev) (sh : Nat) (f : Shuttle → Shuttle) : Dev :=
  match d.shuttle sh with
  | some s => d.setShuttle (f s)
  | none => d

/-- The bytes of the PF's BAR0 from an offset on. -/
def State.pfBytes (s : State) (off n : Nat) : List Byte :=
  (List.range n).map fun i => (leBytes 8 (s.pfWord ((off + i) / 8 * 8))).getD ((off + i) % 8) 0

/-- A host's read of the PF's BAR0, whose traffic the link stream carries. -/
def State.pfRead (s : State) (off n : Nat) : State :=
  if s.dev.linkInsecure || off + n > 65536 || n == 0 then s.hostRefused
  else { s with board := { s.board with hostReply := some (s.pfBytes off n), hostError := false } }

/-- A write through the flash interface, which the baseline image alone has. -/
def State.flashWrite (s : State) (off : Nat) (bs : List Byte) : State :=
  if s.lease.image == .baseline && off + bs.length ≤ flashBytes then
    { s with dev := { s.dev with mem := writeBytes s.dev.mem (flashBase + off) bs } }
  else s

/-- What something from outside the table does to a device that is up. -/
def State.outsideUp (s : State) (x : Outside) : State :=
  let hart := fun (h : Nat) (f : Hart → Hart) => s.hartStep h f
  match x with
  | .corrected k => if k < 4 then { s with board := s.board.countError k } else s
  | .uncorrectable key =>
    { s with dev := { s.dev with poison := poisonWord s.dev.poison key }, board := s.board.countError 4 }
  | .badScalar sh n =>
    { s with
      dev := s.dev.mapShuttle sh fun t => t.setSreg n (badCell (t.sreg n)), board := s.board.countError 5 }
  | .badVector sh beat n =>
    { s with
      dev := s.dev.mapShuttle sh fun t => t.setVreg beat n (badCell (t.vreg beat n)), board := s.board.countError 5 }
  | .pfRead off n => s.pfRead off n
  | .flashWrite off bs => if s.complexUp then s.flashWrite off bs else s
  | .hartCsr h csr v => hart h fun x => x.writeCsr csr v
  | .hartReg h rd v => hart h fun x => x.setX rd v
  | .hartFreg h rd v => hart h fun x => { x with fregs := putK 0 x.fregs (rd % 32) (v % 2 ^ 64) }
  | .hartGo h pc => hart h fun x => { x with pc := pc % 2 ^ 64 }
  | .hartTrap h cause tval => hart h fun x => x.take (cause % 64) (tval % 2 ^ 64)
  | .hartRet h machine => hart h fun x => x.ret machine
  | .hartPend h code on => if s.complexUp then s.mapHart h fun x => x.pend code on else s
  | .hartInterrupt h => if s.complexUp then s.mapHart h Hart.interrupted else s
  | .hartBoot h => s.romJump h
  | .unbindEnd q => { s with dev := s.dev.endUnbind q }

/-- Something from outside the table; a device that is halted or without power takes nothing. -/
def execOutside (x : Outside) (s : State) : Outcome := .next (if s.up then s.outsideUp x else s)

end Sys2Proof.Machine
end

