-- ==== Sys2Proof/Machine/XIssue.lean ====
section
/-!
DEFINITION. The issue register (spec/04 R101, R102; spec/08 R219 to R221).
-/
namespace Sys2Proof.Machine

/-- An enclosing quiet `xissue`: its predicate, or none for the plain form. -/
abbrev Quiet := Option Nat

/-- The progress through the groups of an `xissue`. -/
structure XState where
  d : Dev
  s : Shuttle
  e : Entry
  out : List Entry
  stop : Option LaneFin

/-- Whether a word may be issued (R101, step 2a): `xissue` itself at depth 1 only. -/
def xPermitted (opc : Nat) (w : LaneWord) (depth : Nat) : Bool :=
  !w.u &&
    (decide (opc ≤ 0x083) || (decide (0x0A0 ≤ opc) && decide (opc ≤ 0x0A3)) || opc == 0x0F4 || opc == 0x0FB ||
      (opc == 0x0F7 && depth == 1))

/-- The checks of R100 with step 2a on a held word: the SUB of the first rule broken. -/
def xCheck (c : LaneCtx) (s : Shuttle) (depth word : Nat) : Option Nat :=
  let opc := opcOf word
  let w := laneFieldsOf word
  match laneRow opc with
  | none => some 0
  | some row =>
    if laneUnassigned opc row w then some 0
    else if bit word 32 || laneReserved opc row w || (opc == 0x0F5 && decide (w.x % 65536 ≥ c.env.nest.shared.length)) then some 1
    else if !xPermitted opc w depth then some 7
    else (laneIllegal opc row w c.env.nest.nv c.env.nest.tiles (s.inq c.env.nest) (s.outq c.env.nest)).map (·.1)

/-- The predicate of a thread in the enclosing quiet forms, innermost first: the form that reports a fault writes 1,
the others 0 (R220). A fault at a depth is reported by the innermost quiet form, if there is one. -/
def reportQuiet (s : Shuttle) (beat : Nat) (fault : Bool) : List Quiet → Shuttle
  | [] => s
  | none :: qs => reportQuiet s beat fault qs
  | some p :: qs => reportQuiet (s.setPred beat p fault) beat false qs

/-- A thread's word has completed. -/
def XState.completed (x : XState) (beats : List Nat) (qs : List Quiet) : XState :=
  { x with
    s := beats.foldl (fun s b => reportQuiet s b false qs) x.s
    e := { x.e with done := x.e.done ++ beats, popped := x.e.popped.filter fun p => !beats.contains p.1,
                    pushed := x.e.pushed.filter fun b => !beats.contains b } }

/-- A group's word is illegal: reported quietly, or kept for the trap. -/
def XState.faulted (x : XState) (beats : List Nat) (qs : List Quiet) (sub depth word : Nat) : XState :=
  if qs.any Option.isSome then
    { x with
      s := beats.foldl (fun s b => reportQuiet s b true qs) x.s
      e := { x.e with left := x.e.left ++ beats } }
  else
    { x with e := { x.e with
        xfaults := x.e.xfaults ++ beats.map fun b => { beat := b, sub := sub, depth := depth, word := word } } }

/-- Detail words of the faults found (R220). -/
def xDetail0 (e : Entry) (done : List Nat) : Nat :=
  match e.xfaults with
  | [] => beatMask done * 2 ^ 24
  | f :: _ =>
    let same := e.xfaults.filter fun g => g.word == f.word && g.depth == f.depth
    beatMask done * 2 ^ 24 + f.depth * 2 ^ 16 + beatMask (same.map (·.beat)) * 2 ^ 8 +
      beatMask (e.xfaults.map (·.beat))
def xDetail1 (e : Entry) : Nat := e.xfaults.foldl (fun n f => n + f.sub * 2 ^ (3 * f.beat)) 0

/-- A trap inside a group (R221): a full/empty fault names the whole group and what was done and found before it. -/
def groupTrap (x : XState) (g : List Nat) (t : LaneTrap) : LaneTrap :=
  if t.cause == 3 then { t with threads := g, detail0 := xDetail0 x.e x.e.done, detail1 := xDetail1 x.e } else t

/-- The trap of the illegal words that no quiet form reported. -/
def illegalWordTrap (e : Entry) : Option LaneTrap :=
  match e.xfaults with
  | [] => none
  | f :: _ =>
    some
      { cause := 4, sub := f.sub, threads := e.xfaults.map (·.beat), words := laneParts f.word,
        detail0 := xDetail0 e [], detail1 := xDetail1 e, skip := true }

/-- The threads of an `xissue` whose words are still to come. -/
def XState.pendingOf (x : XState) (set : List Nat) : List Nat :=
  set.filter fun b =>
    !x.e.done.contains b && !x.e.left.contains b && !(x.e.xfaults.any fun f => f.beat == b) &&
      !(x.out.any fun o => o.beats.contains b)

/-- Three vector registers as 96 bits. -/
def Shuttle.heldWord (s : Shuttle) (beat a : Nat) : Nat :=
  (s.vreg beat a).val + 2 ^ 32 * (s.vreg beat (a + 1)).val + 2 ^ 64 * (s.vreg beat (a + 2)).val

/-- The word of a thread at a depth: that of a thread that parked in it, or its registers. -/
def xWord (s : Shuttle) (e : Entry) (depth beat a : Nat) : Nat :=
  match e.held.find? fun h => h.beat == beat && decide (h.words.length ≥ depth) with
  | some h => h.words.getD (depth - 1) 0
  | none => s.heldWord beat a

/-- Whether a thread's word is read from its registers. -/
def xReads (e : Entry) (depth beat : Nat) : Bool :=
  !(e.held.any fun h => h.beat == beat && decide (h.words.length ≥ depth))

/-- Whether a word register of a thread is empty. -/
def xStarved (s : Shuttle) (e : Entry) (depth a beat : Nat) : Bool :=
  xReads e depth beat && (List.range 3).any fun k => !(s.vreg beat (a + k)).present

/-- Whether a word register of a thread has broken parity (R430). -/
def xBad (s : Shuttle) (e : Entry) (depth a beat : Nat) : Bool :=
  xReads e depth beat && (List.range 3).any fun k => (s.vreg beat (a + k)).isBad

/-- The threads grouped by their words, in the order of the lowest beat of each group. -/
def xGroups (s : Shuttle) (e : Entry) (depth a : Nat) (beats : List Nat) : List (Nat × List Nat) :=
  groupBy (beats.map fun b => (b, xWord s e depth b a))

/-- The word of a group is executed under R133 with the group as its active set. -/
def xExecute (c : LaneCtx) (x : XState) (g : List Nat) (word : Nat) (path : List Nat) (qs : List Quiet) : XState :=
  let opc := opcOf word
  match laneRow opc with
  | none => x
  | some row =>
    let r : LaneRun :=
      { opc := opc, row := row, w := laneFieldsOf word, set := g, path := path, raw := laneParts word }
    let st := innerWord c r x.d x.s x.e
    let x' : XState := { x with d := st.d, s := st.s, e := st.e, out := x.out ++ st.out }
    match st.fin with
    | .moved => x'.completed (staying g st.out) qs
    | .waiting => { x' with stop := some .waiting }
    | .trapped t => { x' with stop := some (.trapped (groupTrap x' g t)) }

/-- A group at depth 2. -/
def xGroup2 (c : LaneCtx) (outer : Nat) (qs : List Quiet) (x : XState) (g : Nat × List Nat) : XState :=
  if x.stop.isSome then x
  else
    match xCheck c x.s 2 g.1 with
    | some sub => x.faulted g.2 qs sub 2 g.1
    | none => xExecute c x g.2 g.1 [outer, g.1] qs

/-- The predicate of an `xissue` word's quiet form. -/
def quietOf (w : LaneWord) : Quiet := if w.x % 2 == 1 then some w.d else none

/-- A nested `xissue` in a group (R219). -/
def xNested (c : LaneCtx) (x : XState) (g : List Nat) (word : Nat) (qs : List Quiet) : XState :=
  let w := laneFieldsOf word
  let ex := g.filter (guardHolds x.s w.pg)
  let x := x.completed (g.filter fun b => !ex.contains b) qs
  if ex.any (xStarved x.s x.e 2 w.a) then
    if eBit w 0 w.a then
      { x with stop := some (.trapped (groupTrap x g
          { cause := 3, sub := 0, threads := g, operand := w.a, words := laneParts word })) }
    else { x with stop := some .waiting }
  else if ex.any (xBad x.s x.e 2 w.a) then
    { x with stop := some (.trapped
        { cause := 0x13, sub := 0, threads := ex.filter (xBad x.s x.e 2 w.a), words := laneParts word }) }
  else (xGroups x.s x.e 2 w.a ex).foldl (xGroup2 c word (quietOf w :: qs)) x

/-- A group at depth 1. -/
def xGroup1 (c : LaneCtx) (qs : List Quiet) (x : XState) (g : Nat × List Nat) : XState :=
  if x.stop.isSome then x
  else
    match xCheck c x.s 1 g.1 with
    | some sub => x.faulted g.2 qs sub 1 g.1
    | none => if opcOf g.1 == 0x0F7 then xNested c x g.2 g.1 qs else xExecute c x g.2 g.1 [g.1] qs

/-- `xissue` (R219): the threads whose words are still to come, group by group. -/
def xissueWord (c : LaneCtx) (r : LaneRun) (d : Dev) (s : Shuttle) (e : Entry) : LaneStep :=
  let x : XState := { d := d, s := s, e := e, out := [], stop := none }
  let ex := x.pendingOf (r.ex s)
  let short := ex.filter (xStarved s e 1 r.w.a)
  if !short.isEmpty then
    { d := d, s := s, e := e, out := [],
      fin := if eBit r.w 0 r.w.a then
          .trapped { cause := 3, sub := 0, threads := short, operand := r.w.a, words := r.raw }
        else .waiting }
  else if ex.any (xBad s e 1 r.w.a) then
    { d := d, s := s, e := e, out := [],
      fin := .trapped { cause := 0x13, sub := 0, threads := ex.filter (xBad s e 1 r.w.a), words := r.raw } }
  else
    let x := (xGroups s e 1 r.w.a ex).foldl (xGroup1 c [quietOf r.w]) x
    let fin := match x.stop with
      | some f => f
      | none =>
        match illegalWordTrap x.e with
        | some t => .trapped t
        | none => .moved
    { d := x.d, s := x.s, e := x.e, out := x.out, fin := fin }

def execXissue (w : LaneWord) (st : State) : Outcome := laneWord 0x0F7 w xissueWord st

end Sys2Proof.Machine
end

