-- ==== Sys2Proof/Machine/Dispatch.lean ====
section
/-!
DEFINITION. What each step does: one arm per constructor, each one direct call of its meaning.
-/
namespace Sys2Proof.Machine

def exec (i : Instr) (s : State) : Host.Outcome State Fault Refusal :=
  match i with
  | .smov x y => Sys2Proof.Machine.execSmov x y s
  | .sadd x y => Sys2Proof.Machine.execSadd x y s
  | .ssub x y => Sys2Proof.Machine.execSsub x y s
  | .sand x y => Sys2Proof.Machine.execSand x y s
  | .sor x y => Sys2Proof.Machine.execSor x y s
  | .sxor x y => Sys2Proof.Machine.execSxor x y s
  | .sshl x y => Sys2Proof.Machine.execSshl x y s
  | .sshr x y => Sys2Proof.Machine.execSshr x y s
  | .ssra x y => Sys2Proof.Machine.execSsra x y s
  | .smul x y => Sys2Proof.Machine.execSmul x y s
  | .smulh x y => Sys2Proof.Machine.execSmulh x y s
  | .smulhu x y => Sys2Proof.Machine.execSmulhu x y s
  | .sdiv x y => Sys2Proof.Machine.execSdiv x y s
  | .sdivu x y => Sys2Proof.Machine.execSdivu x y s
  | .srem x y => Sys2Proof.Machine.execSrem x y s
  | .sremu x y => Sys2Proof.Machine.execSremu x y s
  | .smin x y => Sys2Proof.Machine.execSmin x y s
  | .smax x y => Sys2Proof.Machine.execSmax x y s
  | .sminu x y => Sys2Proof.Machine.execSminu x y s
  | .smaxu x y => Sys2Proof.Machine.execSmaxu x y s
  | .sslt x y => Sys2Proof.Machine.execSslt x y s
  | .ssltu x y => Sys2Proof.Machine.execSsltu x y s
  | .sseq x y => Sys2Proof.Machine.execSseq x y s
  | .snot x y => Sys2Proof.Machine.execSnot x y s
  | .sclz x y => Sys2Proof.Machine.execSclz x y s
  | .spopc x y => Sys2Proof.Machine.execSpopc x y s
  | .sbrev x y => Sys2Proof.Machine.execSbrev x y s
  | .sneg x y => Sys2Proof.Machine.execSneg x y s
  | .smov64 x y => Sys2Proof.Machine.execSmov64 x y s
  | .sadd64 x y => Sys2Proof.Machine.execSadd64 x y s
  | .ssub64 x y => Sys2Proof.Machine.execSsub64 x y s
  | .sshl64 x y => Sys2Proof.Machine.execSshl64 x y s
  | .sshr64 x y => Sys2Proof.Machine.execSshr64 x y s
  | .ssra64 x y => Sys2Proof.Machine.execSsra64 x y s
  | .smul64 x y => Sys2Proof.Machine.execSmul64 x y s
  | .sli x imm => Sys2Proof.Machine.execSli x imm s
  | .sli64 x imm => Sys2Proof.Machine.execSli64 x imm s
  | .saddi x imm => Sys2Proof.Machine.execSaddi x imm s
  | .sandi x imm => Sys2Proof.Machine.execSandi x imm s
  | .sori x imm => Sys2Proof.Machine.execSori x imm s
  | .sxori x imm => Sys2Proof.Machine.execSxori x imm s
  | .sshli x imm => Sys2Proof.Machine.execSshli x imm s
  | .sshri x imm => Sys2Proof.Machine.execSshri x imm s
  | .ssrai x imm => Sys2Proof.Machine.execSsrai x imm s
  | .ssltiu x imm => Sys2Proof.Machine.execSsltiu x imm s
  | .saddi64 x imm => Sys2Proof.Machine.execSaddi64 x imm s
  | .sxt h body => Sys2Proof.Machine.execSxt h body s
  | .sld x y off => Sys2Proof.Machine.execSld x y off s
  | .sld64 x y off => Sys2Proof.Machine.execSld64 x y off s
  | .sld128 x y off => Sys2Proof.Machine.execSld128 x y off s
  | .sst x y off => Sys2Proof.Machine.execSst x y off s
  | .sst64 x y off => Sys2Proof.Machine.execSst64 x y off s
  | .sst128 x y off => Sys2Proof.Machine.execSst128 x y off s
  | .sldacq x y off => Sys2Proof.Machine.execSldacq x y off s
  | .sstrel x y off => Sys2Proof.Machine.execSstrel x y off s
  | .satom x y f ord aop t z => Sys2Proof.Machine.execSatom x y f ord aop t z s
  | .sbr off => Sys2Proof.Machine.execSbr off s
  | .sbz x off => Sys2Proof.Machine.execSbz x off s
  | .sbnz x off => Sys2Proof.Machine.execSbnz x off s
  | .sblz x off => Sys2Proof.Machine.execSblz x off s
  | .sbgez x off => Sys2Proof.Machine.execSbgez x off s
  | .scall x off => Sys2Proof.Machine.execScall x off s
  | .sjr x => Sys2Proof.Machine.execSjr x s
  | .sjrL x y => Sys2Proof.Machine.execSjrL x y s
  | .sloop x off => Sys2Proof.Machine.execSloop x off s
  | .sfet x y => Sys2Proof.Machine.execSfet x y s
  | .swfull x => Sys2Proof.Machine.execSwfull x s
  | .sempt x => Sys2Proof.Machine.execSempt x s
  | .sidx x k => Sys2Proof.Machine.execSidx x k s
  | .smapq x sel => Sys2Proof.Machine.execSmapq x sel s
  | .srgnb k => Sys2Proof.Machine.execSrgnb k s
  | .srgne k => Sys2Proof.Machine.execSrgne k s
  | .sbar k id => Sys2Proof.Machine.execSbar k id s
  | .sfenceSc k => Sys2Proof.Machine.execSfenceSc k s
  | .sfenceAcqrel => Sys2Proof.Machine.execSfenceAcqrel s
  | .sfenceRel => Sys2Proof.Machine.execSfenceRel s
  | .sfenceAcq => Sys2Proof.Machine.execSfenceAcq s
  | .sirb id => Sys2Proof.Machine.execSirb id s
  | .sirc x id => Sys2Proof.Machine.execSirc x id s
  | .lrun x y n entry => Sys2Proof.Machine.execLrun x y n entry s
  | .lsync => Sys2Proof.Machine.execLsync s
  | .sshare x y f => Sys2Proof.Machine.execSshare x y f s
  | .scoll x y k op => Sys2Proof.Machine.execScoll x y k op s
  | .sprfx x y k op => Sys2Proof.Machine.execSprfx x y k op s
  | .sslide x y k width fill d => Sys2Proof.Machine.execSslide x y k width fill d s
  | .sbcast x y k rank => Sys2Proof.Machine.execSbcast x y k rank s
  | .spawn x y n target => Sys2Proof.Machine.execSpawn x y n target s
  | .selct x k => Sys2Proof.Machine.execSelct x k s
  | .ssetfmt x => Sys2Proof.Machine.execSsetfmt x s
  | .scpy x y restart r => Sys2Proof.Machine.execScpy x y restart r s
  | .swaitc x y => Sys2Proof.Machine.execSwaitc x y s
  | .ssig x y op ord loc d sreg => Sys2Proof.Machine.execSsig x y op ord loc d sreg s
  | .sthd x y h => Sys2Proof.Machine.execSthd x y h s
  | .smma x y sreg own zero pair tile => Sys2Proof.Machine.execSmma x y sreg own zero pair tile s
  | .smacq own tile => Sys2Proof.Machine.execSmacq own tile s
  | .smrel own tile => Sys2Proof.Machine.execSmrel own tile s
  | .smld x y tile sreg e bf own => Sys2Proof.Machine.execSmld x y tile sreg e bf own s
  | .smst x y tile sreg e own => Sys2Proof.Machine.execSmst x y tile sreg e own s
  | .sscan x y c first last => Sys2Proof.Machine.execSscan x y c first last s
  | .sscw x c => Sys2Proof.Machine.execSscw x c s
  | .sacc x y q => Sys2Proof.Machine.execSacc x y q s
  | .sbankScr x e => Sys2Proof.Machine.execSbankScr x e s
  | .sbankFifo x y e => Sys2Proof.Machine.execSbankFifo x y e s
  | .sbankRel x e => Sys2Proof.Machine.execSbankRel x e s
  | .sbankTake x y fifo e => Sys2Proof.Machine.execSbankTake x y fifo e s
  | .slaunch x y => Sys2Proof.Machine.execSlaunch x y s
  | .sarm x y tag count => Sys2Proof.Machine.execSarm x y tag count s
  | .strap code => Sys2Proof.Machine.execStrap code s
  | .strapRet => Sys2Proof.Machine.execStrapRet s
  | .sbrk => Sys2Proof.Machine.execSbrk s
  | .sexit => Sys2Proof.Machine.execSexit s
  | .scsrR x csr => Sys2Proof.Machine.execScsrR x csr s
  | .scsrW x csr => Sys2Proof.Machine.execScsrW x csr s
  | .syield => Sys2Proof.Machine.execSyield s
  | .snop => Sys2Proof.Machine.execSnop s
  | .scyc x => Sys2Proof.Machine.execScyc x s
  | .add w => Sys2Proof.Machine.execAdd w s
  | .sub w => Sys2Proof.Machine.execSub w s
  | .mul w => Sys2Proof.Machine.execMul w s
  | .mulh w => Sys2Proof.Machine.execMulh w s
  | .mad w => Sys2Proof.Machine.execMad w s
  | .and w => Sys2Proof.Machine.execAnd w s
  | .or w => Sys2Proof.Machine.execOr w s
  | .xor w => Sys2Proof.Machine.execXor w s
  | .lop3 w => Sys2Proof.Machine.execLop3 w s
  | .shl w => Sys2Proof.Machine.execShl w s
  | .shr w => Sys2Proof.Machine.execShr w s
  | .sra w => Sys2Proof.Machine.execSra w s
  | .min w => Sys2Proof.Machine.execMin w s
  | .max w => Sys2Proof.Machine.execMax w s
  | .abs w => Sys2Proof.Machine.execAbs w s
  | .neg w => Sys2Proof.Machine.execNeg w s
  | .clz w => Sys2Proof.Machine.execClz w s
  | .popc w => Sys2Proof.Machine.execPopc w s
  | .brev w => Sys2Proof.Machine.execBrev w s
  | .bfe w => Sys2Proof.Machine.execBfe w s
  | .bfi w => Sys2Proof.Machine.execBfi w s
  | .sel w => Sys2Proof.Machine.execSel w s
  | .cmp w => Sys2Proof.Machine.execCmp w s
  | .div w => Sys2Proof.Machine.execDiv w s
  | .rem w => Sys2Proof.Machine.execRem w s
  | .addsat w => Sys2Proof.Machine.execAddsat w s
  | .subsat w => Sys2Proof.Machine.execSubsat w s
  | .dp2 w => Sys2Proof.Machine.execDp2 w s
  | .dp4 w => Sys2Proof.Machine.execDp4 w s
  | .shrr w => Sys2Proof.Machine.execShrr w s
  | .mov w => Sys2Proof.Machine.execMov w s
  | .movi w => Sys2Proof.Machine.execMovi w s
  | .plop w => Sys2Proof.Machine.execPlop w s
  | .fadd w => Sys2Proof.Machine.execFadd w s
  | .fsub w => Sys2Proof.Machine.execFsub w s
  | .fmul w => Sys2Proof.Machine.execFmul w s
  | .fma w => Sys2Proof.Machine.execFma w s
  | .fmin w => Sys2Proof.Machine.execFmin w s
  | .fmax w => Sys2Proof.Machine.execFmax w s
  | .fneg w => Sys2Proof.Machine.execFneg w s
  | .fabs w => Sys2Proof.Machine.execFabs w s
  | .fcmp w => Sys2Proof.Machine.execFcmp w s
  | .fclass w => Sys2Proof.Machine.execFclass w s
  | .frnd w => Sys2Proof.Machine.execFrnd w s
  | .frcp w => Sys2Proof.Machine.execFrcp w s
  | .frsq w => Sys2Proof.Machine.execFrsq w s
  | .fsqrt w => Sys2Proof.Machine.execFsqrt w s
  | .fdiv w => Sys2Proof.Machine.execFdiv w s
  | .fexp2 w => Sys2Proof.Machine.execFexp2 w s
  | .flog2 w => Sys2Proof.Machine.execFlog2 w s
  | .fsinpi w => Sys2Proof.Machine.execFsinpi w s
  | .fcospi w => Sys2Proof.Machine.execFcospi w s
  | .ftanh w => Sys2Proof.Machine.execFtanh w s
  | .fsigm w => Sys2Proof.Machine.execFsigm w s
  | .fcsgn w => Sys2Proof.Machine.execFcsgn w s
  | .cvt w => Sys2Proof.Machine.execCvt w s
  | .pack w => Sys2Proof.Machine.execPack w s
  | .unpk w => Sys2Proof.Machine.execUnpk w s
  | .tw2d w => Sys2Proof.Machine.execTw2d w s
  | .ld w => Sys2Proof.Machine.execLd w s
  | .st w => Sys2Proof.Machine.execSt w s
  | .atom w => Sys2Proof.Machine.execAtom w s
  | .red w => Sys2Proof.Machine.execRed w s
  | .pf w => Sys2Proof.Machine.execPf w s
  | .cln w => Sys2Proof.Machine.execCln w s
  | .tbeg w => Sys2Proof.Machine.execTbeg w s
  | .tend w => Sys2Proof.Machine.execTend w s
  | .tabt w => Sys2Proof.Machine.execTabt w s
  | .tsts w => Sys2Proof.Machine.execTsts w s
  | .bra w => Sys2Proof.Machine.execBra w s
  | .brr w => Sys2Proof.Machine.execBrr w s
  | .lcall w => Sys2Proof.Machine.execLcall w s
  | .lend w => Sys2Proof.Machine.execLend w s
  | .lidx w => Sys2Proof.Machine.execLidx w s
  | .lshb w => Sys2Proof.Machine.execLshb w s
  | .lvote w => Sys2Proof.Machine.execLvote w s
  | .xissue w => Sys2Proof.Machine.execXissue w s
  | .lfmt w => Sys2Proof.Machine.execLfmt w s
  | .rdflg w => Sys2Proof.Machine.execRdflg w s
  | .clrflg w => Sys2Proof.Machine.execClrflg w s
  | .lnop w => Sys2Proof.Machine.execLnop w s
  | .ltrap w => Sys2Proof.Machine.execLtrap w s
  | .accrd w => Sys2Proof.Machine.execAccrd w s
  | .accwr w => Sys2Proof.Machine.execAccwr w s
  | .bperm w => Sys2Proof.Machine.execBperm w s
  | .producerFill sh id => Sys2Proof.Machine.execProducerFill sh id s
  | .teamTermination team => Sys2Proof.Machine.execTeamTermination team s
  | .fifoPop sh id => Sys2Proof.Machine.execFifoPop sh id s
  | .fifoPush sh id => Sys2Proof.Machine.execFifoPush sh id s
  | .copyWaiterWake cmd => Sys2Proof.Machine.execCopyWaiterWake cmd s
  | .translationWalk sh id => Sys2Proof.Machine.execTranslationWalk sh id s
  | .faultReplay fn id => Sys2Proof.Machine.execFaultReplay fn id s
  | .transactionCommit sh beat => Sys2Proof.Machine.execTransactionCommit sh beat s
  | .serialTokenGrant fn => Sys2Proof.Machine.execSerialTokenGrant fn s
  | .txnLogRoomGrant cluster => Sys2Proof.Machine.execTxnLogRoomGrant cluster s
  | .copyEngineGrant part => Sys2Proof.Machine.execCopyEngineGrant part s
  | .copySegment cmd => Sys2Proof.Machine.execCopySegment cmd s
  | .copyBudgetPause cmd => Sys2Proof.Machine.execCopyBudgetPause cmd s
  | .copyComplete cmd => Sys2Proof.Machine.execCopyComplete cmd s
  | .operandFetch op sideB => Sys2Proof.Machine.execOperandFetch op sideB s
  | .accessStreamPush stream => Sys2Proof.Machine.execAccessStreamPush stream s
  | .matrixOpRetire core => Sys2Proof.Machine.execMatrixOpRetire core s
  | .scanTileRun tile => Sys2Proof.Machine.execScanTileRun tile s
  | .carryReceipt tile => Sys2Proof.Machine.execCarryReceipt tile s
  | .chainCompletion chain core => Sys2Proof.Machine.execChainCompletion chain core s
  | .qbindUnbind fn q => Sys2Proof.Machine.execQbindUnbind fn q s
  | .blockAdmit q => Sys2Proof.Machine.execBlockAdmit q s
  | .prologueRun launch => Sys2Proof.Machine.execPrologueRun launch s
  | .launchMap launch => Sys2Proof.Machine.execLaunchMap launch s
  | .teamDispatch part => Sys2Proof.Machine.execTeamDispatch part s
  | .teamSave team => Sys2Proof.Machine.execTeamSave team s
  | .teamDiscard team => Sys2Proof.Machine.execTeamDiscard team s
  | .mailboxMessage dom src tag payload => Sys2Proof.Machine.execMailboxMessage dom src tag payload s
  | .mailboxFire fn => Sys2Proof.Machine.execMailboxFire fn s
  | .inboundFabricRequest r => Sys2Proof.Machine.execInboundFabricRequest r s
  | .hostBar2Access fn off size write data => Sys2Proof.Machine.execHostBar2Access fn off size write data s
  | .bloadLoad fn addr => Sys2Proof.Machine.execBloadLoad fn addr s
  | .bloadUnload fn addr => Sys2Proof.Machine.execBloadUnload fn addr s
  | .keySlotChangeComplete fn => Sys2Proof.Machine.execKeySlotChangeComplete fn s
  | .budgetUnitCharge fn => Sys2Proof.Machine.execBudgetUnitCharge fn s
  | .sliceEnd part => Sys2Proof.Machine.execSliceEnd part s
  | .unassignedOpcode sub => Sys2Proof.Machine.execUnassignedOpcode sub s
  | .l2RemapComplete fn => Sys2Proof.Machine.execL2RemapComplete fn s
  | .tinvComplete fn => Sys2Proof.Machine.execTinvComplete fn s
  | .fqresUnrecoverable fn id => Sys2Proof.Machine.execFqresUnrecoverable fn id s
  | .ualinkErrorCompletion sender addr => Sys2Proof.Machine.execUalinkErrorCompletion sender addr s
  | .flitParityError agent die => Sys2Proof.Machine.execFlitParityError agent die s
  | .hartMemoryAccess r => Sys2Proof.Machine.execHartMemoryAccess r s
  | .keyctlLoad fn slot => Sys2Proof.Machine.execKeyctlLoad fn slot s
  | .keyctlDraw fn slot => Sys2Proof.Machine.execKeyctlDraw fn slot s
  | .pdescWrite p ext v => Sys2Proof.Machine.execPdescWrite p ext v s
  | .memShareWrite fn size v => Sys2Proof.Machine.execMemShareWrite fn size v s
  | .fdomWrite fn v => Sys2Proof.Machine.execFdomWrite fn v s
  | .errsWrite fn v => Sys2Proof.Machine.execErrsWrite fn v s
  | .fqsWrite fn v => Sys2Proof.Machine.execFqsWrite fn v s
  | .registerWrite addr v => Sys2Proof.Machine.execRegisterWrite addr v s
  | .functionLevelReset fn => Sys2Proof.Machine.execFunctionLevelReset fn s
  | .pfFlr => Sys2Proof.Machine.execPfFlr s
  | .powerstateD3hotWrite => Sys2Proof.Machine.execPowerstateD3hotWrite s
  | .d3hotExit => Sys2Proof.Machine.execD3hotExit s
  | .d3coldPowerRemoval => Sys2Proof.Machine.execD3coldPowerRemoval s
  | .throttleEvent cause clock => Sys2Proof.Machine.execThrottleEvent cause clock s
  | .getstate => Sys2Proof.Machine.execGetstate s
  | .scrub => Sys2Proof.Machine.execScrub s
  | .getrecord piece => Sys2Proof.Machine.execGetrecord piece s
  | .setlessee hash => Sys2Proof.Machine.execSetlessee hash s
  | .release => Sys2Proof.Machine.execRelease s
  | .recover => Sys2Proof.Machine.execRecover s
  | .powerOn => Sys2Proof.Machine.execPowerOn s
  | .linkCrcError link => Sys2Proof.Machine.execLinkCrcError link s
  | .throttleCauseCleared cause => Sys2Proof.Machine.execThrottleCauseCleared cause s
  | .queueNotify fn q => Sys2Proof.Machine.execQueueNotify fn q s
  | .ideIntegrityFailure fn => Sys2Proof.Machine.execIdeIntegrityFailure fn s
  | .spdmRequest r => Sys2Proof.Machine.execSpdmRequest r s
  | .bcmdRefill fn => Sys2Proof.Machine.execBcmdRefill fn s
  | .l2bmWrite fn v => Sys2Proof.Machine.execL2bmWrite fn v s
  | .hseedWrite fn k v => Sys2Proof.Machine.execHseedWrite fn k v s
  | .tinvWrite fn v => Sys2Proof.Machine.execTinvWrite fn v s
  | .reevaluationTick => Sys2Proof.Machine.execReevaluationTick s
  | .scrubComplete => Sys2Proof.Machine.execScrubComplete s
  | .qbindBind fn qcb q => Sys2Proof.Machine.execQbindBind fn qcb q s
  | .fqresReplay fn id => Sys2Proof.Machine.execFqresReplay fn id s

end Sys2Proof.Machine
end

