-- ==== Sys2Proof/Machine/Fetch.lean ====
section
/-!
DEFINITION. Fetching the next instruction of a stream (spec/04 R88, R100; spec/05 R117), and the placing of one instruction
where the next step fetches it.
-/
namespace Sys2Proof.Machine

/-! ## The scalar stream -/

/-- OPs whose instruction has a second word (R85, R87). -/
def twoWords (op : Nat) : Bool :=
  [0x18, 0x40, 0x46, 0x47, 0x48, 0x50, 0x52, 0x54, 0x57, 0x58, 0x59, 0x5B, 0x5C, 0x5D, 0x5E].contains op

/-- The SUB of a scalar word that is no instruction: check 1 comes before check 2, and it takes in what is illegal inside
a handler, and `strap.ret` outside one. -/
def scalarSub (s : Shuttle) (w : Nat) (e : DecodeError) : Nat :=
  if s.handler && handlerIllegal (opOf w) then 0
  else if opOf w == 0x70 && xOf w == 1 && !s.handler then 0
  else e.sub

/-- What the scalar stream of a shuttle fetches. A fetch beyond the section shows the branch that led there. -/
def fetchScalar (s : Shuttle) (scode : List Nat) : Issue × Instr :=
  match scode[s.pc]? with
  | none =>
    match s.branchFrom with
    | some (off, w) =>
      ({ sh := s.id, lane := false, first := off, pc := s.pc, next := s.pc,
         words := if w / 2 ^ 32 == 0 then [w % 2 ^ 32] else [w % 2 ^ 32, w / 2 ^ 32] }, .unassignedOpcode 0)
    | none => ({ sh := s.id, lane := false, first := s.pc, pc := s.pc, next := s.pc, words := [] }, .unassignedOpcode 0)
  | some w =>
    let nxt := scode[s.pc + 1]?
    let op := opOf w
    let is : Issue := { sh := s.id, lane := false, first := s.pc, pc := s.pc, next := s.pc + 1, words := [w] }
    match nxt with
    | none =>
      match decodeScalar w none with
      | .ok i => (is, i)
      | .error e => (is, .unassignedOpcode (scalarSub s w e))
    | some v =>
      let is := if op == 0x7F then { is with pc := s.pc + 1, next := s.pc + 2, words := [v, w] }
        else if twoWords op then { is with next := s.pc + 2, words := [w, v] }
        else is
      match decodeScalar w (some v) with
      | .ok i => (is, i)
      | .error e => (is, .unassignedOpcode (scalarSub s w e))

/-- Whether a team's shuttles may issue: it is resident, not ending, not being saved, and its function runs. -/
def Dev.teamIssues (d : Dev) (t : Team) : Bool :=
  t.resident && !t.dying && t.pausing != some .save && (d.part (partOf t.fn)).running == some t.fn

/-- A shuttle that may issue, with what it runs in. -/
def Dev.issuer (d : Dev) (sh : Nat) : Option (Shuttle × Env) :=
  match d.shuttle sh with
  | none => none
  | some s =>
    match d.env s with
    | none => none
    | some env => if s.live && !s.stopped && d.teamIssues env.team then some (s, env) else none

/-! ## The lane stream -/

/-- What the lane stream fetches for the entry that executes. -/
def fetchLane (s : Shuttle) (e : Entry) (lcode : List Nat) : Issue × Instr :=
  match lcode[e.pc]? with
  | none => ({ sh := s.id, lane := true, first := e.pc, pc := e.pc, next := e.pc + 1, words := [] }, .unassignedOpcode 0)
  | some w =>
    let is : Issue := { sh := s.id, lane := true, first := e.pc, pc := e.pc, next := e.pc + 1, words := laneParts w }
    match decodeLane w with
    | .ok i => (is, i)
    | .error x => (is, .unassignedOpcode x.sub)

/-- Whether a shuttle's lane stream is stopped by a trap that its handler has not returned from. -/
def Shuttle.laneSuspended (s : Shuttle) : Bool :=
  match s.suspended with
  | .lane _ _ _ => true
  | _ => false

/-- What a stream's turn issues. -/
def Dev.fetchTurn (d : Dev) (sh : Nat) (lane : Bool) : Option (Issue × Instr) :=
  match d.issuer sh with
  | none => none
  | some (s, env) =>
    if !lane then some (fetchScalar s env.bolt.scode)
    else if s.laneSuspended || !s.running then none
    else s.current.map fun e => fetchLane s e env.bolt.lcode

/-! ## Placing an instruction -/

/-- A nest with every register and tile declared, and nothing else. -/
def placedNest : List Byte :=
  leBytes 4 0 ++ leBytes 4 (1008 * 2 ^ 16 + 768) ++ leBytes 60 0 ++ leBytes 4 (32 * 2 ^ 16) ++ leBytes 184 0

/-- A bolt of function 0 with that nest and some code. -/
def placedBolt (scode lcode : List Nat) : Bolt :=
  { addr := 0, nnest := 1, nestBase := 0, nest := placedNest, scode := scode, lcode := lcode, size := 0 }

/-- A launch of one team of one shuttle of one thread. -/
def placedLaunch (id : Nat) : Launch :=
  { id := id, fn := 0, part := 0, ctx := 0, source := .child, rootQueue := 0, desc := 0, exts := [1, 1, 1, 1], args := 0,
    cnt := 0, inc := 0, pin := 0, dep := 0, prio := 0, depth := 0, prog := none, depFault := false, runNo := 0, runLeft := 0,
    phase := .finishing, levels := List.replicate 4 { extent := 1, outer := 7, inner := 0, fact := 1 },
    runExts := [1, 1, 1, 1], runPin := 0, runArgs := 0, nextTeam := 1, terminated := none }

def placedTeam (id launch : Nat) : Team :=
  { id := id, launch := launch, fn := 0, num := 0, cluster := 0, cores := [0], resident := true, started := true,
    dying := false, pausing := none, image := none, banks := [], handles := [], copies := [], queues := [], streams := [],
    arrivals := [], stateBase := 0, stateSize := 0 }

/-- A block of one thread at lane word 0. -/
def placedBlock (id : Nat) : Block :=
  { id := id, entry := 0, args := List.replicate 8 0, fmt := 0, seed := 0, outBase := 0, outN := 0, written := [],
    seq := [0, 0, 0, 0], beats := [0] }

def placedShuttle (id team : Nat) (lane : Bool) : Shuttle :=
  { Shuttle.start id team 0 0 1 (nestAt placedNest 0) 0 with
    blocks := if lane then [placedBlock (id + 1)] else []
    running := lane
    frontier := if lane then [Entry.start 0 [0] 0] else [] }

/-- Code placed where the next step fetches it: a bolt of function 0, which runs in partition 0, with one shuttle at its
first word, and that shuttle's turn at the head of the agenda. -/
def State.place (s : State) (lane : Bool) (code : List Nat) : State :=
  let n := s.dev.nextId
  let f := s.dev.func 0
  let p := s.dev.part 0
  { s with
    agenda := (if lane then .lane (n + 2) else .scalar (n + 2)) :: s.agenda
    dev := { s.dev with
      nextId := n + 4
      shuttles := s.dev.shuttles ++ [placedShuttle (n + 2) (n + 1) lane]
      teams := s.dev.teams ++ [placedTeam (n + 1) n]
      launches := s.dev.launches ++ [placedLaunch n]
      funcs := insK s.dev.funcs 0
        { f with bolts := placedBolt (if lane then [] else code) (if lane then code else []) :: f.bolts }
      parts := insK s.dev.parts 0 { p with running := some 0 } } }

/-- The words of an instruction whose bits are numbered as the opcode table numbers them. -/
def tableWords (nbits w : Nat) : List Nat :=
  if nbits ≤ 64 then [w % 2 ^ 32, w / 2 ^ 32 % 2 ^ 32] else [w % 2 ^ 96]

end Sys2Proof.Machine
end

