-- ==== Sys2Proof/Machine/Turns.lean ====
section
/-!
DEFINITION. The agents that can act next (spec/95): the streams, and the events whose agent has something to do. The choice among
them is open (log 1).
-/
namespace Sys2Proof.Machine

/-- The turns of a shuttle: its two streams. -/
def Dev.streamTurns (d : Dev) (s : Shuttle) : List Turn :=
  match d.issuer s.id with
  | none => []
  | some _ =>
    .scalar s.id :: (if s.running && !s.laneSuspended && s.current.isSome then [.lane s.id] else [])

/-- The event of an access that is under way. -/
def Access.turn (a : Access) (sh : Nat) : List Turn :=
  match a.status with
  | .arrived _ => [.event (.producerFill sh a.id)]
  | .walk => [.event (.translationWalk sh a.id)]
  | .home _ => [.event (.translationWalk sh a.id)]
  | .fifo _ => [.event (if a.kind.reads then .fifoPop sh a.id else .fifoPush sh a.id)]
  | .faulted _ => []

/-- The turns of a shuttle's accesses and commits. -/
def Shuttle.eventTurns (s : Shuttle) : List Turn :=
  (s.accs.flatMap fun a => a.turn s.id) ++
    ((s.txns.filter fun t => t.committing).map fun t => .event (.transactionCommit s.id t.beat))

/-- The turns of a function. -/
def Dev.funcTurns (d : Dev) (fn : Nat) (f : Func) : List Turn :=
  (if f.serialWait.isEmpty then [] else [.event (.serialTokenGrant fn)]) ++
    ((f.faults.filter fun e => e.resolved).map fun e => .event (.faultReplay fn e.id)) ++
    (if f.remap.isEmpty then [] else [.event (.l2RemapComplete fn)]) ++
    (if f.tinv.isEmpty then [] else [.event (.tinvComplete fn)]) ++
    (if f.keyChange.isEmpty then [] else [.event (.keySlotChangeComplete fn)]) ++
    (if f.nextMessage.isSome then [.event (.mailboxFire fn)] else []) ++
    (if d.usesUnits fn then [.event (.budgetUnitCharge fn)] else [])

/-- The turns of a copy command. -/
def CopyCmd.turns (c : CopyCmd) : List Turn :=
  match c.status with
  | .running _ => [.event (.copySegment c.id), .event (.copyBudgetPause c.id)]
  | .moved _ => [.event (.copyComplete c.id)]
  | .fifoWait _ => [.event (.copyWaiterWake c.id)]
  | .unaccepted => [.event (.copyWaiterWake c.id)]
  | .faulted _ => []
  | _ => [.event (.copyEngineGrant c.part)]

/-- The turns of a matrix operation; its fetches compete for the copy engines of its partition. -/
def Dev.matTurns (d : Dev) (o : MatOp) : List Turn :=
  [.event (.operandFetch o.id false), .event (.operandFetch o.id true)] ++
    (o.cores.map fun k => .event (.matrixOpRetire k)) ++
    if o.a.fetching || o.b.fetching then
      ((d.team o.team).map fun t => Turn.event (.copyEngineGrant (partOf t.fn))).toList
    else []

/-- The turns of a scan tile. -/
def ScanTile.turns (t : ScanTile) : List Turn :=
  match t.status with
  | .queued => [.event (.scanTileRun t.id), .event (.carryReceipt t.id)]
  | .computed => [.event (.carryReceipt t.id)]
  | .faulted _ => [.event (.carryReceipt t.id)]
  | .sent => []

/-- The turn of a chain whose completion travels. -/
def Dev.chainTurn (d : Dev) (c : Chain) : List Turn :=
  match c.complete, c.passed.head? with
  | true, some p => [.event (.chainCompletion c.uid (d.nextCore c.part p))]
  | _, _ => []

/-- The turn of a queue's walk. -/
def Queue.turn (q : Queue) : Turn := if q.unbinding then .outside (.unbindEnd q.id) else .event (.blockAdmit q.id)

/-- The turn of a launch in the Treadle. -/
def Launch.turn (l : Launch) : List Turn :=
  match l.phase with
  | .prologue => [.event (.prologueRun l.id)]
  | .toMap => [.event (.launchMap l.id)]
  | .held => [.event (.launchMap l.id)]
  | _ => []

/-- The turns of a team: its streams of access slices, and its end or pre-emption. -/
def Team.turns (t : Team) : List Turn :=
  (t.streams.map fun x => .event (.accessStreamPush x.id)) ++
    (if t.dying then [.event (.teamTermination t.id)]
     else
      match t.pausing with
      | some .save => [.event (.teamSave t.id)]
      | some .discard => [.event (.teamDiscard t.id)]
      | _ => [])

/-- The partitions' dispatch and slices. -/
def Dev.partTurns (d : Dev) : List Turn :=
  ((List.range Config.numParts).filter fun p => pdValid (d.part p).pdesc).flatMap fun p =>
    [.event (.teamDispatch p), .event (.sliceEnd p)]

/-- The agents of the compute dies and the Treadle that can act. -/
def Dev.turns (d : Dev) : List Turn :=
  d.shuttles.flatMap d.streamTurns ++ d.shuttles.flatMap Shuttle.eventTurns ++
    d.funcs.flatMap (fun f => d.funcTurns f.1 f.2) ++ d.cmds.flatMap CopyCmd.turns ++ d.matOps.flatMap d.matTurns ++
    (d.signals.map fun g => .event (.translationWalk g.sh g.id)) ++ d.tiles.flatMap ScanTile.turns ++
    d.chains.flatMap d.chainTurn ++ d.queues.map Queue.turn ++
    (if d.queues.any fun q => q.held || q.relink == some true || q.qcbDue == some true then [.event .reevaluationTick] else []) ++
    d.launches.flatMap Launch.turn ++ d.teams.flatMap Team.turns ++
    ((d.logWait.filterMap fun w => (d.shuttle w.1).bind fun s => d.team s.team).map fun t =>
      .event (.txnLogRoomGrant t.cluster)) ++
    d.partTurns

/-- The turns of the harts that the boot ROM is to send to its image. -/
def State.bootTurns (s : State) : List Turn :=
  if s.complexUp && s.lease.image != .none then
    ((List.range s.harts.length).zip s.harts).filterMap fun h =>
      if h.2.mode == .m && h.2.pc == 0 then some (.outside (.hartBoot h.1)) else none
  else []

/-- The turns that may come next: inputs that wait, and agents, or while a scrub runs its end. -/
def State.turns (s : State) : List Turn :=
  if s.up then s.pending.map Turn.event ++ s.dev.turns ++ s.bootTurns
  else if s.lease.state == .scrub && s.board.power != .d3cold then [.event .scrubComplete]
  else []

/-- The partition of a core in which a stream issues. -/
def Dev.issuePart (d : Dev) (t : Turn) : Option (Nat × Nat) :=
  match t with
  | .scalar sh => (d.shuttle sh).map fun s => (s.core, s.part)
  | .lane sh => (d.shuttle sh).map fun s => (s.core, s.part)
  | _ => none

/-- The issue opportunities of its partition that have passed a stream by since its last turn (R195). -/
def State.ageOf (s : State) (t : Turn) : Nat := ((s.ages.find? fun a => a.1 == t).map (·.2)).getD 0

/-- The oldest of some streams among those that are aged (R195). -/
def State.aged (s : State) (ts : List Turn) : Option Turn :=
  (ts.filter fun t => decide (s.ageOf t ≥ 256)).foldl
    (fun acc t => match acc with
      | none => some t
      | some a => if s.ageOf t > s.ageOf a then some t else some a) none

/-- An issue opportunity of a partition goes to a stream, or to an aged one before it, so that each has its turn within a bounded
number of them (R192, R195; log 1); the others of the partition grow older. -/
def State.issueTurn (s : State) (ts : List Turn) (t : Turn) : Turn × State :=
  match s.dev.issuePart t with
  | none => (t, s)
  | some p =>
    let mine := ts.filter fun x => s.dev.issuePart x == some p
    let t := (s.aged mine).getD t
    (t, { s with ages :=
            (s.ages.filter fun a => (s.dev.issuePart a.1).isSome && s.dev.issuePart a.1 != some p) ++
              (mine.filter (· != t)).map fun x => (x, s.ageOf x + 1) })

/-- The turn that comes next, and the state without it. -/
def State.nextTurn (s : State) : Option (Turn × State) :=
  match s.agenda with
  | t :: ts => some (t, { s with agenda := ts })
  | [] =>
    let ts := s.turns
    if ts.isEmpty then none else (ts[Config.pick s.dev.tick % ts.length]?).map fun t => s.issueTurn ts t

/-- Whether an event is a step of the compute dies or the Treadle themselves, and no input. -/
def ofDies : Instr → Bool
  | .producerFill _ _ => true
  | .translationWalk _ _ => true
  | .fifoPop _ _ => true
  | .fifoPush _ _ => true
  | .transactionCommit _ _ => true
  | .serialTokenGrant _ => true
  | .txnLogRoomGrant _ => true
  | .faultReplay _ _ => true
  | .l2RemapComplete _ => true
  | .tinvComplete _ => true
  | .keySlotChangeComplete _ => true
  | .copyEngineGrant _ => true
  | .copySegment _ => true
  | .copyBudgetPause _ => true
  | .copyComplete _ => true
  | .copyWaiterWake _ => true
  | .operandFetch _ _ => true
  | .matrixOpRetire _ => true
  | .accessStreamPush _ => true
  | .scanTileRun _ => true
  | .carryReceipt _ => true
  | .chainCompletion _ _ => true
  | .blockAdmit _ => true
  | .reevaluationTick => true
  | .prologueRun _ => true
  | .launchMap _ => true
  | .teamDispatch _ => true
  | .teamTermination _ => true
  | .teamSave _ => true
  | .teamDiscard _ => true
  | .sliceEnd _ => true
  | .budgetUnitCharge _ => true
  | .mailboxFire _ => true
  | _ => false

/-- Whether a turn cannot be taken because the device is halted or without power: the streams, and the events of the
dies (R449, R453). -/
def State.halts (s : State) (t : Turn) : Bool :=
  !s.up && match t with
    | .scalar _ => true
    | .lane _ => true
    | .event i => ofDies i
    | .outside _ => true

/-- An input that waited takes its turn. -/
def State.takeInput (s : State) (i : Instr) : State := { s with pending := s.pending.erase i }

/-- A step of time passes: the next free values are drawn. -/
def State.ticked (s : State) : State := { s with dev := { s.dev with tick := s.dev.tick + 1 } }

/-- The state with an instruction at issue, and with none. -/
def State.issuing (s : State) (is : Issue) : State := { s with dev := { s.dev with issue := some is } }
def State.unissued (s : State) : State := { s with dev := { s.dev with issue := none } }

/-- Whether an instruction is one that only a stream issues. -/
def ofStream (i : Instr) : Bool := !(encode i).isEmpty || match i with
  | .unassignedOpcode _ => true
  | _ => false

end Sys2Proof.Machine
end

