-- ==== Sys2Proof/Machine/Step.lean ====
section
/-!
DEFINITION. One step of the machine: the turn that comes next is fetched and executed.
-/
namespace Sys2Proof.Machine

/-- An outcome with nothing at issue. -/
def endIssue (o : Host.Outcome State Fault Refusal) : Host.Outcome State Fault Refusal :=
  match o with
  | .next s => .next s.unissued
  | r => r

/-- The turn of a stream: what it fetches is issued and executed; a stream that may not issue does nothing. -/
def stepStream (s : State) (sh : Nat) (lane : Bool) : Host.Outcome State Fault Refusal :=
  match s.dev.fetchTurn sh lane with
  | none => .next s
  | some (is, i) => endIssue (exec i (s.issuing is))

/-- A turn; none is taken that the device cannot take while it is halted. -/
def stepTurn (t : Turn) (s : State) : Host.Outcome State Fault Refusal :=
  if s.halts t then .next s
  else match t with
  | .scalar sh => stepStream s sh false
  | .lane sh => stepStream s sh true
  | .event i => if ofStream i then .next s else endIssue (exec i (s.takeInput i))
  | .outside x => execOutside x s

/-- One step. -/
def step (s : State) : Host.Outcome State Fault Refusal :=
  match s.ticked.nextTurn with
  | none => .next s.ticked
  | some (t, s') => stepTurn t s'

/-- The state whose next step runs a given instruction. -/
def State.withFetchWord (s : State) (nbits w : Nat) : State := s.place (decide (nbits > 64)) (tableWords nbits w)

end Sys2Proof.Machine
end

