-- ==== Sys2Proof/Safety.lean ====
section
/-!
DEFINITION. What counts as a legal state and a safe run, in the terms that the claims use.
-/
namespace Sys2Proof.Machine

/-- Nothing is at issue between two steps. -/
def State.Quiet (s : State) : Prop := s.dev.issue = none

/-- The byte memory keeps its canonical form. -/
def State.MemLegal (s : State) : Prop := Memory.wf s.dev.mem

/-- PWRSTAT stays within its fields (spec/22 R453): a clock step from 6 to 13 and three causes. -/
def State.PowerLegal (s : State) : Prop := 6 ≤ s.board.clock ∧ s.board.clock ≤ 13 ∧ s.board.causes < 8

/-- The complex has its eight harts (spec/22 R444), and LSEQ fits its 8 bytes (spec/22 R451). -/
def State.ComplexLegal (s : State) : Prop := s.harts.length = Config.numHarts ∧ s.lease.lseq < 2 ^ 64

/-- An outcome that is a next state. -/
def Goes (o : Outcome) : Prop := ∃ t, o = .next t

/-- A step is safe when it is neither a fault nor a refusal. -/
def State.Safe (s : State) : Prop := Goes (step s)

/-! ## Terms of the claims about the scalar stream -/

/-- A stream instruction is at issue, in a shuttle, with what that runs in. -/
abbrev State.AtIssue (s : State) (is : Issue) (sh : Shuttle) (env : Env) : Prop :=
  s.dev.issue = some is ∧ s.dev.shuttle is.sh = some sh ∧ s.dev.env sh = some env

/-- The state with another device. -/
abbrev State.withDev (s : State) (d : Dev) : State := { s with dev := d }

/-- The state with a shuttle in the place of the one with its number. -/
def State.setShuttle (s : State) (sh : Shuttle) : State := { s with dev := s.dev.setShuttle sh }

/-- The instruction ends in the state in which only the shuttle at issue differs. -/
abbrev EndsAs (i : Instr) (s : State) (sh : Shuttle) : Prop := exec i s = .next (s.setShuttle sh)

/-- The instruction writes a word to a register, which is full, and the scalar stream goes on at Next. -/
abbrev Gives (i : Instr) (s : State) (is : Issue) (sh : Shuttle) (x : Nat) (v : Word) : Prop :=
  EndsAs i s ((sh.setSreg x (.full v)).advance is)

/-- The instruction writes a 64-bit value to a register pair, low word first. -/
abbrev GivesPair (i : Instr) (s : State) (is : Issue) (sh : Shuttle) (x : Nat) (v : DWord) : Prop :=
  EndsAs i s (((sh.setSreg x (.full (v.setWidth 32))).setSreg (x + 1) (.full ((v >>> 32).setWidth 32))).advance is)

/-- A register that a scalar instruction may write: outside s0 to s63, nameable, with no producer pending. -/
abbrev Writable (env : Env) (sh : Shuttle) (x : Nat) : Prop :=
  64 ≤ x ∧ nameable env.nest.ns x = true ∧ (sh.sreg x).isPending = false

/-- A register that a scalar instruction may read now: nameable, and full of a word. -/
abbrev Reads (env : Env) (sh : Shuttle) (y : Nat) (v : Word) : Prop :=
  nameable env.nest.ns y = true ∧ sh.sreg y = .full v

/-- The instruction ends the team: an error record of kind 1 with a cause and a SUB, and every team of the launch stops. -/
abbrev EndsTeamWith (i : Instr) (s : State) (sh : Shuttle) (cause sub : Nat) : Prop :=
  ∃ words, exec i s = .next { s with dev := s.dev.terminate sh 1 cause sub 0 words [] 0 }

/-- An illegal form of the scalar stream ends the team, with the record of the instruction at issue. -/
abbrev EndsTeam (i : Instr) (s : State) (is : Issue) (sh : Shuttle) (sub : Nat) : Prop :=
  exec i s = .next
    { s with dev := s.dev.terminate sh 1 0x10 sub 0 (trapWords (scalarTrap is sh 0x10 sub) (sh.traps + 1)) [] 0 }

/-- A form of the scalar stream that reads a register with broken parity ends the team (spec/20 R430), with the record of the
instruction at issue. -/
abbrev EndsByPoison (i : Instr) (s : State) (is : Issue) (sh : Shuttle) : Prop :=
  exec i s = .next
    { s with dev := s.dev.terminate sh 1 0x13 0 0 (trapWords (scalarTrap is sh 0x13 0) (sh.traps + 1)) [] 0 }

/-! ### Instructions of one shape -/

/-- The forms of OP 0x01 that read sX and sY and write sX. -/
def twoRegisterForms (x y : Nat) : List Instr :=
  [.sadd x y, .ssub x y, .sand x y, .sor x y, .sxor x y, .sshl x y, .sshr x y, .ssra x y, .smul x y, .smulh x y,
    .smulhu x y, .sdiv x y, .sdivu x y, .srem x y, .sremu x y, .smin x y, .smax x y, .sminu x y, .smaxu x y, .sslt x y,
    .ssltu x y, .sseq x y]

/-- The forms of OP 0x01 that write sX and read sY. -/
def writesXreadsY (x y : Nat) : List Instr :=
  twoRegisterForms x y ++ [.smov x y, .snot x y, .sclz x y, .spopc x y, .sbrev x y, .sneg x y]

/-- The immediate forms on one register but the shifts. -/
def writesX (x : Nat) (imm : Int) : List Instr :=
  [.sli x imm, .saddi x imm, .sandi x imm, .sori x imm, .sxori x imm, .ssltiu x imm]

/-- The forms of OP 0x02. -/
def pairForms (x y : Nat) : List Instr :=
  [.smov64 x y, .sadd64 x y, .ssub64 x y, .sshl64 x y, .sshr64 x y, .ssra64 x y, .smul64 x y]

/-- The forms that act on the registers of their shuttle only, with a single, a double and no destination register. -/
def oneDestination (x y csr : Nat) (imm : Int) : List Instr :=
  writesXreadsY x y ++ writesX x imm ++
    ([.sshli x imm, .sshri x imm, .ssrai x imm, .scall x imm, .sloop x imm, .sjrL x y, .sfet x y, .sempt x,
      .scsrR x csr] : List Instr)
def pairDestination (x y : Nat) (imm : Int) : List Instr :=
  pairForms x y ++ ([.sli64 x imm, .saddi64 x imm] : List Instr)
def noDestination (x : Nat) (imm : Int) : List Instr :=
  [.sbr imm, .sbz x imm, .sbnz x imm, .sblz x imm, .sbgez x imm, .sjr x, .swfull x, .snop, .syield]

/-- The instruction waits: nothing changes, and it is fetched again. -/
abbrev Waits (i : Instr) (s : State) : Prop := exec i s = .next s

/-- A group of registers that a scalar instruction may write. -/
abbrev WritableAll (env : Env) (sh : Shuttle) (x k : Nat) : Prop := ∀ r, x ≤ r → r < x + k → Writable env sh r

/-- A group of registers that a scalar instruction may read now. -/
abbrev ReadsAll (env : Env) (sh : Shuttle) (y k : Nat) : Prop :=
  ∀ r, y ≤ r → r < y + k → nameable env.nest.ns r = true ∧ (sh.sreg r).isFull = true

/-- An error of a mapping construct: a trap of cause 5 whose record holds Next (spec/05 R125). -/
abbrev MapError (i : Instr) (s : State) (is : Issue) (sh : Shuttle) (env : Env) (sub : Nat) : Prop :=
  exec i s = .next { s with dev := s.dev.mapError is sh env sub }

/-- The 64-bit address that the pair at Y and a word offset name (spec/05 R111). -/
abbrev wordAddress (lo hi : Word) (off : Int) : Nat := ((hi ++ lo : DWord) + BitVec.ofInt 64 (4 * off)).toNat

/-- The shuttle waits for nothing of its own: the lane queue is empty and every access of it has been performed. -/
abbrev Settled (sh : Shuttle) : Prop := sh.blocks = [] ∧ ∀ a ∈ sh.accs, a.performed = true

/-- Instructions of the two streams that the shuttle's registers alone decide keep the rest of the device. -/
abbrev OtherDev (d d' : Dev) : Prop := { d' with shuttles := d.shuttles } = d

/-- The instruction completes with a status word in a register, and nothing else (spec/16 R348). -/
abbrev Status (i : Instr) (s : State) (is : Issue) (sh : Shuttle) (x v : Nat) : Prop :=
  Gives i s is sh x (BitVec.ofNat 32 v)

/-- The same of an instruction that exposes its shuttle whatever its status (spec/20 R423). -/
abbrev ExposedStatus (i : Instr) (s : State) (is : Issue) (sh : Shuttle) (x v : Nat) : Prop :=
  EndsAs i s { (sh.setSreg x (.full (BitVec.ofNat 32 v))).advance is with exposed := true }

/-- An operand block that an engine instruction may read now, with a status register that it may write (spec/16 R347). -/
abbrev BlockReady (env : Env) (sh : Shuttle) (x y n k : Nat) : Prop :=
  Writable env sh x ∧ ReadsAll env sh y n ∧ y + n ≤ 1008 ∧ y % k = 0

/-! ### Terms of the claims about lane words -/

/-- An entry that has made no progress in its word. -/
def Entry.fresh (e : Entry) : Bool :=
  e.done.isEmpty && e.left.isEmpty && e.popped.isEmpty && e.pushed.isEmpty && e.xfaults.isEmpty && e.held.isEmpty

/-- The threads whose sources a word evaluates for an entry that begins it: with U the first one's (R133). -/
def LaneRun.evaluates (r : LaneRun) (ex : List Nat) : List Nat := if r.w.u then ex.take 1 else ex

/-- A lane word is at issue for the executing entry of the running block, whose threads begin it, and it passes the checks of
R100. -/
abbrev State.AtWord (s : State) (is : Issue) (sh : Shuttle) (env : Env) (blk : Block) (e : Entry) (i : Instr)
    (r : LaneRun) : Prop :=
  s.AtIssue is sh env ∧ sh.block = some blk ∧ sh.current = some e ∧ e.fresh = true ∧ laneOf i = some (r.opc, r.w) ∧
    laneRow r.opc = some r.row ∧ r.set = e.beats ∧ r.path = [] ∧ r.raw = is.words ∧
    laneReserved r.opc r.row r.w = false ∧ laneIllegal r.opc r.row r.w env.nest.nv env.nest.tiles (sh.inq env.nest) (sh.outq env.nest) = none

/-- The registers that a word reads as its threads' own are full and whole, and none of its sources is a queue. -/
abbrev LaneRun.Reads (r : LaneRun) (sh : Shuttle) (blk : Block) : Prop :=
  r.pops = [] ∧ r.starved sh blk (r.evaluates (r.ex sh)) r.ownSrcs = false ∧
    r.badFault sh blk (r.evaluates (r.ex sh)) r.ownSrcs = none

/-- D of a word is no output register and no queue, and has no producer pending. -/
abbrev LaneRun.Writes (r : LaneRun) (sh : Shuttle) : Prop :=
  isO r.w.d = false ∧ isQ r.w.d = false ∧ r.dstPending sh (r.ex sh) = false

/-- D of a word can take the results now (R15, R23, R27, R133): no producer of it is pending; the output registers that it names
stand in the window, have not been written, and everything that the block accessed before has been performed; the queue that
it names has room for every thread's value, and nothing holds the push back. -/
abbrev LaneRun.Takes (r : LaneRun) (sh : Shuttle) (env : Env) (blk : Block) (e : Entry) : Prop :=
  let n := (laneShape r.opc r.row r.w).d
  let coord := fun b => sh.coord env.launch.levels env.team.num blk.seq b
  r.dstPending sh (r.ex sh) = false ∧
    (isO r.w.d = true → r.ex sh ≠ [] → r.outputFault blk (r.ex sh) = none ∧ sh.blockPerformed blk.id = true ∧
      ∀ k, k < n → sh.sreg (blk.outBase + (r.w.d - 776) + k) = .pending) ∧
    (isQ r.w.d = true → e.beats.Nodup ∧ ∀ b ∈ r.ex sh, sh.releaseReady blk [b] = true ∧
      (env.team.queueVals (sh.stage + 1) (coord b) (r.w.d - 784)).length + n ≤ 16 ∧
      ∀ b' ∈ r.ex sh, coord b' = coord b → b' = b)

/-- The thread whose result a thread takes: with U the first one's (R133). -/
abbrev LaneRun.giver (r : LaneRun) (sh : Shuttle) (b : Nat) : Nat := if r.w.u then (r.ex sh).headD b else b

/-- The frontier when the threads of the executing entry go to the entries of a list (R198). -/
abbrev Shuttle.goesTo (sh : Shuttle) (env : Env) (e : Entry) (es : List Entry) : List Entry :=
  es.foldl (joinFrontier env.bolt.lcode) (dropEntry sh.frontier e)

/-- The frontier when the executing entry goes on at its next word. -/
abbrev Shuttle.goesOn (sh : Shuttle) (env : Env) (e : Entry) : List Entry :=
  sh.goesTo env e [Entry.start (e.pc + 1) e.beats e.fmt]

/-- The threads of the executing entry that do not execute a word. -/
abbrev LaneRun.rest (r : LaneRun) (sh : Shuttle) (e : Entry) : List Nat := e.beats.filter fun b => !(r.ex sh).contains b

/-- D of each executing thread holds its value, and no other vector register changes. -/
abbrev LaneRun.Fills (r : LaneRun) (sh h : Shuttle) (v : Nat → Nat) : Prop :=
  ∀ b n, n < 1024 → h.vreg b n =
    if b ∈ r.ex sh ∧ isV r.w.d = true ∧ r.w.d ≤ n ∧ n < r.w.d + (laneShape r.opc r.row r.w).d then
      .full (BitVec.ofNat 32 (v b / 2 ^ (32 * (n - r.w.d))))
    else sh.vreg b n

/-- Where the results of a word are after it, and where its entry is: in D of each executing thread, or with the first one's value
in the block's output registers, or at the end of each executing thread's queue of the next stage. -/
abbrev LaneRun.Delivers (r : LaneRun) (s : State) (sh : Shuttle) (env : Env) (blk : Block) (e : Entry) (v : Nat → Nat)
    (d : Dev) (h : Shuttle) : Prop :=
  let n := (laneShape r.opc r.row r.w).d
  let ex := r.ex sh
  let first := blk.outBase + (r.w.d - 776)
  let coord := fun b => sh.coord env.launch.levels env.team.num blk.seq b
  h.frontier = sh.goesOn env e ∧ r.Fills sh h v ∧
    (∀ k, h.sreg k = if isO r.w.d = true ∧ ex ≠ [] ∧ first ≤ k ∧ k < first + n then
        .full (BitVec.ofNat 32 (v (ex.headD 0) / 2 ^ (32 * (k - first)))) else sh.sreg k) ∧
    h.blocks = (if isO r.w.d = true ∧ ex ≠ [] then (sh.markWritten blk.id r.outputs).blocks else sh.blocks) ∧
    h.exposed = (sh.exposed || (isQ r.w.d && !ex.isEmpty)) ∧
    (isQ r.w.d = false → d = s.dev) ∧
    (isQ r.w.d = true → ∃ t : Team, d = s.dev.setTeam t ∧ { t with queues := env.team.queues } = env.team ∧
      (∀ b ∈ ex, t.queueVals (sh.stage + 1) (coord b) (r.w.d - 784) =
        env.team.queueVals (sh.stage + 1) (coord b) (r.w.d - 784) ++
          (List.range n).map fun k => BitVec.ofNat 32 (v b / 2 ^ (32 * k))) ∧
      ∀ stage co q, (∀ b ∈ ex, (stage, co, q) ≠ (sh.stage + 1, coord b, r.w.d - 784)) →
        t.queueVals stage co q = env.team.queueVals stage co q)

/-- The word gives each executing thread a value in D and changes nothing else, and its entry goes on. -/
abbrev GivesEach (i : Instr) (s : State) (sh : Shuttle) (env : Env) (blk : Block) (e : Entry) (r : LaneRun)
    (v : Nat → Nat) : Prop :=
  r.Takes sh env blk e →
    ∃ (d : Dev) (h : Shuttle), exec i s = .next (s.withDev (d.setShuttle h)) ∧ r.Delivers s sh env blk e v d h ∧
      { h with vregs := sh.vregs, sregs := sh.sregs, blocks := sh.blocks, exposed := sh.exposed,
               frontier := sh.frontier } = sh

/-- What the effect of an arithmetic word in a thread depends on (R133, R134). -/
abbrev LaneRun.arg (r : LaneRun) (d : Dev) (sh : Shuttle) (env : Env) (blk : Block) (e : Entry) (b : Nat) : LaneArg :=
  { w := r.w, x := if literalOk r.opc r.row && usesLiteral r.w then 0 else r.w.x, a := r.source sh blk e b 0,
    b := r.source sh blk e b 1, c := r.source sh blk e b 2, pv := sh.pred b, map := d.tw2Map sh.core (bits e.fmt 23 21),
    draw := sh.draw blk.seed (sh.coord env.launch.levels env.team.num blk.seq b) b }

/-- The accesses of a memory word, in beat order, with what each address reaches (R152, R287, R296). -/
def LaneRun.requests (r : LaneRun) (sh : Shuttle) (env : Env) (blk : Block) (e : Entry) : List MemReq :=
  (r.evaluates (r.ex sh)).map fun b =>
    let o := r.operands sh blk e b
    let a := memAddress r.opc r.w o
    MemReq.mk o a (if r.w.u then r.ex sh else [b])
      (match reach env.launch.fn env.team a (memSize r.opc r.w) with
        | .window l => if isAtomic r.opc then .bad else .window l
        | .fifo k => if isAtomic r.opc then .bad else .fifo k
        | x => x)

/-- A lane word ends the team, with an error record of kind 1 and a cause. -/
abbrev EndsTeamAt (i : Instr) (s : State) (sh : Shuttle) (cause sub : Nat) : Prop :=
  ∃ (h : Shuttle) (words : List Nat), h.id = sh.id ∧ h.team = sh.team ∧ h.vregs = sh.vregs ∧ h.sregs = sh.sregs ∧
    exec i s = .next { s with dev := (s.dev.setShuttle h).terminate h 1 cause sub 0 words [] 0 }

/-- A lane word enters the trap handler of the nest, with a cause and some registers of its record (R36, R38). -/
abbrev EntersHandler (i : Instr) (s : State) (sh : Shuttle) (env : Env) (e : Entry) (cause sub : Nat) (threads : List Nat)
    (h : Shuttle) : Prop :=
  (∃ t, exec i s = .next t ∧ t.dev.shuttle sh.id = some h ∧ t.dev.mem = s.dev.mem ∧ t.dev.teams = s.dev.teams) ∧
    h.handler = true ∧ h.pc = env.nest.trapOff ∧ h.traps = sh.traps + 1 ∧ h.vregs = sh.vregs ∧
    h.sreg 1008 = .full (BitVec.ofNat 32 (sub * 256 + cause)) ∧
    h.sreg 1009 = .full (BitVec.ofNat 32 (beatMask threads * 256 + 1)) ∧
    h.sreg 1010 = .full (BitVec.ofNat 32 sh.pc) ∧ h.sreg 1011 = .full (BitVec.ofNat 32 e.pc) ∧
    ∀ n, n < 1008 → h.sreg n = sh.sreg n

/-! ### Terms of the claims about what lane words compute -/

/-- An integer clamped to w bits, or wrapped (R42, R137), with its flag. -/
def Clamps (sat : Bool) (w : Nat) (signed : Bool) (v : Int) (r : Nat × Nat) : Prop :=
  let lo : Int := if signed then -(2 ^ (w - 1)) else 0
  let hi : Int := if signed then 2 ^ (w - 1) - 1 else 2 ^ w - 1
  r.1 < 2 ^ w ∧ (sat = false → (2 : Int) ^ w ∣ v - r.1 ∧ r.2 = 0) ∧
    (sat = true → asInt signed w r.1 = max lo (min hi v) ∧ r.2 = if lo ≤ v ∧ v ≤ hi then 0 else flagSAT)

/-- Each of n elements of w bits of a word's result is as a property says, and the flags are the OR of theirs (R41, R44, R133). -/
def LaneArg.Elems (p : LaneArg) (opc w n : Nat) (P : Nat → Nat × Nat → Prop) : Prop :=
  ∃ (res : Nat × Nat) (fl : Nat → Nat), (laneFn opc).map (fun f => f p) = some res ∧ res.1 < 2 ^ (w * n) ∧
    res.2 = (List.range n).foldl (fun o k => o ||| fl k) 0 ∧ ∀ k, k < n → P k (elemOf w res.1 k, fl k)

/-- The number that a finite value stands for (R43). -/
def FloatVal.rat : FloatVal → ℚ
  | .fin n m e => (if n then -1 else 1) * m * (2 : ℚ) ^ e
  | _ => 0

/-- The multiple k of 2^q that a rounding mode takes for a magnitude (R49), with g the random bits of SR (R53). -/
def RoundsMag (mode g : Nat) (neg : Prop) (m : ℝ) (q : ℤ) (k : ℕ) : Prop :=
  let t := m / (2 : ℝ) ^ q
  let frac := t - ⌊t⌋₊
  let up : Prop := match mode with
    | 0 => 1 / 2 < frac ∨ (frac = 1 / 2 ∧ ⌊t⌋₊ % 2 = 1)
    | 1 => False
    | 2 => neg ∧ 0 < frac
    | 3 => ¬neg ∧ 0 < frac
    | 4 => 1 / 2 ≤ frac
    | _ => 2 ^ 16 ≤ ⌊2 ^ 16 * frac⌋₊ + g
  (up ∧ k = ⌊t⌋₊ + 1) ∨ (¬up ∧ k = ⌊t⌋₊)

/-- The infinity of a format (R43). -/
def infOf (f : FloatFmt) (neg : Bool) : Nat := withSign f neg (f.infBits.getD 0)

/-- A result bit pattern is a value k * 2^q of a sign. -/
def IsValue (f : FloatFmt) (r : Nat) (neg : Prop) (k : ℕ) (q : ℤ) : Prop :=
  ∃ (n : Bool) (m : Nat) (e : Int), floatVal f r = .fin n m e ∧ (n = true ↔ neg) ∧ (m : ℝ) * 2 ^ e = k * 2 ^ q

/-- A number x other than 0 rounded once to a format, with the flags (R47, R49, R50, R53). -/
def Rounds (f : FloatFmt) (mode : Nat) (sat : Bool) (g : Nat) (x : ℝ) (r : Nat × Nat) : Prop :=
  ∃ (free : ℤ) (wide k : ℕ) (neg inexact tiny : Bool),
    let q := max free (1 - (f.bias : ℤ) - f.fracBits)
    let most := ((floatVal f f.maxFinite).rat : ℝ)
    let toward := mode = 1 ∨ (mode = 2 ∧ 0 < x) ∨ (mode = 3 ∧ x < 0)
    let bounded := sat = true ∨ f = .e2m1 ∨ (f ≠ .e4m3 ∧ toward)
    (2 : ℝ) ^ (free + f.fracBits) ≤ |x| ∧ |x| < (2 : ℝ) ^ (free + f.fracBits + 1) ∧
      RoundsMag mode g (x < 0) |x| free wide ∧ RoundsMag mode g (x < 0) |x| q k ∧
      (neg = true ↔ x < 0) ∧ (inexact = true ↔ (k : ℝ) * 2 ^ q ≠ |x|) ∧
      (tiny = true ↔ (wide : ℝ) * 2 ^ free < 2 ^ (1 - (f.bias : ℤ))) ∧
      (most < wide * 2 ^ free → r.2 = flagOF + flagNX ∧ (bounded → r.1 = withSign f neg f.maxFinite) ∧
        (¬bounded → r.1 = if f = .e4m3 then canonNaN f else infOf f neg)) ∧
      (wide * 2 ^ free ≤ most → IsValue f r.1 (x < 0) k q ∧
        r.2 = (if inexact then flagNX else 0) + (if inexact && tiny then flagUF else 0))

/-- A number rounded once, with the sign that it has when it is 0. -/
def RoundsOr (f : FloatFmt) (mode : Nat) (sat : Bool) (g : Nat) (x : ℝ) (zero : Bool) (r : Nat × Nat) : Prop :=
  (x = 0 → r = (withSign f zero 0, 0)) ∧ (x ≠ 0 → Rounds f mode sat g x r)

/-- A NaN result (R46): canonical, with NV when an operand is signalling. -/
def NaNOf (f : FloatFmt) (vs : List FloatVal) (r : Nat × Nat) : Prop :=
  r.1 = canonNaN f ∧ r.2 = if FloatVal.nan true ∈ vs then flagNV else 0

/-- An invalid operation (R47). -/
def Invalid (f : FloatFmt) (r : Nat × Nat) : Prop := r = (canonNaN f, flagNV)

/-- A sum (R47, R143). -/
def SumGives (f : FloatFmt) (mode : Nat) (sat : Bool) (g : Nat) (a b : FloatVal) (r : Nat × Nat) : Prop :=
  match a, b with
  | .inf n, .inf k => if n = k then r = (infOf f n, 0) else Invalid f r
  | .inf n, .fin _ _ _ => r = (infOf f n, 0)
  | .fin _ _ _, .inf k => r = (infOf f k, 0)
  | .fin n m _, .fin k l _ =>
    RoundsOr f mode sat g (a.rat + b.rat : ℚ) (if m = 0 ∧ l = 0 ∧ n = k then n else mode == 2) r
  | _, _ => NaNOf f [a, b] r

/-- A product (R47, R143). -/
def ProductGives (f : FloatFmt) (mode : Nat) (sat : Bool) (g : Nat) (a b : FloatVal) (r : Nat × Nat) : Prop :=
  match a, b with
  | .inf n, .inf k => r = (infOf f (n != k), 0)
  | .inf n, .fin k l _ => if l = 0 then Invalid f r else r = (infOf f (n != k), 0)
  | .fin n m _, .inf k => if m = 0 then Invalid f r else r = (infOf f (n != k), 0)
  | .fin n _ _, .fin k _ _ => RoundsOr f mode sat g (a.rat * b.rat : ℚ) (n != k) r
  | _, _ => NaNOf f [a, b] r

/-- An infinite product of a sign with an addend (R47). -/
def InfinitePlus (f : FloatFmt) (neg : Bool) (c : FloatVal) (r : Nat × Nat) : Prop :=
  match c with
  | .nan _ => NaNOf f [c] r
  | .inf j => if j = neg then r = (infOf f neg, 0) else Invalid f r
  | .fin _ _ _ => r = (infOf f neg, 0)

/-- A product and a sum with one rounding (R47, R143). -/
def FmaGives (f : FloatFmt) (mode : Nat) (sat : Bool) (g : Nat) (a b c : FloatVal) (r : Nat × Nat) : Prop :=
  match a, b with
  | .inf n, .inf k => InfinitePlus f (n != k) c r
  | .inf n, .fin k l _ => if l = 0 then Invalid f r else InfinitePlus f (n != k) c r
  | .fin n m _, .inf k => if m = 0 then Invalid f r else InfinitePlus f (n != k) c r
  | .fin n m _, .fin k l _ =>
    match c with
    | .nan _ => NaNOf f [c] r
    | .inf j => r = (infOf f j, 0)
    | .fin j h _ =>
      RoundsOr f mode sat g (a.rat * b.rat + c.rat : ℚ)
        (if m * l = 0 ∧ h = 0 ∧ (n != k) = j then j else mode == 2) r
  | _, _ => NaNOf f [a, b, c] r

/-- A quotient (R47, R55). -/
def QuotientGives (f : FloatFmt) (mode : Nat) (sat : Bool) (g : Nat) (a b : FloatVal) (r : Nat × Nat) : Prop :=
  match a, b with
  | .inf _, .inf _ => Invalid f r
  | .inf n, .fin k _ _ => r = (infOf f (n != k), 0)
  | .fin n _ _, .inf k => r = (withSign f (n != k) 0, 0)
  | .fin n m _, .fin k l _ =>
    if l = 0 then (if m = 0 then Invalid f r else r = (infOf f (n != k), flagDZ))
    else RoundsOr f mode sat g (a.rat / b.rat : ℚ) (n != k) r
  | _, _ => NaNOf f [a, b] r

/-- A function of one operand: what it gives for a NaN, for the infinities and for a number (R55). -/
def FunctionGives (f : FloatFmt) (a : FloatVal) (inf : Bool → Nat × Nat → Prop) (fin : Bool → Nat → Nat × Nat → Prop)
    (r : Nat × Nat) : Prop :=
  match a with
  | .nan _ => NaNOf f [a] r
  | .inf n => inf n r
  | .fin n m _ => fin n m r

/-- An element converted to a float type (R50, R147); an exact conversion keeps an infinity. -/
def ConvertGives (f : FloatFmt) (mode : Nat) (sat exact : Bool) (g : Nat) (a : FloatVal) (r : Nat × Nat) : Prop :=
  match a with
  | .nan _ => NaNOf f [a] r
  | .inf n =>
    if exact = false ∧ sat = true then r = (withSign f n f.maxFinite, 0)
    else if f = .e4m3 then Invalid f r
    else r = (infOf f n, 0)
  | .fin n _ _ => RoundsOr f mode sat g a.rat n r

/-- A float converted to an integer (R51). -/
def IntegerGives (w : Nat) (signed : Bool) (mode g : Nat) (a : FloatVal) (r : Nat × Nat) : Prop :=
  let lo : Int := if signed then -(2 ^ (w - 1)) else 0
  let hi : Int := if signed then 2 ^ (w - 1) - 1 else 2 ^ w - 1
  r.1 < 2 ^ w ∧
    match a with
    | .nan _ => r = (0, flagNV)
    | .inf n => asInt signed w r.1 = (if n then lo else hi) ∧ r.2 = flagNV
    | .fin n _ _ =>
      ∃ k : ℕ, RoundsMag mode g (n = true) |(a.rat : ℝ)| 0 k ∧
        let v : Int := if n then -k else k
        asInt signed w r.1 = max lo (min hi v) ∧
          r.2 = if v < lo ∨ hi < v then flagNV else if (k : ℚ) = |a.rat| then 0 else flagNX

/-- The order of two numbers, with -0 below +0 (R48). -/
def FloatVal.Below (a b : FloatVal) : Prop :=
  match a, b with
  | .inf n, .inf k => n = true ∧ k = false
  | .inf n, .fin _ _ _ => n = true
  | .fin _ _ _, .inf k => k = false
  | .fin n _ _, .fin k _ _ => a.rat < b.rat ∨ (a.rat = b.rat ∧ n = true ∧ k = false)
  | _, _ => False

/-- Two numbers are equal; the two zeros are (R144). -/
def FloatVal.Same (a b : FloatVal) : Prop :=
  match a, b with
  | .inf n, .inf k => n = k
  | .fin _ _ _, .fin _ _ _ => a.rat = b.rat
  | _, _ => False

/-! ### Terms of the claims about events -/

/-- An access of a shuttle of a resident team that goes on, with what the shuttle runs in. -/
abbrev State.AtAccess (s : State) (sh : Shuttle) (env : Env) (a : Access) : Prop :=
  s.dev.shuttle sh.id = some sh ∧ s.dev.env sh = some env ∧ env.team.resident = true ∧ env.team.dying = false ∧
    sh.accs.find? (fun x => x.id == a.id) = some a

/-- A function is present and its device runs: what software writes to it takes effect (spec/20 R457; spec/22 R449, R453). -/
abbrev State.Serves (s : State) (fn : Nat) : Prop := s.up = true ∧ s.dev.present fn = true

/-- An event leaves the state in which only the registers of one function differ. -/
abbrev SetsFunc (i : Instr) (s : State) (fn : Nat) (f : Func) : Prop := exec i s = .next (s.withDev (s.dev.setFunc fn f))

end Sys2Proof.Machine
end

