-- ==== Sys2Proof/Certificates/Slice0/Obligations.lean ====
section
/-!
DEFINITION. The statements for the provers: what the rules of the manual say that an instruction or the machine does.
-/
open Sys2Proof Sys2Proof.Machine

/-! ## Encodings, steps and invariants -/

/-- R85 to R90: an instruction of either stream, encoded, decodes to itself, with every operand at every value that its
encoding admits. -/
def Obligations.DecodeEncodeRoundTrip : Prop :=
  ∀ i : Instr, i.wf = true → encode i ≠ [] → decodeWords i.isLane (encode i) = .ok i

/-- R85, R87, R89, R90, R100: words written out from the encodings decode to the instructions that they stand for; an
unassigned OP, FN or OPC is check 1, a nonzero reserved field check 2, a prefix at the end of its section neither. -/
def Obligations.CodeWordsDecode : Prop :=
  decodeScalar 0x08230004 none = .ok (.sli 70 4) ∧ decodeScalar 0x022388C1 none = .ok (.sadd 71 70) ∧
    decodeScalar 0x42230003 none = .ok (.sbz 70 3) ∧ decodeScalar 0x4E237FFF none = .ok (.sloop 70 (-1)) ∧
    decodeScalar 0xEA000000 none = .ok .snop ∧ decodeScalar 0xE0000009 none = .ok (.strap 9) ∧
    decodeScalar 0xE0008000 none = .ok .strapRet ∧ decodeScalar 0xE4000000 none = .ok .sexit ∧
    decodeScalar 0xE6240241 none = .ok (.scsrW 72 18) ∧ decodeScalar 0xEC280000 none = .ok (.scyc 80) ∧
    decodeScalar 0xFE000001 (some 0x08230004) = .ok (.sxt 1 0x08230004) ∧
    decodeScalar 0xFE000001 none = .error .short ∧ decodeScalar 0x00000000 none = .error .unassigned ∧
    decodeScalar 0xEA000001 none = .error .reserved ∧
    decodeLane (0x001 * 2 ^ 86 + 3 * 2 ^ 76 + 1 * 2 ^ 66 + 2 * 2 ^ 56 + 788 * 2 ^ 46 + 7 * 2 ^ 42) =
      .ok (.add { d := 3, a := 1, b := 2, c := 788, pg := 7, u := false, blk := false, e := 0, t := 0, x := 0 }) ∧
    decodeLane (0x000 * 2 ^ 86) = .error .unassigned ∧ decodeLane (0x3FF * 2 ^ 86) = .error .unassigned

/-- R9, R87, R88, R89, R100: a step at a stream's turn executes the instruction that the stream's next words decode to, with the
offset after its words as Next; where they decode to none, where the second word lies beyond the section and where the fetch does,
it executes the illegal instruction with the SUB of the check that failed, 0 or 1, and 0 for what a handler may not hold and for
`strap.ret` outside one. An event's turn executes the event. R449, R453: while the device is halted or without power a turn of its
streams or of its own events has no effect. R192, R195: a stream that 256 issue opportunities of its partition have passed by comes
before every younger one. Which turn comes next otherwise (`State.agenda` first, then one of `State.turns`, and with none of these a
tick alone), that the age is counted for each stream that is listed, that a program is placed as there, what `.outside` names and
that nothing is at issue after a step are the model's choices (logs 1, 2, 14, 16 and 76). -/
def Obligations.StepRunsDecoded : Prop :=
  ∀ (s : State) (rest : List Turn) (sh : Shuttle) (env : Env) (i : Instr),
    let s' : State := { s.ticked with agenda := rest }
    (∀ w, s.up = true → s.agenda = .scalar sh.id :: rest → s.dev.issuer sh.id = some (sh, env) → env.bolt.scode[sh.pc]? = some w →
      decodeScalar w env.bolt.scode[sh.pc + 1]? = .ok i →
        ((opOf w ≠ 0x7F ∧ twoWords (opOf w) = false) → step s = endIssue (exec i (s'.issuing
          { sh := sh.id, lane := false, first := sh.pc, pc := sh.pc, next := sh.pc + 1, words := [w] }))) ∧
        (∀ v, env.bolt.scode[sh.pc + 1]? = some v →
          (opOf w = 0x7F → step s = endIssue (exec i (s'.issuing
            { sh := sh.id, lane := false, first := sh.pc, pc := sh.pc + 1, next := sh.pc + 2, words := [v, w] }))) ∧
          (twoWords (opOf w) = true → step s = endIssue (exec i (s'.issuing
            { sh := sh.id, lane := false, first := sh.pc, pc := sh.pc, next := sh.pc + 2, words := [w, v] }))))) ∧
    (s.up = true → s.agenda = .scalar sh.id :: rest → s.dev.issuer sh.id = some (sh, env) →
      let traps := fun (first sub : Nat) (words : List Nat) =>
        ∃ is : Issue, is.sh = sh.id ∧ is.lane = false ∧ is.first = first ∧ is.words = words ∧
          step s = endIssue (exec (.unassignedOpcode sub) (s'.issuing is))
      (env.bolt.scode[sh.pc]? = none →
        (sh.branchFrom = none → traps sh.pc 0 []) ∧
        (∀ off w, sh.branchFrom = some (off, w) →
          traps off 0 (if w < 2 ^ 32 then [w] else [w % 2 ^ 32, w / 2 ^ 32]))) ∧
      (∀ w, env.bolt.scode[sh.pc]? = some w →
        (twoWords (opOf w) = true ∨ opOf w = 0x7F → env.bolt.scode[sh.pc + 1]? = none → traps sh.pc 0 [w]) ∧
        (∀ x, decodeScalar w env.bolt.scode[sh.pc + 1]? = .error x →
          traps sh.pc
            (if (sh.handler = true ∧ handlerIllegal (opOf w) = true) ∨ (opOf w = 0x70 ∧ xOf w = 1 ∧ sh.handler = false) then 0
              else if x = .reserved then 1 else 0)
            (match env.bolt.scode[sh.pc + 1]? with
              | some v => if opOf w = 0x7F then [v, w] else if twoWords (opOf w) then [w, v] else [w]
              | none => [w])))) ∧
    (∀ e, s.up = true → s.agenda = .lane sh.id :: rest → s.dev.issuer sh.id = some (sh, env) → sh.running = true →
      sh.laneSuspended = false → sh.current = some e →
        let traps := fun (sub : Nat) (words : List Nat) =>
          step s = endIssue (exec (.unassignedOpcode sub) (s'.issuing
            { sh := sh.id, lane := true, first := e.pc, pc := e.pc, next := e.pc + 1, words := words }))
        (env.bolt.lcode[e.pc]? = none → traps 0 []) ∧
        ∀ w x, env.bolt.lcode[e.pc]? = some w → decodeLane w = .error x →
          traps (if x = .reserved then 1 else 0) (laneParts w)) ∧
    (∀ w e, s.up = true → s.agenda = .lane sh.id :: rest → s.dev.issuer sh.id = some (sh, env) → sh.running = true →
      sh.laneSuspended = false → sh.current = some e → env.bolt.lcode[e.pc]? = some w → decodeLane w = .ok i →
        step s = endIssue (exec i (s'.issuing
          { sh := sh.id, lane := true, first := e.pc, pc := e.pc, next := e.pc + 1, words := laneParts w }))) ∧
    (s.up = true ∨ ofDies i = false → s.agenda = .event i :: rest → ofStream i = false →
      step s = endIssue (exec i (s'.takeInput i))) ∧
    (∀ x, s.up = true → s.agenda = .outside x :: rest → step s = execOutside x s') ∧
    (∀ t, s.up = false → s.agenda = t :: rest → (∀ j, t = .event j → ofDies j = true) → step s = .next s') ∧
    (s.agenda = [] → s.ticked.turns = [] → step s = .next s.ticked) ∧
    (s.agenda = [] → s.ticked.turns ≠ [] → ∃ t ∈ s.ticked.turns, ∃ ages, step s = stepTurn t { s.ticked with ages := ages } ∧
      ∀ x ∈ s.ticked.turns, x ≠ t → s.dev.issuePart x ≠ none → s.dev.issuePart x = s.dev.issuePart t →
        (256 ≤ s.ageOf x → s.ageOf x ≤ s.ageOf t) ∧ ({ s with ages := ages }).ageOf x = s.ageOf x + 1)

/-- R55, R143: on a number in their domain, fexp2, flog2, fsinpi, fcospi, ftanh and fsigm give the exact result rounded once, in
every float type and every mode, after the source's modifiers. (The other operands are in LaneFloatResults.) -/
def Obligations.LaneFunctionsRound : Prop :=
  ∀ p : LaneArg, p.w.t ∈ [8, 9, 10, 11, 12] → xRnd p.x < 6 →
    let fm := floatFmt p.w.t
    let gives := fun (opc : Nat) (domain : ℝ → Prop) (fn : ℝ → ℝ) =>
      p.Elems opc fm.width (elemCount p.w.t) fun k r =>
        ∀ n m e, floatVal fm (modified fm p.x 0 (elemOf fm.width p.a k)) = .fin n m e →
          let x : ℝ := (FloatVal.fin n m e).rat
          domain x → fn x ≠ 0 → Rounds fm (xRnd p.x) (xSat p.x) (srElem p.draw k) (fn x) r
    gives 0x04F (fun _ => True) (fun x => (2 : ℝ) ^ x) ∧ gives 0x050 (fun x => 0 < x) (fun x => Real.logb 2 x) ∧
    gives 0x051 (fun _ => True) (fun x => Real.sin (Real.pi * x)) ∧
    gives 0x052 (fun _ => True) (fun x => Real.cos (Real.pi * x)) ∧
    gives 0x053 (fun _ => True) Real.tanh ∧ gives 0x054 (fun _ => True) (fun x => 1 / (1 + Real.exp (-x)))

/-- Every step keeps the canonical form of the byte memory: the keys rise strictly, and no byte is listed that reads as an
unlisted one. -/
def Obligations.StepKeepsMemoryCanonical : Prop := ∀ s t : State, s.MemLegal → step s = .next t → t.MemLegal

/-- R444, R451, R453: every step keeps eight harts, LSEQ within its 8 bytes, the clock within 600 MHz to 1.3 GHz in steps of
100 MHz, and three throttle causes. Every step leaves nothing at issue: that field is the model's own (log 2), for R9's step
that executes an instruction whole. -/
def Obligations.StepKeepsQuietPowerAndComplex : Prop :=
  ∀ s t : State, step s = .next t →
    (s.Quiet → t.Quiet) ∧ (s.PowerLegal → s.ComplexLegal → t.PowerLegal ∧ t.ComplexLegal)

/-- No step ends in a fault or a refusal: every instruction of the table has an effect in every state. That a stream's
instruction never meets a shuttle that is not there is the model's own (log 2). -/
def Obligations.StepNeverStops : Prop := ∀ s : State, s.Safe

/-- R129, R252, R389, R400, R404, R417, R419, R426, R436, R445, R449, R453: what reset leaves, as far as the manual gives it; and
the invariants hold there. That no work of any kind is there is read from it. That memory lists nothing and that the clock step is
13 are the model's choices (logs 4 and 6). -/
def Obligations.ResetState : Prop :=
  let s := State.reset
  let d := s.dev
  s.Quiet ∧ s.MemLegal ∧ s.PowerLegal ∧ s.ComplexLegal ∧ d.mem = [] ∧ d.shuttles = [] ∧ d.teams = [] ∧ d.launches = [] ∧
    d.queues = [] ∧ d.smode = 0 ∧ (∀ core k, d.tw2Map core k = 0x00423C30) ∧
    (∀ p, (d.part p).pdesc = 0 ∧ (d.part p).pdescx = 0) ∧
    (∀ fn, let f := d.func fn
      f.l2bm = 0 ∧ f.nlim = 8 ∧ f.dbgen = 0 ∧ f.errb = 0 ∧ f.errs = 0 ∧ f.errh = 0 ∧ f.errt = 0 ∧ f.errlost = 0 ∧
        f.fqb = 0 ∧ f.fqs = 0 ∧ f.fqh = 0 ∧ f.fqt = 0 ∧ f.fdom = 0 ∧ f.fctx = 0 ∧ f.fwmask = 0 ∧ f.att = 0 ∧ f.attn = 0 ∧
        f.bref = 0xFFFFFFFF ∧ f.bused = 0 ∧ (∀ q ∈ [f.qq, f.rq, f.pq, f.tq, f.cq, f.sq, f.wq, f.fq], q = 0) ∧
        ∀ p, getK 0xFFFFFFFF f.plb p = 0xFFFFFFFF) ∧
    (∀ h ∈ s.harts, h.mode = .m ∧ h.pc = 0) ∧ s.lease.state = .run ∧ s.board.power = .d0 ∧ s.board.clock = 13

/-- R107 to R109, R116 to R119, R128, R130: the forms of the scalar stream that act on registers only leave everything else as it
was, and the registers that are no destination of theirs; or the form is illegal, or it reads a register with broken parity
(R430), and the team ends. -/
def Obligations.ScalarFrame : Prop :=
  ∀ (s t : State) (is : Issue) (sh : Shuttle) (env : Env) (x y csr : Nat) (imm : Int) (i : Instr) (dests : List Nat),
    s.AtIssue is sh env →
    (i ∈ oneDestination x y csr imm ∧ dests = [x]) ∨ (i ∈ pairDestination x y imm ∧ dests = [x, x + 1]) ∨
      (i ∈ noDestination x imm ∧ dests = []) →
    exec i s = .next t →
      (∃ sub, EndsTeam i s is sh sub) ∨ EndsByPoison i s is sh ∨
      ∃ h : Shuttle, t.dev.shuttle is.sh = some h ∧ (∀ n, n ∉ dests → h.sreg n = sh.sreg n) ∧
        { h with sregs := sh.sregs, pc := sh.pc, branchFrom := sh.branchFrom } = sh ∧
        (∀ id, id ≠ is.sh → t.dev.shuttle id = s.dev.shuttle id) ∧
        { t.dev with shuttles := s.dev.shuttles } = s.dev ∧ { t with dev := s.dev } = s ∧
        ∀ a, readByte t.dev.mem a = readByte s.dev.mem a

/-! ## Integer instructions of the scalar stream (spec/05 R104 to R109) -/

/-- R107, R104, R56, R57, R106: the forms of OP 0x01 that read sX and sY, both full, write the result to sX and continue
at Next; nothing else changes. R107, R104: the unary forms of OP 0x01 read sY only; sX may be empty, but not with a
producer pending. -/
def Obligations.RegisterArithmetic : Prop :=
  (∀ (s : State) (is : Issue) (sh : Shuttle) (env : Env) (x y : Nat) (a b : Word),
    s.AtIssue is sh env → 64 ≤ x → Reads env sh x a → Reads env sh y b →
      Gives (.sadd x y) s is sh x (a + b) ∧ Gives (.ssub x y) s is sh x (a - b) ∧
      Gives (.sand x y) s is sh x (a &&& b) ∧ Gives (.sor x y) s is sh x (a ||| b) ∧
      Gives (.sxor x y) s is sh x (a ^^^ b) ∧
      Gives (.sshl x y) s is sh x (a <<< (b.toNat % 32)) ∧ Gives (.sshr x y) s is sh x (a >>> (b.toNat % 32)) ∧
      Gives (.ssra x y) s is sh x (a.sshiftRight (b.toNat % 32)) ∧ Gives (.smul x y) s is sh x (a * b) ∧
      Gives (.smulh x y) s is sh x ((a.signExtend 64 * b.signExtend 64).extractLsb' 32 32) ∧
      Gives (.smulhu x y) s is sh x ((a.zeroExtend 64 * b.zeroExtend 64).extractLsb' 32 32) ∧
      Gives (.sdiv x y) s is sh x (if b = 0 then BitVec.allOnes 32 else a.sdiv b) ∧
      Gives (.sdivu x y) s is sh x (if b = 0 then BitVec.allOnes 32 else a / b) ∧
      Gives (.srem x y) s is sh x (a.srem b) ∧ Gives (.sremu x y) s is sh x (a % b) ∧
      Gives (.smin x y) s is sh x (if a.sle b then a else b) ∧
      Gives (.smax x y) s is sh x (if a.sle b then b else a) ∧
      Gives (.sminu x y) s is sh x (if a ≤ b then a else b) ∧
      Gives (.smaxu x y) s is sh x (if a ≤ b then b else a) ∧
      Gives (.sslt x y) s is sh x (if a.slt b then 1 else 0) ∧ Gives (.ssltu x y) s is sh x (if a < b then 1 else 0) ∧
      Gives (.sseq x y) s is sh x (if a = b then 1 else 0)) ∧
  ∀ (s : State) (is : Issue) (sh : Shuttle) (env : Env) (x y : Nat) (b : Word),
    s.AtIssue is sh env → Writable env sh x → Reads env sh y b →
      Gives (.smov x y) s is sh x b ∧ Gives (.snot x y) s is sh x (~~~b) ∧ Gives (.sclz x y) s is sh x b.clz ∧
      Gives (.spopc x y) s is sh x b.cpop ∧ Gives (.sbrev x y) s is sh x b.reverse ∧ Gives (.sneg x y) s is sh x (-b)

/-- R108, R103, R57: the forms of OP 0x02 over the pairs at even registers X and Y; a shift uses bits 5:0 of S[Y]. -/
def Obligations.PairArithmetic : Prop :=
  ∀ (s : State) (is : Issue) (sh : Shuttle) (env : Env) (x y : Nat) (a0 a1 b0 b1 : Word),
    s.AtIssue is sh env → x % 2 = 0 → y % 2 = 0 → Reads env sh y b0 → Reads env sh (y + 1) b1 →
      let b : DWord := b1 ++ b0
      (Writable env sh x → Writable env sh (x + 1) → GivesPair (.smov64 x y) s is sh x b) ∧
      (64 ≤ x → Reads env sh x a0 → Reads env sh (x + 1) a1 →
        let a : DWord := a1 ++ a0
        GivesPair (.sadd64 x y) s is sh x (a + b) ∧ GivesPair (.ssub64 x y) s is sh x (a - b) ∧
        GivesPair (.sshl64 x y) s is sh x (a <<< (b0.toNat % 64)) ∧
        GivesPair (.sshr64 x y) s is sh x (a >>> (b0.toNat % 64)) ∧
        GivesPair (.ssra64 x y) s is sh x (a.sshiftRight (b0.toNat % 64)) ∧
        GivesPair (.smul64 x y) s is sh x (a * b))

/-- R109: the immediate forms; `sli` and `sli64` do not read X, and a shift amount lies in 0 to 31. -/
def Obligations.ImmediateForms : Prop :=
  ∀ (s : State) (is : Issue) (sh : Shuttle) (env : Env) (x : Nat) (imm : Int) (a a1 : Word),
    s.AtIssue is sh env →
      (Writable env sh x → Gives (.sli x imm) s is sh x (BitVec.ofInt 32 imm)) ∧
      (x % 2 = 0 → Writable env sh x → Writable env sh (x + 1) →
        GivesPair (.sli64 x imm) s is sh x (BitVec.ofInt 64 imm)) ∧
      (64 ≤ x → Reads env sh x a →
        Gives (.saddi x imm) s is sh x (a + BitVec.ofInt 32 imm) ∧
        Gives (.sandi x imm) s is sh x (a &&& BitVec.ofInt 32 imm) ∧
        Gives (.sori x imm) s is sh x (a ||| BitVec.ofInt 32 imm) ∧
        Gives (.sxori x imm) s is sh x (a ^^^ BitVec.ofInt 32 imm) ∧
        Gives (.ssltiu x imm) s is sh x (if a < BitVec.ofInt 32 imm then 1 else 0) ∧
        (0 ≤ imm → imm ≤ 31 →
          Gives (.sshli x imm) s is sh x (a <<< imm.toNat) ∧ Gives (.sshri x imm) s is sh x (a >>> imm.toNat) ∧
          Gives (.ssrai x imm) s is sh x (a.sshiftRight imm.toNat))) ∧
      (64 ≤ x → x % 2 = 0 → Reads env sh x a → Reads env sh (x + 1) a1 →
        GivesPair (.saddi64 x imm) s is sh x ((a1 ++ a : DWord) + BitVec.ofInt 64 imm))

/-- R14, R86, R100, R105, R107 to R109, R116, R119: an illegal form ends the team with CAUSE 0x10 and the SUB of the
first rule broken: 1 for a shift amount outside 0 to 31, then 4 for a destination in s0 to s63, 2 for a register that is
not nameable, and 3 for an odd pair. R104, R27: an instruction waits while a register it reads is empty, and while
one that it writes has a producer pending. R430: one that could go on and reads a register with broken parity consumes poison,
CAUSE 0x13. -/
def Obligations.IllegalAndWaitingForms : Prop :=
  (∀ (s : State) (is : Issue) (sh : Shuttle) (env : Env) (x y : Nat) (imm : Int),
    s.AtIssue is sh env →
      (∀ i ∈ writesXreadsY x y ++ writesX x imm ++ [.sfet x y, .sempt x, .scall x imm, .sloop x imm, .sjrL x y],
        (x < 64 → EndsTeam i s is sh 4) ∧
        (64 ≤ x → nameable env.nest.ns x = false → i ≠ .sfet x x → EndsTeam i s is sh 2)) ∧
      (∀ i ∈ writesXreadsY x y ++ [.sfet x y, .sjrL x y],
        64 ≤ x → nameable env.nest.ns y = false → i ≠ .sfet x x → EndsTeam i s is sh 2) ∧
      (∀ i ∈ [Instr.sbz x imm, .sbnz x imm, .sblz x imm, .sbgez x imm, .sjr x, .swfull x],
        nameable env.nest.ns x = false → EndsTeam i s is sh 2) ∧
      EndsTeam (.sfet x x) s is sh 4 ∧
      (∀ i ∈ pairForms x y ++ [.sli64 x imm, .saddi64 x imm],
        (x < 64 → EndsTeam i s is sh 4) ∧
        (64 ≤ x → x % 2 = 1 → (∀ r ∈ [x, x + 1, y, y + 1], nameable env.nest.ns r = true) → EndsTeam i s is sh 3)) ∧
      (∀ i ∈ pairForms x y,
        64 ≤ x → y % 2 = 1 → (∀ r ∈ [x, x + 1, y, y + 1], nameable env.nest.ns r = true) → EndsTeam i s is sh 3) ∧
      (∀ i ∈ [Instr.sshli x imm, .sshri x imm, .ssrai x imm],
        (imm < 0 ∨ 31 < imm → EndsTeam i s is sh 1) ∧ (0 ≤ imm → imm ≤ 31 → x < 64 → EndsTeam i s is sh 4) ∧
        (0 ≤ imm → imm ≤ 31 → 64 ≤ x → nameable env.nest.ns x = false → EndsTeam i s is sh 2))) ∧
  ∀ (s : State) (is : Issue) (sh : Shuttle) (env : Env) (x y : Nat) (imm : Int),
    s.AtIssue is sh env → 64 ≤ x → nameable env.nest.ns x = true → nameable env.nest.ns y = true →
      (∀ i ∈ writesXreadsY x y ++ [.sjrL x y],
        ((sh.sreg y).present = false → Waits i s) ∧ ((sh.sreg x).isPending = true → Waits i s) ∧
        ((sh.sreg x).present = true → sh.sreg y = .bad → EndsByPoison i s is sh)) ∧
      (∀ i ∈ twoRegisterForms x y ++ [.saddi x imm, .sandi x imm, .sori x imm, .sxori x imm, .ssltiu x imm,
          .sloop x imm, .sbz x imm, .sbnz x imm, .sblz x imm, .sbgez x imm, .sjr x, .swfull x],
        ((sh.sreg x).present = false → Waits i s) ∧
        ((sh.sreg y).present = true → sh.sreg x = .bad → EndsByPoison i s is sh)) ∧
      (∀ i ∈ [Instr.sli x imm, .scall x imm, .sfet x y, .sempt x], i ≠ .sfet x x → (sh.sreg x).isPending = true → Waits i s)

/-! ## Branches, calls, loops and the full/empty instructions (spec/05 R116 to R119) -/

/-- R116 to R118: branches, calls and loops; the target of an offset is PC + OFF, and one below 0 lies beyond every
section of at most 2^63 words. -/
def Obligations.BranchesAndLoops : Prop :=
  ∀ (s : State) (is : Issue) (sh : Shuttle) (env : Env) (x y : Nat) (off : Int) (a b : Word),
    s.AtIssue is sh env →
      ((0 ≤ (is.pc : Int) + off → (is.pc : Int) + off < 2 ^ 64 → (branchTarget is off : Int) = is.pc + off) ∧
        (-2 ^ 63 ≤ (is.pc : Int) + off → (is.pc : Int) + off < 0 → 2 ^ 63 ≤ branchTarget is off)) ∧
      EndsAs (.sbr off) s (sh.branchTo is (branchTarget is off)) ∧
      (Reads env sh x a →
        EndsAs (.sbz x off) s (if a = 0 then sh.branchTo is (branchTarget is off) else sh.advance is) ∧
        EndsAs (.sbnz x off) s (if a = 0 then sh.advance is else sh.branchTo is (branchTarget is off)) ∧
        EndsAs (.sblz x off) s (if a.slt 0 then sh.branchTo is (branchTarget is off) else sh.advance is) ∧
        EndsAs (.sbgez x off) s (if a.slt 0 then sh.advance is else sh.branchTo is (branchTarget is off)) ∧
        EndsAs (.sjr x) s (sh.branchTo is a.toNat)) ∧
      (Writable env sh x →
        EndsAs (.scall x off) s
          ((sh.setSreg x (.full (BitVec.ofNat 32 is.next))).branchTo is (branchTarget is off)) ∧
        (Reads env sh y b →
          EndsAs (.sjrL x y) s ((sh.setSreg x (.full (BitVec.ofNat 32 is.next))).branchTo is b.toNat))) ∧
      (64 ≤ x → Reads env sh x a →
        EndsAs (.sloop x off) s
          (if a = 1 then (sh.setSreg x (.full (a - 1))).advance is
            else (sh.setSreg x (.full (a - 1))).branchTo is (branchTarget is off)) ∧
        (a = 0 →
          EndsAs (.sloop x off) s ((sh.setSreg x (.full 0xFFFFFFFF)).branchTo is (branchTarget is off))))

/-- R119, R27: `sfet` writes whether sY is full and never waits on it; `swfull` goes on when sX is full; `sempt` leaves sX
empty with no producer. -/
def Obligations.FullEmptyInstructions : Prop :=
  ∀ (s : State) (is : Issue) (sh : Shuttle) (env : Env) (x y : Nat) (v : Word),
    s.AtIssue is sh env →
      (Writable env sh x → nameable env.nest.ns y = true → x ≠ y →
        Gives (.sfet x y) s is sh x (if (sh.sreg y).present then 1 else 0)) ∧
      (Reads env sh x v → EndsAs (.swfull x) s (sh.advance is)) ∧
      (Writable env sh x → EndsAs (.sempt x) s ((sh.setSreg x .empty).advance is))

/-! ## System state of the scalar stream (spec/05 R123 to R131) -/

/-- R130, R19, R123, R128, R129: `snop` and `syield` only go on; `ssetfmt` writes FMT, and a nonzero bit in 31:24 is SUB 1 (that SUB
is DEDUCED, log 70); a read of a CSR gives SRSEED's halves, PLACE or the core's map; a write of SRSEED replaces one half, and one of
a map writes it on every core of the team once the lane queue is empty. R131: `scyc` writes the core's 64-bit cycle counter to an
even pair in one step. How far the counter has moved on is open (log 10): it is a free value of the step. -/
def Obligations.SystemRegisters : Prop :=
  (∀ (s : State) (is : Issue) (sh : Shuttle) (env : Env) (x k : Nat) (v : Word),
    s.AtIssue is sh env →
      EndsAs .snop s (sh.advance is) ∧ EndsAs .syield s (sh.advance is) ∧
      (Reads env sh x v →
        (v.toNat < 2 ^ 24 → EndsAs (.ssetfmt x) s { sh.advance is with fmt := v.toNat }) ∧
        (2 ^ 24 ≤ v.toNat → EndsTeam (.ssetfmt x) s is sh 1) ∧
        EndsAs (.scsrW x 0) s { sh.advance is with seed := sh.seed / 2 ^ 32 * 2 ^ 32 + v.toNat } ∧
        EndsAs (.scsrW x 1) s { sh.advance is with seed := sh.seed % 2 ^ 32 + v.toNat * 2 ^ 32 } ∧
        (k < 8 → 2 ^ 24 ≤ v.toNat → EndsTeam (.scsrW x (16 + k)) s is sh 1) ∧
        (k < 8 → v.toNat < 2 ^ 24 → sh.blocks ≠ [] → Waits (.scsrW x (16 + k)) s) ∧
        (k < 8 → v.toNat < 2 ^ 24 → sh.blocks = [] →
          ∃ d : Dev,
            exec (.scsrW x (16 + k)) s = .next { s with dev := d.setShuttle (sh.advance is) } ∧
              { d with tw2m := s.dev.tw2m } = s.dev ∧
              ∀ c j, j < 8 → d.tw2Map c j = if c ∈ env.team.cores ∧ j = k then v.toNat else s.dev.tw2Map c j)) ∧
      (Writable env sh x →
        Gives (.scsrR x 0) s is sh x (BitVec.ofNat 32 sh.seed) ∧
        Gives (.scsrR x 1) s is sh x (BitVec.ofNat 32 (sh.seed / 2 ^ 32)) ∧
        Gives (.scsrR x 32) s is sh x
          (BitVec.ofNat 32 (sh.slot * 2 ^ 16 + sh.lane * 2 ^ 12 + sh.part * 2 ^ 8 + sh.core)) ∧
        (k < 8 → Gives (.scsrR x (16 + k)) s is sh x (BitVec.ofNat 32 (s.dev.tw2Map sh.core k))))) ∧
  ∀ (s : State) (is : Issue) (sh : Shuttle) (env : Env) (x : Nat),
    s.AtIssue is sh env → x % 2 = 0 → Writable env sh x → Writable env sh (x + 1) →
      let c := (getK 0 s.dev.cycles sh.core + Config.cycleStep s.dev.tick) % 2 ^ 64
      let sh' := (sh.setSreg x (.full (BitVec.ofNat 32 c))).setSreg (x + 1) (.full (BitVec.ofNat 32 (c / 2 ^ 32)))
      ∃ d : Dev,
        exec (.scyc x) s = .next { s with dev := d.setShuttle (sh'.advance is) } ∧
          { d with cycles := s.dev.cycles } = s.dev ∧
          ∀ k, getK 0 d.cycles k = if k = sh.core then c else getK 0 s.dev.cycles k

/-! ## Traps (spec/01 R35 to R38; spec/05 R124 to R126) -/

/-- R36, R38, R124, R125: outside a handler, in a nest with one, `strap` writes the trap record, each register of it
full, and starts the handler; in a handler it is a double trap, CAUSE 0x16, and with no handler it ends the team under
CAUSE 0x01. R37, R124: in a handler, with s1010 and s1011 full, `strap.ret` resumes the scalar stream at the offset in
s1010; a trap of the scalar stream leaves the lane stream as it is, and an entry that a lane trap suspended goes on at
the offset in s1011, or at the word after it when the trap was an `ltrap` or an illegal word. Outside a handler it is
SUB 0. That the count of s1023 is kept apart from the register, and that a load still pending on a register of the record no longer
fills it, are the model's choices (logs 18 and 79). -/
def Obligations.SoftwareTrapAndReturn : Prop :=
  (∀ (s : State) (is : Issue) (sh : Shuttle) (env : Env) (code : Int),
    s.AtIssue is sh env →
      (env.nest.hasTrap = true → sh.handler = false →
        ∃ h : Shuttle, EndsAs (.strap code) s h ∧
          h.pc = env.nest.trapOff ∧ h.handler = true ∧ h.suspended = .scalar ∧ h.traps = sh.traps + 1 ∧
          h.sreg 1008 = .full 1 ∧ h.sreg 1009 = .full 0 ∧ h.sreg 1010 = .full (BitVec.ofNat 32 is.next) ∧
          h.sreg 1011 = .full 0xFFFFFFFF ∧ h.sreg 1012 = .full 0 ∧ h.sreg 1013 = .full 0 ∧
          h.sreg 1014 = .full (BitVec.ofNat 32 (is.words.getD 0 0)) ∧
          h.sreg 1015 = .full (BitVec.ofNat 32 (is.words.getD 1 0)) ∧
          h.sreg 1016 = .full (BitVec.ofNat 32 (is.words.getD 2 0)) ∧ h.sreg 1017 = .full 0 ∧
          h.sreg 1018 = .full (BitVec.ofInt 32 code) ∧ h.sreg 1019 = .full (BitVec.ofNat 32 sh.fmt) ∧
          h.sreg 1020 = .full (BitVec.ofNat 32 sh.blocks.length) ∧ h.sreg 1021 = .full 0 ∧ h.sreg 1022 = .full 0 ∧
          h.sreg 1023 = .full (BitVec.ofNat 32 (sh.traps + 1)) ∧
          (∀ n, n < 1008 → h.sreg n = sh.sreg n) ∧
          { h with sregs := sh.sregs, pc := sh.pc, branchFrom := sh.branchFrom, handler := sh.handler,
                   suspended := sh.suspended, traps := sh.traps, accs := sh.accs } = sh ∧
          (h.accs.map fun a => { a with lost := [] }) = sh.accs.map fun a => { a with lost := [] }) ∧
      (sh.handler = true → EndsTeamWith (.strap code) s sh 0x16 0) ∧
      (env.nest.hasTrap = false → sh.handler = false → EndsTeamWith (.strap code) s sh 1 0)) ∧
  ∀ (s : State) (is : Issue) (sh : Shuttle) (env : Env) (w : Nat) (a b : Word),
    s.AtIssue is sh env → is.words = [w] →
      (sh.handler = false → EndsTeam .strapRet s is sh 0) ∧
      (sh.handler = true → sh.sreg 1010 = .full a → sh.sreg 1011 = .full b →
        ∃ h : Shuttle, EndsAs .strapRet s h ∧
          h.pc = a.toNat ∧ h.handler = false ∧ h.suspended = .none ∧ h.sregs = sh.sregs ∧ h.vregs = sh.vregs ∧
          h.preds = sh.preds ∧ h.flags = sh.flags ∧ h.fmt = sh.fmt ∧ h.blocks = sh.blocks ∧ h.running = sh.running ∧
          h.traps = sh.traps ∧
          (∀ e pc skip, sh.frontier = [e] → e.beats ≠ [] →
            (sh.suspended = .scalar → h.frontier = [e]) ∧
            (sh.suspended = .lane pc e.beats skip → e.pc = pc →
              h.frontier.map (fun e => (e.pc, e.beats, e.status)) =
                [(if skip then b.toNat + 1 else b.toNat, e.beats, .ready)]))) ∧
      (sh.handler = true → (sh.sreg 1010).present = false ∨ (sh.sreg 1011).present = false → Waits .strapRet s)

/-- R126: with the debug enable clear `sbrk` only goes on, and so it does with it set while the fault queue is disabled (R415); with
it set, and the fault queue enabled, the shuttle stops with s1010 holding Next, and the fault queue holds one more entry, the last,
of kind 3 for this shuttle, with the next ID, Next in its address field, the team's number and the context, and not resolved (R415,
R416). That s1010 is written at once though it has a producer pending is the model's choice (log 79). -/
def Obligations.Breakpoint : Prop :=
  ∀ (s : State) (is : Issue) (sh : Shuttle) (env : Env),
    s.AtIssue is sh env →
      ((s.dev.func env.launch.fn).dbgen % 2 = 0 → EndsAs .sbrk s (sh.advance is)) ∧
      ((s.dev.func env.launch.fn).dbgen % 2 = 1 → ringOk (s.dev.func env.launch.fn).fqs = false →
        EndsAs .sbrk s (sh.advance is)) ∧
      ((s.dev.func env.launch.fn).dbgen % 2 = 1 → ringOk (s.dev.func env.launch.fn).fqs = true →
        ∃ (d : Dev) (h : Shuttle),
          exec .sbrk s = .next { s with dev := d } ∧ d.shuttle is.sh = some h ∧
            h.stopped = true ∧ h.pc = is.next ∧ h.sreg 1010 = .full (BitVec.ofNat 32 is.next) ∧
            (∀ n, n ≠ 1010 → h.sreg n = sh.sreg n) ∧
            (d.func env.launch.fn).faults.length = (s.dev.func env.launch.fn).faults.length + 1 ∧
            (∀ k, k < (s.dev.func env.launch.fn).faults.length →
              ((d.func env.launch.fn).faults[k]?.map fun e => e.id) = (s.dev.func env.launch.fn).faults[k]?.map fun e => e.id) ∧
            ∃ e : FaultEntry, (d.func env.launch.fn).faults.getLast? = some e ∧ e.id = (s.dev.func env.launch.fn).nextFault ∧
              e.kind = 3 ∧ e.owner = .shuttle sh.id ∧ e.addr = is.next ∧ e.team = env.team.num ∧ e.ctx = env.launch.ctx ∧
              e.resolved = false)
/-! ## Lane blocks, levels, barriers and threads (spec/01 R21 to R25; spec/07, spec/08) -/

/-- R21, R22, R121, R122: `lrun` puts a block behind the lane queue with the arguments, FMT and SRSEED of that moment and empties
its output window, each register with the block as its producer; the block starts when it is first. A ninth block waits. -/
def Obligations.LaneBlockLaunch : Prop :=
  ∀ (s : State) (is : Issue) (sh : Shuttle) (env : Env) (x y n entry : Nat),
    s.AtIssue is sh env →
      (sh.handler = true → EndsTeam (.lrun x y n entry) s is sh 0) ∧
      (sh.handler = false → n ≤ 8 → entry < env.bolt.lcode.length → (n = 0 → x = 0) →
        (n ≠ 0 → 64 ≤ x ∧ x + n ≤ 1008) → WritableAll env sh x n → ReadsAll env sh y 8 →
          (8 ≤ sh.blocks.length → Waits (.lrun x y n entry) s) ∧
          (sh.blocks.length < 8 →
            ∃ (h : Shuttle) (b : Block),
              exec (.lrun x y n entry) s =
                  .next { s with dev := { s.dev with nextId := s.dev.nextId + 1 }.setShuttle h } ∧
                h.blocks = sh.blocks ++ [b] ∧ h.pc = is.next ∧ h.vregs = sh.vregs ∧ h.fmt = sh.fmt ∧ h.seed = sh.seed ∧
                b.entry = entry ∧ b.fmt = sh.fmt ∧ b.seed = sh.seed ∧ b.seq = sh.seq ∧ b.outBase = x ∧ b.outN = n ∧
                b.written = [] ∧ b.beats = sh.threads env.launch.levels env.team.num sh.seq ∧ b.args = (regRange y 8).map (fun r => BitVec.ofNat 32 (sh.sval r)) ∧
                (∀ r, h.sreg r = if x ≤ r ∧ r < x + n then .pending else sh.sreg r) ∧
                (sh.running = true → h.running = true ∧ h.frontier = sh.frontier) ∧
                (sh.running = false → sh.blocks = [] →
                  h.running = true ∧ h.frontier = [Entry.start entry b.beats sh.fmt])))

/-- R25, R24, R123: `lsync` goes on once the queue is empty and every lane access has been performed; `sshare`, whose FN holds f
from 0 to 31, waits for the queue and then copies f + 1 registers into the lane-shared ones, every source read before a write. -/
def Obligations.LaneQueueWaits : Prop :=
  ∀ (s : State) (is : Issue) (sh : Shuttle) (env : Env) (x y f : Nat),
    s.AtIssue is sh env →
      (sh.handler = true → EndsTeam .lsync s is sh 0 ∧ EndsTeam (.sshare x y f) s is sh 0) ∧
      (sh.handler = false →
        (sh.blocks = [] → (∀ a ∈ sh.accs, a.beat ≠ none → a.performed = true) → EndsAs .lsync s (sh.advance is)) ∧
        (sh.blocks ≠ [] → Waits .lsync s) ∧
        (∀ a ∈ sh.accs, a.beat ≠ none → a.performed = false → Waits .lsync s) ∧
        (63 < x + f → EndsTeam (.sshare x y f) s is sh 4) ∧
        (x + f ≤ 63 → ReadsAll env sh y (f + 1) → (∀ r, x ≤ r → r ≤ x + f → (sh.sreg r).isPending = false) →
          (sh.blocks ≠ [] → Waits (.sshare x y f) s) ∧
          (sh.blocks = [] →
            ∃ h : Shuttle, EndsAs (.sshare x y f) s h ∧ h.pc = is.next ∧
              (∀ r, h.sreg r = if x ≤ r ∧ r ≤ x + f then sh.sreg (y + (r - x)) else sh.sreg r) ∧
              { h with sregs := sh.sregs, pc := sh.pc, branchFrom := sh.branchFrom, laneFence := sh.laneFence } = sh)))

/-- R206, R207, R173 to R175, R213, R211: the index of a uniform level, the mapping registers, and the election of the
shuttle with the first thread of its instance. -/
def Obligations.LevelQueries : Prop :=
  (∀ x y fn, x < 1024 → y < 1024 → fn < 32 →
    decodeScalar (0x38 * 2 ^ 25 + x * 2 ^ 15 + y * 2 ^ 5 + fn) none =
      if y = 0 ∧ fn < 4 then .ok (.sidx x fn) else .error .reserved) ∧
  (∀ (s : State) (is : Issue) (sh : Shuttle) (env : Env) (x k : Nat),
    s.AtIssue is sh env → x < 64 → EndsTeam (.sidx x k) s is sh 4) ∧
  ∀ (s : State) (is : Issue) (sh : Shuttle) (env : Env) (x k sel : Nat),
    s.AtIssue is sh env → Writable env sh x →
      let lv := env.launch.levels
      ((env.nest.level k).uniform = true →
        Gives (.sidx x k) s is sh x (BitVec.ofNat 32 ((sh.coord lv env.team.num sh.seq 0).getD k 0))) ∧
      ((env.nest.level k).uniform = false → MapError (.sidx x k) s is sh env 2) ∧
      (∀ l : LevelMap, lv[sel]? = some l → sel < 4 → x % 2 = 0 → Writable env sh (x + 1) →
        GivesPair (.smapq x sel) s is sh x
          (BitVec.ofNat 64 (l.extent * 2 ^ 32 + l.outer * 2 ^ 27 + l.inner * 2 ^ 24 +
            (if l.inner = kindLane ∨ l.inner = kindShut then l.fact else 0)))) ∧
      Gives (.smapq x 4) s is sh x
        (BitVec.ofNat 32 (env.team.cores.length * 2 ^ 25 +
          ((s.dev.shuttlesOf env.team.id).filter fun z => !z.spawned).length * 2 ^ 14 +
          (((s.dev.shuttlesOf env.team.id).filter fun z => !z.spawned).map fun z =>
            (z.beatsEver lv env.team.num).length).sum)) ∧
      Gives (.smapq x 5) s is sh x
        (BitVec.ofNat 32 (env.nest.nstage * 16 + (if sh.spawned then 0 else sh.stage))) ∧
      (6 ≤ sel → MapError (.smapq x sel) s is sh env 0) ∧
      (sh.spawned = true → MapError (.selct x k) s is sh env 4) ∧
      (sh.spawned = false → teamLevel lv k = true → MapError (.selct x k) s is sh env 1) ∧
      (sh.spawned = false → teamLevel lv k = false →
        Gives (.selct x k) s is sh x
          (if ∃ b ∈ sh.threads lv env.team.num sh.seq, ∀ i ∈ (sh.coord lv env.team.num sh.seq b).drop k, i = 0 then 1
            else 0))

/-- R176, R178, R212: `srgnb` opens the region of its level at its first SEQ index; `srgne` of a level that no barrier has split
leaves the region, or with a SEQ part runs its next iteration from the word after `srgnb` until none is left; a marker that does not
match is SUB 3, an undeclared level SUB 5, and one in a spawned shuttle SUB 4. What a repeated region waits for is the model's
choice (log 31), and so is that the marker of a level without a SEQ part, which R176 lets pass straight through, opens and closes an
entry of the stack of open regions (log 30). -/
def Obligations.RegionMarkers : Prop :=
  ∀ (s : State) (is : Issue) (sh : Shuttle) (env : Env) (k : Nat),
    s.AtIssue is sh env → sh.splits = [] →
      let lv := env.launch.levels
      (sh.spawned = true → MapError (.srgnb k) s is sh env 4 ∧ MapError (.srgne k) s is sh env 4) ∧
      (sh.spawned = false → (env.nest.level k).decl = false →
        MapError (.srgnb k) s is sh env 5 ∧ MapError (.srgne k) s is sh env 5) ∧
      (sh.spawned = false → (env.nest.level k).decl = true →
        ((∃ r ∈ sh.regions, k ≤ r.level) → MapError (.srgnb k) s is sh env 3) ∧
        ((∀ r ∈ sh.regions, r.level < k) → env.nest.slicesOf sh.stage = [] →
          EndsAs (.srgnb k) s
            { sh.advance is with
              regions := { level := k, start := is.next, flags0 := sh.flags, counts0 := sh.counts, flagsAcc := [],
                           countsAcc := [] } :: sh.regions
              seq := if seqLevel lv k then setAt sh.seq k 0 else sh.seq }) ∧
        (sh.regions = [] → MapError (.srgne k) s is sh env 3) ∧
        (∀ r rs, sh.regions = r :: rs → r.level ≠ k → MapError (.srgne k) s is sh env 3) ∧
        (∀ r rs, sh.regions = r :: rs → r.level = k → (∀ q ∈ rs, q.level ≠ k) →
          (seqLevel lv k = false → EndsAs (.srgne k) s { sh.advance is with regions := rs }) ∧
          (seqLevel lv k = true → sh.blocks ≠ [] → Waits (.srgne k) s) ∧
          (seqLevel lv k = true → Settled sh → env.nest.slicesOf sh.stage = [] →
            ∃ t h, exec (.srgne k) s = .next t ∧ t.dev.shuttle is.sh = some h ∧ h.sregs = sh.sregs ∧ h.vregs = sh.vregs ∧
              h.preds = sh.preds ∧
              (sh.seq.getD k 0 + 1 < seqCount lv sh.num k →
                h.pc = r.start ∧ h.seq = setAt sh.seq k (sh.seq.getD k 0 + 1) ∧ h.regions.length = sh.regions.length ∧
                  h.flags = r.flags0 ∧ h.counts = r.counts0) ∧
              (seqCount lv sh.num k ≤ sh.seq.getD k 0 + 1 →
                h.pc = is.next ∧ h.regions = rs ∧ h.seq = setAt sh.seq k 0 ∧
                  h.flags = orFlagLists sh.flags r.flagsAcc ∧ h.counts = maxCountLists sh.counts r.countsAcc))))

/-- R179, R183, R214, R215, R216, R67, R184: in a team of one shuttle, outside a region with a SEQ part, a barrier or a
collective completes at once; a collective writes vX of each beat with the result over the values of vY of its
instance's threads in the order of their coordinates. An open access, block or producer waits. That a pending register makes a
barrier wait is the model's choice (log 31), and so is that outside an open region of a SEQ level the threads are those of the
current iteration (log 32). -/
def Obligations.BarriersAndCollectives : Prop :=
  ∀ (s : State) (is : Issue) (sh : Shuttle) (env : Env) (x y k id op width fill rank : Nat) (d : Int)
    (i : Instr × Option (Nat × Nat × Int)),
    s.AtIssue is sh env → sh.handler = false → sh.arrived = none →
      let lv := env.launch.levels
      let team := env.team.num
      let names := fun r => nameable env.nest.ns r = true ∧ (sh.sreg r).isFull = true
      i = (.sbar k id, none) ∨
        (x < 768 ∧ x < env.nest.nv ∧ y < 768 ∧ y < env.nest.nv ∧
          (i = (.scoll x y k op, some (0x44, op, (0 : Int))) ∨ i = (.sprfx x y k op, some (0x45, op, 0)) ∨
            (names fill ∧ i = (.sslide x y k width fill d, some (0x46, width, d))) ∨
            (names rank ∧ i = (.sbcast x y k rank, some (0x47, 0, (sh.sval rank : Int)))))) →
        (sh.spawned = true → MapError i.1 s is sh env 4) ∧
        (sh.spawned = false → teamLevel lv k = true → MapError i.1 s is sh env 1) ∧
        (sh.spawned = false → teamLevel lv k = false →
          (sh.blocks ≠ [] → Waits i.1 s) ∧ (∀ a ∈ sh.accs, a.performed = false → Waits i.1 s) ∧
          (Settled sh → sh.nonePending = true → sh.openSeq lv k = [] → s.dev.shuttlesOf env.team.id = [sh] →
            env.team.arrivals = [] →
            i.2 = none ∨ (∀ b ∈ sh.threads lv team sh.seq, (sh.vreg b y).isFull = true) →
              ∃ t h, exec i.1 s = .next t ∧ t.dev.shuttle is.sh = some h ∧ h.pc = is.next ∧
                h.arrived = none ∧ h.sregs = sh.sregs ∧ h.regions = sh.regions ∧
                (∀ u, t.dev.team env.team.id = some u → u.arrivals = []) ∧
                (i.2 = none → h.vregs = sh.vregs) ∧
                ∀ c, i.2 = some c → ∀ b ∈ sh.threads lv team sh.seq,
                  let at_ := fun b => sh.coord lv team sh.seq b
                  let mine := sortBy (fun p q => coordBefore p.1 q.1)
                    (((sh.threads lv team sh.seq).filter fun b' => stripInst lv k (at_ b') == stripInst lv k (at_ b)).map
                      fun b' => (at_ b', (sh.vreg b' y).val))
                  let fillValue := if c.1 = 0x46 then sh.sval fill else 0
                  h.vreg b x = fullOf ((collResults c (mine.map (·.2)) fillValue).getD
                    ((mine.findIdx? fun p => p.1 == at_ b).getD 0) 0)))

/-- R67, R215, R216: TreeReduce and ExPrefix with their identities, and the results of the collectives on values in order: a
reduction of any operation gives every thread TreeReduce of it, a prefix ExPrefix, with a NaN result canonical; `sslide` of 32, 16
or 8 bits the element D on or the low bits of the fill, `sbcast` the value of a rank. -/
def Obligations.CollectiveResults : Prop :=
  (∀ (f : Nat → Nat → Nat) (x : Nat) (xs : List Nat),
    treeReduce f 1 [x] = x ∧
    (1 < xs.length →
      ∃ ys : List Nat, ys.length = (xs.length + 1) / 2 ∧
        (∀ j, j < xs.length / 2 → ys.getD j 0 = f (xs.getD (2 * j) 0) (xs.getD (2 * j + 1) 0)) ∧
        (xs.length % 2 = 1 → ys.getD (xs.length / 2) 0 = xs.getD (xs.length - 1) 0) ∧
        treeReduce f xs.length xs = treeReduce f ys.length ys)) ∧
  (∀ (op : Nat) (xs : List Nat), let out := exPrefix op xs
    out.length = xs.length ∧ (0 < xs.length → out.getD 0 0 = collIdentity op) ∧
    (1 < xs.length → out.getD 1 0 = xs.getD 0 0) ∧
    ∀ i, 2 ≤ i → i < xs.length → out.getD i 0 = collOp op (out.getD (i - 1) 0) (xs.getD (i - 1) 0)) ∧
  (List.range 8).map collIdentity = [0, 0, 0x7FFFFFFF, 0x80000000, 0x7F800000, 0xFF800000, 0xFFFFFFFF, 0] ∧
  (∀ (a b : Word) (p : LaneArg), p.a = a.toNat → p.b = b.toNat → p.w.t = 8 → p.x = 0 →
    collOp 0 a.toNat b.toNat = (a + b).toNat ∧ some (collOp 1 a.toNat b.toNat) = (laneFn 0x040).map (fun f => (f p).1) ∧
    collOp 2 a.toNat b.toNat = (if a.sle b then a else b).toNat ∧
    collOp 3 a.toNat b.toNat = (if a.sle b then b else a).toNat ∧
    some (collOp 4 a.toNat b.toNat) = (laneFn 0x044).map (fun f => (f p).1) ∧
    some (collOp 5 a.toNat b.toNat) = (laneFn 0x045).map (fun f => (f p).1) ∧
    collOp 6 a.toNat b.toNat = (a &&& b).toNat ∧ collOp 7 a.toNat b.toNat = (a ||| b).toNat) ∧
  (∀ (op : Nat) (vals : List Nat) (fill : Nat), op < 8 → vals ≠ [] →
    let canonical := fun (v : Nat) =>
      if op ∈ [1, 4, 5] ∧ (floatVal .f32 v = .nan false ∨ floatVal .f32 v = .nan true) then canonNaN .f32 else v
    collResults (0x44, op, 0) vals fill = vals.map (fun _ => canonical (treeReduce (collOp op) vals.length vals)) ∧
    collResults (0x45, op, 0) vals fill = (exPrefix op vals).map canonical) ∧
  (∀ (code : Nat) (vals : List Nat) (fill : Nat) (d : Int), code < 3 →
    let m := 2 ^ code
    let w := 32 / m
    let out := collResults (0x46, code, d) vals fill
    out.length = vals.length ∧
      ∀ i k, i < vals.length → k < m →
        out.getD i 0 < 2 ^ 32 ∧
        elemOf w (out.getD i 0) k =
          let j : Int := (m * i + k : Nat) + d
          if 0 ≤ j ∧ j < (m * vals.length : Nat) then elemOf w (vals.getD (j.toNat / m) 0) (j.toNat % m) else fill % 2 ^ w) ∧
  (∀ (vals : List Nat) (fill : Nat), (∀ v ∈ vals, v < 2 ^ 32) → vals ≠ [] →
    collResults (0x44, 0, 0) vals fill = vals.map (fun _ => vals.sum % 2 ^ 32) ∧
    collResults (0x45, 0, 0) vals fill = (List.range vals.length).map (fun i => (vals.take i).sum % 2 ^ 32) ∧
    (∀ r : Nat, collResults (0x47, 0, (r : Int)) vals fill = vals.map fun _ => vals.getD r 0) ∧
    (fill < 2 ^ 32 → ∀ n : Int, collResults (0x46, 0, n) vals fill =
      (List.range vals.length).map fun (i : Nat) =>
        if 0 ≤ (i : Int) + n ∧ (i : Int) + n < vals.length then vals.getD ((i : Int) + n).toNat 0 else fill))

/-- R422: a region boundary that its table names waits until the shuttle has settled, then records the offset of its word,
the counter of `sirc`, the open regions, indices, FMT, SRSEED, FLAGS and n; in a spawned shuttle it has no effect. -/
def Obligations.RegionBoundaries : Prop :=
  ∀ (s : State) (is : Issue) (sh : Shuttle) (env : Env) (x id : Nat) (v : Word),
    s.AtIssue is sh env →
      (sh.handler = true → EndsTeam (.sirb id) s is sh 0 ∧ EndsTeam (.sirc x id) s is sh 0) ∧
      (sh.handler = false → Reads env sh x v →
        ∀ i ∈ [(Instr.sirb id, (none : Option Nat)), (.sirc x id, some x)],
          ((∀ r ∈ env.nest.regions, r.id ≠ id) → EndsTeam i.1 s is sh 1) ∧
          (env.nest.boundaryOk id (i.2.getD 0x3FF) is.first = true →
            (sh.spawned = true → EndsAs i.1 s (sh.advance is)) ∧
            (sh.spawned = false → sh.blocks ≠ [] → Waits i.1 s) ∧
            (sh.spawned = false → Settled sh → sh.splits = [] →
              EndsAs i.1 s
                { sh.advance is with
                  record := some
                    { resume := is.first, creg := i.2, cval := i.2.elim 0 sh.sval, regions := sh.regions, seq := sh.seq,
                      fmt := sh.fmt, seed := sh.seed, flags := sh.flags, counts := sh.counts }
                  exposed := false
                  stopped := sh.stopped || env.team.pausing == some .discard })))

/-- R217, R218, R13, R30, R273: `spawn` writes 1 and makes a shuttle of the same team that starts at its target with the eight
registers as s0 to s7 and with FMT and SRSEED and whose start acquires, or writes 0 when no lane of the core has room. That a freed
slot is taken again is the model's choice (log 71). -/
def Obligations.Spawning : Prop :=
  ∀ (s : State) (is : Issue) (sh : Shuttle) (env : Env) (x y n target : Nat),
    s.AtIssue is sh env →
      (sh.handler = true → EndsTeam (.spawn x y n target) s is sh 0) ∧
      (sh.handler = false → Writable env sh x → ReadsAll env sh y 8 →
        (sh.blocks ≠ [] → Waits (.spawn x y n target) s) ∧
        (Settled sh →
          (coreRoom (s.dev.onCore sh.core) n env.nest.nv env.nest.ns = none →
            EndsAs (.spawn x y n target) s { (sh.setSreg x (.full 0)).advance is with exposed := true }) ∧
          (∀ part lane slot, coreRoom (s.dev.onCore sh.core) n env.nest.nv env.nest.ns = some (part, lane, slot) →
            ∃ (t : State) (h new : Shuttle),
              exec (.spawn x y n target) s = .next t ∧
                t.dev.shuttles = (s.setShuttle h).dev.shuttles ++ [new] ∧
                h = { (sh.setSreg x (.full 1)).advance is with exposed := true } ∧ t.dev.mem = s.dev.mem ∧
                t.dev.teams = s.dev.teams ∧ (∀ c ∈ t.dev.l1, c.cluster ≠ env.team.cluster) ∧
                new.id = s.dev.nextId ∧ new.team = sh.team ∧ new.spawned = true ∧ new.nthreads = n ∧
                new.core = sh.core ∧ new.part = part ∧ new.lane = lane ∧ new.slot = slot ∧ new.pc = target ∧
                new.live = true ∧ new.fmt = sh.fmt ∧ new.seed = sh.seed ∧ new.vregs = [] ∧ new.preds = [] ∧
                new.flags = [] ∧ new.blocks = [] ∧
                (∀ j, j < 8 → new.sreg j = sh.sreg (y + j)) ∧ (∀ j, 8 ≤ j → new.sreg j = .full 0))))

/-! ## Memory instructions of the scalar stream (spec/05 R111 to R115; spec/14 R289, R290, R295) -/

/-- R31, R32, R245, R455: what an address reaches: nothing when it is misaligned; a virtual address with a top byte of 0; a byte of
a bank that the team holds in SCRATCH mode; a slot of one that it holds in FIFO mode, with the slot's size; a byte of a copy in the
team-state window; nothing else. R111, R112, R115: a load of 1, 2 or 4 registers empties its destination, with itself as the
producer, and is under way at the pair's address plus 4 OFF; an address that is misaligned or reaches nothing ends the team under
cause 0x14 and empties nothing. -/
def Obligations.ScalarLoads : Prop :=
  (∀ (fn : Nat) (t : Team) (a n : Nat),
    let rest := a % 2 ^ 56
    let top := a / 2 ^ 56
    let entry := rest / 2 ^ 19
    let bad := reach fn t a n = .bad
    let held := ∃ c ∈ t.copies, c.entry = none ∧ c.offset ≤ rest ∧ rest + n ≤ c.offset + c.size
    (a % n ≠ 0 → bad) ∧
    (a % n = 0 →
      (top = 0 → reach fn t a n = .virt rest) ∧
      (top = 0xFE ∨ top = 0xFD → 2 ^ 23 ≤ rest ∨ t.bank entry = none → bad) ∧
      (top = 0xFD → rest % 2 ^ 19 ≠ 0 → bad) ∧
      (∀ b, rest < 2 ^ 23 → t.bank entry = some b →
        (top = 0xFE →
          (b.fifo = none → ∃ l, reach fn t a n = .window l ∧ l.key = scratchKey t.id entry (rest % 2 ^ 19) ∧
            l.space = spaceScratch) ∧
          (b.fifo ≠ none → bad)) ∧
        (top = 0xFD → rest % 2 ^ 19 = 0 →
          (∀ size m, b.fifo = some (size, m) → reach fn t a n = if size = n then .fifo entry else .bad) ∧
          (b.fifo = none → bad))) ∧
      (top = 0xFC →
        (held → ∃ l, reach fn t a n = .window l ∧ l.key = reservedKey fn (t.stateBase + rest) ∧ l.space = spaceTeam) ∧
        (¬ held → bad)) ∧
      (top ∉ [0, 0xFC, 0xFD, 0xFE] → bad))) ∧
  ∀ (s : State) (is : Issue) (sh : Shuttle) (env : Env) (x y : Nat) (off : Int) (lo hi : Word),
    s.AtIssue is sh env → y % 2 = 0 → Reads env sh y lo → Reads env sh (y + 1) hi →
      ∀ i ∈ [(Instr.sld x y off, 1), (.sld64 x y off, 2), (.sld128 x y off, 4)], x % i.2 = 0 → WritableAll env sh x i.2 →
        let a := wordAddress lo hi off
        (reach env.launch.fn env.team a (4 * i.2) = .bad → EndsTeamWith i.1 s sh 0x14 0) ∧
        (reach env.launch.fn env.team a (4 * i.2) ≠ .bad →
          ∃ (h : Shuttle) (acc : Access),
            exec i.1 s = .next { s with dev := { s.dev with nextId := s.dev.nextId + 1 }.setShuttle h } ∧
              h.pc = is.next ∧ h.accs = sh.accs ++ [acc] ∧ acc.id = s.dev.nextId ∧ acc.beat = none ∧ acc.kind = .load ∧
              acc.va = a ∧ acc.size = 4 * i.2 ∧ acc.dst = .sregs x ∧
              (∀ va, reach env.launch.fn env.team a (4 * i.2) = .virt va → acc.status = .walk) ∧
              (∀ l, reach env.launch.fn env.team a (4 * i.2) = .window l → acc.status = .home l) ∧
              (∀ e, reach env.launch.fn env.team a (4 * i.2) = .fifo e → acc.status = .fifo e) ∧
              (∀ r, h.sreg r = if x ≤ r ∧ r < x + i.2 then .pending else sh.sreg r) ∧ h.vregs = sh.vregs)

/-- R111, R113, R115, R289: a store of 1, 2 or 4 registers, plain or release, is under way with their values when it
issues; no register changes. -/
def Obligations.ScalarStores : Prop :=
  ∀ (s : State) (is : Issue) (sh : Shuttle) (env : Env) (x y : Nat) (off : Int) (lo hi : Word),
    s.AtIssue is sh env → y % 2 = 0 → Reads env sh y lo → Reads env sh (y + 1) hi →
      ∀ i ∈ [(Instr.sst x y off, 1, 0), (.sst64 x y off, 2, 0), (.sst128 x y off, 4, 0), (.sstrel x y off, 1, 2)],
        x % i.2.1 = 0 → ReadsAll env sh x i.2.1 →
          let a := wordAddress lo hi off
          (reach env.launch.fn env.team a (4 * i.2.1) = .bad → EndsTeamWith i.1 s sh 0x14 0) ∧
          (reach env.launch.fn env.team a (4 * i.2.1) ≠ .bad →
            ∃ (h : Shuttle) (acc : Access),
              exec i.1 s = .next { s with dev := { s.dev with nextId := s.dev.nextId + 1 }.setShuttle h } ∧
                h.pc = is.next ∧ h.sregs = sh.sregs ∧ h.vregs = sh.vregs ∧ h.accs = sh.accs ++ [acc] ∧
                acc.id = s.dev.nextId ∧ acc.beat = none ∧ acc.kind = .store ∧ acc.ord = i.2.2 ∧ acc.va = a ∧
                acc.size = 4 * i.2.1 ∧ acc.data = sh.svals x i.2.1 ∧ acc.dst = .none)

/-- R289, R295: `sldacq` and `satom` issue their access and stay at their word until its value has arrived; then the
register or pair X holds that value, the old one for an atomic, and the stream goes on. -/
def Obligations.AcquireLoadAndAtomic : Prop :=
  ∀ (s : State) (is : Issue) (sh : Shuttle) (env : Env) (x y ord aop t z v : Nat) (off : Int) (f : Nat) (lo hi : Word)
    (a : Access),
    s.AtIssue is sh env → y % 2 = 0 → Reads env sh y lo → Reads env sh (y + 1) hi →
      (Writable env sh x →
        (sh.waitingAccess is = some a → a.status = .arrived v →
          EndsAs (.sldacq x y off) s (((sh.dropAcc a.id).setSreg x (.full (BitVec.ofNat 32 v))).advance is)) ∧
        (sh.waitingAccess is = none → reach env.launch.fn env.team (wordAddress lo hi off) 4 = .bad →
          EndsTeamWith (.sldacq x y off) s sh 0x14 0) ∧
        (∀ va, sh.waitingAccess is = none → reach env.launch.fn env.team (wordAddress lo hi off) 4 = .virt va →
          ∃ (h : Shuttle) (acc : Access),
            exec (.sldacq x y off) s = .next { s with dev := { s.dev with nextId := s.dev.nextId + 1 }.setShuttle h } ∧
              h.pc = sh.pc ∧ h.sregs = sh.sregs ∧ h.accs = sh.accs ++ [acc] ∧ acc.kind = .load ∧ acc.ord = 1 ∧
              acc.va = wordAddress lo hi off ∧ acc.size = 4 ∧ acc.status = .walk ∧ h.waitingAccess is = some acc)) ∧
      (let k := if t = 6 ∨ t = 7 then 2 else 1
       x % k = 0 → z % k = 0 → WritableAll env sh x k → ReadsAll env sh z k → (aop = 7 → ReadsAll env sh x k) →
        (sh.waitingAccess is = some a → a.status = .arrived v →
          (k = 1 →
            EndsAs (.satom x y f ord aop t z) s
              { (((sh.dropAcc a.id).setSreg x (.full (BitVec.ofNat 32 v))).advance is) with exposed := true }) ∧
          (k = 2 →
            EndsAs (.satom x y f ord aop t z) s
              { ((((sh.dropAcc a.id).setSreg x (.full (BitVec.ofNat 32 v))).setSreg (x + 1)
                  (.full (BitVec.ofNat 32 (v / 2 ^ 32)))).advance is) with exposed := true })) ∧
        (sh.waitingAccess is = some a → a.performed = false → Waits (.satom x y f ord aop t z) s) ∧
        (sh.waitingAccess is = none → reach env.launch.fn env.team (wordAddress lo hi f) (4 * k) = .bad →
          EndsTeamWith (.satom x y f ord aop t z) s sh 0x14 0) ∧
        (∀ va, sh.waitingAccess is = none → reach env.launch.fn env.team (wordAddress lo hi f) (4 * k) = .virt va →
          ∃ (h : Shuttle) (acc : Access),
            exec (.satom x y f ord aop t z) s =
                .next { s with dev := { s.dev with nextId := s.dev.nextId + 1 }.setShuttle h } ∧
              h.pc = sh.pc ∧ h.sregs = sh.sregs ∧ h.accs = sh.accs ++ [acc] ∧
              acc.kind = .atom aop t (sh.svals x k) ∧ acc.data = sh.svals z k ∧ acc.ord = ord ∧
              acc.va = wordAddress lo hi f ∧ acc.size = 4 * k ∧ acc.status = .walk ∧ h.waitingAccess is = some acc))

/-- R290, R291, R272: a fence waits as `lsync` does, one with a release until every access has been performed, and one with an
acquire until every access that reads has been; one with an acquire leaves the cluster no copy of what it does not own. `sfence.sc`
is SUB 4 in a spawned shuttle and SUB 1 over a level with a TEAM part. -/
def Obligations.Fences : Prop :=
  ∀ (s : State) (is : Issue) (sh : Shuttle) (env : Env) (k : Nat),
    s.AtIssue is sh env →
      let full := [Instr.sfenceAcqrel, .sfenceRel] ++
        (if sh.spawned = false ∧ teamLevel env.launch.levels k = false then [.sfenceSc k] else [])
      let acquires := [Instr.sfenceAcqrel, .sfenceAcq] ++
        (if sh.spawned = false ∧ teamLevel env.launch.levels k = false then [.sfenceSc k] else [])
      (sh.spawned = true → MapError (.sfenceSc k) s is sh env 4) ∧
      (sh.spawned = false → teamLevel env.launch.levels k = true → MapError (.sfenceSc k) s is sh env 1) ∧
      (sh.blocks ≠ [] → ∀ i ∈ full ++ acquires, Waits i s) ∧
      (∀ a ∈ sh.accs, a.performed = false → ∀ i ∈ full, Waits i s) ∧
      (∀ a ∈ sh.accs, a.performed = false → a.kind.reads = true → ∀ i ∈ acquires, Waits i s) ∧
      (Settled sh → EndsAs .sfenceRel s (sh.advance is)) ∧
      (Settled sh → ∀ i ∈ acquires,
        exec i s =
          .next { s with dev := { s.dev with
            shuttles := putShuttle s.dev.shuttles (sh.advance is)
            l1 := s.dev.l1.filter fun c => c.cluster != env.team.cluster } })

/-- R87: `sxt` before a word of an immediate, memory or branch format runs that instruction with the immediate extended
to 40 bits, or the word offset to 30; before any other word of an assigned opcode it is SUB 0. The word of `sxt` with
prefix H and body W stands for the instruction that W encodes with the field widened. -/
def Obligations.PrefixedInstructions : Prop :=
  ∀ (s : State) (h x y f : Nat) (imm : Int) (w : Nat),
    h < 2 ^ 25 → x < 2 ^ 10 → y < 2 ^ 10 →
      (w < 2 ^ 15 → imm = ((BitVec.ofNat 25 h ++ BitVec.ofNat 15 w : BitVec 40)).toInt →
        (∀ i ∈ [(0x04, Instr.sli x imm), (0x05, .sli64 x imm), (0x06, .saddi x imm), (0x07, .sandi x imm),
            (0x08, .sori x imm), (0x09, .sxori x imm), (0x0A, .sshli x imm), (0x0B, .sshri x imm), (0x0C, .ssrai x imm),
            (0x0D, .ssltiu x imm), (0x0E, .saddi64 x imm), (0x21, .sbz x imm), (0x22, .sbnz x imm), (0x23, .sblz x imm),
            (0x24, .sbgez x imm), (0x25, .scall x imm), (0x27, .sloop x imm)],
          exec (.sxt h (i.1 * 2 ^ 25 + x * 2 ^ 15 + w)) s = exec i.2 s) ∧
        exec (.sxt h (0x20 * 2 ^ 25 + w)) s = exec (.sbr imm) s ∧
        exec (.sxt h (0x70 * 2 ^ 25 + w)) s = exec (.strap imm) s) ∧
      (f < 2 ^ 5 → imm = ((BitVec.ofNat 25 h ++ BitVec.ofNat 5 f : BitVec 30)).toInt →
        ∀ i ∈ [(0x10, Instr.sld x y imm), (0x11, .sld64 x y imm), (0x12, .sld128 x y imm), (0x13, .sst x y imm),
            (0x14, .sst64 x y imm), (0x15, .sst128 x y imm), (0x16, .sldacq x y imm), (0x17, .sstrel x y imm)],
          exec (.sxt h (i.1 * 2 ^ 25 + x * 2 ^ 15 + y * 2 ^ 5 + f)) s = exec i.2 s) ∧
      (∀ (is : Issue) (sh : Shuttle) (env : Env), s.AtIssue is sh env →
        (∀ v, Writable env sh x → w < 2 ^ 15 → v = ((BitVec.ofNat 25 h ++ BitVec.ofNat 15 w : BitVec 40)).toInt →
          Gives (.sxt h (0x04 * 2 ^ 25 + x * 2 ^ 15 + w)) s is sh x (BitVec.ofInt 32 v)) ∧
        (∀ op ∈ [0x01, 0x02, 0x18, 0x26, 0x28, 0x30, 0x38, 0x3D, 0x44, 0x50, 0x60, 0x71, 0x7F], w < 2 ^ 25 →
          EndsTeamWith (.sxt h (op * 2 ^ 25 + w)) s sh 0x10 0))
/-! ## Engine and scheduling instructions of the scalar stream (spec/16; spec/05 R127) -/

/-- R347, R348, R350, R352, R423: `scpy` waits until the shuttle has settled; a descriptor that fails a check gives its status word;
one that passes waits for a request buffer and is then accepted, from its start or from the element that R names. R423: either
exposes the shuttle. -/
def Obligations.CopyAcceptance : Prop :=
  ∀ (s : State) (is : Issue) (sh : Shuttle) (env : Env) (x y r : Nat) (restart : Bool),
    s.AtIssue is sh env →
      (sh.handler = true → EndsTeam (.scpy x y restart r) s is sh 0) ∧
      (sh.handler = false → BlockReady env sh x y 40 8 → (restart = true → r % 2 = 0 ∧ ReadsAll env sh r 2) →
        let ws := (regRange y 40).map sh.sval
        let fn := env.launch.fn
        (sh.blocks ≠ [] → Waits (.scpy x y restart r) s) ∧
        (∀ e, Settled sh → copyCheck (s.dev.func fn) (some env.team) ws = some e →
          ExposedStatus (.scpy x y restart r) s is sh x (e.2 * 256 + e.1)) ∧
        (Settled sh → copyCheck (s.dev.func fn) (some env.team) ws = none → s.dev.bufferRoom fn (some env.team) = false →
          Waits (.scpy x y restart r) s) ∧
        (Settled sh → copyCheck (s.dev.func fn) (some env.team) ws = none → s.dev.bufferRoom fn (some env.team) = true →
          ∃ t h c, exec (.scpy x y restart r) s = .next t ∧ t.dev.shuttle is.sh = some h ∧ h.pc = is.next ∧
            h.sreg x = .full 0 ∧ (∀ n, n ≠ x → h.sreg n = sh.sreg n) ∧ h.exposed = true ∧ c ∈ t.dev.cmds ∧ c.id = s.dev.nextId ∧
            c.words = ws ∧ c.pos = (if restart then sh.pair r else 0) ∧ c.status = .waiting ∧
            c.issuer = .shuttle sh.id env.team.id ∧ c.fn = fn ∧ c.ctx = env.launch.ctx ∧ c.prio = env.launch.prio ∧
            t.dev.mem = s.dev.mem))

/-- R353, R354, R404, R423: `ssig` sends an addition or a store of 64 bits and goes on without waiting for its delivery, which is
the model's own step (log 72); whatever its status it exposes the shuttle. `swaitc` on a bad or misaligned address, or one of a
FIFO window, ends the team at issue; else it waits for a counter waiter and then reads its counter until that is at least the
target, one read at a time (log 37). -/
def Obligations.SignalsAndCounterWaits : Prop :=
  ∀ (s : State) (is : Issue) (sh : Shuttle) (env : Env) (x y op dreg sreg : Nat) (ord loc : Bool) (x0 x1 y0 y1 : Word),
    s.AtIssue is sh env → x % 2 = 0 → y % 2 = 0 → Reads env sh x x0 → Reads env sh (x + 1) x1 → Reads env sh y y0 →
      Reads env sh (y + 1) y1 →
      let i := Instr.ssig x y op ord loc dreg sreg
      let vx := (x1 ++ x0 : DWord).toNat
      let vy := (y1 ++ y0 : DWord).toNat
      let dev := sh.sval dreg
      (sh.handler = true → EndsTeam i s is sh 0) ∧
      (sh.handler = false → Writable env sh sreg → (loc = false → nameable env.nest.ns dreg = true ∧
          (sh.sreg dreg).isFull = true) →
        (sh.blocks ≠ [] → Waits i s) ∧ (∀ a ∈ sh.accs, ord = true → a.performed = false → Waits i s) ∧
        (Settled sh → loc = false → dev ≥ 1024 ∨ (s.dev.func env.launch.fn).reaches dev = false →
          ExposedStatus i s is sh sreg (255 * 256 + 12)) ∧
        (Settled sh → (loc = false → dev < 1024 ∧ (s.dev.func env.launch.fn).reaches dev = true) →
          (2 ^ 56 ≤ vy → ExposedStatus i s is sh sreg (255 * 256 + 2)) ∧
          (vy < 2 ^ 56 → vy % 8 ≠ 0 → ExposedStatus i s is sh sreg (255 * 256 + 3)) ∧
          (vy < 2 ^ 56 → vy % 8 = 0 →
            ∃ g : Signal,
              exec i s = .next (s.withDev
                ({ s.dev with nextId := s.dev.nextId + 1, signals := s.dev.signals ++ [g] }.setShuttle
                  { ((sh.setSreg sreg (.full 0)).advance is) with exposed := true })) ∧
                g.id = s.dev.nextId ∧ g.store = (op == 1) ∧ g.value = vx ∧ g.addr = vy ∧
                g.device = (if loc then none else some dev) ∧ g.fn = env.launch.fn ∧ g.ctx = env.launch.ctx ∧
                g.ord = ord))) ∧
      (sh.waitingAccess is = none →
        (x1.toNat / 2 ^ 24 = 0xFD ∨ reach env.launch.fn env.team vx 8 = .bad → EndsTeamWith (.swaitc x y) s sh 0x14 0) ∧
        (x1.toNat / 2 ^ 24 ≠ 0xFD → reach env.launch.fn env.team vx 8 ≠ .bad →
          (s.dev.waiterRoom sh env.launch.fn = false → Waits (.swaitc x y) s) ∧
          (∀ va, s.dev.waiterRoom sh env.launch.fn = true → reach env.launch.fn env.team vx 8 = .virt va →
            ∃ (h : Shuttle) (acc : Access),
              exec (.swaitc x y) s =
                  .next { s with dev := { s.dev with nextId := s.dev.nextId + 1 }.setShuttle h } ∧
                h.pc = sh.pc ∧ h.sregs = sh.sregs ∧ h.waiter = true ∧ h.accs = sh.accs ++ [acc] ∧ acc.kind = .load ∧
                acc.ord = 1 ∧ acc.va = vx ∧ acc.size = 8 ∧ h.waitingAccess is = some acc))) ∧
      (∀ acc v, sh.waitingAccess is = some acc → acc.status = .arrived v →
        (vy ≤ v → EndsAs (.swaitc x y) s { ((sh.dropAcc acc.id).advance is) with waiter := false }) ∧
        (v < vy → EndsAs (.swaitc x y) s (sh.dropAcc acc.id)))

/-- R355, R359, R360, R283: `sthd` defines a tile handle from its block or gives the status of a check; `smacq` waits for its
tile's token and acquires; `smrel` waits until the shuttle has settled. A tile that the nest has not is SUB 2. -/
def Obligations.TileHandlesAndTokens : Prop :=
  ∀ (s : State) (is : Issue) (sh : Shuttle) (env : Env) (x y n tile : Nat) (own : Bool),
    s.AtIssue is sh env →
      let w := fun k => sh.sval (y + k)
      let core := if own then sh.core else env.team.cores.headD 0
      (sh.handler = true → EndsTeam (.smrel own tile) s is sh 0) ∧
      (env.nest.tiles ≤ tile → EndsTeam (.smacq own tile) s is sh 2 ∧
        (sh.handler = false → EndsTeam (.smrel own tile) s is sh 2)) ∧
      (tile < env.nest.tiles →
        ((∃ o ∈ s.dev.matOps, o.team = env.team.id ∧ o.tile = tile ∧ core ∈ o.cores) → Waits (.smacq own tile) s) ∧
        ((∀ o ∈ s.dev.matOps, o.team = env.team.id → o.tile = tile → core ∉ o.cores) →
          exec (.smacq own tile) s =
            .next { s with dev := { s.dev with
              shuttles := putShuttle s.dev.shuttles (sh.advance is)
              l1 := s.dev.l1.filter fun c => c.cluster != env.team.cluster } }) ∧
        (sh.handler = false → sh.blocks ≠ [] → Waits (.smrel own tile) s) ∧
        (sh.handler = false → Settled sh → EndsAs (.smrel own tile) s (sh.advance is))) ∧
      (BlockReady env sh x y 8 8 →
        (∀ e, sthdCheck env.team ((regRange y 8).map sh.sval) = some e →
          Status (.sthd x y n) s is sh x (e.2 * 256 + e.1)) ∧
        ((w 0 + 2 ^ 32 * w 1) % 16 ≠ 0 → Status (.sthd x y n) s is sh x 3) ∧
        (sthdCheck env.team ((regRange y 8).map sh.sval) = none →
          let h : Handle :=
            { num := n, base := w 0 + 2 ^ 32 * w 1, rows := w 2, cols := w 3, stride := w 4, stage := w 5 / 16 % 16,
              fmtc := w 5 % 16 }
          exec (.sthd x y n) s =
            .next (s.withDev
              ((s.dev.setTeam { env.team with
                  handles := h :: env.team.handles.filter fun z => z.num != n }).setShuttle
                ((sh.setSreg x (.full 0)).advance is)))))

/-- R332, R334, R335, R356, R357, R358: `smma` waits while the follower array that it names alone is slaved; with a bad format,
pairing, scale or block code in FMT it is SUB 5; a failed check of its operand blocks, or a pair that is none, gives its status
word; otherwise, with room in the units, it is queued with the FMT and map of that moment, and the stream goes on with status 0.
R335 lets it compute with the values that its operands hold at issue: that what can be read of them is captured in the step of
`smma` itself, and the rest held, is the model's choice (log 39). In a handler it is SUB 0. -/
def Obligations.MatrixMultiplyIssue : Prop :=
  ∀ (s : State) (is : Issue) (sh : Shuttle) (env : Env) (x y sreg tile : Nat) (own zero pair : Bool),
    s.AtIssue is sh env → (sh.handler = true → EndsTeam (.smma x y sreg own zero pair tile) s is sh 0) ∧
      (sh.handler = false → tile < env.nest.tiles → BlockReady env sh sreg x 8 8 →
      BlockReady env sh sreg y 8 8 →
      let i := Instr.smma x y sreg own zero pair tile
      let core := if own then sh.core else env.team.cores.headD 0
      let f := sh.fmt
      let wa := (regRange x 8).map sh.sval
      let wb := (regRange y 8).map sh.sval
      let k64 := !codeInt (fmtA f) && fmtScale f != 0 && fmtBlock f == 2
      let ba : OperandBlock :=
        { ws := wa, word := 0, code := fmtA f, scaled := scaleOfA f != 0, k64 := k64, other := blockWord wa 1 }
      let bb : OperandBlock :=
        { ws := wb, word := 8, code := fmtB f, scaled := scaleOfB f != 0, k64 := k64, other := blockWord wa 1 }
      (sh.blocks ≠ [] → Waits i s) ∧
      (pair = false → s.dev.slaved core = true → Waits i s) ∧
      (Settled sh → pair = true ∨ s.dev.slaved core = false →
        (fmtA f = 5 ∨ 8 ≤ fmtA f ∨ 8 ≤ fmtB f ∨ (fmtA f ∈ [6, 7] ∧ fmtB f ∉ [6, 7]) ∨
          (fmtA f ∉ [6, 7] ∧ fmtB f ∈ [6, 7]) ∨ (fmtA f ∉ [6, 7] ∧ (3 ≤ fmtScale f ∨ 3 ≤ fmtBlock f)) →
            EndsTeam i s is sh 5) ∧
        (fmtIllegal f = false →
          (∀ e, operandCheck env.team ba = some e → Status i s is sh sreg (e.2 * 256 + e.1)) ∧
          (∀ e, operandCheck env.team ba = none → operandCheck env.team bb = some e →
            Status i s is sh sreg (e.2 * 256 + e.1)) ∧
          (operandCheck env.team ba = none → operandCheck env.team bb = none → pair = true →
            core % 2 = 1 ∨ (core + 1) ∉ env.team.cores → Status i s is sh sreg (255 * 256 + 11)) ∧
          (operandCheck env.team ba = none → operandCheck env.team bb = none →
            (pair = true → core % 2 = 0 ∧ (core + 1) ∈ env.team.cores) →
            let cores := if pair then [core, core + 1] else [core]
            (s.dev.matRoom cores = false → Waits i s) ∧
            (s.dev.matRoom cores = true →
              let ra := s.dev.captureOperand env.launch.fn env.launch.ctx s.dev.nextId env.team ba
                (operandOf env.team ba 128 (groupOfA f))
              let rb := ra.1.captureOperand env.launch.fn env.launch.ctx (s.dev.nextId + 1) env.team bb
                (operandOf env.team bb (128 * cores.length) (groupOfB f))
              ∃ o : MatOp,
                exec i s =
                    .next (s.withDev
                      ((rb.1.setShuttle ((sh.setSreg sreg (.full 0)).advance is)).acceptMat env.launch.fn env.launch.ctx
                        env.team o)) ∧
                  o.id = s.dev.nextId ∧ o.cores = cores ∧ o.tile = tile ∧ o.kind = .mma zero (sh.sval (x + 1)) ∧
                  o.fmt = f ∧ o.map = rb.1.tw2Map core (fmtMap f) ∧ o.a = ra.2 ∧ o.b = rb.2 ∧ o.team = env.team.id)))))

/-- R336, R361, R54: `smst` and `smld` wait until the shuttle has settled; a bad ACCOUT or NROUND of `smst` is SUB 5, an address or
stride that is not a multiple of 16 gives ALIGN, and otherwise the move is queued, an `smst` with its draws. -/
def Obligations.TileMoves : Prop :=
  ∀ (s : State) (is : Issue) (sh : Shuttle) (env : Env) (x y tile sreg : Nat) (e : Int) (bf own : Bool) (x0 x1 v : Word),
    s.AtIssue is sh env → (sh.handler = true → EndsTeam (.smst x y tile sreg e own) s is sh 0 ∧
        EndsTeam (.smld x y tile sreg e bf own) s is sh 0) ∧
      (sh.handler = false → tile < env.nest.tiles → Writable env sh sreg → x % 2 = 0 →
      Reads env sh x x0 → Reads env sh (x + 1) x1 → Reads env sh y v →
      let addr := (x1 ++ x0 : DWord).toNat
      let core := if own then sh.core else env.team.cores.headD 0
      let st := Instr.smst x y tile sreg e own
      let ld := Instr.smld x y tile sreg e bf own
      (sh.blocks ≠ [] → Waits st s ∧ Waits ld s) ∧
      (Settled sh →
        (fmtAccout sh.fmt = 3 ∨ (fmtNround sh.fmt ≠ 0 ∧ fmtNround sh.fmt ≠ 5) → EndsTeam st s is sh 5) ∧
        (∀ i ∈ ld :: (if fmtAccout sh.fmt ≠ 3 ∧ (fmtNround sh.fmt = 0 ∨ fmtNround sh.fmt = 5) then [st] else []),
          (addr % 16 ≠ 0 ∨ v.toNat % 16 ≠ 0 → Status i s is sh sreg (255 * 256 + 3)) ∧
          (addr % 16 = 0 → v.toNat % 16 = 0 →
            (s.dev.matRoom [core] = false → Waits i s) ∧
            (s.dev.matRoom [core] = true →
              ∃ (h : Shuttle) (o : MatOp),
                exec i s =
                    .next (s.withDev
                      (((s.dev.setShuttle h).acceptMat env.launch.fn env.launch.ctx env.team o).registerMove
                        env.launch.fn env.launch.ctx env.team o)) ∧
                  h.pc = is.next ∧ h.sregs = (sh.setSreg sreg (.full 0)).sregs ∧ h.vregs = sh.vregs ∧
                  o.id = s.dev.nextId ∧ o.cores = [core] ∧ o.tile = tile ∧ o.row = 0 ∧ o.fmt = sh.fmt ∧
                  (i = ld → o.kind = .load addr v.toNat e bf ∧ h.counts = sh.counts) ∧
                  (i = st → o.kind = .store addr v.toNat e))))))

/-- R363, R364, R365, R345: `sscan` gives the status of a failed check, waits for a chain slot and room in its core's unit, and
then hands its tile to the unit; `sscw` goes on once the next completion of its chain has passed the shuttle's core, with 0 or
POISON. -/
def Obligations.ScanInstructions : Prop :=
  ∀ (s : State) (is : Issue) (sh : Shuttle) (env : Env) (x y c : Nat) (first last : Bool),
    s.AtIssue is sh env →
      let i := Instr.sscan x y c first last
      let ws := (regRange y 12).map sh.sval
      (sh.handler = true → EndsTeam i s is sh 0) ∧
      (sh.handler = false → BlockReady env sh x y 12 4 →
        (sh.blocks ≠ [] → Waits i s) ∧
        (∀ e, Settled sh → scanCheck ws = some e → Status i s is sh x (e.2 * 256 + e.1)) ∧
        (Settled sh → scanCheck ws = none → sh.sval (y + 5) % 16 ≠ 7 →
          (s.dev.scanRoom sh env c = false → Waits i s) ∧
          (s.dev.scanRoom sh env c = true →
            exec i s =
              .next { s with dev :=
                (s.dev.setShuttle ((sh.setSreg x (.full 0)).advance is)).acceptTile sh env is ws [] c first last } ∧
            (∀ ch, s.dev.openChain env.launch.id c = some ch → sh.sval (y + 6) ∉ ch.seen →
              ∃ t tile, exec i s = .next t ∧ tile ∈ t.dev.tiles ∧ tile.id = s.dev.nextId + 1 ∧ tile.chain = ch.uid ∧
                tile.core = sh.core ∧ tile.status = .queued ∧ tile.j = sh.sval (y + 6) ∧
                tile.inAddr = sh.pair y ∧ tile.outAddr = sh.pair (y + 2) ∧ tile.len = sh.sval (y + 4) ∧
                tile.kind = sh.sval (y + 5) % 16))) ∧
        (∀ va, Settled sh → scanCheck ws = none → sh.sval (y + 5) % 16 = 7 → sh.waitingAccess is = none →
          reach env.launch.fn env.team (sh.pair (y + 8)) 4 = .virt va →
            ∃ (h : Shuttle) (acc : Access),
              exec i s = .next { s with dev := { s.dev with nextId := s.dev.nextId + 1 }.setShuttle h } ∧
                h.pc = sh.pc ∧ h.sregs = sh.sregs ∧ h.accs = sh.accs ++ [acc] ∧ acc.kind = .load ∧ acc.size = 4 ∧
                acc.va = sh.pair (y + 8))) ∧
      (Writable env sh x →
        (s.dev.waiterRoom sh env.launch.fn = false → Waits (.sscw x c) s) ∧
        (s.dev.waiterRoom sh env.launch.fn = true →
          let k := getK 0 sh.sscw c
          let passed := (s.dev.completions env.launch.id c)[k]?
          ((∀ ch, passed = some ch → sh.core ∉ ch.passed) → EndsAs (.sscw x c) s { sh with waiter := true }) ∧
          (∀ ch, passed = some ch → sh.core ∈ ch.passed →
            exec (.sscw x c) s =
              .next { s with dev := { s.dev with
                l1 := s.dev.l1.filter (fun c => c.cluster != env.team.cluster)
                shuttles := putShuttle s.dev.shuttles
                  { ((sh.setSreg x (.full (if ch.poisonFrom.isSome then 0xFF0A else 0))).advance is) with
                    waiter := false, sscw := putK 0 sh.sscw c (k + 1) } } })))

/-- R366, R329, R348, R349, R423: `sacc` in a handler is SUB 0; on a queue that is not declared dynamic gives FIFO, on a bad block
the status of its check, while a stream of the queue runs BUSY; otherwise a stream starts for each thread of the shuttle in its
current iteration, in a spawned shuttle too. It exposes the shuttle whatever its status. That another iteration's stream does not
make the queue busy, and the key under which a spawned shuttle's queues lie, are the model's choices (logs 83 and 41). -/
def Obligations.DynamicSlices : Prop :=
  ∀ (s : State) (is : Issue) (sh : Shuttle) (env : Env) (x y q : Nat),
    s.AtIssue is sh env → (sh.handler = true → EndsTeam (.sacc x y q) s is sh 0) ∧
      (sh.handler = false → BlockReady env sh x y 40 8 →
      let ws := (regRange y 40).map sh.sval
      let busy := ∃ z ∈ env.team.streams, z.dynamic = true ∧ z.sh = sh.id ∧ z.q = q ∧ z.seq = sh.seq
      let lv := env.launch.levels
      let team := env.team.num
      (sh.blocks ≠ [] → Waits (.sacc x y q) s) ∧
      (Settled sh →
        (sh.dynamicQueue env.nest q = false → ExposedStatus (.sacc x y q) s is sh x (255 * 256 + 4)) ∧
        (sh.dynamicQueue env.nest q = true →
          (∀ e, saccCheck ws = some e → ExposedStatus (.sacc x y q) s is sh x (e.2 * 256 + e.1)) ∧
          (saccCheck ws = none → busy → ExposedStatus (.sacc x y q) s is sh x (255 * 256 + 5)) ∧
          (saccCheck ws = none → ¬ busy → s.dev.bufferRoom env.launch.fn (some env.team) = false →
            Waits (.sacc x y q) s) ∧
          (saccCheck ws = none → ¬ busy → s.dev.bufferRoom env.launch.fn (some env.team) = true →
            ∃ t h u, exec (.sacc x y q) s = .next t ∧ t.dev.shuttle is.sh = some h ∧
              h = { ((sh.setSreg x (.full 0)).advance is) with exposed := true } ∧
              t.dev.team env.team.id = some u ∧ u.queues = env.team.queues ∧
              (u.streams.map fun z => (z.coord, z.q, z.beat, z.dynamic, z.pos)) =
                (env.team.streams.map fun z => (z.coord, z.q, z.beat, z.dynamic, z.pos)) ++
                  (sh.threads lv team sh.seq).map fun b => (sh.queueCoord (sh.coord lv team sh.seq b), q, b, true, 0)))))

/-- R243, R244, R367, R348, R349, R423: `sbank` in a handler is SUB 0; it waits until the lane queue has drained; an entry in the
wrong state, or one into which a fetch still goes, gives STATE, a bad geometry FIELD, a pool that must keep two banks BANKS; it
waits for the shuttle's accesses to the entry and for the engine commands that reach it; whatever its status it exposes the shuttle.
Otherwise the entry takes its new mode, with its bytes zero and no slot filled, or its bank goes back to the pool. -/
def Obligations.BankChanges : Prop :=
  ∀ (s : State) (is : Issue) (sh : Shuttle) (env : Env) (x y e : Nat),
    s.AtIssue is sh env →
      (sh.handler = true → ∀ i ∈ [Instr.sbankScr x e, .sbankFifo x y e, .sbankRel x e, .sbankTake x 0 false e, .sbankTake x y true e],
        EndsTeam i s is sh 0) ∧
      (sh.handler = false → Writable env sh x → y ≠ 0 → y % 2 = 0 → ReadsAll env sh y 2 →
      let geometry := 4 ≤ sh.sval y ∧ sh.sval y ≤ 4096 ∧ sh.sval y = 2 ^ Nat.log2 (sh.sval y) ∧ 1 ≤ sh.sval (y + 1) ∧
        sh.sval y * sh.sval (y + 1) ≤ 524288
      let zeroed := fun (d : Dev) => ∀ o, o < 524288 →
        readByte d.mem (scratchKey env.team.id e o) = 0 ∧ scratchKey env.team.id e o ∉ d.poison
      let change := [Instr.sbankScr x e, .sbankFifo x y e, .sbankRel x e]
      let take := [Instr.sbankTake x 0 false e, .sbankTake x y true e]
      (sh.blocks ≠ [] → ∀ i ∈ change ++ take, Waits i s) ∧
      (∀ b a, env.team.bank e = some b → b.shared = false → s.dev.entryFetching env.team e = false → a ∈ sh.accs →
        touchesEntry e a.va = true → a.performed = false → ∀ i ∈ [Instr.sbankScr x e, .sbankRel x e], Waits i s) ∧
      (Settled sh →
        (env.team.bank e = none → ∀ i ∈ change, ExposedStatus i s is sh x (255 * 256 + 13)) ∧
        (∀ b, env.team.bank e = some b → ∀ i ∈ take, ExposedStatus i s is sh x (255 * 256 + 13)) ∧
        (s.dev.entryFetching env.team e = true → ∀ i ∈ change ++ take, ExposedStatus i s is sh x (255 * 256 + 13)) ∧
        (∀ b, env.team.bank e = some b → b.shared = true → ∀ i ∈ change, ExposedStatus i s is sh x (255 * 256 + 13)) ∧
        (∀ b, env.team.bank e = some b → b.shared = false → s.dev.entryFetching env.team e = false →
          (¬ geometry → ExposedStatus (.sbankFifo x y e) s is sh x (255 * 256 + 1)) ∧
          (s.dev.entryBusy env.team e = true →
            ∀ i ∈ [Instr.sbankScr x e, .sbankRel x e] ++ (if geometry then [.sbankFifo x y e] else []), Waits i s) ∧
          (s.dev.entryBusy env.team e = false →
            (∀ i ∈ [(Instr.sbankScr x e, (none : Option (Nat × Nat)))] ++
                (if geometry then [(Instr.sbankFifo x y e, some (sh.sval y, sh.sval (y + 1)))] else []),
              ∃ t u, exec i.1 s = .next t ∧ t.dev.team env.team.id = some u ∧
                u.bank e = some { b with fifo := i.2, slots := [] } ∧
                (∀ n, n ≠ e → u.bank n = env.team.bank n) ∧ zeroed t.dev ∧
                t.dev.shuttle is.sh = some { ((sh.setSreg x (.full 0)).advance is) with exposed := true }) ∧
            ∃ t u, exec (.sbankRel x e) s = .next t ∧ t.dev.team env.team.id = some u ∧ u.bank e = none ∧
              (∀ n, n ≠ e → u.bank n = env.team.bank n) ∧
              t.dev.shuttle is.sh = some { ((sh.setSreg x (.full 0)).advance is) with exposed := true })) ∧
        (env.team.bank e = none → s.dev.entryFetching env.team e = false →
          (¬ geometry → ExposedStatus (.sbankTake x y true e) s is sh x (255 * 256 + 1)) ∧
          ∀ i ∈ [(Instr.sbankTake x 0 false e, (none : Option (Nat × Nat)))] ++
              (if geometry then [(Instr.sbankTake x y true e, some (sh.sval y, sh.sval (y + 1)))] else []),
            (s.dev.poolBank env.team.cluster = none → ExposedStatus i.1 s is sh x (255 * 256 + 8)) ∧
            (∀ k, s.dev.poolBank env.team.cluster = some k → s.dev.entryBusy env.team e = true → Waits i.1 s) ∧
            (∀ k, s.dev.poolBank env.team.cluster = some k → s.dev.entryBusy env.team e = false →
              ∃ t u, exec i.1 s = .next t ∧ t.dev.team env.team.id = some u ∧
                u.bank e = some { entry := e, bank := k, fifo := i.2, shared := false, slots := [] } ∧
                (∀ n, n ≠ e → u.bank n = env.team.bank n) ∧ zeroed t.dev ∧
                t.dev.shuttle is.sh = some { ((sh.setSreg x (.full 0)).advance is) with exposed := true }))))

/-- R368, R369, R370, R400, R423: `slaunch` gives the status of the first failed check, and otherwise starts a child one level
deeper with the block's words; `sarm` arms its tag with the block, and with a COUNT of 0 disarms it. Both expose the shuttle
whatever their status. That a disarm makes no check of the block is the model's choice (log 48). -/
def Obligations.DeviceLaunches : Prop :=
  ∀ (s : State) (is : Issue) (sh : Shuttle) (env : Env) (x y tag count : Nat),
    s.AtIssue is sh env →
      let l := env.launch
      let f := s.dev.func l.fn
      let ws := (regRange y 16).map sh.sval
      let w := fun k => sh.sval (y + k)
      let done := { ((sh.setSreg x (.full 0)).advance is) with exposed := true }
      let launch := Instr.slaunch x y
      let arm := Instr.sarm x y tag count
      (sh.handler = true → EndsTeam launch s is sh 0 ∧ EndsTeam arm s is sh 0) ∧
      (sh.handler = false → BlockReady env sh x y 16 8 →
        (sh.blocks ≠ [] → Waits launch s ∧ Waits arm s) ∧
        (Settled sh →
          (w 12 ≥ 16 → ExposedStatus launch s is sh x (12 * 256 + 1)) ∧
          (∀ e, s.dev.launchCheck l.fn false ws false (l.depth + 1) = some e →
            ExposedStatus launch s is sh x (e.2 * 256 + e.1)) ∧
          (launchFieldCheck false ws = none → f.hasNest (sh.pair y) = false → ExposedStatus launch s is sh x 9) ∧
          (launchFieldCheck false ws = none → f.hasNest (sh.pair y) = true → min 8 f.nlim < l.depth + 1 →
            ExposedStatus launch s is sh x (255 * 256 + 7)) ∧
          (s.dev.launchCheck l.fn false ws false (l.depth + 1) = none →
            ∃ c : Launch,
              exec launch s = .next { s with dev :=
                { s.dev with nextId := s.dev.nextId + 1, launches := s.dev.launches ++ [c] }.setShuttle done } ∧
                c.id = s.dev.nextId ∧ c.fn = l.fn ∧ c.ctx = l.ctx ∧ c.source = .child ∧ c.depth = l.depth + 1 ∧
                c.desc = sh.pair y ∧ c.exts = [w 2, w 3, w 4, w 5] ∧ c.args = sh.pair (y + 6) ∧
                c.cnt = sh.pair (y + 8) ∧ c.inc = sh.pair (y + 10) ∧ c.pin = w 13 ∧ c.dep = sh.pair (y + 14) ∧
                c.prio = (if w 12 / 8 % 2 = 1 then l.prio else w 12 % 8) ∧
                c.phase = (if sh.pair (y + 14) = 0 then .toMap else .held)) ∧
          (count = 0 →
            exec arm s = .next { s with dev :=
              (s.dev.setFunc l.fn { f with tags := f.tags.filter fun t => t.tag != tag }).setShuttle done }) ∧
          (∀ e, count ≠ 0 → s.dev.launchCheck l.fn true ws (f.armed tag).isSome (l.depth + 1) = some e →
            ExposedStatus arm s is sh x (e.2 * 256 + e.1)) ∧
          (count ≠ 0 → s.dev.launchCheck l.fn true ws (f.armed tag).isSome (l.depth + 1) = none →
            exec arm s = .next { s with dev :=
              (s.dev.setFunc l.fn { f with tags := f.tags ++
                [{ tag := tag, count := count, words := ws, depth := l.depth + 1, ctx := l.ctx, prio := l.prio,
                   rootQueue := l.rootQueue }] }).setShuttle done })))

/-- R127, R191, R242, R393: `sexit` waits until the lane queue is empty and the shuttle's accesses have been performed; in a handler
the blocks are discarded and only the accesses are waited for. A shuttle that is not the last one of its team leaves it; with the
last one the team is gone. After the last team of a run the launch runs again while runs are left, and else it is over. That a gone
team's scratch and tiles read as zero under their keys, and that the last `sexit` waits for the engines, are the model's choices
(logs 3 and 33); what a handler discards when no block is suspended is one too (log 79). -/
def Obligations.ShuttleExit : Prop :=
  ∀ (s : State) (is : Issue) (sh : Shuttle) (env : Env),
    s.AtIssue is sh env → env.team.arrivals = [] →
      let others := ∃ z ∈ s.dev.shuttles, z.team = sh.team ∧ z.id ≠ sh.id ∧ z.live = true
      let last := ∀ z ∈ s.dev.shuttles, z.team = sh.team → z.id = sh.id ∨ z.live = false
      let ready := s.dev.engineBusy env.team = false ∧ (env.launch.runLeft = 0 → s.dev.launchHeld env.launch = false)
      (∀ a ∈ sh.accs, a.performed = false → sh.handler = false → Waits .sexit s) ∧
      (sh.handler = true → sh.txns = [] → others → (∀ a ∈ sh.accs, a.performed = true) →
        ∃ t h, exec .sexit s = .next t ∧ t.dev.shuttle is.sh = some h ∧ h.live = false ∧ h.blocks = [] ∧
          t.dev.teams = s.dev.teams ∧ t.dev.mem = s.dev.mem) ∧
      (sh.handler = false → sh.blocks ≠ [] → Waits .sexit s) ∧
      (sh.handler = false → Settled sh →
        (others →
          ∃ h : Shuttle, EndsAs .sexit s h ∧ h.id = sh.id ∧ h.team = sh.team ∧ h.live = false ∧ h.sregs = [] ∧
            h.accs = [] ∧ h.blocks = []) ∧
        (last → ready →
          env.launch.nextTeam < env.launch.teamCount ∨
              (∃ u ∈ s.dev.teams, u.launch = env.launch.id ∧ u.id ≠ env.team.id) →
            ∃ t, exec .sexit s = .next t ∧ t.dev.launches = s.dev.launches ∧
              t.dev.teams = s.dev.teams.filter (fun u => u.id != env.team.id) ∧
              (∀ z ∈ t.dev.shuttles, z.team ≠ env.team.id) ∧
              ∀ a, teamKey env.team.id ≤ a → a < teamKey env.team.id + 2 ^ 32 → readByte t.dev.mem a = 0) ∧
        (last → ready → env.launch.teamCount ≤ env.launch.nextTeam →
          (∀ u ∈ s.dev.teams, u.launch = env.launch.id → u.id = env.team.id) →
            ∃ t, exec .sexit s = .next t ∧
              (0 < env.launch.runLeft →
                (∀ u ∈ t.dev.teams, u.id ≠ env.team.id) ∧
                ∃ l ∈ t.dev.launches, l.id = env.launch.id ∧ l.phase = .prologue ∧ l.runLeft = env.launch.runLeft - 1 ∧
                  l.runNo = env.launch.runNo + 1 ∧ l.nextTeam = 0) ∧
              (env.launch.runLeft = 0 → ∀ l ∈ t.dev.launches, l.id ≠ env.launch.id)))
/-! ## Lane words (spec/06, spec/08, spec/13, spec/14) -/

/-- R15, R23, R133, R134, R135, R137 to R151: an integer, float or conversion word whose sources can be read gives each executing
thread its result, or with U the first thread's: in D, in the predicate that D names, in the block's output registers or on the
queue of the next stage, and in FLAGS; a word that rounds by SR advances each executing thread's count; the other registers and the
other threads keep what they had, and the entry goes on. A push exposes the shuttle (R423). The words: add, sub, mul, mulh, mad,
and, or, xor, lop3, shl, shr, sra, min, max, abs, neg, clz, popc, brev, bfe, bfi, sel, cmp, div, rem, addsat, subsat, dp2, dp4,
shrr, mov, movi, plop, fadd, fsub, fmul, fma, fmin, fmax, fneg, fabs, fcmp, fclass, frnd, frcp, frsq, fsqrt, fdiv, fexp2, flog2,
fsinpi, fcospi, ftanh, fsigm, fcsgn, cvt, pack, unpk, tw2d. -/
def Obligations.LaneArithmetic : Prop :=
  ∀ (s : State) (is : Issue) (sh : Shuttle) (env : Env) (blk : Block) (e : Entry) (i : Instr) (r : LaneRun)
    (f : LaneArg → Nat × Nat),
    s.AtWord is sh env blk e i r → laneFn r.opc = some f → r.Reads sh blk → r.Takes sh env blk e →
      let ex := r.ex sh
      let res := fun b => f (r.arg s.dev sh env blk e (r.giver sh b))
      ∃ (d : Dev) (h : Shuttle), exec i s = .next (s.withDev (d.setShuttle h)) ∧
        r.Delivers s sh env blk e (fun b => (res b).1) d h ∧ (r.row.dst = .pred → h.vregs = sh.vregs) ∧
        (∀ b n, n < 8 → h.pred b n =
          if r.row.dst = .pred ∧ b ∈ ex ∧ n = r.w.d ∧ n ≠ 7 then (res b).1 % 2 == 1 else sh.pred b n) ∧
        (∀ b, h.flag b = if b ∈ ex then sh.flag b ||| (res b).2 else sh.flag b) ∧
        (∀ b, ex.count b ≤ 1 → h.count b =
          if b ∈ ex ∧ selectsSR r.row r.w = true then (sh.count b + 1) % 2 ^ 64 else sh.count b) ∧
        { h with vregs := sh.vregs, preds := sh.preds, flags := sh.flags, counts := sh.counts, sregs := sh.sregs,
                 blocks := sh.blocks, exposed := sh.exposed, frontier := sh.frontier } = sh

/-- R41, R42, R56 to R59, R137 to R141: what every integer word computes in one thread, in every type that it takes: elements of 8,
16, 32 and 64 bits, signed or not, wrapped or with SAT clamped, the clamp of `addsat` and `subsat`, and the flag of a clamp. -/
def Obligations.LaneIntegerResults : Prop :=
  ∀ p : LaneArg,
    let t := p.w.t
    let w := elemWidth t
    let sg := typeSigned t
    let sat := xSat p.x
    let pat := fun v k => elemOf w v k
    let a := fun k => asInt sg w (pat p.a k)
    let b := fun k => asInt sg w (pat p.b k)
    let c := fun k => asInt sg w (pat p.c k)
    let sh := fun k => pat p.b k % w
    let each := fun (opc : Nat) (P : Nat → Nat × Nat → Prop) => p.Elems opc w (elemCount t) P
    let plain := fun (opc : Nat) (v : Nat → Nat) => each opc fun k r => r = (v k, 0)
    let whole := fun (opc : Nat) (v : Nat) => (laneFn opc).map (fun f => f p) = some (v, 0)
    let truth := fun (v : Bool) => if v then 1 else 0
    let shifted := fun (signed : Bool) (v s : Nat) =>
      if s = 0 then asInt signed 32 v else (asInt signed 32 v + 2 ^ (s - 1)) / 2 ^ s
    (t < 8 →
      each 0x001 (fun k => Clamps sat w sg (a k + b k)) ∧ each 0x002 (fun k => Clamps sat w sg (a k - b k)) ∧
      each 0x003 (fun k => Clamps sat w sg (a k * b k)) ∧ each 0x005 (fun k => Clamps sat w sg (a k * b k + c k)) ∧
      each 0x004 (fun k r => asInt sg w r.1 = a k * b k / 2 ^ w ∧ r.2 = 0) ∧
      (sat = false → plain 0x00A fun k => pat p.a k * 2 ^ sh k % 2 ^ w) ∧
      (sat = true → each 0x00A fun k => Clamps true w sg (a k * 2 ^ sh k)) ∧
      plain 0x00B (fun k => pat p.a k / 2 ^ sh k) ∧
      each 0x00C (fun k r => asInt true w r.1 = asInt true w (pat p.a k) / 2 ^ sh k ∧ r.2 = 0) ∧
      plain 0x00D (fun k => if a k ≤ b k then pat p.a k else pat p.b k) ∧
      plain 0x00E (fun k => if a k ≤ b k then pat p.b k else pat p.a k) ∧
      each 0x018 (fun k r => r.2 = 0 ∧ (b k = 0 → r.1 = 2 ^ w - 1) ∧
        (b k ≠ 0 → Clamps false w sg ((a k).tdiv (b k)) r)) ∧
      each 0x019 (fun k r => r.2 = 0 ∧ (b k = 0 → r.1 = pat p.a k) ∧ (b k ≠ 0 → asInt sg w r.1 = (a k).tmod (b k))) ∧
      each 0x01A (fun k => Clamps true w sg (a k + b k)) ∧ each 0x01B (fun k => Clamps true w sg (a k - b k)) ∧
      (sg = true → each 0x00F (fun k => Clamps sat w true |a k|) ∧ each 0x010 fun k => Clamps sat w true (-a k))) ∧
    (t = 15 ∨ t = 6 ∨ t = 7 →
      whole 0x006 (p.a &&& p.b) ∧ whole 0x007 (p.a ||| p.b) ∧ whole 0x008 (p.a ^^^ p.b)) ∧
    (t = 15 ∨ t = 7 →
      whole 0x016 (if p.pv (p.x % 8) then p.a else p.b) ∧ whole 0x01F p.a ∧
      whole 0x012 ((List.range w).countP fun n => bit p.a n) ∧
      (p.a < 2 ^ w → ∃ z, whole 0x011 z ∧ z ≤ w ∧ p.a < 2 ^ (w - z) ∧ (z < w → 2 ^ (w - z - 1) ≤ p.a)) ∧
      ∃ v, whole 0x013 v ∧ v < 2 ^ w ∧ ∀ n, n < w → bit v n = bit p.a (w - 1 - n)) ∧
    (p.w.x < 2 ^ 32 → (t = 15 ∨ t = 7 → whole 0x020 p.w.x) ∧ (t = 6 → whole 0x020 (low 64 (asInt true 32 p.w.x)))) ∧
    (t = 0 ∨ t = 1 ∨ t = 6 ∨ t = 7 → ∀ cond, cond < 6 → p.x % 8 = cond →
      whole 0x017 (truth (match cond with
        | 0 => decide (a 0 = b 0) | 1 => decide (a 0 ≠ b 0) | 2 => decide (a 0 < b 0) | 3 => decide (a 0 ≤ b 0)
        | 4 => decide (a 0 > b 0) | _ => decide (a 0 ≥ b 0)))) ∧
    (t = 0 ∨ t = 1 →
      let pos := p.b % 32
      let len := min (p.b / 256 % 64) 32
      (p.a < 2 ^ 32 → ∃ v, whole 0x014 v ∧ v < 2 ^ 32 ∧ ∀ n, n < 32 → bit v n =
        (if n < len then (if pos + n < 32 then bit p.a (pos + n) else sg && bit p.a 31)
         else sg && decide (0 < len) && (if pos + len ≤ 32 then bit p.a (pos + len - 1) else bit p.a 31))) ∧
      (sat = false → ∃ v, whole 0x01E v ∧ v < 2 ^ 32 ∧ asInt sg 32 v = shifted sg p.a (p.b % 32)) ∧
      (sat = true → ∃ (n : Nat × Nat) (v fl : Nat), (laneFn 0x01E).map (fun f => f p) = some (v, fl) ∧ v < 2 ^ 32 ∧
        Clamps true 16 sg (shifted sg p.a (p.b % 32)) n ∧ fl = n.2 ∧ asInt sg 32 v = asInt sg 16 n.1)) ∧
    (t = 2 ∨ t = 3 →
      (∃ v, (laneFn 0x01C).map (fun f => f p) = some v ∧
        Clamps sat 32 sg (asInt sg 32 p.c + a 0 * b 0 + a 1 * b 1) v) ∧
      each 0x01E (fun k => Clamps sat 16 sg (shifted sg (if k = 0 then p.a else p.b) (p.c % 32)))) ∧
    (t = 4 ∨ t = 5 → ∃ v, (laneFn 0x01D).map (fun f => f p) = some v ∧
      Clamps sat 32 sg (asInt sg 32 p.c + a 0 * b 0 + a 1 * b 1 + a 2 * b 2 + a 3 * b 3) v) ∧
    (t = 15 → ∀ (x y z : Word), p.a = x.toNat → p.b = y.toNat → p.c = z.toNat →
      let pos := p.c % 32
      let len := min (p.c / 256 % 64) 32
      (∃ v : Word, whole 0x009 v.toNat ∧ ∀ n, n < 32 →
        v.getLsbD n = bit (bits p.x 11 4) (4 * (x.getLsbD n).toNat + 2 * (y.getLsbD n).toNat + (z.getLsbD n).toNat)) ∧
      (∃ v : Word, whole 0x015 v.toNat ∧ ∀ n, n < 32 →
        v.getLsbD n = if pos ≤ n ∧ n < pos + len then x.getLsbD (n - pos) else y.getLsbD n) ∧
      whole 0x021 (truth
        (bit (bits p.x 11 4) (4 * (p.pv p.w.a).toNat + 2 * (p.pv p.w.b).toNat + (p.pv p.w.c).toNat))))

/-- R43, R46 to R51, R53, R55, R60, R142 to R151: what the float and conversion words compute in one thread, element by element of
every float type, after the sources' modifiers. Sums, products, their fused form, quotients, reciprocals and square roots are the
exact result rounded once in the word's mode, SR among them, with SAT and the flags of overflow, underflow and inexactness; a NaN
gives the canonical one, with NV when it is signalling; an invalid operation gives it with NV; the functions of one operand give the
table of R55. Minimum and maximum put -0 below +0, comparison makes the zeros equal and no NaN equal, and the words that move a sign
act on the sign alone. The magnitudes of `tw2d` are those of the map's levels, in the pattern that the code names, the signs those
of the code, and the fourth one makes the sum of the half-unit weights a multiple of 4 (R60 to R62). Conversions between integers
clamp or wrap, those to a float type round once or are exact, those to an integer round to one and clamp; `pack`, `unpk` and `tw2d`
place their elements. -/
def Obligations.LaneFloatResults : Prop :=
  (∀ map code n : Nat, code < 256 → n < 4 →
    let rows : List Nat := [1111, 2111, 1211, 1121, 1112, 2211, 2121, 2112, 1221, 1212, 1122, 2221, 2212, 2122, 1222, 2222, 3111, 1311, 1131,
      1113, 3211, 3121, 3112, 2311, 1321, 1312, 2131, 1231, 1132, 2113, 1213, 1123]
    let level := fun (j : Nat) => rows.getD (code / 8) 0 / 10 ^ (3 - j) % 10
    let half := fun (j : Nat) => (if j < 3 ∧ code / 2 ^ j % 2 = 1 then -1 else 1) * (2 * (level j : Int) - 1)
    let minus := if n < 3 then code / 2 ^ n % 2 = 1 else (half 0 + half 1 + half 2 + half 3) % 4 ≠ 0
    let v := floatVal .e4m3 (map / 2 ^ (8 * (level n - 1)) % 256)
    (minus → tw2Weight map code n = v.negate ∧
      (tw2Weight 0x00423C30 code n).rat = (1 - 2 * (level n : ℚ)) / 2) ∧
    (¬ minus → tw2Weight map code n = v ∧ (tw2Weight 0x00423C30 code n).rat = (2 * (level n : ℚ) - 1) / 2)) ∧
  ∀ p : LaneArg, xRnd p.x < 6 →
    let t := p.w.t
    let fm := floatFmt t
    let rnd := xRnd p.x
    let sat := xSat p.x
    let g := fun k => srElem p.draw k
    let src := fun (j k : Nat) =>
      modified fm p.x j (elemOf fm.width (match j with | 0 => p.a | 1 => p.b | _ => p.c) k)
    let val := fun (j k : Nat) => floatVal fm (src j k)
    let each := fun (opc : Nat) (P : Nat → Nat × Nat → Prop) => p.Elems opc fm.width (elemCount t) P
    let one := fun (opc : Nat) (inf : Bool → Nat × Nat → Prop) (fin : Nat → Bool → Nat → Nat × Nat → Prop) =>
      each opc fun k => FunctionGives fm (val 0 k) inf (fin k)
    let invalid := fun (_ : Bool) (r : Nat × Nat) => Invalid fm r
    let is := fun (v : Nat) (r : Nat × Nat) => r = (v, 0)
    let rounded := fun (k : Nat) (x : ℝ) => RoundsOr fm rnd sat (g k) x false
    let real := fun (k : Nat) => ((val 0 k).rat : ℝ)
    let st := xSt p.x
    let el := xElem p.x
    let sst := typeSigned st
    let wst := elemWidth st
    let srcInt := fun (v k : Nat) => asInt sst wst (elemOf wst v k)
    let srcFloat := fun (v k : Nat) => floatVal (floatFmt st) (elemOf (floatFmt st).width v k)
    let ints := [0, 1, 6, 7]
    (t ∈ [8, 9, 10, 11, 12] →
      each 0x040 (fun k => SumGives fm rnd sat (g k) (val 0 k) (val 1 k)) ∧
      each 0x041 (fun k => SumGives fm rnd sat (g k) (val 0 k) (val 1 k).negate) ∧
      each 0x042 (fun k => ProductGives fm rnd sat (g k) (val 0 k) (val 1 k)) ∧
      each 0x043 (fun k => FmaGives fm rnd sat (g k) (val 0 k) (val 1 k) (val 2 k)) ∧
      each 0x04B (fun k => QuotientGives fm rnd sat (g k) (.fin false 1 0) (val 0 k)) ∧
      each 0x04E (fun k => QuotientGives fm rnd sat (g k) (val 0 k) (val 1 k)) ∧
      one 0x04C (fun n r => if n then Invalid fm r else is (withSign fm false 0) r)
        (fun k n m r => if m = 0 then r = (infOf fm n, flagDZ) else if n then Invalid fm r
          else rounded k (1 / √(real k)) r) ∧
      one 0x04D (fun n r => if n then Invalid fm r else is (infOf fm false) r)
        (fun k n m r => if m = 0 then is (withSign fm n 0) r else if n then Invalid fm r else rounded k √(real k) r) ∧
      one 0x04F (fun n => is (if n then withSign fm false 0 else infOf fm false))
        (fun k _ _ r => ∀ z : ℤ, (val 0 k).rat = z → rounded k ((2 : ℝ) ^ z) r) ∧
      one 0x050 (fun n r => if n then Invalid fm r else is (infOf fm false) r)
        (fun k n m r => if m = 0 then r = (infOf fm true, flagDZ) else if n then Invalid fm r
          else ∀ z : ℤ, (val 0 k).rat = 2 ^ z → rounded k z r) ∧
      one 0x051 invalid (fun k n _ r => ∀ z : ℤ,
        ((val 0 k).rat = z → is (withSign fm n 0) r) ∧
        ((val 0 k).rat = z + 1 / 2 → rounded k (if z % 2 = 0 then 1 else -1) r)) ∧
      one 0x052 invalid (fun k _ _ r => ∀ z : ℤ,
        ((val 0 k).rat = z → rounded k (if z % 2 = 0 then 1 else -1) r) ∧
        ((val 0 k).rat = z + 1 / 2 → is (withSign fm false 0) r)) ∧
      one 0x053 (fun n r => RoundsOr fm rnd sat 0 (if n then -1 else 1) false r)
        (fun _ n m r => m = 0 → is (withSign fm n 0) r) ∧
      one 0x054 (fun n r => RoundsOr fm rnd sat 0 (if n then 0 else 1) false r)
        (fun k _ m r => m = 0 → rounded k (1 / 2) r) ∧
      one 0x04A (fun n => is (infOf fm n)) (fun k n _ r => ∃ z : ℕ,
        RoundsMag rnd (g k) (n = true) |real k| 0 z ∧ IsValue fm r.1 (n = true) z 0 ∧
          r.2 = if (z : ℚ) = |(val 0 k).rat| then 0 else flagNX) ∧
      (∀ (wide : Bool), each (if wide then 0x045 else 0x044) fun k r =>
        ((∃ s, val 0 k = .nan s ∨ val 1 k = .nan s) → NaNOf fm [val 0 k, val 1 k] r) ∧
        ((∀ s, val 0 k ≠ .nan s ∧ val 1 k ≠ .nan s) →
          ((val 0 k).Below (val 1 k) → is (src (if wide then 1 else 0) k) r) ∧
          (¬(val 0 k).Below (val 1 k) → is (src (if wide then 0 else 1) k) r))) ∧
      (∀ opc ∈ [0x046, 0x047, 0x055], each opc fun k r =>
        let sign := fun j => decide (fm.signBit ≤ src j k)
        ((∃ s, val 0 k = .nan s) → NaNOf fm [val 0 k] r) ∧
        ((∀ s, val 0 k ≠ .nan s) → is (withSign fm
          (if opc = 0x046 then !sign 0 else if opc = 0x047 then false else sign 1) (src 0 k % fm.signBit)) r)) ∧
      (t = 8 ∨ t = 12 →
        (laneFn 0x049).map (fun f => f p) = some (match val 0 0 with
          | .nan s => if s then 256 else 512
          | .inf n => if n then 1 else 128
          | .fin n m _ =>
            if m = 0 then (if n then 8 else 16)
            else if |(val 0 0).rat| < (2 : ℚ) ^ (1 - (fm.bias : ℤ)) then (if n then 4 else 32)
            else if n then 2 else 64, 0) ∧
        ∃ (v : Bool) (fl : Nat), (laneFn 0x048).map (fun f => f p) = some (if v then 1 else 0, fl) ∧
          let nan := ∃ s, val 0 0 = .nan s ∨ val 1 0 = .nan s
          let same := (val 0 0).Same (val 1 0)
          let less := (val 0 0).Below (val 1 0) ∧ ¬same
          (v = true ↔ match p.x % 8 with
            | 0 => ¬nan ∧ same | 1 => nan ∨ ¬same | 2 => ¬nan ∧ less | 3 => ¬nan ∧ (less ∨ same)
            | 4 => ¬nan ∧ ¬less ∧ ¬same | _ => ¬nan ∧ ¬less) ∧
          (nan → fl = if 2 ≤ p.x % 8 ∨ .nan true ∈ [val 0 0, val 1 0] then flagNV else 0) ∧ (¬nan → fl = 0))) ∧
    (t ∈ ints →
      (st ∈ ints → t ≠ st → ∃ r, (laneFn 0x080).map (fun f => f p) = some r ∧
        Clamps sat (elemWidth t) (typeSigned t) (srcInt p.a 0) r) ∧
      (st = 8 ∨ st = 12 → ∃ r, (laneFn 0x080).map (fun f => f p) = some r ∧
        IntegerGives (elemWidth t) (typeSigned t) rnd (g 0) (srcFloat p.a 0) r)) ∧
    ((t = 8 ∨ t = 12) ∧ st ∈ ints → each 0x080 fun _ => RoundsOr fm rnd sat (g 0) (srcInt p.a 0 : ℤ) false) ∧
    (((t, st) ∈ [(8, 12), (10, 9), (11, 9), (10, 11), (11, 10), (13, 14), (14, 13)] →
      each 0x080 fun k => ConvertGives fm rnd sat false (g k) (srcFloat p.a k))) ∧
    ((t, st) ∈ [(12, 8), (9, 10), (9, 11)] → each 0x080 fun k => ConvertGives fm 0 sat true 0 (srcFloat p.a k)) ∧
    (t ∈ [9, 10, 11] ∧ (st = 13 ∨ st = 14) →
      each 0x080 fun k => ConvertGives fm 0 sat true 0 (srcFloat p.a (2 * el + k))) ∧
    ((t = 0 ∨ t = 1) ∧ st ∈ [2, 3, 4, 5] → ∃ v, (laneFn 0x082).map (fun f => f p) = some (v, 0) ∧ v < 2 ^ 32 ∧
      (2 : Int) ^ 32 ∣ v - srcInt p.a el) ∧
    (t = 8 ∧ st ∈ [10, 11, 13, 14] → ∃ r, (laneFn 0x082).map (fun f => f p) = some r ∧
      ConvertGives .f32 0 false true 0 (srcFloat p.a el) r) ∧
    (((t = 2 ∨ t = 3) ∧ (st = 0 ∨ st = 1)) ∨ ((t = 4 ∨ t = 5) ∧ (st = 2 ∨ st = 3)) →
      let half := elemCount t / 2
      p.Elems 0x081 (elemWidth t) (elemCount t) fun k => Clamps sat (elemWidth t) (typeSigned t)
        (if k < half then srcInt p.a k else srcInt p.b (k - half))) ∧
    (((t = 10 ∨ t = 11) ∧ st = 8) ∨ ((t = 13 ∨ t = 14) ∧ st ∈ [9, 10, 11]) →
      let half := elemCount t / 2
      each 0x081 fun k => ConvertGives fm rnd sat false (g k)
        (if k < half then srcFloat p.a k else srcFloat p.b (k - half))) ∧
    (t ∈ [8, 10, 11] → p.Elems 0x083 fm.width 2 fun k =>
      let n := 2 * el + k
      ProductGives fm rnd false (g k) (tw2Weight p.map (p.a / 2 ^ (8 * (n / 4)) % 256) (n % 4))
        (if bit p.b 8 then floatVal .e4m3 (p.b % 256) else .fin false 1 0))

/-- R23, R155, R156, R198, R202, R203, R204: the threads of a branch go to its target and the others to the next word; `lcall` also
leaves the next word's offset in D; `lnop` goes on; `lfmt` gives each executing thread the FMT that it read, and one of 2^24 or more
is SUB 1; `lend` ends its entry, and with the last one the block, which must have written its outputs; `ltrap` enters the handler. -/
def Obligations.LaneControl : Prop :=
  ∀ (s : State) (is : Issue) (sh : Shuttle) (env : Env) (blk : Block) (e : Entry) (i : Instr) (r : LaneRun),
    s.AtWord is sh env blk e i r → r.Reads sh blk → r.Writes sh →
      let w := r.w
      let ex := r.ex sh
      let a := fun b => r.source sh blk e b 0
      let goes := fun (es : List Entry) =>
        EndsAs i s { sh with frontier := sh.goesTo env e (es ++ [Entry.start (e.pc + 1) (r.rest sh e) e.fmt]) }
      let target := (BitVec.ofNat 64 e.pc + (BitVec.ofNat 32 w.x).signExtend 64).toNat
      (i = .lnop w → EndsAs i s { sh with frontier := sh.goesOn env e }) ∧
      (i = .bra w → ex ≠ [] → goes [Entry.start target ex e.fmt]) ∧
      (i = .bra w → ex = [] → EndsAs i s { sh with frontier := sh.goesOn env e }) ∧
      (i = .brr w → goes ((groupBy (ex.map fun b => (b, a b))).map fun g => Entry.start g.1 g.2 e.fmt)) ∧
      (i = .brr w → ∀ v, ex ≠ [] → (∀ b ∈ ex, a b = v) → goes [Entry.start v ex e.fmt]) ∧
      (i = .lcall w → ex ≠ [] →
        ∃ h : Shuttle, EndsAs i s h ∧ r.Fills sh h (fun _ => e.pc + 1) ∧
          h.frontier = sh.goesTo env e [Entry.start target ex e.fmt, Entry.start (e.pc + 1) (r.rest sh e) e.fmt] ∧
          { h with vregs := sh.vregs, frontier := sh.frontier } = sh) ∧
      (i = .lfmt w →
        (∀ v, ex ≠ [] → (∀ b ∈ ex, a b = v) → v < 2 ^ 24 → goes [Entry.start (e.pc + 1) ex v]) ∧
        ((∀ b ∈ ex, a b < 2 ^ 24) →
          goes ((groupBy (ex.map fun b => (b, a b))).map fun g => Entry.start (e.pc + 1) g.2 g.1)) ∧
        (∀ b ∈ ex, 2 ^ 24 ≤ a b → (∀ n ∈ e.beats, sh.attempt n = none) → EndsTeamAt i s sh 0x10 1)) ∧
      (i = .lend w → e.beats ≠ [] → (∀ b ∈ e.beats, sh.attempt b = none) →
        let others := dropEntry sh.frontier e
        let ended := { Entry.start e.pc e.beats e.fmt with status := .ended }
        ((∃ x ∈ others, x.status ≠ .ended) → EndsAs i s { sh with frontier := others ++ [ended] }) ∧
        ((∀ x ∈ others, x.status = .ended) →
          ((∀ k, k < blk.outN → k ∈ blk.written) →
            (sh.blocks = [blk] → EndsAs i s { sh with running := false, frontier := [], blocks := [] }) ∧
            (∀ b bs, sh.blocks = blk :: b :: bs →
              EndsAs i s { sh with running := true, frontier := [Entry.start b.entry b.beats b.fmt], blocks := b :: bs })) ∧
          ((∃ k, k < blk.outN ∧ k ∉ blk.written) → EndsTeamAt i s sh 0x11 0))) ∧
      (i = .ltrap w → ex ≠ [] → (∀ b ∈ ex, sh.attempt b = none) →
        (env.nest.hasTrap = true → sh.handler = false →
          ∃ h, EntersHandler i s sh env e 2 0 ex h ∧ h.suspended = .lane e.pc e.beats true ∧
            h.sreg 1018 = .full (BitVec.ofNat 32 (a (ex.headD 0))) ∧
            h.sreg 1012 = .full (BitVec.ofNat 32 (r.source sh blk e (ex.headD 0) 1))) ∧
        (env.nest.hasTrap = false → sh.handler = false → EndsTeamAt i s sh 2 0) ∧
        (sh.handler = true → EndsTeamAt i s sh 0x16 0))

/-- R15, R23, R157, R185, R205, R208 to R210, R362, R430: the words that read an index, the address of a shared copy, a vote, FLAGS,
another thread's register or an accumulator give their values in D, which may be an output register or, but for `accrd`, a queue;
`clrflg` clears the flags of its mask; `accwr` writes its element, whose poison goes. That a vote and a permute act alike in a
transaction is the model's choice (log 28). -/
def Obligations.LaneQueries : Prop :=
  ∀ (s : State) (is : Issue) (sh : Shuttle) (env : Env) (blk : Block) (e : Entry) (i : Instr) (r : LaneRun),
    s.AtWord is sh env blk e i r → r.Reads sh blk →
      let w := r.w
      let ex := r.ex sh
      let a := fun b => r.source sh blk e b 0
      let v := fun b => r.source sh blk e b 1
      let coord := fun b => sh.coord env.launch.levels env.team.num blk.seq b
      let core := if bit w.x 5 then sh.core else env.team.cores.headD 0
      let element := fun b =>
        tileKey env.team.id ((env.team.cores.findIdx? (· == core)).getD 0) (w.x % 32) (a b / 128 % 128) (a b % 128)
      (i = .lidx w →
        GivesEach i s sh env blk e r (fun b => if sh.spawned then 0 else (coord (r.giver sh b)).getD (w.x % 4) 0)) ∧
      (∀ g, i = .lshb w → env.nest.shared[w.x % 65536]? = some g → sh.spawned = false →
        teamLevel env.launch.levels g.level = false →
          GivesEach i s sh env blk e r fun b =>
            env.team.copyAddress (w.x % 65536) ((coord (r.giver sh b)).take g.level)) ∧
      (i = .lshb w → env.nest.shared[w.x % 65536]? = none → (∀ b ∈ e.beats, sh.attempt b = none) →
        EndsTeamAt i s sh 0x10 1) ∧
      (i = .lvote w →
        let n := (ex.filter fun b => sh.pred b (w.x / 4 % 8)).length
        (w.x % 4 = 0 → GivesEach i s sh env blk e r (fun _ => if n = 0 then 0 else 1)) ∧
        (w.x % 4 = 1 → GivesEach i s sh env blk e r (fun _ => if n = ex.length then 1 else 0)) ∧
        (w.x % 4 ≥ 2 → GivesEach i s sh env blk e r (fun _ => n))) ∧
      (i = .bperm w → isX w.a = false → (∀ b ∈ ex, v b % 8 ∈ blk.beats →
            sh.srcEmpty blk (v b % 8) w.a 1 = false ∧ sh.srcBad blk (v b % 8) w.a 1 = false) →
          GivesEach i s sh env blk e r (fun b => if v b % 8 ∈ blk.beats then sh.srcVal blk (v b % 8) w.a 1 else 0)) ∧
      (sh.flagsInFlight ex = false →
        (i = .rdflg w → GivesEach i s sh env blk e r (fun b => sh.flag (r.giver sh b) % 64)) ∧
        (i = .clrflg w →
          ∃ h : Shuttle, EndsAs i s h ∧ h.frontier = sh.goesOn env e ∧
            (∀ b, b ∉ ex → h.flag b = sh.flag b) ∧
            (∀ b ∈ ex, ∀ n, bit (h.flag b) n = (decide (n < 6) && bit (sh.flag b) n && !bit (a (r.giver sh b)) n)) ∧
            { h with flags := sh.flags, frontier := sh.frontier } = sh)) ∧
      ((∀ b ∈ ex, sh.attempt b = none) →
        (s.dev.tokenOut env.team.id core (w.x % 32) = false →
          (i = .accrd w → (∀ b ∈ r.evaluates ex, s.dev.poisoned (element b) 4 = false) →
            GivesEach i s sh env blk e r fun b => leNat (readBytes s.dev.mem (element (r.giver sh b)) 4)) ∧
          (i = .accwr w →
            exec i s = .next (s.withDev
              ({ s.dev with
                  mem := (r.evaluates ex).foldl (fun m b => writeBytes m (element b) (leBytes 4 (v b))) s.dev.mem,
                  poison := s.dev.poison.filter fun p =>
                    !(r.evaluates ex).any fun b => decide (element b ≤ p) && decide (p < element b + 4) }.setShuttle
                { sh with frontier := sh.goesOn env e })))) ∧
        (s.dev.tokenOut env.team.id core (w.x % 32) = true → ex ≠ [] → r.Takes sh env blk e →
          i = .accrd w ∨ i = .accwr w → EndsTeamAt i s sh 0x12 0))

/-- R23, R29, R31, R38, R152, R153, R287, R292, R294, R296, R297: a lane load, store, atomic or reduction of threads in no
transaction, whose addresses all translate, issues one access for each thread, in beat order, with the address, the size, the data
and the ORD that the rules give, leaves D of each thread empty with the word as its producer, or takes its output register for it,
and goes on; an address that reaches nothing ends the team with cause 0x14, before an atomic reads C. `pf` and `cln` change no byte
and no register. That the accesses are translated in the word's own step is the model's choice (log 26). -/
def Obligations.LaneMemory : Prop :=
  ∀ (s : State) (is : Issue) (sh : Shuttle) (env : Env) (blk : Block) (e : Entry) (i : Instr) (r : LaneRun),
    s.AtWord is sh env blk e i r → r.pops = [] →
      let w := r.w
      let ex := r.ex sh
      let c : LaneCtx := { is := is, env := env, blk := blk, cur := e }
      let reqs := r.requests sh env blk e
      let readable := fun (xs : List (Nat × Nat × Nat)) =>
        r.starved sh blk (r.evaluates ex) xs = false ∧ r.badFault sh blk (r.evaluates ex) xs = none
      let ends := ∀ q ∈ reqs, q.reach = .bad → EndsTeamAt i s sh 0x14 0
      ((∀ b ∈ ex, sh.attempt b = none) → r.outputFault blk ex = none →
        (i = .atom w ∨ i = .red w → readable (r.srcs.take 2) → ends) ∧
        (i = .ld w ∨ i = .st w → readable r.srcs → r.dstPending sh ex = false → ends) ∧
        (i = .ld w ∨ i = .st w ∨ i = .atom w ∨ i = .red w → readable (r.srcs ++ r.casSrcs) →
          r.dstPending sh ex = false →
          ∀ d met, (∀ q ∈ reqs, q.reach ≠ .bad) → meetAll c r reqs s.dev = (d, met) →
            (∀ p ∈ met, (∃ l, p.2 = .home l) ∨ ∃ k, p.2 = .fifo k) →
              ∃ h : Shuttle,
                exec i s = .next (s.withDev ({ d with nextId := d.nextId + met.length }.setShuttle h)) ∧
                  h.frontier = sh.goesOn env e ∧ h.accs.length = sh.accs.length + met.length ∧
                  (∀ k p, met[k]? = some p → ∃ z, h.accs[sh.accs.length + k]? = some z ∧ z.id = d.nextId + k ∧
                    z.beat = some p.1.o.beat ∧ z.covers = p.1.covers ∧ z.va = p.1.a ∧ z.size = memSize r.opc w ∧
                    z.data = p.1.o.c % 2 ^ (8 * memSize r.opc w) ∧ z.ord = xOrd w.x ∧ z.block = blk.id ∧
                    z.origin.off = e.pc ∧ z.origin.words = is.words ∧ z.origin.fmt = e.fmt ∧
                    (∀ l, p.2 = .home l → z.status = .home l) ∧ (∀ k, p.2 = .fifo k → z.status = .fifo k) ∧
                    (i = .ld w → z.kind = .load) ∧ (i = .st w → z.kind = .store) ∧
                    (i = .atom w → z.kind = .atom (xAop w.x) w.t p.1.o.e) ∧ (i = .red w → z.kind = .red (xAop w.x) w.t) ∧
                    z.dst = (if (i = .ld w ∨ i = .atom w) ∧ isV w.d = true then .vregs p.1.covers w.d
                      else if (i = .ld w ∨ i = .atom w) ∧ isO w.d = true then .sregs (blk.outBase + (w.d - 776))
                      else .none)) ∧
                  (∀ b n, n < 1024 → h.vreg b n =
                    if (i = .ld w ∨ i = .atom w) ∧ b ∈ ex ∧ isV w.d = true ∧ w.d ≤ n ∧
                        n < w.d + (laneShape r.opc r.row w).d then .pending
                    else sh.vreg b n) ∧
                  h.blocks = (if isO w.d = true ∧ ex ≠ [] then (sh.markWritten blk.id r.outputs).blocks else sh.blocks) ∧
                  { h with vregs := sh.vregs, frontier := sh.frontier, accs := sh.accs, exposed := sh.exposed,
                           blocks := sh.blocks } = sh)) ∧
      (∀ q ∈ reqs, q.a = (BitVec.ofNat 64 q.o.a + BitVec.ofNat 64 (q.o.b * 2 ^ xScale w.x) +
          BitVec.ofInt 64 (memOffset r.opc w)).toNat ∧ q.o.a = r.source sh blk e q.o.beat 0 ∧
          q.o.b = r.source sh blk e q.o.beat 1 ∧ q.o.c = r.source sh blk e q.o.beat 2) ∧
      (i = .pf w ∨ i = .cln w → readable r.srcs →
        ∃ t, exec i s = .next t ∧ t.dev.shuttle is.sh = some { sh with frontier := sh.goesOn env e } ∧
          t.dev.mem = s.dev.mem ∧ { t.dev with shuttles := s.dev.shuttles, tlb := s.dev.tlb, l1 := s.dev.l1 } = s.dev ∧
          ((∀ q ∈ reqs, 2 ^ 56 ≤ q.a) → t.dev = s.dev.setShuttle { sh with frontier := sh.goesOn env e }))

/-- R298 to R306: `tbeg` begins an attempt of its thread with a status of 0, or goes on with the status of a permanent abort, or
waits for the token or for room; in an open attempt it aborts it with NEST. `tend` of an attempt with an empty log ends it, and with
a log hands it to its commit. `tabt` aborts with its code, and the thread restarts at its `tbeg`. `tsts` reads the state. -/
def Obligations.LaneTransactions : Prop :=
  ∀ (s : State) (is : Issue) (sh : Shuttle) (env : Env) (blk : Block) (e : Entry) (i : Instr) (r : LaneRun) (b : Nat),
    s.AtWord is sh env blk e i r → r.Reads sh blk → r.Writes sh →
      let w := r.w
      let fn := env.launch.fn
      let cl := env.team.cluster
      let acquired := s.dev.l1.filter fun c => c.cluster != cl
      let status := sh.restartStatus b
      let alone := fun (st : EntryStatus) => { Entry.start e.pc [b] e.fmt with status := st }
      let on := Entry.start (e.pc + 1) (e.beats.filter (· != b)) e.fmt
      (i = .tsts w → GivesEach i s sh env blk e r sh.txnState) ∧
      (i = .tabt w → (∀ n ∈ r.ex sh, sh.attempt n = none) → EndsAs i s { sh with frontier := sh.goesOn env e }) ∧
      (i = .tend w → (∀ n ∈ r.ex sh, sh.attempt n = none) → EndsAs i s { sh with frontier := sh.goesOn env e }) ∧
      (r.ex sh = [b] →
        (i = .tbeg w → sh.attempt b = none →
          (bit status 25 = true → ∃ h : Shuttle, EndsAs i s h ∧ h.frontier = sh.goesOn env e ∧
            r.Fills sh h (fun _ => status) ∧ h.txn b = none ∧
            { h with vregs := sh.vregs, frontier := sh.frontier, txns := sh.txns } = sh) ∧
          (bit status 25 = false → status / 256 % 256 < 8 → status % 256 ≠ 3 →
            ((s.dev.setShuttle sh).openLogs cl < s.dev.logRoom cl →
              ∃ (h : Shuttle) (t : Txn), exec i s = .next (s.withDev ({ s.dev with l1 := acquired }.setShuttle h)) ∧
                h.frontier = sh.goesOn env e ∧ r.Fills sh h (fun _ => status) ∧ h.attempt b = some t ∧ t.log = [] ∧
                t.serial = false ∧ t.count = status / 256 % 256 ∧ t.pc = e.pc ∧ t.fmt = e.fmt ∧
                { h with vregs := sh.vregs, frontier := sh.frontier, txns := sh.txns } = sh) ∧
            (s.dev.logRoom cl ≤ (s.dev.setShuttle sh).openLogs cl →
              ∃ h : Shuttle,
                exec i s = .next (s.withDev ({ s.dev with logWait := s.dev.logWait ++ [(sh.id, b)] }.setShuttle h)) ∧
                h.frontier = sh.goesTo env e [on, alone .logRoom] ∧ h.attempt b = none)) ∧
          (bit status 25 = false → 8 ≤ status / 256 % 256 ∨ status % 256 = 3 →
            ∃ h : Shuttle,
              exec i s = .next (s.withDev ((s.dev.setFunc fn { s.dev.func fn with
                serialWait := (s.dev.func fn).serialWait ++ [(sh.id, b)] }).setShuttle h)) ∧
              h.frontier = sh.goesTo env e [on, alone .serialToken] ∧ h.attempt b = none)) ∧
        (∀ t, sh.attempt b = some t → t.beat = b → t.committing = true → sh.frontier = [e] → i = .tend w → sh.releaseReady blk [] = true →
          ∃ h, EndsAs i s h ∧ h.attempt b = some t ∧ h.frontier = [{ e with status := .committing }]) ∧
        (∀ t, sh.attempt b = some t → t.beat = b → t.committing = false →
          (i = .tbeg w → ∃ u h, exec i s = .next u ∧ u.dev.shuttle is.sh = some h ∧
            h.frontier = sh.goesTo env e [on, Entry.start t.pc [b] t.fmt] ∧ h.attempt b = none ∧
            h.restartStatus b % 256 = 5 ∧ bit (h.restartStatus b) 25 = true ∧ h.vregs = sh.vregs) ∧
          (i = .tabt w →
            let a := r.source sh blk e b 0
            ∃ u h, exec i s = .next u ∧ u.dev.shuttle is.sh = some h ∧ u.dev.mem = s.dev.mem ∧
              h.frontier = sh.goesTo env e [on, Entry.start t.pc [b] t.fmt] ∧ h.attempt b = none ∧
              h.restartStatus b % 256 = 4 ∧ h.restartStatus b / 2 ^ 16 % 256 = a % 256 ∧
              bit (h.restartStatus b) 25 = bit a 8 ∧ h.vregs = sh.vregs) ∧
          (i = .tend w → sh.releaseReady blk [b] = true →
            (t.log = [] → ∃ u h, exec i s = .next u ∧ u.dev.shuttle is.sh = some h ∧ u.dev.mem = s.dev.mem ∧
              h.frontier = sh.goesOn env e ∧ h.txn b = none ∧ h.vregs = sh.vregs) ∧
            (t.log ≠ [] → ∃ h, EndsAs i s h ∧ h.attempt b = some { t with committing := true } ∧
              (sh.frontier = [e] → e.beats ≠ [] → h.frontier = [{ e with status := .committing }]) ∧
              { h with frontier := sh.frontier, txns := sh.txns } = sh)) ∧
          (i = .tend w → sh.releaseReady blk [b] = false → sh.frontier = [e] → EndsAs i s sh)))

/-- R15, R23, R27, R34, R89, R100, R101, R133, R134, R219, R220: a lane word that fails a check ends the team with cause 0x10; an
empty source waits, or with its E bit raises cause 3 in the threads that read it; a popped queue gives its oldest value, as an
acquire (R273), and a word that has popped a part of its values keeps them while it waits; an output register is written once,
behind the block's earlier accesses; and `xissue` executes the word that its threads hold as if it were fetched, reporting an
illegal one in its predicate or by cause 4. That a popped word waits for D before its pops is the model's choice (log 79). -/
def Obligations.LaneChecksAndIssue : Prop :=
  ∀ (s : State) (is : Issue) (sh : Shuttle) (env : Env) (blk : Block) (e : Entry),
    s.AtIssue is sh env →
      (∀ sub, is.lane = false → EndsTeam (.unassignedOpcode sub) s is sh sub) ∧
      (∀ sub, is.lane = true → sh.block = some blk → sh.current = some e → (∀ b ∈ e.beats, sh.attempt b = none) →
        EndsTeamAt (.unassignedOpcode sub) s sh 0x10 sub) ∧
      (∀ (i : Instr) (w : LaneWord) (opc : Nat) (row : LaneRow) (x : Nat × Nat),
        laneOf i = some (opc, w) → laneRow opc = some row → sh.block = some blk → sh.current = some e →
          (opc = 0x0F5 → w.x % 65536 < env.nest.shared.length) → (∀ b ∈ e.beats, sh.attempt b = none) →
          laneIllegal opc row w env.nest.nv env.nest.tiles (sh.inq env.nest) (sh.outq env.nest) = some x →
            EndsTeamAt i s sh 0x10 x.1) ∧
      (∀ (i : Instr) (r : LaneRun) (f : LaneArg → Nat × Nat), s.AtWord is sh env blk e i r → laneFn r.opc = some f →
        let ex := r.ex sh
        ((∀ b ∈ r.evaluates ex, ∀ x ∈ r.srcs, eBit r.w x.1 x.2.1 = true → sh.srcEmpty blk b x.2.1 x.2.2 = false) →
          r.starved sh blk (r.evaluates ex) r.srcs = true → sh.frontier = [e] → e.beats ≠ [] → EndsAs i s sh) ∧
        (∀ b ∈ r.evaluates ex, eBit r.w 0 r.w.a = true → sh.srcEmpty blk b r.w.a (laneShape r.opc r.row r.w).a = true →
          (∀ b ∈ e.beats, sh.attempt b = none) → env.nest.hasTrap = true → sh.handler = false →
            ∃ h threads, EntersHandler i s sh env e 3 0 threads h ∧ b ∈ threads ∧
              h.sreg 1017 = .full (BitVec.ofNat 32 r.w.a)) ∧
        (∀ (b q : Nat) (x : Word) (xs : List Word), ex = [b] → r.w.a = 784 + q → q < 4 →
          (laneShape r.opc r.row r.w).a = 1 → (laneShape r.opc r.row r.w).b = 0 → (laneShape r.opc r.row r.w).c = 0 →
          isV r.w.d = true → r.dstPending sh ex = false →
          env.team.queueVals sh.stage (sh.coord env.launch.levels env.team.num blk.seq b) q = x :: xs →
            ∃ t h u, exec i s = .next t ∧ t.dev.shuttle is.sh = some h ∧ t.dev.team env.team.id = some u ∧
              t.dev.l1 = s.dev.l1.filter (fun z => z.cluster != env.team.cluster) ∧
              u.queueVals sh.stage (sh.coord env.launch.levels env.team.num blk.seq b) q = xs ∧
              h.frontier = sh.goesOn env e ∧
              (r.row.dst = .vec →
                r.Fills sh h fun b => (f { r.arg s.dev sh env blk e b with a := x.toNat }).1)) ∧
        (∀ (d : Dev) (e' : Entry) (all : Bool),
          popAll { is := is, env := env, blk := blk, cur := e } r.pops sh (r.evaluates ex) s.dev e = (d, e', all) →
          r.starved sh blk (r.evaluates ex) r.srcs = false → r.badFault sh blk (r.evaluates ex) r.srcs = none → r.Writes sh →
            ∃ h : Shuttle, exec i s = .next (s.withDev (d.setShuttle h)) ∧
              (all = true → h.frontier = sh.goesOn env e ∧
                (r.row.dst = .vec → r.Fills sh h fun b => (f (r.arg d sh env blk e' (r.giver sh b))).1)) ∧
              (all = false → h.vregs = sh.vregs ∧
                (sh.frontier = [e] → e.beats ≠ [] → h.frontier = [e']))) ∧
        (∀ (k : Nat), r.Reads sh blk → ex ≠ [] → r.row.dst = .vec → r.w.d = 776 + k → k < 8 → r.w.u = true →
          (laneShape r.opc r.row r.w).d = 1 →
          (k < blk.outN → k ∉ blk.written → sh.blockPerformed blk.id = true → sh.sreg (blk.outBase + k) = .pending →
            ∃ h, EndsAs i s h ∧ h.frontier = sh.goesOn env e ∧ h.vregs = sh.vregs ∧
              h.sreg (blk.outBase + k) = .full (BitVec.ofNat 32 (f (r.arg s.dev sh env blk e (ex.headD 0))).1) ∧
              (∀ n, n ≠ blk.outBase + k → h.sreg n = sh.sreg n) ∧
              ∀ z ∈ h.blocks, z.id = blk.id → k ∈ z.written) ∧
          (k < blk.outN → k ∉ blk.written → sh.blockPerformed blk.id = false →
            ∃ (h : Shuttle) (z : Access),
              exec i s = .next (s.withDev ({ s.dev with nextId := s.dev.nextId + 1 }.setShuttle h)) ∧
              h.frontier = sh.goesOn env e ∧ h.sregs = sh.sregs ∧ h.accs = sh.accs ++ [z] ∧ z.id = s.dev.nextId ∧
              z.block = blk.id ∧ z.dst = .sregs (blk.outBase + k) ∧
              z.status = .arrived (f (r.arg s.dev sh env blk e (ex.headD 0))).1) ∧
          (blk.outN ≤ k ∨ k ∈ blk.written → (∀ b ∈ e.beats, sh.attempt b = none) → EndsTeamAt i s sh 0x11 0))) ∧
      ∀ (w : LaneWord) (r : LaneRun) (word : Nat), s.AtWord is sh env blk e (.xissue w) r → r.ex sh ≠ [] →
        (∀ b ∈ r.ex sh, sh.heldWord b w.a = word ∧ ∀ k, k < 3 → (sh.vreg b (w.a + k)).isFull = true) →
        let c : LaneCtx := { is := is, env := env, blk := blk, cur := e }
        (∀ (row : LaneRow) (f : LaneArg → Nat × Nat), xCheck c sh 1 word = none → laneRow (opcOf word) = some row →
          laneFn (opcOf word) = some f → row.dst = .vec →
            let q : LaneRun :=
              { opc := opcOf word, row := row, w := laneFieldsOf word, set := r.ex sh, path := [word],
                raw := laneParts word }
            q.Reads sh blk → q.Writes sh →
              ∃ h : Shuttle, EndsAs (.xissue w) s h ∧ h.frontier = sh.goesOn env e ∧
                q.Fills sh h (fun b => (f (q.arg s.dev sh env blk e b)).1) ∧ h.sregs = sh.sregs ∧
                ∀ b n, n < 8 → h.pred b n =
                  if w.x % 2 = 1 ∧ b ∈ r.ex sh ∧ n = w.d ∧ n ≠ 7 then false else sh.pred b n) ∧
        (∀ sub, xCheck c sh 1 word = some sub →
          (w.x % 2 = 1 → ∃ h : Shuttle, EndsAs (.xissue w) s h ∧ h.frontier = sh.goesOn env e ∧ h.vregs = sh.vregs ∧
            ∀ b n, n < 8 → h.pred b n = if b ∈ r.ex sh ∧ n = w.d ∧ n ≠ 7 then true else sh.pred b n) ∧
          (w.x % 2 = 0 → (∀ b ∈ e.beats, sh.attempt b = none) → env.nest.hasTrap = true → sh.handler = false →
            ∃ h, EntersHandler (.xissue w) s sh env e 4 sub (r.ex sh) h ∧
              h.sreg 1014 = .full (BitVec.ofNat 32 word) ∧ h.suspended = .lane e.pc e.beats true))

/-! ## Events of accesses, copies and engines (spec/95; spec/01, spec/12, spec/15) -/

/-- R29, R244 to R246, R263, R268, R285, R354, R446: a producer fills the registers of its destination that are pending for it and
not for a later one; an access to the host on an insecure stream ends the team (log 91); a pop takes the oldest filled
slot, as an acquire, and a push fills a free one, or waits; an access is performed at its home or parks on a fault-queue entry;
a store to a partition's bytes is read back under the same key and leaves every other byte of that key as it was; a signal is
added or stored at its peer, an ordered one after the earlier ones to that device. What orders accesses at their homes is the
model's choice where R268 to R272 allow more (logs 24 and 25), and so are these: that the step TRANSLATION_WALK performs a
signal (log 72), and that a plain load may take a cluster's copy (log 8, in loadValue). -/
def Obligations.AccessEvents : Prop :=
  ∀ (s : State) (sh : Shuttle) (env : Env) (a : Access),
    s.AtAccess sh env a →
      let k := (a.size + 3) / 4
      let fill := Instr.producerFill sh.id a.id
      let walk := Instr.translationWalk sh.id a.id
      let fn := env.launch.fn
      (∀ v x, a.status = .arrived v → a.dst = .sregs x → a.beat = none →
        ∃ h, EndsAs fill s h ∧ h.accs = sh.accs.filter (fun e => e.id != a.id) ∧
          (∀ n, h.sreg n = if x ≤ n ∧ n < x + k ∧ n ∉ a.lost ∧ (sh.sreg n).isPending = true then
              .full (BitVec.ofNat 32 (v / 2 ^ (32 * (n - x)))) else sh.sreg n) ∧
          { h with sregs := sh.sregs, accs := sh.accs } = sh) ∧
      (∀ v r beats, a.status = .arrived v → a.dst = .vregs beats r → r + k ≤ 1024 →
        ∃ h, EndsAs fill s h ∧ h.accs = sh.accs.filter (fun e => e.id != a.id) ∧
          (∀ b n, n < 1024 →
            h.vreg b n = if b ∈ beats ∧ r ≤ n ∧ n < r + k ∧ (sh.vreg b n).isPending = true then
              .full (BitVec.ofNat 32 (v / 2 ^ (32 * (n - r)))) else sh.vreg b n) ∧
          { h with vregs := sh.vregs, accs := sh.accs } = sh) ∧
      (∀ e b m, a.status = .fifo e → sh.fifoReady a = true → env.team.bank e = some b → b.fifo = some (a.size, m) →
        (a.kind.reads = true → a.dst ≠ .none →
          (b.slots = [] → Waits (.fifoPop sh.id a.id) s) ∧
          (∀ v vs, b.slots = v :: vs →
            ∃ t u h, exec (.fifoPop sh.id a.id) s = .next t ∧ t.dev.team env.team.id = some u ∧
              u.bank e = some { b with slots := vs } ∧ (∀ n, n ≠ e → u.bank n = env.team.bank n) ∧
              t.dev.shuttle sh.id = some h ∧
              h = { sh with accs := sh.accs.map fun x => if x.id == a.id then { a with status := .arrived (leNat v) } else x } ∧
              t.dev.l1 = s.dev.l1.filter (fun z => z.cluster != env.team.cluster) ∧ t.dev.mem = s.dev.mem)) ∧
        (a.kind.reads = false →
          (m ≤ b.slots.length → Waits (.fifoPush sh.id a.id) s) ∧
          (b.slots.length < m →
            ∃ t u h, exec (.fifoPush sh.id a.id) s = .next t ∧ t.dev.team env.team.id = some u ∧
              u.bank e = some { b with slots := b.slots ++ [leBytes a.size a.data] } ∧
              (∀ n, n ≠ e → u.bank n = env.team.bank n) ∧
              t.dev.shuttle sh.id = some h ∧ h = { sh with accs := sh.accs.filter fun x => x.id != a.id } ∧
              t.dev.mem = s.dev.mem))) ∧
      (s.dev.signals.find? (fun g => g.id == a.id && g.sh == sh.id) = none → sh.inOrder a = true →
        (∀ l, a.status = .home l → l.space ≠ spaceScratch →
          (s.dev.homeOpen fn sh.id a.beat l a.size a.kind.writes = false → Waits walk s) ∧
          (s.dev.homeOpen fn sh.id a.beat l a.size a.kind.writes = true → s.dev.linked fn l = false →
            EndsTeamWith walk s sh 0x15 0) ∧
          (s.dev.homeOpen fn sh.id a.beat l a.size a.kind.writes = true → s.dev.linked fn l = true →
            (a.kind = .store →
              let d := s.dev.clusterWrite fn env.team.cluster l (leBytes a.size a.data)
              exec walk s = .next (s.withDev (d.setShuttle (sh.dropAcc a.id))) ∧
                d.homeRead fn l a.size = leBytes a.size a.data ∧
                (∀ b, b < l.key ∨ l.key + a.size ≤ b →
                  d.homeRead fn { l with key := b } 1 = s.dev.homeRead fn { l with key := b } 1) ∧
                (∀ b, b / 128 ∉ linesOf l.key a.size → readByte d.mem b = readByte s.dev.mem b) ∧
                (inPartition l.key = false → ∀ b, readByte d.mem b =
                  if l.key ≤ b ∧ b < l.key + a.size then (leBytes a.size a.data).getD (b - l.key) 0
                  else readByte s.dev.mem b)) ∧
            (a.kind = .load → a.ord = 0 → a.dst ≠ .none → s.dev.poisoned l.key a.size = false →
              let r := s.dev.loadValue fn env.team.cluster l a.size false
              exec walk s = .next (s.withDev (r.1.setShuttle (sh.putAcc { a with status := .arrived r.2 }))) ∧
                r.1.mem = s.dev.mem))) ∧
        (∀ d f, a.status = .walk → s.dev.meet fn env.launch.ctx (a.va % 2 ^ 56) a.kind = (d, .replay f) →
          ∃ t h id, exec walk s = .next t ∧ t.dev.shuttle sh.id = some h ∧
            h = sh.putAcc { a with status := .faulted id } ∧
            ∃ e ∈ (t.dev.func fn).faults, e.id = id ∧ e.kind = f.kind ∧ e.unitLo = f.unitLo ∧ e.resolved = false)) ∧
      (∀ g dev, s.dev.signals.find? (fun x => x.id == g.id && x.sh == g.sh) = some g → g.fault = none → g.device = some dev →
        let key := peerKey (s.dev.func g.fn).fdom dev g.addr
        let sent := Instr.translationWalk g.sh g.id
        (g.ord = true → (∃ x ∈ s.dev.signals, x.id < g.id ∧ x.device = some dev) → Waits sent s) ∧
        (g.ord = false ∨ (∀ x ∈ s.dev.signals, x.id < g.id → x.device ≠ some dev) →
          s.dev.homeOpen g.fn 0 none (peerLoc (s.dev.func g.fn).fdom dev g.addr) 8 true = true →
            ∃ t, exec sent s = .next t ∧ t.dev.signals = s.dev.signals.filter (fun x => x.id != g.id) ∧
              readBytes t.dev.mem key 8 =
                leBytes 8 (if g.store then g.value else (leNat (readBytes s.dev.mem key 8) + g.value) % 2 ^ 64) ∧
              ∀ b, b < key ∨ key + 8 ≤ b → readByte t.dev.mem b = readByte s.dev.mem b))

/-- R247, R313, R316 to R319, R322: a free engine takes the waiting command or fetch of highest priority, in acceptance order among
equals, and a block that waits for a request buffer is accepted in the order of its function's and takes its place then; without
budget a command gives its engine up; a segment moves its elements in order under the translation that it began with, or waits at a
bank; commands that wait there wake in the order of their arrival, one for each slot that frees, and compete again; the end of a
command adds INC to its counter. -/
def Obligations.CopyEvents : Prop :=
  ∀ (s : State) (c : CopyCmd),
    s.dev.cmd c.id = some c →
      let ws := c.words
      let n := copyCount ws
      let d0 := s.dev.settle c.id
      let most := max 1 (4096 / dstBytes ws)
      let put := fun st => s.withDev (s.dev.setCmd { c with status := st })
      let free := fun part => (s.dev.enginesOf part).find? fun e => !s.dev.engineTaken e
      let segment := Instr.copySegment c.id
      (∀ part, free part = none ∨ s.dev.nextUser part = none → Waits (.copyEngineGrant part) s) ∧
      (∀ part e, free part = some e → s.dev.nextUser part = some (.cmd c) →
        exec (.copyEngineGrant part) s = .next (put (.running e)) ∧
        ∀ x ∈ s.dev.engineUsers part, x.1 < c.prio ∨ (x.1 = c.prio ∧ c.id ≤ x.2.1)) ∧
      (c.status = .unaccepted →
        let turn := (∀ x ∈ s.dev.cmds, x.fn = c.fn → x.status = .unaccepted → c.id ≤ x.id) ∧
          s.dev.bufferRoom c.fn none = true
        (¬turn → Waits (.copyWaiterWake c.id) s) ∧
        (turn → ∃ t, exec (.copyWaiterWake c.id) s = .next t ∧
          t.dev.cmd s.dev.nextId = some { c with id := s.dev.nextId, status := .waiting } ∧
          t.dev.nextId = s.dev.nextId + 1)) ∧
      (∀ part e o side p, free part = some e → s.dev.nextUser part = some (.fetch o side p) →
        let p' := { p with engine := some e, buffered := true }
        exec (.copyEngineGrant part) s =
          .next (s.withDev (s.dev.setMatOp (if side then { o with b := p' } else { o with a := p' })))) ∧
      (∀ side space a k h, isVirtual space a = true → a % k = 0 → c.pageAt side a = some h → ∀ team kind,
        (s.dev.linked c.fn h.loc = true →
          s.dev.spaceAt c team side space a k kind = (s.dev, .loc { h.loc with key := h.loc.key + (a - h.lo) })) ∧
        (s.dev.linked c.fn h.loc = false → s.dev.spaceAt c team side space a k kind = (s.dev, .fatal 0x15 a))) ∧
      (∀ e, c.status = .running e → s.dev.cmdAway c = false →
        ((s.dev.func c.fn).hasBudget = false →
          exec (.copyBudgetPause c.id) s = .next (put .paused) ∧ (c.pos < n → Waits segment s)) ∧
        ((s.dev.func c.fn).hasBudget = true → c.pos < n →
          Waits (.copyBudgetPause c.id) s ∧
          (∀ d c', Dev.runSegment false most d0 c = (d, c', none) →
            exec segment s = .next (s.withDev
              (d.setCmd { c' with status := if n ≤ c'.pos then .moved e else .running e })) ∧
            c.pos < c'.pos ∧ c'.pos ≤ n ∧ c'.pos ≤ c.pos + most ∧ c'.words = ws ∧ c'.id = c.id) ∧
          (∀ d c' d' c'' k, Dev.runSegment false most d0 c = (d, c', some (.parked d' c'' k)) →
            exec segment s = .next (s.withDev ({ d' with nextId := d'.nextId + 1 }.setCmd
              { c'' with status := .fifoWait k, waitAt := some (d'.nextId, k) }))) ∧
          (c.pos + 1 = n → copyXform ws = 2 → copyDspace ws = 4 → copyEsize ws = 3 →
            s.dev.streamSecure c.fn = true →
            d0.engineOpen c.fn c.id (copyReg ws) (hostLoc (dstAddr ws c.pos)) 8 true = true →
              ∃ t, exec segment s = .next t ∧
                readBytes t.dev.mem (hostKey (dstAddr ws c.pos)) 8 = leBytes 8 (blockPair ws 0) ∧
                (∀ b, b < hostKey (dstAddr ws c.pos) ∨ hostKey (dstAddr ws c.pos) + 8 ≤ b →
                  readByte t.dev.mem b = readByte s.dev.mem b) ∧
                t.dev.cmd c.id = some { c with pos := n, status := .moved e, held := [], waitAt := none }))) ∧
      (∀ k t no, c.status = .fifoWait k → c.waitAt = some (no, k) → s.dev.cmdTeam c = some t →
        t.image = none ∨ t.dying = true →
        let push := c.pushWaits k
        let wakes := s.dev.wakes t k push no = true ∧ s.dev.bufferRoom c.fn (some t) = true
        (wakes → exec (.copyWaiterWake c.id) s = .next (put .waiting)) ∧ (¬wakes → Waits (.copyWaiterWake c.id) s) ∧
        ∀ x y b m z slots, t.bank k = some ⟨x, y, some (b, m), z, slots⟩ →
          let freed := if push then m - slots.length else slots.length
          let woken := (s.dev.waitersAt t k push false).length
          (freed ≤ woken → s.dev.wakes t k push no = false) ∧
          (woken < freed → (s.dev.wakes t k push no = true ↔ ∀ j ∈ s.dev.waitersAt t k push true, no ≤ j))) ∧
      (∀ e sh team, c.status = .moved e → c.issuer = .shuttle sh team →
        let gone := fun (d : Dev) => d.cmds = s.dev.cmds.filter (fun x => x.id != c.id) ∧ ∀ g ∈ d.granules, g.owner ≠ c.id
        (c.cnt = 0 → ∃ t, exec (.copyComplete c.id) s = .next t ∧ gone t.dev ∧ t.dev.mem = s.dev.mem) ∧
        (∀ d l, c.cnt ≠ 0 → s.dev.counterAt c = (d, .loc l) →
          (d.engineOpen c.fn c.id false l 8 true = false → Waits (.copyComplete c.id) s) ∧
          (d.engineOpen c.fn c.id false l 8 true = true →
            let v := (leNat (d.homeRead c.fn l 8) + blockPair ws 8) % 2 ^ 64
            ∃ t, exec (.copyComplete c.id) s = .next t ∧ gone t.dev ∧
              t.dev.mem = (d.homeWrite (d.keyFor c.fn l.keyid l.key) l.key (leBytes 8 v)).mem)))

/-- R322, R324, R331, R334, R335: with its engine a fetch pushes its next slot into its STAGE entry, and parks without its engine
and its buffer while that is full; without budget it gives its engine up; a piece of an operand that issue left unread is read then;
the first operation of its core computes its tile element by element once both operands are there, an integer one modulo 2^32, and
returns its token. When operands are read is the model's choice (log 39). -/
def Obligations.MatrixEvents : Prop :=
  ∀ (s : State) (o : MatOp) (t : Team),
    s.dev.team o.team = some t → t.id = o.team →
      let ctx := ((s.dev.launch t.launch).map (·.ctx)).getD 0
      (s.dev.matOp o.id = some o → o.a.fault = none → s.dev.matFirst o = false →
        let gives := fun (p : Operand) =>
          ∃ u, exec (.operandFetch o.id false) s = .next u ∧ u.dev.matOp o.id = some { o with a := p } ∧
            u.dev.mem = s.dev.mem
        (∀ x xs d bs, o.a.todo = x :: xs → (s.dev.settle o.id).readPiece t.fn ctx o.id t x = (d, .got bs) →
          gives ({ o.a with todo := xs }.fill x bs)) ∧
        (∀ h e b bk m shd slots, o.a.todo = [] → o.a.handle = some h → o.a.engine = some e →
          t.bank h.stage = some ⟨h.stage, bk, some (b, m), shd, slots⟩ →
            ((s.dev.func t.fn).hasBudget = false → gives { o.a with engine := none }) ∧
            ((s.dev.func t.fn).hasBudget = true → m ≤ slots.length →
              gives { o.a with engine := none, buffered := false, waitNo := some s.dev.nextId }) ∧
            (∀ d bs, (s.dev.func t.fn).hasBudget = true → slots.length < m →
              Dev.slotBytes t.fn ctx o.id t o.a h ((List.range b).map (o.a.pushed + ·)) (s.dev.settle o.id) = (d, .ok bs) →
                let p := { o.a with pushed := o.a.pushed + b, waitNo := none }
                ∃ u v, exec (.operandFetch o.id false) s = .next u ∧
                  u.dev.matOp o.id = some { o with a := if p.fetching then p else p.release } ∧
                  u.dev.team t.id = some v ∧
                  v.bank h.stage = some ⟨h.stage, bk, some (b, m), shd, slots ++ [bs]⟩ ∧ u.dev.mem = s.dev.mem))) ∧
      (∀ core zero k, (s.dev.matOn core).head? = some o → o.cores = [core] → o.fault = none → o.kind = .mma zero k →
        let d := (s.dev.takeStages o).1
        let p := (s.dev.takeStages o).2
        let at_ := fun (m : Memory) (i : Nat) => tileRead m o.team (t.corePos core) o.tile i
        (p.a.ready = false ∨ p.b.ready = false → exec (.matrixOpRetire core) s = .next (s.withDev d)) ∧
        (p.a.ready = true → p.b.ready = true →
          zero = true ∨ d.tilePoisoned o.team (t.corePos core) o.tile 0 tileElems = false →
          ∃ u, exec (.matrixOpRetire core) s = .next u ∧ u.dev.matOps = d.matOps.filter (fun x => x.id != o.id) ∧
            (∀ i, i < 16384 →
              at_ u.dev.mem i = mmaElem p k (i / 128) (i % 128) (if zero then 0 else at_ s.dev.mem i) % 2 ^ 32) ∧
            (let base := tileKey o.team (t.corePos core) o.tile 0 0
             ∀ a, a < base ∨ base + 65536 ≤ a → readByte u.dev.mem a = readByte s.dev.mem a))) ∧
      (∀ k r n acc, fmtA o.fmt = 6 ∨ fmtA o.fmt = 7 →
        (mmaElem o k r n acc : Int) =
          ((acc : Int) + ((List.range k).map fun i =>
            matInt (fmtA o.fmt) (o.a.rowOf r) i * matInt (fmtB o.fmt) (o.b.rowOf n) i).sum) % 2 ^ 32) ∧
      (∀ core addr rs e, (s.dev.matOn core).head? = some o → o.cores = [core] → o.fault = none → o.kind = .store addr rs e →
        o.row = 128 → exec (.matrixOpRetire core) s = .next (s.withDev ((s.dev.settle o.id).dropMat o)))

/-- R282, R326 to R328, R339 to R345: an access stream pushes its next element while its queue has room, and a dynamic one ends with
its last; the first tile of a core's unit combines its elements in the order of R339, of an I32 sum the prefix sums modulo 2^32;
with its carry it writes its outputs in order, waits where one is held and goes on from there, and sends its last state on, or
forwards the poison; a completion passes the next core of the ring. What a tile holds of its granules before its carry has come is
read from R374 and R375 (log 69). -/
def Obligations.StreamAndScanEvents : Prop :=
  (∀ (s : State) (t : Team) (x : Stream) (env : Env),
    s.dev.streamTeam x.id = some (t, x) → s.dev.team t.id = some t → s.dev.envOfTeam t = some env → t.resident = true →
      t.dying = false → x.fault = none → x.ready = true →
        let fn := env.launch.fn
        let i := Instr.accessStreamPush x.id
        let vals := t.queueVals x.stage x.coord x.q
        let room := vals.length + max 1 (x.size / 4) ≤ 16
        (x.pos < x.count → ¬ room → Waits i s) ∧ (x.count ≤ x.pos → Waits i s) ∧
        (x.pos < x.count → room →
          (∀ d, s.dev.streamLoad fn env.launch.ctx t (x.addr x.pos) x.size = (d, .held) → exec i s = .next (s.withDev d)) ∧
          (∀ d v, s.dev.streamLoad fn env.launch.ctx t (x.addr x.pos) x.size = (d, .val v) →
            ∃ u w, exec i s = .next u ∧ u.dev.team t.id = some w ∧ u.dev.mem = s.dev.mem ∧
              w.queueVals x.stage x.coord x.q = vals ++ elementValues x.size v ∧
              w.streams = (if x.dynamic = true ∧ x.pos + 1 = x.count then t.streams.filter (fun y => y.id != x.id)
                else t.streams.map fun y => if y.id == x.id then { x with pos := x.pos + 1 } else y)))) ∧
  (∀ (s : State) (t : ScanTile) (c : Chain),
    s.dev.tile t.id = some t → s.dev.chain t.chain = some c →
      let ctx := ((s.dev.launch t.launch).map (·.ctx)).getD 0
      (∀ d ls, t.status = .queued → ((s.dev.tilesOn t.core).head?.map fun x => x.id) = some t.id →
        (s.dev.settle t.id).locate c.fn ctx (s.dev.team t.team) .load t.inPieces = (d, .ok ls) →
          let held := ls.any fun l => !d.engineOpen c.fn t.id true l.1 l.2 false
          (held = true → exec (.scanTileRun t.id) s = .next (s.withDev d)) ∧
          (held = false → (∀ l ∈ ls, d.poisoned l.1.key l.2 = false) →
            ∃ u, exec (.scanTileRun t.id) s = .next u ∧ u.dev.mem = s.dev.mem ∧
              u.dev.tile t.id = some { t with
                ys := scanTile (combine t.kind t.chans t.prog)
                  (piecesOf (elemWords t.kind t.chans (customW t.prog)) t.len (wordsOfBytes (d.readPieces c.fn ls)))
                status := .computed })) ∧
      (t.status ≠ .queued → Waits (.scanTileRun t.id) s) ∧
      (t.dup = false → t.status ≠ .sent →
        let i := Instr.carryReceipt t.id
        let sent := fun (u : State) (out : Nat) (carries : List (Nat × List Nat)) =>
          u.dev.tile t.id = some { t with status := .sent, ys := [], outPos := out } ∧
            u.dev.chain c.uid = some { c with
              sentTo := t.j + 1, carries := carries, complete := c.complete || t.j + 1 == c.n
              passed := if t.j + 1 = c.n then [t.core] else c.passed }
        (c.sentTo ≠ t.j → Waits i s) ∧
        (c.sentTo = t.j → c.poisonedAt t.j = true → ∃ u, exec i s = .next u ∧ sent u t.outPos [] ∧ u.dev.mem = s.dev.mem) ∧
        (c.sentTo = t.j → c.poisonedAt t.j = false →
          (t.status = .queued → Waits i s) ∧
          (∀ zs, t.status = .computed →
            (t.j = 0 ∧ zs = t.ys) ∨
              (∃ e, t.j ≠ 0 ∧ c.carries.find? (fun p => p.1 == t.j) = some (t.j, e) ∧
                zs = t.ys.map (combine t.kind t.chans t.prog e)) →
            let words := (t.outPieces.map (·.1)).zip (zs.flatMap (projection t.kind t.chans))
            let run := Dev.writeOutputs c.fn ctx (t.id + 1) (s.dev.team t.team) (words.drop t.outPos)
              (s.dev.settle (t.id + 1))
            (run.2.2 = none →
              ∃ u, exec i s = .next u ∧ sent u words.length [(t.j + 1, zs.getLastD [])] ∧ u.dev.mem = run.1.mem) ∧
            (∀ l, run.2.2 = some (.loc l) → ∃ u, exec i s = .next u ∧ u.dev.mem = run.1.mem ∧
              u.dev.tile t.id = some { t with outPos := words.length - run.2.1.length } ∧
              u.dev.chain c.uid = some c)))) ∧
      (∀ core p, c.complete = true → s.dev.chainRetired c = false → core ∉ c.passed → c.passed.head? = some p →
        (s.dev.nextCore c.part p = core →
          exec (.chainCompletion t.chain core) s = .next (s.withDev (s.dev.setChain { c with passed := core :: c.passed }))) ∧
        (s.dev.nextCore c.part p ≠ core → Waits (.chainCompletion t.chain core) s))) ∧
    ∀ (xs : List Nat) (i : Nat), (∀ x ∈ xs, x < 2 ^ 32) → i < xs.length →
      (scanTile (combine 5 0 []) (xs.map fun x => [x]))[i]? = some [(xs.take (i + 1)).sum % 2 ^ 32]

/-! ## Events of the scheduler (spec/95; spec/18, spec/20) -/

/-- R376 to R390, R431: before its walk a queue writes what its capture still has to write; the walk reads a block, completes one of
a bad format with FORMAT, waits for its DEP counter and for a ready-list entry; it admits a LAUNCH, accepts a COPY or lets it wait
for a request buffer, tests a WAITMEM's word, performs a SIGNAL, arms or disarms a tag, and starts or stops a capture, which records
the blocks that it admits but no CAPTURE block and none of a bad format (log 46); a bind adds a queue or answers its RESULT, an
unbind waits for the queue's commands, and a write of QBIND for the one before it; a notify reads HEAD, unless its stream is
insecure (R443), and every re-evaluation point frees the walks that are held. The order of the RESULTs and a misaligned HEAD are the
model's choices (logs 45 and 47), as is that an unbind ends by an event of its own (log 76). -/
def Obligations.QueueEvents : Prop :=
  ∀ (s : State) (x : Queue) (q : Nat),
    let fn := x.fn
    let f := s.dev.func fn
    let entering := Instr.blockAdmit q
    let bound := s.dev.queue q = some x
    let d0 := s.dev.flushCapture q
    let due := d0.queue q = some x ∧ x.unbinding = false ∧ x.relink ≠ some false ∧ x.qcbDue ≠ some false
    let goes := fun (u : Dev) => exec entering s = .next (s.withDev u)
    (bound → x.captureDue = [] → d0 = s.dev) ∧
    (∀ va v rest, bound → x.captureDue = (va, v) :: rest →
      (s.dev.hubHeld fn x.ctx va 16 .store = true → d0 = s.dev) ∧
      (s.dev.hubHeld fn x.ctx va 16 .store = false →
        d0 = ((s.dev.hubWrite fn x.ctx q va 16 v).1.mapQueue q fun y => { y with captureDue := rest }).flushCapture q)) ∧
    (∀ succ, x.goTo succ =
      if succ = 0 ∨ succ % 256 ≠ 0 then { x with parked := true } else { x with pos := some succ, parked := false }) ∧
    (∀ (u : Dev) kind bs, u.queue q = some x →
      (x.capture = none → u.captureOn q kind bs = u) ∧
      (∀ c, x.capture = some c →
        let entry := fun (k : Nat) (p : List Byte) =>
          leBytes 4 k ++ leBytes 4 p.length ++ leBytes 8 c.seqNo ++ p ++ leBytes ((16 - p.length % 16) % 16) 0
        let room := fun (e : List Byte) => c.pos + e.length ≤ c.len
        let lays := fun (e : List Byte) (after : Option Capture) =>
          u.captureOn q kind bs = (u.mapQueue q fun y =>
            { y with captureDue := y.captureDue ++ hubPieces (c.buf + c.pos) e, capture := after }).flushCapture q
        (room (entry kind bs) →
          lays (entry kind bs) (some { c with pos := c.pos + (entry kind bs).length, seqNo := c.seqNo + 1 })) ∧
        (¬ room (entry kind bs) → room (entry 5 (leBytes 8 1)) → lays (entry 5 (leBytes 8 1)) none) ∧
        (¬ room (entry kind bs) → ¬ room (entry 5 (leBytes 8 1)) → lays [] none))) ∧
    (due → x.parked = true ∨ x.held = true ∨ x.pos = none → goes d0) ∧
    (∀ a, due → x.parked = false → x.held = false → x.pos = some a →
      let read := fun (u : Dev) va n => u.walkRead x x.ctx va n
      ((read d0 a 256).2 = .waits → goes d0) ∧
      (∀ d, read d0 a 256 = (d, .faults) → goes (d.holdWalk q)) ∧
      (∀ d v, read d0 a 256 = (d, .val v) →
        let ws := (List.range 64).map fun k => v / 2 ^ (32 * k) % 2 ^ 32
        let b := blockEndOf x a ws
        let next := blockPair ws 2
        let note := fun (u : Dev) => u.captureOn q 1 (wordsBytes 64 ws)
        let ends := fun (noted : Bool) (u : Dev) (b : BlockEnd) (result detail succ : Nat) =>
          let u' := (u.completeBlock b result detail).mapQueue q fun y => y.goTo succ
          (u.blockHeld b = true → goes u) ∧ (u.blockHeld b = false → goes (if noted then note u' else u'))
        (∀ w, formatFailure ws = some w → ends false d b 4 w next) ∧
        (formatFailure ws = none →
          (blockPair ws 4 ≠ 0 →
            ((read d (blockPair ws 4) 8).2 = .waits → goes d) ∧
            (∀ d', read d (blockPair ws 4) 8 = (d', .faults) → goes (d'.holdWalk q)) ∧
            (∀ d' c, read d (blockPair ws 4) 8 = (d', .val c) → c ≠ 0 → goes (d'.holdWalk q))) ∧
          (∀ d1, (blockPair ws 4 = 0 ∧ d1 = d) ∨ (blockPair ws 4 ≠ 0 ∧ read d (blockPair ws 4) 8 = (d1, .val 0)) →
            let kind := blockKind ws
            let f1 := d1.func fn
            (kind ≠ 3 → kind ≠ 4 → d1.readyRoom fn = false → goes d1) ∧
            (kind = 1 → d1.readyRoom fn = true →
              ∃ l : Launch,
                goes (note ({ d1 with nextId := d1.nextId + 1, launches := d1.launches ++ [l] }.mapQueue q
                  fun y => y.goTo next)) ∧
                l.id = d1.nextId ∧ l.fn = fn ∧ l.ctx = x.ctx ∧ l.prio = x.prio ∧ l.depth = 0 ∧ l.rootQueue = q ∧
                l.source = .block q a b.nots b.irq ∧ l.desc = blockPair ws 16 ∧
                l.exts = (regRange 18 4).map (blockWord ws) ∧ l.args = blockPair ws 22 ∧ l.cnt = blockPair ws 24 ∧
                l.inc = blockPair ws 26 ∧ l.pin = blockWord ws 28 ∧
                l.phase = if bit (blockWord ws 29) 31 then .prologue else .toMap) ∧
            (kind = 2 → d1.readyRoom fn = true →
              let body := (ws.drop 16).take 40
              (∀ e, copyCheck f1 none body = some e → ends true d1 b 6 e.1 next) ∧
              (copyCheck f1 none body = none →
                ∃ (c : CopyCmd) (u : Dev), goes (note (u.mapQueue q fun y => y.goTo next)) ∧ u.nextId = d1.nextId + 1 ∧
                  u.mem = d1.mem ∧ c.id = d1.nextId ∧ c.fn = fn ∧ c.ctx = x.ctx ∧ c.prio = x.prio ∧ c.words = body ∧
                  c.pos = 0 ∧ c.issuer = .queue q a b.nots b.irq ∧
                  (d1.bufferRoom fn none = true → c.status = .waiting ∧
                    u.cmds = d1.cmds.filter (fun y => y.id != c.id) ++ [c]) ∧
                  (d1.bufferRoom fn none = false → c.status = .unaccepted ∧ u.cmds = d1.cmds ++ [c]))) ∧
            (kind = 3 →
              let word := read d1 (blockPair ws 16) 8
              let w := blockWord ws 22
              (word.2 = .waits → goes d1) ∧ (word.2 = .faults → goes (word.1.holdWalk q)) ∧
              (∀ m, word.2 = .val m →
                let c := m &&& blockPair ws 18
                let r := blockPair ws 20
                let less := (BitVec.ofNat 64 c).slt (BitVec.ofNat 64 r)
                let holds : Prop := match w % 8 with
                  | 0 => c = r
                  | 1 => c ≠ r
                  | 2 => c < r
                  | 3 => r ≤ c
                  | 4 => less = true
                  | _ => less = false
                (holds → ends true word.1 b 0 0 next) ∧
                (¬ holds → bits w 5 4 = 0 → goes (word.1.holdWalk q)) ∧
                (¬ holds → bits w 5 4 = 1 → ends true word.1 { b with nots := [] } 1 1 next) ∧
                (¬ holds → bits w 5 4 = 2 → ends true word.1 b 0 0 (blockPair ws 24)))) ∧
            (kind = 4 →
              let op := blockWord ws 20 % 4
              let va := blockPair ws 16
              let n := if op = 2 then 4 else 8
              let how := if op = 1 then addKind else AccKind.store
              (d1.hubHeld fn x.ctx va n how = true ∨ d1.blockHeld b = true → goes d1) ∧
              (d1.hubHeld fn x.ctx va n how = false → d1.blockHeld b = false →
                (∀ d', d1.hubLoc fn x.ctx va n how = (d', none) → ends true (d'.hubFault fn q va) b 9 0x15 next) ∧
                (∀ d' l, d1.hubLoc fn x.ctx va n how = (d', some l) →
                  let m := if op = 1 then (leNat (d'.homeRead fn l 8) + blockPair ws 18) % 2 ^ 64 else blockPair ws 18
                  let u := d'.homeWrite (d'.keyFor fn l.keyid l.key) l.key (leBytes n m)
                  ends true u b 0 0 next ∧ (inPartition l.key = false → readBytes u.mem l.key n = leBytes n m)))) ∧
            (kind = 5 → d1.readyRoom fn = true →
              let tag := blockWord ws 32 / 2 ^ 16
              let count := blockWord ws 32 % 2 ^ 16
              let body := (ws.drop 16).take 16
              let check := d1.launchCheck fn true body (f1.armed tag).isSome 0
              (d1.blockHeld b = true → goes d1) ∧
              (d1.blockHeld b = false →
                (count = 0 →
                  ends true (d1.setFunc fn { f1 with tags := f1.tags.filter fun y => y.tag != tag }) b 0 0 next) ∧
                (∀ e, count ≠ 0 → check = some e → ends true d1 b 6 e.1 next) ∧
                (count ≠ 0 → check = none →
                  ends true (d1.setFunc fn { f1 with tags := f1.tags ++
                    [{ tag := tag, count := count, words := body, depth := 0, ctx := x.ctx, prio := x.prio,
                       rootQueue := q }] }) b 0 0 next))) ∧
            (kind = 6 → d1.readyRoom fn = true →
              (x.capen = false → ends false d1 b 8 0 next) ∧
              (x.capen = true →
                (d1.blockHeld b = true → goes d1) ∧
                (d1.blockHeld b = false →
                  (bit (blockWord ws 20) 0 = true →
                    ends false (d1.mapQueue q fun y =>
                      { y with capture := some { buf := blockPair ws 16, len := blockPair ws 18, pos := 0, seqNo := 0 } })
                      b 0 0 next) ∧
                  (∀ c, bit (blockWord ws 20) 0 = false → x.capture = some c →
                    ends false (d1.putCapture x c 5 (leBytes 8 0) true) b 0 0 next) ∧
                  (bit (blockWord ws 20) 0 = false → x.capture = none → ends false d1 b 0 0 next)))))))) ∧
    (∀ qcb, s.Serves fn → q < 1024 → bit f.qbstat 31 = false →
      let answers := fun (i : Instr) (qs : List Queue) (stat : Nat) =>
        ∃ t, exec i s = .next t ∧ t.dev.queues = qs ∧ t.dev.mem = s.dev.mem ∧
          t.dev.func fn = { f with qbstat := stat, qwrites := [] }
      let bind := Instr.qbindBind fn qcb q
      (∀ y, s.dev.queue q = some y →
        answers bind s.dev.queues ((if y.fn = fn then 5 else 1) * 2 ^ 16 + q)) ∧
      (s.dev.queue q = none →
        (f.qq ≤ (s.dev.queues.filter fun y => y.fn == fn).length → answers bind s.dev.queues (2 * 2 ^ 16 + q)) ∧
        ((s.dev.queues.filter fun y => y.fn == fn).length < f.qq →
          ((s.dev.hubRead fn 0 qcb 256).2 = none → answers bind s.dev.queues (6 * 2 ^ 16 + q)) ∧
          (∀ v, (s.dev.hubRead fn 0 qcb 256).2 = some v →
            let w := v / 2 ^ 512 % 2 ^ 32
            let head := v % 2 ^ 64
            (bits w 20 10 ≠ 0 ∨ v / 2 ^ 544 ≠ 0 → answers bind s.dev.queues (3 * 2 ^ 16 + q)) ∧
            (bits w 20 10 = 0 → v / 2 ^ 544 = 0 →
              ∃ y, answers bind (s.dev.queues ++ [y]) q ∧ y.id = q ∧ y.fn = fn ∧ y.qcb = qcb ∧ y.prio = w % 8 ∧
                y.capen = bit w 3 ∧ y.ctx = bits w 9 4 ∧ y.vec = bits w 31 21 ∧ y.done = 0 ∧
                y.pos = (if head = 0 ∨ head % 256 ≠ 0 then none else some head)))) ∧
        answers (.qbindUnbind fn q) s.dev.queues (4 * 2 ^ 16 + q)) ∧
      (bound →
        (s.dev.queueBusy q = false → answers (.qbindUnbind fn q) (s.dev.queues.filter fun y => y.id != q) q) ∧
        (s.dev.queueBusy q = true →
          ∃ t, exec (.qbindUnbind fn q) s = .next t ∧ t.dev.queue q = some { x with unbinding := true } ∧
            t.dev.func fn = { f with qbstat := 2 ^ 31 + q, qwrites := [] }))) ∧
    (s.Serves fn → bit f.qbstat 31 = true →
      SetsFunc (.qbindUnbind fn q) s fn { f with qwrites := f.qwrites ++ [(0, q, false)] } ∧
      ∀ qcb, SetsFunc (.qbindBind fn qcb q) s fn { f with qwrites := f.qwrites ++ [(qcb, q, true)] }) ∧
    (bound → s.up = true → x.unbinding = true → f.qwrites = [] → q < 1024 →
      (s.dev.queueBusy q = true → execOutside (.unbindEnd q) s = .next s) ∧
      (s.dev.queueBusy q = false →
        ∃ t, execOutside (.unbindEnd q) s = .next t ∧ t.dev.queues = s.dev.queues.filter (fun y => y.id != q) ∧
          t.dev.func fn = { f with qbstat := q })) ∧
    (∀ g, bound → s.Serves g → g ≠ fn → Waits (.queueNotify g q) s) ∧
    (s.streamSecure fn = false → Waits (.queueNotify fn q) s) ∧
    (∀ v, bound → s.Serves fn → s.streamSecure fn = true → x.unbinding = false → x.pos = none → s.dev.hubHeld fn 0 x.qcb 16 .load = false →
      (s.dev.hubRead fn 0 x.qcb 16).2 = some v →
        let head := v % 2 ^ 64
        ∃ t y, exec (.queueNotify fn q) s = .next t ∧ t.dev.queue q = some y ∧ y.doneAddr = v / 2 ^ 64 ∧ y.relink = none ∧
          y.qcbDue = none ∧ y.held = false ∧ y.parked = false ∧ y.pos = (if head = 0 ∨ head % 256 ≠ 0 then none else some head)) ∧
    (∃ t, exec .reevaluationTick s = .next t ∧ (∀ y ∈ t.dev.queues, y.held = false ∧ y.relink ≠ some true ∧ y.qcbDue ≠ some true) ∧
      t.dev.queues.map (fun y => (y.id, y.pos, y.parked)) = s.dev.queues.map (fun y => (y.id, y.pos, y.parked)) ∧
      { t.dev with queues := s.dev.queues } = s.dev)

/-- R378, R386, R392 to R395, R369: completing a block writes its status word; a prologue starts with the
launch's values, and at `sexit` the launch takes what its
registers hold, is cancelled or repeats; the mapper gives the
levels of a launch or rejects it; a held child waits for its DEP word. That a launch whose descriptor is loaded no more ends
with NODESC when it is mapped is read by inference (log 49, DEDUCED). -/
def Obligations.LaunchEvents : Prop :=
  ∀ (s : State) (l : Launch),
    s.dev.launch l.id = some l →
      let run := Instr.prologueRun l.id
      let map := Instr.launchMap l.id
      let put := fun (d : Dev) (l : Launch) => s.withDev (d.setLaunch l)
      (∀ b : BlockEnd, ∀ r detail loc, s.dev.queue b.q = none → b.cnt = 0 → b.nots = [] →
        (s.dev.hubLoc b.fn b.ctx (b.addr + 4) 4 .store).2 = some loc → inPartition loc.key = false →
          readBytes (s.dev.completeBlock b r detail).mem loc.key 4 = leBytes 4 (2 ^ 31 + detail % 256 * 256 + r)) ∧
      (∀ prog, let p := prologueStart l prog
        p.pc = prog ∧ p.pair 64 = l.args % 2 ^ 64 ∧ p.pair 66 = l.blockAddr % 2 ^ 64 ∧
          (l.exts.length = 4 → (∀ k, k < 4 → p.sval (68 + k) = l.exts.getD k 0 % 2 ^ 32) ∧ p.sval 72 = l.pin % 2 ^ 32 ∧
            p.sval 73 = l.runNo % 2 ^ 32 ∧ p.sval 74 = 0)) ∧
      (∀ b prog, l.prog = some prog → l.phase = .prologue → s.dev.launchHeld l = false →
        (s.dev.func l.fn).boltAt l.desc = some b →
          let r := Dev.prologueSteps l b.scode 256 s.dev (prologueStart l prog) 0
          (∀ d code, r = (d, .fault code) →
            exec run s = .next (s.withDev
              ((d.postError l.fn { kind := 4, detail := code, place := l.rootQueue, addr := l.blockAddr, block := l.blockAddr,
                                   depth := l.depth }).completeLaunch l 3 code))) ∧
          (∀ d p, r = (d, .exit p) →
            let w := p.sval 74
            let taken := { l with
              runArgs := p.pair 64, runExts := [p.sval 68, p.sval 69, p.sval 70, p.sval 71], runPin := p.sval 72
              phase := LaunchPhase.toMap }
            (w = 0 → exec run s = .next (put d taken)) ∧
            (w % 4 = 1 → w / 4 % 2 ^ 14 = 0 → exec run s = .next (s.withDev (d.completeLaunch l 1 0))) ∧
            (w % 4 = 2 → w / 4 % 2 ^ 14 = 0 → 0 < w / 2 ^ 16 → l.runNo = 0 →
              exec run s = .next (put d { taken with runLeft := w / 2 ^ 16 })) ∧
            (w % 4 = 2 → w / 4 % 2 ^ 14 = 0 → l.runNo ≠ 0 → exec run s = .next (put d taken)) ∧
            (w % 4 = 3 ∨ w / 4 % 2 ^ 14 ≠ 0 ∨ (w % 4 = 2 ∧ w / 2 ^ 16 = 0 ∧ l.runNo = 0) →
              exec run s = .next (s.withDev (d.prologueFault l 6))))) ∧
      (l.phase = .toMap →
        (s.dev.launchHeld l = true → Waits map s) ∧
        (s.dev.launchHeld l = false →
          ((s.dev.func l.fn).boltAt l.desc = none → exec map s = .next (s.withDev (s.dev.completeLaunch l 5 0))) ∧
          (∀ b, (s.dev.func l.fn).boltAt l.desc = some b →
            (∀ levels, mapLaunch (b.nestOf l.desc) l.runExts l.runPin = .ok levels →
              exec map s = .next (put s.dev { l with levels := levels, phase := .placing, nextTeam := 0 })) ∧
            (∀ e, mapLaunch (b.nestOf l.desc) l.runExts l.runPin = .error e →
              let d := if l.source.pending then s.dev.postError l.fn
                  { kind := 5, detail := e, place := l.rootQueue, addr := l.desc, depth := l.depth } else s.dev
              exec map s = .next (s.withDev (d.completeLaunch l 2 e)))))) ∧
      (∀ d v, l.phase = .held → s.dev.hubHeld l.fn l.ctx l.dep 8 .load = false →
        s.dev.hubRead l.fn l.ctx l.dep 8 = (d, some v) →
          exec map s = .next (put d { l with depFault := false, phase := if v = 0 then .toMap else .held })) ∧
      (l.phase = .held → s.dev.hubHeld l.fn l.ctx l.dep 8 .load = true → Waits map s)

/-- R30, R396, R397, R399, R412, R419 to R421, R424, R425, R428: a dispatch places the next team of the highest launch with each
shuttle in its start state, asks for the save of a team that waits when that one does not fit, or places a team that comes back as
it was saved or from its records; a stopped team ends once its engine work has, of which what nothing can end is dropped (log 88); a
save and a discard take a team out of residence; a slice ends by discarding its teams and clears the partition; units of time are
counted and budgets refilled. What a save and a discard keep, which launch is the highest, which team is put back first, and that
the bytes of a team that is gone read as zero are the model's choices (logs 3, 50, 52 and 77). -/
def Obligations.TeamEvents : Prop :=
  ∀ (s : State) (part fn team : Nat),
    let p := s.dev.part part
    let f := s.dev.func fn
    let dispatch := Instr.teamDispatch part
    (p.running = some fn → p.switching = false → s.dev.headBack fn = none → s.dev.headLaunch fn = none → Waits dispatch s) ∧
    (p.running = some fn → p.switching = false →
      (∀ l, s.dev.headLaunch fn = some l → (∀ t, s.dev.headBack fn = some t → s.dev.teamPrio t < l.prio) →
        (l.phase ≠ .placing → Waits dispatch s) ∧ ((s.dev.func l.fn).l2bm = 0 → Waits dispatch s) ∧
        (∀ b pl, l.phase = .placing → (s.dev.func l.fn).boltAt l.desc = some b →
          s.dev.fitTeam l.fn (l.needNew b (b.nestOf l.desc)) = some pl → s.dev.team s.dev.nextId = none →
            ∃ t u, exec dispatch s = .next t ∧ t.dev.team s.dev.nextId = some u ∧ u.launch = l.id ∧ u.fn = l.fn ∧
              u.num = l.nextTeam ∧ u.cluster = pl.cluster ∧ u.cores = pl.cores ∧ u.resident = true ∧
              u.banks.map (fun e => e.bank) = pl.banks ∧
              ∀ x ∈ pl.seats, ∃ h ∈ t.dev.shuttles, h.id = s.dev.nextId + 1 + x.key ∧ h.team = s.dev.nextId ∧
                (h.stage, h.num) = (l.shuttlesIn (b.nestOf l.desc) l.nextTeam).getD x.key (0, 0) ∧
                (h.core, h.part, h.lane, h.slot) = (x.core, x.part, x.lane, x.slot) ∧ h.live = true ∧ h.handler = false ∧
                h.nthreads = laneCount l.levels ∧ h.pc = (b.nestOf l.desc).entries.getD h.stage 0 ∧
                h.seed = (b.nestOf l.desc).seed ∧ h.fmt = 0 ∧ h.blocks = [] ∧ h.pair 0 = l.runArgs % 2 ^ 64 ∧
                h.sval 2 = h.stage % 2 ^ 32 ∧ (∀ k, 3 ≤ k → h.sreg k = .full 0) ∧
                ∀ b k, h.vreg b k = .full 0 ∧ (k ≠ 7 → h.pred b k = false) ∧ h.flag b = 0 ∧ h.count b = 0))) ∧
    (∀ l n w, p.running = some fn → p.switching = false → s.dev.headLaunch fn = some l → s.dev.headBack fn = none →
      s.dev.newPlace l = some (n, none) → (s.dev.func l.fn).l2bm ≠ 0 → s.dev.waitingVictim l.fn = some w →
        exec dispatch s = .next (s.withDev
          (s.dev.setTeam { w with pausing := some .save, yieldTo := some (l.id, l.nextTeam) })) ∧
        w ∈ s.dev.teams ∧ w.fn = l.fn ∧ w.resident = true ∧ w.dying = false ∧ s.dev.chainOpen w.id = false ∧
        ∀ wenv, s.dev.envOfTeam w = some wenv → ∀ z ∈ s.dev.shuttlesOf w.id, z.live = true →
          s.dev.shuttleWaits w wenv z = true) ∧
    (∀ t env pl, p.running = some fn → p.switching = false → s.dev.headBack fn = some t →
      (∀ l, s.dev.headLaunch fn = some l → l.prio ≤ s.dev.teamPrio t) →
      s.dev.team t.id = some t → s.dev.envOfTeam t = some env → s.dev.fitTeam t.fn (s.dev.needBack t env) = some pl →
        ∃ v u, exec dispatch s = .next v ∧ v.dev.team t.id = some u ∧ u.resident = true ∧ u.image = none ∧ u.pausing = none ∧
          u.cluster = pl.cluster ∧ u.cores = pl.cores ∧
          (t.image = some .saved → v.dev.mem = s.dev.mem ∧ ∀ h ∈ v.dev.shuttles, ∃ z ∈ s.dev.shuttles, z.id = h.id ∧
            { h with core := z.core, part := z.part, lane := z.lane, slot := z.slot } = z) ∧
          (t.image = some .discarded → ∀ z ∈ s.dev.shuttles, ∀ x r, pl.seats.find? (fun x => x.key == z.id) = some x →
            z.record = some r → ∃ h ∈ v.dev.shuttles, h.id = z.id ∧ h.record = some r ∧ h.pc = r.resume ∧ h.fmt = r.fmt ∧
              h.seed = r.seed ∧ h.seq = r.seq ∧ h.regions = r.regions ∧ h.flags = r.flags ∧ h.counts = r.counts ∧
              ∀ c, r.creg = some c → c ≠ 0x3FF → h.sreg c = .full (BitVec.ofNat 32 r.cval))) ∧
    (∀ t, s.dev.team team = some t →
      let stop := Instr.teamTermination team
      let save := Instr.teamSave team
      let discard := Instr.teamDiscard team
      (t.dying = false → Waits stop s) ∧
      (t.dying = true →
        let d1 := s.dev.dropTeamTxns t
        let d0 := d1.dropStuck t
        let busy := fun (d : Dev) => (∃ c ∈ d.cmds, c.ofTeam team = true) ∨ ∃ o ∈ d.matOps, o.team = team
        let moves := (∃ c ∈ d1.cmds, c.ofTeam team = true ∧ d1.copyMoves t c = true) ∨
          ∃ o ∈ d1.matOps, o.team = team ∧ d1.opMoves t o = true
        (t.image ≠ some .discarded → moves ∨ ¬ busy d1 → d0 = d1) ∧
        (t.image ≠ some .discarded → ¬ moves → ¬ busy d0) ∧
        (t.image = some .discarded → d0.matOps = d1.matOps ∧
          ∀ c, c ∈ d0.cmds → c ∈ d1.cmds ∧ (c.ofTeam team = true → c.usesStorage = false)) ∧
        d0.mem = s.dev.mem ∧ d0.teams = s.dev.teams ∧ d0.launches = s.dev.launches ∧
        (∀ h ∈ d0.shuttles, h.team = team → h.txns = []) ∧
        (∀ z ∈ s.dev.shuttlesOf team, ∀ x ∈ z.txns, (d0.func t.fn).serial ≠ some (z.id, x.beat)) ∧
        (busy d0 → exec stop s = .next (s.withDev d0)) ∧
        (∀ l, ¬ busy d0 → s.dev.launch t.launch = some l →
          (d0.launchHeld l = true → exec stop s = .next (s.withDev d0)) ∧
          (d0.launchHeld l = false →
            ∃ u : Dev, u.teams = s.dev.teams.filter (fun x => x.id != team) ∧ (∀ h ∈ u.shuttles, h.team ≠ team) ∧
              u.launches = s.dev.launches ∧ (∀ a, teamKey team ≤ a → a < teamKey team + 2 ^ 32 → readByte u.mem a = 0) ∧
              ((∃ x ∈ u.teams, x.launch = l.id) → exec stop s = .next (s.withDev u)) ∧
              ((∀ x ∈ u.teams, x.launch ≠ l.id) →
                exec stop s = .next (s.withDev
                  (u.completeLaunch l (if l.checked then 4 else 7) (if l.checked then 0 else l.terminated.getD 0))) ∧
                ∀ x ∈ (u.completeLaunch l (if l.checked then 4 else 7)
                  (if l.checked then 0 else l.terminated.getD 0)).launches, x.id ≠ l.id)))) ∧
      (t.pausing ≠ some .save → Waits save s) ∧ (t.pausing ≠ some .discard → Waits discard s) ∧
      (t.pausing = some .save → t.dying = false → t.resident = true → (∀ z ∈ s.dev.shuttlesOf team, z.txns = []) →
        (s.dev.saveReady t = false → Waits save s) ∧
        (s.dev.saveReady t = true →
          exec save s = .next (s.withDev
            (s.dev.setTeam { t with
              resident := false, pausing := none, image := some .saved, tw2 := s.dev.teamMaps t })))) ∧
      (∀ env, t.pausing = some .discard → t.dying = false → t.resident = true → s.dev.envOfTeam t = some env →
        (∀ z ∈ s.dev.shuttlesOf team, z.live = true → z.stopped = true ∧ z.exposed = false ∧ z.spawned = false) →
        s.dev.chainOpen team = false →
          (s.dev.discardBusy t = true → Waits discard s) ∧
          (s.dev.discardBusy t = false →
            ∃ v, exec discard s = .next v ∧
              v.dev.team team = some { t with
                resident := false, pausing := none, image := some .discarded, banks := [], handles := [], copies := []
                queues := [], streams := [], arrivals := [], stateBase := 0, stateSize := 0 } ∧
              (∀ h ∈ v.dev.shuttles, h.team = team → h.spawned = false ∧
                ∃ z ∈ s.dev.shuttles, z.id = h.id ∧ h.record = z.record ∧ h.live = z.live ∧ h.sregs = []) ∧
              ∀ a, teamKey team ≤ a → a < teamKey team + 2 ^ 32 → readByte v.dev.mem a = 0))) ∧
    (p.running = some fn →
      (p.switching = false → s.dev.sliceOver part fn = false → Waits (.sliceEnd part) s) ∧
      (p.switching = false → s.dev.sliceOver part fn = true → partOf fn = part →
        ∃ v, exec (.sliceEnd part) s = .next v ∧ v.dev.part part = { p with switching := true } ∧
          ∀ u ∈ v.dev.teams, u.fn = fn → u.resident = true → u.dying = false → u.pausing = some .discard) ∧
      (p.switching = true → s.dev.residentIn part ≠ [] → Waits (.sliceEnd part) s) ∧
      (p.switching = true → s.dev.residentIn part = [] →
        ∃ v, exec (.sliceEnd part) s = .next v ∧
          v.dev.part part = { p with
              running := s.dev.nextFunction part fn, used := 0, switching := false
              last := some ((s.dev.nextFunction part fn).getD fn) } ∧
          (∀ c ∈ v.dev.l1, c.cluster ∉ s.dev.clustersOf part) ∧ v.dev.mem = s.dev.mem ∧
          ∀ core k, core / 4 ∈ s.dev.clustersOf part → k < 8 → v.dev.tw2Map core k = 0x00423C30)) ∧
    (s.dev.usesUnits fn = false → Waits (.budgetUnitCharge fn) s) ∧
    (s.dev.usesUnits fn = true →
      ∃ v, exec (.budgetUnitCharge fn) s = .next v ∧
        v.dev.func fn = { f with
          bused := (f.bused + 1) % 2 ^ 64, bbal := if f.bref = 0xFFFFFFFF then f.bbal else f.bbal - 1 }) ∧
    (s.Serves fn → (f.bref = 0xFFFFFFFF → Waits (.bcmdRefill fn) s) ∧
      (f.bref ≠ 0xFFFFFFFF →
        SetsFunc (.bcmdRefill fn) s fn { f with
          bbal := min (f.bbal + f.bref) (((max 1 (min 8 f.bcap)) * f.bref : Nat) : Int) }))

/-! ## Events of the registers, the faults and the transactions (spec/95; spec/12, spec/14, spec/18, spec/20, spec/22) -/

/-- R129, R252, R253, R264, R401 to R404, R414, R415, R417 to R419, R436, R439, R446, R457: what a write of a privileged register
does, and when it is ignored; changes of L2BM, HSEED, TINV and keys take effect one after another; a write for an absent function,
or while the device does not run, has no effect. L2BM as one mask, a ring's and a mailbox's values that are ignored, what a key
change does to a line that was written before, and BLSTAT's nests are the model's choices (logs 54, 57, 58 and 68). -/
def Obligations.RegisterEvents : Prop :=
  ∀ (s : State) (fn v : Nat),
    let d := s.dev
    let f := d.func fn
    let at_ := fun (off : Nat) => Instr.registerWrite (0x3E0000000 + 0x1000 * fn + off) v
    let sets := fun (i : Instr) (g : Func) => SetsFunc i s fn g
    (∀ k size, ¬ s.Serves fn →
      ∀ i ∈ [Instr.l2bmWrite fn v, .hseedWrite fn k v, .tinvWrite fn v, .memShareWrite fn size v, .fdomWrite fn v, .errsWrite fn v,
        .fqsWrite fn v, .keyctlLoad fn k, .keyctlDraw fn k, .bcmdRefill fn], Waits i s) ∧
    (∀ off ∈ [0x050, 0x068, 0x0B0, 0x0B8, 0xA08, 0xA10, 0xA18], ¬ s.Serves fn → fn < 48 → Waits (at_ off) s) ∧
    (s.Serves fn →
      (v / 2 ^ (8 * bits (d.part (fn / 4)).pdesc 55 52) ≠ 0 → Waits (.l2bmWrite fn v) s) ∧
      (v / 2 ^ (8 * bits (d.part (fn / 4)).pdesc 55 52) = 0 → sets (.l2bmWrite fn v) { f with remap := f.remap ++ [.l2bm v] }) ∧
      (∀ k, k < 64 → sets (.hseedWrite fn k v) { f with remap := f.remap ++ [.hseed k (v % 2 ^ 64)] }) ∧
      (let reserved := 2 ^ 56 ≤ v ∨ bits v 5 3 ≠ 0 ∨ v % 4 = 3 ∨ (v % 4 = 1 ∧ bit v 2 = true)
       (reserved → Waits (.tinvWrite fn v) s) ∧ (¬ reserved → sets (.tinvWrite fn v) { f with tinv := f.tinv ++ [v] })) ∧
      (∀ size, let base := if size then f.memb else v
        let n := if size then v else f.mems
        (v % 2 ^ 30 ≠ 0 ∨ 2 ^ 64 ≤ v ∨ d.shareClash fn base n = true → Waits (.memShareWrite fn size v) s) ∧
        (v % 2 ^ 30 = 0 → v < 2 ^ 64 → d.shareClash fn base n = false →
          sets (.memShareWrite fn size v) { f with memb := base, mems := n })) ∧
      (v < 2 ^ 16 →
        ((∃ g, g < 48 ∧ g ≠ fn ∧ (d.func g).fdom = v ∧ v ≠ 0) → Waits (.fdomWrite fn v) s) ∧
        ((∀ g, g < 48 → g ≠ fn → v ≠ 0 → (d.func g).fdom ≠ v) → sets (.fdomWrite fn v) { f with fdom := v })) ∧
      (v < 2 ^ 64 →
        sets (.errsWrite fn v) { f with errs := v, errh := 0, errt := 0 } ∧
        (f.faults = [] → sets (.fqsWrite fn v) { f with fqs := v, fqh := 0, fqt := 0 }) ∧
        (∀ p ∈ [(0x010, Instr.tinvWrite fn v), (0x018, .memShareWrite fn false v), (0x020, .memShareWrite fn true v),
            (0x108, .fqsWrite fn v), (0x130, .errsWrite fn v), (0xA00, .fdomWrite fn v)], exec (at_ p.1) s = exec p.2 s) ∧
        (v % 2 = 1 → exec (at_ 0x0C8) s = exec (.bcmdRefill fn) s) ∧
        sets (at_ 0x050) { f with nlim := v % 16 } ∧ sets (at_ 0x068) { f with dbgen := v % 2 } ∧
        sets (at_ 0x0B0) { f with bref := v % 2 ^ 32 } ∧ sets (at_ 0x0B8) { f with bcap := v % 16 } ∧
        sets (at_ 0xA08) { f with fctx := v % 64 }) ∧
      (∀ slot, slot < 32 →
        sets (.keyctlLoad fn slot) { f with keyChange := f.keyChange ++ [(slot, .loaded f.keydata)] } ∧
        ∃ key, exec (.keyctlDraw fn slot) s = .next (s.withDev
            ({ d with nextId := d.nextId + 1 }.setFunc fn { f with keyChange := f.keyChange ++ [(slot, key)] })) ∧
          key = .drawn d.nextId fn slot)) ∧
    (∀ w cs, f.remap = .l2bm w :: cs → sets (.l2RemapComplete fn) { f with remap := cs, l2bm := w }) ∧
    (∀ k w cs, f.remap = .hseed k w :: cs →
      ∃ t, exec (.l2RemapComplete fn) s = .next t ∧ (t.dev.func fn).remap = cs ∧ (t.dev.func fn).l2bm = f.l2bm ∧
        ∀ j, getK 0 (t.dev.func fn).hseed j = if j = k then w else getK 0 f.hseed j) ∧
    (∀ w ws, f.tinv = w :: ws →
      (d.tinvWaits fn w = true → Waits (.tinvComplete fn) s) ∧
      (d.tinvWaits fn w = false →
        ∃ t, exec (.tinvComplete fn) s = .next t ∧ t.dev.func fn = { f with tinv := ws } ∧
          ∀ e, e ∈ t.dev.tlb ↔ e ∈ d.tlb ∧ ¬ (e.fn = fn ∧ (w % 4 = 2 ∨ bit w 2 = true ∨ bits w 11 6 = e.ctx)))) ∧
    (∀ slot key cs, f.keyChange = (slot, key) :: cs →
      ∃ t, exec (.keySlotChangeComplete fn) s = .next t ∧ (t.dev.func fn).keyChange = cs ∧
        ∀ j, (t.dev.func fn).keyAt fn j = if j = slot then key else f.keyAt fn j) ∧
    (∀ p ext, s.up = true →
      let x := d.part p
      (p < 12 → bit x.pdesc 63 = true → d.partBusy p = true → Waits (.pdescWrite p ext v) s) ∧
      (p < 12 → bit x.pdesc 63 = false ∨ d.partBusy p = false →
        (v < 2 ^ 24 → bits v 19 16 = 0 →
          exec (.pdescWrite p true v) s = .next (s.withDev (d.setPart p { x with pdescx := v }))) ∧
        (v < 2 ^ 64 → bits v 62 60 = 0 → bits v 49 48 = 0 → bit v 63 = false ∨ d.pdescOk p v = true →
          ∃ t, exec (.pdescWrite p false v) s = .next t ∧
            t.dev.part p = { x with pdesc := v, running := none, used := 0, last := none } ∧
            (∀ q, q ≠ p → t.dev.part q = d.part q) ∧ { t.dev with parts := d.parts, tw2m := d.tw2m } = d ∧
            (∀ w, validSlices w = if bit w 63 then slicesOf w else []) ∧
            ∀ core k, k < 8 → t.dev.tw2Map core k =
              (if core / 12 ∈ validSlices x.pdesc ++ validSlices v then 0x00423C30 else d.tw2Map core k)) ∧
        (bit v 63 = true → d.pdescOk p v = false → Waits (.pdescWrite p false v) s))) ∧
    (s.Serves fn →
      let load := Instr.bloadLoad fn v
      let stat := fun (d : Dev) (n : Nat) => s.withDev (d.setFunc fn { f with blstat := n })
      (∀ d1, Dev.imageRead fn v 8 d = (d1, .faults) → exec load s = .next (stat d1 (6 * 2 ^ 16))) ∧
      (∀ d1 hdr, Dev.imageRead fn v 8 d = (d1, .bytes hdr) →
        (boltHeaderOk hdr = false → exec load s = .next (stat d1 (2 ^ 16))) ∧
        (∀ d2 bs, boltHeaderOk hdr = true → Dev.imageRead fn v ((boltSize hdr + 15) / 16) d1 = (d2, .bytes bs) →
          let img := bs.take (boltSize hdr)
          (∀ r, d2.boltCheck fn img = some r → exec load s = .next (stat d2 (r * 2 ^ 16))) ∧
          (d2.boltCheck fn img = none → patchRecords img = [] →
            exec load s = .next (s.withDev (d2.setFunc fn { f with
              att := attAfter f.att img, attn := f.attn + 5, blstat := boltNests img
              bolts := (f.bolts.filter fun b => b.addr != v) ++ [boltOf v img] }))))) ∧
      ((∃ b ∈ f.bolts, b.addr = v ∧ d.boltUsed fn b = true) →
        exec (.bloadUnload fn v) s =
          .next { s with pending := s.pending ++ [.bloadUnload fn v], dev := d.setFunc fn { f with blstat := 2 ^ 31 } }) ∧
      ((∀ b ∈ f.bolts, b.addr = v → d.boltUsed fn b = false) →
        sets (.bloadUnload fn v) { f with blstat := 0, bolts := f.bolts.filter fun b => b.addr != v }))

/-- R263, R278, R279, R300, R301, R304, R305, R413, R416: a page fault is resolved and its threads and accesses go on; an
unrecoverable entry ends its team, and the copies that wait on it; a commit applies its whole log or aborts; a thread that waited
for the serial token or for room begins its attempt. -/
def Obligations.FaultAndTransactionEvents : Prop :=
  ∀ (s : State) (fn id : Nat),
    let d := s.dev
    let f := d.func fn
    (s.Serves fn →
      (f.entry id = none → Waits (.fqresReplay fn id) s ∧ Waits (.fqresUnrecoverable fn id) s) ∧
      (∀ e, f.entry id = some e → (∀ x ∈ f.faults, x.posted = true ∨ x.resolved = true) →
        (e.kind ≠ 3 → SetsFunc (.fqresReplay fn id) s fn { f with
          faults := f.faults.map fun x => if x.id == id then { x with posted := false, resolved := true } else x }) ∧
        (∀ sh z, e.kind = 3 → e.owner = .shuttle sh → d.shuttle sh = some z → d.heldByDiscard z = false →
          (∀ x ∈ f.faults, x.id ≠ id → x.kind ≠ 3 ∨ x.owner ≠ .shuttle sh) →
            exec (.fqresReplay fn id) s = .next (s.withDev
              ((d.setFunc fn { f with faults := f.faults.filter fun x => x.id != id }).setShuttle { z with stopped := false }))) ∧
        ((∀ c ∈ d.blocksOn fn id, d.cmdHeld c = false) →
          ∃ t, exec (.fqresUnrecoverable fn id) s = .next t ∧ (∀ x ∈ (t.dev.func fn).faults, x.id ≠ id) ∧
            ∀ c ∈ t.dev.cmds, c.fn = fn → c.status ≠ .faulted id) ∧
        (∀ sh z, e.owner = .shuttle sh → d.shuttle sh = some z → (∀ c ∈ d.cmds, c.status ≠ .faulted id) →
          (∀ g ∈ d.signals, g.fault ≠ some id) → (∀ o ∈ d.matOps, o.waitsOn id = false) →
          (∀ x ∈ d.tiles, x.status ≠ .faulted id) →
          ∃ words, exec (.fqresUnrecoverable fn id) s = .next (s.withDev
            ((d.terminate z 1 (if e.kind = 3 then 1 else 0x15) 0 0 words [] 0).dropEntry fn id))))) ∧
    ((∀ x ∈ f.faults, x.id = id → x.resolved = false) → Waits (.faultReplay fn id) s) ∧
    (∀ e, f.faults.find? (fun x => x.id == id && x.resolved) = some e → d.matOps = [] → d.tiles = [] →
      ∃ t, exec (.faultReplay fn id) s = .next t ∧ (∀ x ∈ (t.dev.func fn).faults, x.id ≠ id) ∧
        (d.cmds = [] → ∀ z env, d.shuttle z.id = some z → d.env z = some env → env.launch.fn = fn →
          ∃ h, t.dev.shuttle z.id = some h ∧ h.sregs = z.sregs ∧ h.vregs = z.vregs ∧ (∀ e ∈ h.frontier, e.status ≠ .parked id) ∧
            h.accs = z.accs.map fun a => if a.status = .faulted id then { a with status := .walk } else a) ∧
        (∀ c, d.cmds = [c] → c.fn = fn → c.status = .faulted id → t.dev.cmds = [{ c with status := .waiting }])) ∧
    (∀ sh beat x env t, d.shuttle sh = some x → d.env x = some env → env.team.resident = true → env.team.dying = false →
      x.attempt beat = some t → t.committing = true →
        let g := env.launch.fn
        (d.commitReady x g t = false → Waits (.transactionCommit sh beat) s) ∧
        (d.commitReady x g t = true → d.logValid g t = true →
          ∃ u h, exec (.transactionCommit sh beat) s = .next u ∧ u.dev.mem = (d.applyLog g env.team.cluster t).mem ∧
            u.dev.shuttle sh = some h ∧ h.sregs = x.sregs ∧ h.vregs = x.vregs ∧
            (∀ y ∈ h.txns, y.beat ≠ beat) ∧
            (∀ w, t.log = [w] → w.writeMask = 255 → inPartition w.loc.key = false →
              readBytes u.dev.mem w.loc.key 8 = leBytes 8 w.writeVal)) ∧
        (d.commitReady x g t = true → d.logValid g t = false →
          ∃ u, exec (.transactionCommit sh beat) s = .next u ∧ u.dev.mem = d.mem)) ∧
    (f.serialWait = [] ∨ f.tokenFree = false → Waits (.serialTokenGrant fn) s) ∧
    (∀ sh beat rest x t env, f.serialWait = (sh, beat) :: rest → f.tokenFree = true → d.shuttle sh = some x →
      x.txn beat = some t → d.env x = some env → env.team.resident = true → env.team.dying = false →
        ∃ u h, exec (.serialTokenGrant fn) s = .next u ∧ u.dev.func fn = { f with serial := some (sh, beat), serialWait := rest } ∧
          u.dev.shuttle sh = some h ∧
          h.txn beat = some { t with active := true, serial := true, restart := none, log := [], committing := false } ∧
          h.sregs = x.sregs ∧ h.vregs = x.vregs ∧ u.dev.mem = d.mem) ∧
    (∀ cluster, d.logWait = [] ∨ d.logRoom cluster ≤ d.openLogs cluster → Waits (.txnLogRoomGrant cluster) s) ∧
    (∀ cluster sh beat rest x t env, d.logWait = (sh, beat) :: rest → d.openLogs cluster < d.logRoom cluster →
      d.shuttle sh = some x → x.txn beat = some t → d.env x = some env → env.team.cluster = cluster → env.team.resident = true →
        env.team.dying = false →
          ∃ u h, exec (.txnLogRoomGrant cluster) s = .next u ∧ (sh, beat) ∉ u.dev.logWait ∧ u.dev.shuttle sh = some h ∧
            h.txn beat = some { t with active := true, serial := false, restart := none, log := [], committing := false } ∧
            h.sregs = x.sregs ∧ h.vregs = x.vregs ∧ u.dev.mem = d.mem)

/-! ## Events of the fabric, the host link, the firmware and power (spec/95; spec/20 R430; spec/22) -/

/-- R430, R435 to R440, R443 to R445, R447, R452: a request of a peer is performed, refused with an error record, or waits at its
home; a mailbox message takes the next slot and fires an armed tag; a host access reaches the function's share; machine checks and
link errors are counted; on an insecure stream nothing reaches the host (log 91); a hart's fetch, load, store or atomic access is
performed, or is its exception, an interrupt is taken, and a lock bit of PMP holds. The registers and the encodings that the RISC-V
family gives the harts are the model's choice (log 7). That MBDROP counts a message at MBS 0, the key slot of a host access, that a
request waits at its home, what an error completion ends, how a stream becomes secure, and what comes as an input that the table
does not name are the model's choices too (logs 58, 59, 60, 62, 63 and 76). -/
def Obligations.FabricAndLinkEvents : Prop :=
  ∀ (s : State) (fn : Nat),
    let d := s.dev
    let f := d.func fn
    let quiet := ∀ q ∈ d.queues, q.fn = fn → ∀ x, d.queue q.id = some x → x.capture = none
    let ends := fun (i : Instr) (d : Dev) (answer : Option (List Byte)) =>
      exec i s = .next { s with
        dev := d, board := { s.board with fabricReply := answer, fabricError := answer.isNone } }
    let counts := fun (k : Nat) => putK 0 s.board.softerr k ((getK 0 s.board.softerr k + 1) % 2 ^ 64)
    (∀ r dom src tag payload off size write data agent die link sender addr h, s.up = false →
      ∀ i ∈ [Instr.inboundFabricRequest r, .mailboxMessage dom src tag payload, .hostBar2Access fn off size write data,
        .flitParityError agent die, .linkCrcError link, .ualinkErrorCompletion sender addr, .ideIntegrityFailure fn,
        .hartMemoryAccess h], Waits i s) ∧
    (∀ r, s.up = true → d.domainFn r.dom = none → ends (.inboundFabricRequest r) d none) ∧
    (∀ r, s.up = true → d.domainFn r.dom = some fn →
      let i := Instr.inboundFabricRequest r
      (bit f.fwmask r.src = false ∨ 1024 ≤ r.src → ends i (d.postError fn { kind := 7, cause := 0x15, addr := r.addr }) none) ∧
      (bit f.fwmask r.src = true → r.src < 1024 → isMailbox r.addr = false → requestSized r = true → r.addr < 2 ^ 56 →
        (∀ d', d.meet fn f.fctx r.addr (requestKind r) = (d', .fatal) →
          ends i (d'.postError fn { kind := 7, cause := 0x15, addr := r.addr }) none) ∧
        (∀ d' l, d.meet fn f.fctx r.addr (requestKind r) = (d', .loc l) →
          let key := d'.keyFor fn l.keyid l.key
          let old := leNat (d'.homeRead fn l r.size)
          (d'.homeOpen fn 0 none l r.size (requestKind r).writes = false →
            exec i s = .next { s with pending := s.pending ++ [i] }) ∧
          (d'.homeOpen fn 0 none l r.size (requestKind r).writes = true →
            (r.op = .read → ends i d' (some (d'.homeRead fn l r.size))) ∧
            (r.op = .write → r.off = [] → quiet → ends i (d'.homeWrite key l.key r.data) (some [])) ∧
            (r.op = .write → inPartition l.key = false → quiet →
              ∃ t, exec i s = .next t ∧ t.board.fabricReply = some [] ∧ t.board.fabricError = false ∧
                ∀ k, k < r.size → readByte t.dev.mem (l.key + k) =
                  (if k ∈ r.off then readByte d'.mem (l.key + k) else r.data.getD k 0)) ∧
            (r.op = .atomAdd → quiet →
              ends i (d'.homeWrite key l.key (leBytes r.size ((old + leNat (r.data.take r.size)) % 2 ^ (8 * r.size))))
                (some (leBytes r.size old))))))) ∧
    (∀ dom src tag payload, s.up = true → d.domainFn dom = some fn → bit f.fwmask src = true → src < 1024 → tag < 2 ^ 16 →
      8 ≤ payload.length → payload.length ≤ 248 → payload.length % 8 = 0 →
        let i := Instr.mailboxMessage dom src tag payload
        let slot := f.mbi % f.mbs
        (f.mbs = 0 ∨ (∃ x ∈ f.slots, x.slot = slot) →
          ∃ t, exec i s = .next t ∧ t.board.fabricError = true ∧ (t.dev.func fn).mbdrop = (f.mbdrop + 1) % 2 ^ 64 ∧
            (t.dev.func fn).slots = f.slots ∧ (t.dev.func fn).mbi = f.mbi) ∧
        (∀ d' l, f.mbs ≠ 0 → (∀ x ∈ f.slots, x.slot ≠ slot) →
          d.meet fn f.fctx ((f.mbb + 256 * slot) % 2 ^ 56) .store = (d', .loc l) → quiet →
            d'.homeOpen fn 0 none l (payload.length + 8) true = true →
              ∃ (t : State) (m : MboxSlot), exec i s = .next t ∧ t.board.fabricReply = some [] ∧ t.board.fabricError = false ∧
                (t.dev.func fn).mbi = f.mbi + 1 ∧ (t.dev.func fn).slots = f.slots ++ [m] ∧ m.slot = slot ∧ m.tag = tag ∧
                m.launch = none ∧ m.order = d.nextId ∧
                t.dev.mem = (d'.homeWrite (d'.keyFor fn l.keyid l.key) l.key
                  (leBytes 2 tag ++ leBytes 2 payload.length ++ leBytes 2 src ++ leBytes 2 0 ++ payload)).mem)) ∧
    (f.nextMessage = none ∨ d.pendingRoom fn = false → Waits (.mailboxFire fn) s) ∧
    (∀ m t, f.nextMessage = some (m, t) → d.pendingRoom fn = true →
      ∃ (u : State) (l : Launch), exec (.mailboxFire fn) s = .next u ∧ u.dev.launches = d.launches ++ [l] ∧ l.id = d.nextId ∧
        l.fn = fn ∧ l.ctx = t.ctx ∧ l.depth = t.depth ∧ l.source = .fired t.tag m.slot ∧ l.desc = blockPair t.words 0 ∧
        l.args = f.mbb + 256 * m.slot + 8 ∧
        (u.dev.func fn).slots = f.slots.map (fun x => if x.slot == m.slot then { m with launch := some l.id } else x) ∧
        (u.dev.func fn).tags = (if t.count ≤ 1 then f.tags.filter (fun x => x.tag != t.tag)
          else f.tags.map fun x => if x.tag == t.tag then { t with count := t.count - 1 } else x)) ∧
    (∀ off size write data, s.up = true →
      let i := Instr.hostBar2Access fn off size write data
      let pa := f.memb + off
      let at_ := 0x100000000000 + 0x10000000000 * (fn / 4) + pa
      let key := d.keyFor fn (d.pageKey fn pa) at_
      let rangeEnd := 85899345920 * bits (d.part (fn / 4)).pdesc 55 52
      (d.present fn = false ∨ s.streamSecure fn = false ∨ f.mems < off + size ∨ rangeEnd < pa + size ∨ size = 0 ∨
          (write = true ∧ data.length ≠ size) →
        exec i s = .next { s with board := { s.board with hostReply := none, hostError := true } }) ∧
      (d.present fn = true → s.streamSecure fn = true → off + size ≤ f.mems → pa + size ≤ rangeEnd → 0 < size →
        pa % 4096 + size ≤ 4096 →
        (d.bar2Held fn pa size write = true → (write = true → data.length = size) →
          exec i s = .next { s with pending := s.pending ++ [i] }) ∧
        (d.bar2Held fn pa size write = false → write = false →
          exec i s = .next { s with board := { s.board with
            hostReply := some (d.readUnder key at_ size), hostError := false } }) ∧
        (d.bar2Held fn pa size write = false → write = true → data.length = size → quiet →
          exec i s = .next { s with
            dev := d.homeWrite key at_ data, board := { s.board with hostReply := some [], hostError := false } }))) ∧
    (∀ link, s.up = true →
      let k := match link with
        | .pcie => 7
        | .ualink => 8
        | .dieLink => 9
      exec (.linkCrcError link) s = .next { s with board := { s.board with softerr := counts k } }) ∧
    (∀ sh acc die x, s.up = true → d.shuttle sh = some x →
      ∃ image : List Nat, exec (.flitParityError (.shuttle sh acc) die) s = .next { s with
          dev := d.terminate x 3 0x17 0 die image [] 0, board := { s.board with softerr := counts 6 } } ∧
        image.length = 16 ∧ image.getD 0 0 = 0x17 ∧
        ∀ a, x.accs.find? (fun y => y.id == acc) = some a → image.getD 4 0 + 2 ^ 32 * image.getD 5 0 = a.va) ∧
    (∀ sh addr x, s.up = true → d.shuttle sh = some x →
      let i := Instr.ualinkErrorCompletion (.shuttle sh) addr
      ((∀ a ∈ x.accs, a.va = addr → a.performed = true) → Waits i s) ∧
      ((∃ a ∈ x.accs, a.va = addr ∧ a.performed = false) → EndsTeamWith i s x 0x15 0)) ∧
    (s.up = true → fn < 48 → exec (.ideIntegrityFailure fn) s = .next { s with
      dev := d.setFunc fn { f with insecure := true }
      board := { s.board with aer := s.board.aer + 1, aerStreams := fn :: s.board.aerStreams } }) ∧
    (s.up = true → exec (.ideIntegrityFailure 48) s = .next { s with
      dev := { d with linkInsecure := true }
      board := { s.board with aer := s.board.aer + 1, aerStreams := 48 :: s.board.aerStreams } }) ∧
    (s.streamSecure fn = true ↔ f.insecure = false ∧ (f.selective = true ∨ d.linkInsecure = false)) ∧
    (∀ l : Loc, d.linked fn l = true ↔ (l.space = spaceHost → s.streamSecure fn = true)) ∧
    (∀ vec, s.streamSecure fn = false → d.sendMsix fn vec = d) ∧
    (∀ r, s.board.power ≠ .d3cold →
      (∃ t, exec (.spdmRequest r) s = .next t ∧ t.board.spdm = s.spdmAnswer r) ∧
      (s.up = true → fn < 48 → ∃ t, exec (.spdmRequest (.ideSetup fn)) s = .next t ∧
        t.dev.func fn = { f with insecure := false, selective := true }) ∧
      (s.up = true → ∃ t, exec (.spdmRequest (.ideSetup 48)) s = .next t ∧ t.dev.linkInsecure = false)) ∧
    (s.up = true →
      (∀ k, k < 4 → execOutside (.corrected k) s = .next { s with board := { s.board with softerr := counts k } }) ∧
      (∀ key, ∃ t, execOutside (.uncorrectable key) s = .next t ∧ t.board.softerr = counts 4 ∧ t.dev.mem = d.mem ∧
        ∀ a, a ∈ t.dev.poison ↔ a ∈ d.poison ∨ a / 8 = key / 8) ∧
      (∀ off n, d.linkInsecure = false → off + n ≤ 65536 → 0 < n →
        ∃ t bs, execOutside (.pfRead off n) s = .next t ∧ t.board.hostReply = some bs ∧ bs.length = n ∧ t.dev = d)) ∧
    (∀ x (k : Nat) (h : Hart), s.harts[k]? = some h → ∃ (t : State) (g : Hart), execOutside x s = .next t ∧ t.harts[k]? = some g ∧
      ∀ i, bit (getK 0 h.pmpcfg i) 7 = true →
        getK 0 g.pmpcfg i = getK 0 h.pmpcfg i ∧ getK 0 g.pmpaddr i = getK 0 h.pmpaddr i) ∧
    (∀ r : HartAccess, s.lease.bootfail = true → Waits (.hartMemoryAccess r) s) ∧
    (∀ (k : Nat) (h : Hart), s.up = true → s.harts[k]? = some h →
      (h.nextInterrupt = none → execOutside (.hartInterrupt k) s = .next s) ∧
      (∀ c, s.lease.bootfail = false → h.nextInterrupt = some c → h.toS c = false →
        bit (getK 0 h.csrs 0x344) c = true ∧ bit (getK 0 h.csrs 0x304) c = true ∧ (h.mode = .m → bit h.mstatus 3 = true) ∧
          ∃ g : Hart, execOutside (.hartInterrupt k) s = .next (s.setHart k g) ∧ g.mode = .m ∧ g.mepc = h.pc ∧
            g.mcause = 2 ^ 63 + c ∧ g.xregs = h.xregs)) ∧
    (∀ f size o v, f < 9 → size ∈ [4, 8] →
      let w := 8 * size
      let x := BitVec.ofNat w o
      let y := BitVec.ofNat w v
      BitVec.ofNat w (amoNew f size o v) =
        [y, x + y, x ^^^ y, x &&& y, x ||| y, if x.sle y then x else y, if x.sle y then y else x,
          if x.ule y then x else y, if x.ule y then y else x].getD f 0 ∨ 2 ^ w ≤ o) ∧
    (∀ (r : HartAccess) (h : Hart), s.up = true → s.lease.bootfail = false → s.harts[r.hart]? = some h →
      r.size ∈ (if r.op = .plain then [1, 2, 4, 8] else [4, 8]) →
      let i := Instr.hartMemoryAccess r
      let writes := match r.op with
        | .plain => r.write
        | .lr => false
        | _ => true
      let traps := fun (cause va : Nat) => h.mode = .m ∨ bit h.medeleg cause = false →
        ∃ g : Hart, exec i s = .next (s.setHart r.hart g) ∧ g.mode = .m ∧ g.mepc = h.pc ∧ g.mcause = cause ∧ g.mtval = va ∧
          g.pc = h.mtvec / 4 * 4 ∧ g.loaded = h.loaded ∧ g.xregs = h.xregs
      (∀ va, s.hartFetch h = (.page, va) → traps 12 va) ∧ (∀ va, s.hartFetch h = (.access, va) → traps 1 va) ∧
      (h.mode ≠ .m → h.pmpcfg = [] → bits h.satp 63 60 = 0 → s.hartFetch h = (.access, h.pc)) ∧
      (∀ fa va, s.hartFetch h = (.pa fa, va) →
        let sram := 0x80000000 ≤ r.addr ∧ r.addr + r.size ≤ 0x80000000 + 4194304
        let plain := h.dataMode = .m ∨ bits h.satp 63 60 = 0
        let faults := traps (if writes then 7 else 5) r.addr
        let old := leNat (readBytes d.mem r.addr r.size)
        let written := fun (t : State) (v : Nat) =>
          t.dev = { d with mem := writeBytes d.mem r.addr (leBytes r.size v) } ∧
            ∀ (k : Nat) (a : Hart), k ≠ r.hart → s.harts[k]? = some a → ∃ g, t.harts[k]? = some g ∧
              { g with reserved := a.reserved } = a ∧
              ∀ b m x, a.reserved = some (b, m, x) →
                (r.addr < b + m ∧ b < r.addr + r.size → g.reserved = none) ∧
                (b + m ≤ r.addr ∨ r.addr + r.size ≤ b → g.reserved = a.reserved)
        (h.dataMode = .m → h.pmpcfg = [] → h.allowed r.addr r.size writes = true) ∧
        (h.dataMode ≠ .m → h.pmpcfg = [] → h.allowed r.addr r.size writes = false) ∧
        (r.op ≠ .plain → r.addr % r.size ≠ 0 → traps (if writes then 6 else 4) r.addr) ∧
        (r.addr % 4096 + r.size ≤ 4096 → r.op = .plain ∨ r.addr % r.size = 0 →
          (plain → h.allowed r.addr r.size writes = false → faults) ∧
          (¬ plain → r.addr < 2 ^ 64 → 2 ^ 47 ≤ r.addr → r.addr < 2 ^ 64 - 2 ^ 47 →
            traps (if writes then 15 else 13) r.addr) ∧
          (plain → h.allowed r.addr r.size writes = true → 0x100000000000 ≤ r.addr → d.rangeOf r.addr r.size = none →
            faults) ∧
          (plain → h.allowed r.addr r.size writes = true → sram →
            (r.op = .plain → r.write = true → ∃ t, exec i s = .next t ∧ written t r.value) ∧
            (r.op = .plain → r.write = false →
              exec i s = .next (s.setHart r.hart { h.setX r.rd (loadExtended r old) with loaded := old })) ∧
            (r.op = .lr → ∃ g : Hart, exec i s = .next (s.setHart r.hart g) ∧ g.reserved = some (r.addr, r.size, old) ∧
              g.xregs = (h.setX r.rd (low 64 (sext (8 * r.size) old))).xregs) ∧
            (∀ f, r.op = .amo f → ∃ t g, exec i s = .next t ∧ written t (amoNew f r.size old r.value) ∧
              t.harts[r.hart]? = some g ∧ g.xregs = (h.setX r.rd (low 64 (sext (8 * r.size) old))).xregs) ∧
            (r.op = .sc → h.reserved = some (r.addr, r.size, old) → Config.scFails d.tick = false →
              ∃ t g, exec i s = .next t ∧ written t r.value ∧ t.harts[r.hart]? = some g ∧ g.reserved = none ∧
                g.xregs = (h.setX r.rd 0).xregs) ∧
            (r.op = .sc → h.reserved = none ∨ Config.scFails d.tick = true →
              exec i s = .next (s.setHart r.hart { h.setX r.rd 1 with reserved := none })))) ∧
        (r.op = .plain → 4096 < r.addr % 4096 + r.size → r.addr + r.size ≤ 2 ^ 64 → plain →
          let b := (r.addr / 4096 + 1) * 4096
          let n := b - r.addr
          (h.allowed r.addr n writes = false → faults) ∧
          (h.allowed r.addr n writes = true → h.allowed b (r.size - n) writes = false →
            traps (if writes then 7 else 5) b) ∧
          (h.allowed r.addr n writes = true → h.allowed b (r.size - n) writes = true → sram →
            (r.write = false →
              exec i s = .next (s.setHart r.hart { h.setX r.rd (loadExtended r old) with loaded := old })) ∧
            (r.write = true → ∃ t, exec i s = .next t ∧
              t.dev = { d with mem := writeBytes d.mem r.addr (leBytes r.size r.value) })))))

/-- R391, R442, R445, R448 to R451, R453: a reset of a function takes its work and leaves the others'; the lease controller answers
in its states, scrubs, keeps the record of it, and releases or recovers the device; power states and throttling. The bytes of
GETSTATE's answer, what a reset keeps that R442 and R453 do not name, and how far the clock rises again are the model's choices
(logs 6, 64, 65, 66 and 67). -/
def Obligations.DeviceEvents : Prop :=
  ∀ s : State,
    let d := s.dev
    let l := s.lease
    let b := s.board
    let answers := fun (i : Instr) (bytes : List Nat) =>
      exec i s = .next { s with lease := { l with reply := bytes.map (BitVec.ofNat 8) } }
    let refused := { s with board := { b with hostReply := none, hostError := true } }
    let boots := fun (t : State) (m : Memory) =>
      let tenant := t.lease.image.isTenant
      let bs := imageBytes m tenant
      let a := Config.headerLoad (imageHeader m tenant)
      (∀ h ∈ t.harts, h.mode = .m ∧ h.pc = 0) ∧ t.lease.recovery = false ∧
        t.lease.bootfail = (t.lease.image == .none) ∧ (t.lease.image = .none → t.dev.mem = m) ∧
        (t.lease.image ≠ .none → t.lease.entry = a % 2 ^ 64 ∧
          t.dev.mem = if 0x80000000 ≤ a ∧ a + bs.length ≤ 0x80400000 then writeBytes m a bs else m)
    (∀ fn, fn < 48 →
      (s.up = false → Waits (.functionLevelReset fn) s) ∧
      (s.up = true → s.streamSecure fn = false → exec (.functionLevelReset fn) s = .next refused) ∧
      (s.up = true → s.streamSecure fn = true → ∃ t, exec (.functionLevelReset fn) s = .next t ∧ t.board = b ∧ t.lease = l ∧ t.harts = s.harts ∧
        t.dev.teams = d.teams.filter (fun x => x.fn != fn) ∧ t.dev.launches = d.launches.filter (fun x => x.fn != fn) ∧
        t.dev.queues = d.queues.filter (fun x => x.fn != fn) ∧ t.dev.cmds = d.cmds.filter (fun x => x.fn != fn) ∧
        (∀ g, g ≠ fn → t.dev.func g = d.func g) ∧
        (let f := t.dev.func fn
         f.bolts = [] ∧ f.tags = [] ∧ f.faults = [] ∧ f.slots = [] ∧ f.att = 0 ∧ f.attn = 0 ∧ f.memb = (d.func fn).memb ∧
          f.mems = (d.func fn).mems ∧ f.l2bm = (d.func fn).l2bm ∧
          ∀ k, f.keyAt fn k = .drawn d.nextId fn k) ∧
        (∀ a, a < 2 ^ 100 → readByte t.dev.mem a = readByte d.mem a))) ∧
    (s.up = false → Waits .pfFlr s) ∧
    (s.up = true → d.linkInsecure = true →
      exec .pfFlr s = .next refused ∧ exec .powerstateD3hotWrite s = .next refused) ∧
    (s.up = true → d.linkInsecure = false → ∃ t, exec .pfFlr s = .next t ∧ t.dev.parts = [] ∧
      ((∀ x ∈ d.teams, x.fn < 48) → (∀ x ∈ d.queues, x.fn < 48) → t.dev.teams = [] ∧ t.dev.queues = [])) ∧
    (b.power ≠ .d3cold →
      (∃ n, answers .getstate ([1, 0, n] ++ (leBytes 8 l.lseq).map (·.toNat) ++ [if l.bootfail then 1 else 0]) ∧
        n = (match l.state with
          | .run => 0
          | .scrub => 1
          | .clean => 2)) ∧
      (∀ hash piece, l.state = .scrub →
        answers .scrub [2, 1] ∧ answers (.getrecord piece) [3, 1] ∧ answers (.setlessee hash) [4, 1] ∧ answers .release [5, 1] ∧
          answers .recover [6, 1]) ∧
      (∀ hash, l.state = .run → answers (.setlessee hash) [4, 2] ∧ answers .release [5, 2]) ∧
      (l.state ≠ .scrub →
        exec .scrub s = .next { s with pending := [], lease := { l with
            lseq := (l.lseq + 1) % 2 ^ 64, state := .scrub, reply := [2, 0] } } ∧
        (∀ piece, l.record = none → answers (.getrecord piece) [3, 4]) ∧
        (∀ r, l.record = some r → exec (.getrecord 0) s = .next { s with lease := { l with reply := [3, 0] ++ r } } ∧
          ∀ piece, piece ≠ 0 → answers (.getrecord piece) [3, 3]) ∧
        ∃ t, exec .recover s = .next t ∧ t.lease.state = .run ∧ t.lease.reply = [6, 0] ∧ t.lease.image ≠ .tenant ∧
          t.dev.teams = [] ∧ t.dev.shuttles = [] ∧
          ∃ m, boots t m ∧ ∀ a, a < 2 ^ 100 → readByte m a = readByte d.mem a) ∧
      (l.state = .clean →
        (∀ hash, exec (.setlessee hash) s = .next { s with lease := { l with lessee := hash, reply := [4, 0] } }) ∧
        ∃ t, exec .release s = .next t ∧ t.lease.state = .run ∧ t.board.power = .d0 ∧ t.lease.reply = [5, 0] ∧
          t.lease.lessee = l.lessee ∧ boots t d.mem) ∧
      (l.state ≠ .scrub → Waits .scrubComplete s) ∧
      (l.state = .scrub → ∃ t r, exec .scrubComplete s = .next t ∧ t.lease.state = .clean ∧ t.lease.record = some r ∧
        t.lease.lseq = l.lseq ∧ t.lease.lessee = l.lessee ∧ t.lease.image = .none ∧ r.length = 512 ∧
        r.take 16 = leBytes 4 0x5243534C ++ leBytes 4 1 ++ leBytes 8 l.lseq ∧ t.dev.teams = [] ∧ t.dev.shuttles = [] ∧
        (∀ a, 0x100000000000 ≤ a → a < 2 ^ 64 → readByte t.dev.mem a = 0) ∧
        (∀ a, 2 ^ 64 ≤ a → a < 2 ^ 100 → readByte t.dev.mem a = readByte d.mem a))) ∧
    (∀ i ∈ [Instr.getstate, .scrub, .getrecord 0, .setlessee 0, .release, .recover], b.power = .d3cold → Waits i s) ∧
    (s.up = false → Waits .powerstateD3hotWrite s) ∧
    (s.up = true → d.linkInsecure = false →
      (d.allIdle = true → exec .powerstateD3hotWrite s = .next { s with
        pending := [], board := { b with power := .d3hot, d3refused := false } }) ∧
      (d.allIdle = false → exec .powerstateD3hotWrite s = .next { s with board := { b with d3refused := true } })) ∧
    (b.power ≠ .d3hot → Waits .d3hotExit s) ∧
    (b.power = .d3hot → ∃ t, exec .d3hotExit s = .next t ∧ t.board.power = .d0 ∧
      { t.dev with mem := d.mem } = d ∧ (l.state = .run → boots t d.mem) ∧ (l.state ≠ .run → t.dev = d)) ∧
    (∃ t, exec .d3coldPowerRemoval s = .next t ∧ t.board.power = .d3cold ∧ t.dev.teams = [] ∧ t.dev.queues = [] ∧
      t.lease.record = l.record ∧ t.lease.lseq = l.lseq ∧ t.lease.lessee = l.lessee ∧ t.lease.state = l.state) ∧
    (b.power ≠ .d3cold → Waits .powerOn s) ∧
    (b.power = .d3cold → ∃ t, exec .powerOn s = .next t ∧ t.board.power = .d0 ∧ t.lease.state = l.state ∧
      { t.dev with mem := d.mem } = d ∧ (l.state = .run → boots t d.mem) ∧ (l.state ≠ .run → t.dev = d)) ∧
    (∀ (k : Nat) (h : Hart), s.up = true → l.bootfail = false → l.image ≠ .none → s.harts[k]? = some h → h.mode = .m →
      h.pc = 0 → execOutside (.hartBoot k) s = .next (s.setHart k { h with pc := l.entry })) ∧
    (∀ cause clock, b.power ≠ .d3cold →
      let k := match cause with
        | .boardPower => 0
        | .coldPlate => 1
        | .current => 2
      exec (.throttleEvent cause clock) s = .next { s with board := { b with
          clock := max 6 (min clock b.clock), causes := b.causes ||| 2 ^ k } } ∧
        ∃ c, exec (.throttleCauseCleared cause) s = .next { s with board := { b with
            clock := c, causes := if bit b.causes k then b.causes - 2 ^ k else b.causes } } ∧
          (b.clock ≤ 13 → b.clock ≤ c ∧ c ≤ 13))
end

