-- ==== Sys2Proof/Laws/State.lean ====
section
/-!
SUPPORT. One lemma per field per named update of the state, the device and a shuttle, so that no later proof unfolds a
record update.
-/
namespace Sys2Proof.Machine

/-! ## A shuttle -/

@[simp] theorem Shuttle.setSreg_id (s : Shuttle) (n : Nat) (c : RegCell) : (s.setSreg n c).id = s.id := rfl
@[simp] theorem Shuttle.setSreg_team (s : Shuttle) (n : Nat) (c : RegCell) : (s.setSreg n c).team = s.team := rfl
@[simp] theorem Shuttle.setSreg_stage (s : Shuttle) (n : Nat) (c : RegCell) : (s.setSreg n c).stage = s.stage := rfl
@[simp] theorem Shuttle.setSreg_num (s : Shuttle) (n : Nat) (c : RegCell) : (s.setSreg n c).num = s.num := rfl
@[simp] theorem Shuttle.setSreg_spawned (s : Shuttle) (n : Nat) (c : RegCell) : (s.setSreg n c).spawned = s.spawned := rfl
@[simp] theorem Shuttle.setSreg_nthreads (s : Shuttle) (n : Nat) (c : RegCell) : (s.setSreg n c).nthreads = s.nthreads := rfl
@[simp] theorem Shuttle.setSreg_core (s : Shuttle) (n : Nat) (c : RegCell) : (s.setSreg n c).core = s.core := rfl
@[simp] theorem Shuttle.setSreg_part (s : Shuttle) (n : Nat) (c : RegCell) : (s.setSreg n c).part = s.part := rfl
@[simp] theorem Shuttle.setSreg_lane (s : Shuttle) (n : Nat) (c : RegCell) : (s.setSreg n c).lane = s.lane := rfl
@[simp] theorem Shuttle.setSreg_slot (s : Shuttle) (n : Nat) (c : RegCell) : (s.setSreg n c).slot = s.slot := rfl
@[simp] theorem Shuttle.setSreg_live (s : Shuttle) (n : Nat) (c : RegCell) : (s.setSreg n c).live = s.live := rfl
@[simp] theorem Shuttle.setSreg_stopped (s : Shuttle) (n : Nat) (c : RegCell) : (s.setSreg n c).stopped = s.stopped := rfl
@[simp] theorem Shuttle.setSreg_pc (s : Shuttle) (n : Nat) (c : RegCell) : (s.setSreg n c).pc = s.pc := rfl
@[simp] theorem Shuttle.setSreg_branchFrom (s : Shuttle) (n : Nat) (c : RegCell) : (s.setSreg n c).branchFrom = s.branchFrom := rfl
@[simp] theorem Shuttle.setSreg_fmt (s : Shuttle) (n : Nat) (c : RegCell) : (s.setSreg n c).fmt = s.fmt := rfl
@[simp] theorem Shuttle.setSreg_seed (s : Shuttle) (n : Nat) (c : RegCell) : (s.setSreg n c).seed = s.seed := rfl
@[simp] theorem Shuttle.setSreg_vregs (s : Shuttle) (n : Nat) (c : RegCell) : (s.setSreg n c).vregs = s.vregs := rfl
@[simp] theorem Shuttle.setSreg_preds (s : Shuttle) (n : Nat) (c : RegCell) : (s.setSreg n c).preds = s.preds := rfl
@[simp] theorem Shuttle.setSreg_flags (s : Shuttle) (n : Nat) (c : RegCell) : (s.setSreg n c).flags = s.flags := rfl
@[simp] theorem Shuttle.setSreg_counts (s : Shuttle) (n : Nat) (c : RegCell) : (s.setSreg n c).counts = s.counts := rfl
@[simp] theorem Shuttle.setSreg_blocks (s : Shuttle) (n : Nat) (c : RegCell) : (s.setSreg n c).blocks = s.blocks := rfl
@[simp] theorem Shuttle.setSreg_running (s : Shuttle) (n : Nat) (c : RegCell) : (s.setSreg n c).running = s.running := rfl
@[simp] theorem Shuttle.setSreg_frontier (s : Shuttle) (n : Nat) (c : RegCell) : (s.setSreg n c).frontier = s.frontier := rfl
@[simp] theorem Shuttle.setSreg_handler (s : Shuttle) (n : Nat) (c : RegCell) : (s.setSreg n c).handler = s.handler := rfl
@[simp] theorem Shuttle.setSreg_suspended (s : Shuttle) (n : Nat) (c : RegCell) : (s.setSreg n c).suspended = s.suspended := rfl
@[simp] theorem Shuttle.setSreg_traps (s : Shuttle) (n : Nat) (c : RegCell) : (s.setSreg n c).traps = s.traps := rfl
@[simp] theorem Shuttle.setSreg_laneFence (s : Shuttle) (n : Nat) (c : RegCell) : (s.setSreg n c).laneFence = s.laneFence := rfl
@[simp] theorem Shuttle.setSreg_accs (s : Shuttle) (n : Nat) (c : RegCell) : (s.setSreg n c).accs = s.accs := rfl
@[simp] theorem Shuttle.setSreg_regions (s : Shuttle) (n : Nat) (c : RegCell) : (s.setSreg n c).regions = s.regions := rfl
@[simp] theorem Shuttle.setSreg_seq (s : Shuttle) (n : Nat) (c : RegCell) : (s.setSreg n c).seq = s.seq := rfl
@[simp] theorem Shuttle.setSreg_splits (s : Shuttle) (n : Nat) (c : RegCell) : (s.setSreg n c).splits = s.splits := rfl
@[simp] theorem Shuttle.setSreg_arrived (s : Shuttle) (n : Nat) (c : RegCell) : (s.setSreg n c).arrived = s.arrived := rfl
@[simp] theorem Shuttle.setSreg_txns (s : Shuttle) (n : Nat) (c : RegCell) : (s.setSreg n c).txns = s.txns := rfl
@[simp] theorem Shuttle.setSreg_record (s : Shuttle) (n : Nat) (c : RegCell) : (s.setSreg n c).record = s.record := rfl
@[simp] theorem Shuttle.setSreg_exposed (s : Shuttle) (n : Nat) (c : RegCell) : (s.setSreg n c).exposed = s.exposed := rfl
@[simp] theorem Shuttle.setSreg_sscw (s : Shuttle) (n : Nat) (c : RegCell) : (s.setSreg n c).sscw = s.sscw := rfl
@[simp] theorem Shuttle.setSreg_waiter (s : Shuttle) (n : Nat) (c : RegCell) : (s.setSreg n c).waiter = s.waiter := rfl
@[simp] theorem Shuttle.setSreg_sregs (s : Shuttle) (n : Nat) (c : RegCell) :
    (s.setSreg n c).sregs = putK blankReg s.sregs n c := rfl

@[simp] theorem Shuttle.setVreg_id (s : Shuttle) (b n : Nat) (c : RegCell) : (s.setVreg b n c).id = s.id := rfl
@[simp] theorem Shuttle.setVreg_team (s : Shuttle) (b n : Nat) (c : RegCell) : (s.setVreg b n c).team = s.team := rfl
@[simp] theorem Shuttle.setVreg_stage (s : Shuttle) (b n : Nat) (c : RegCell) : (s.setVreg b n c).stage = s.stage := rfl
@[simp] theorem Shuttle.setVreg_num (s : Shuttle) (b n : Nat) (c : RegCell) : (s.setVreg b n c).num = s.num := rfl
@[simp] theorem Shuttle.setVreg_spawned (s : Shuttle) (b n : Nat) (c : RegCell) : (s.setVreg b n c).spawned = s.spawned := rfl
@[simp] theorem Shuttle.setVreg_nthreads (s : Shuttle) (b n : Nat) (c : RegCell) : (s.setVreg b n c).nthreads = s.nthreads := rfl
@[simp] theorem Shuttle.setVreg_core (s : Shuttle) (b n : Nat) (c : RegCell) : (s.setVreg b n c).core = s.core := rfl
@[simp] theorem Shuttle.setVreg_part (s : Shuttle) (b n : Nat) (c : RegCell) : (s.setVreg b n c).part = s.part := rfl
@[simp] theorem Shuttle.setVreg_lane (s : Shuttle) (b n : Nat) (c : RegCell) : (s.setVreg b n c).lane = s.lane := rfl
@[simp] theorem Shuttle.setVreg_slot (s : Shuttle) (b n : Nat) (c : RegCell) : (s.setVreg b n c).slot = s.slot := rfl
@[simp] theorem Shuttle.setVreg_live (s : Shuttle) (b n : Nat) (c : RegCell) : (s.setVreg b n c).live = s.live := rfl
@[simp] theorem Shuttle.setVreg_stopped (s : Shuttle) (b n : Nat) (c : RegCell) : (s.setVreg b n c).stopped = s.stopped := rfl
@[simp] theorem Shuttle.setVreg_pc (s : Shuttle) (b n : Nat) (c : RegCell) : (s.setVreg b n c).pc = s.pc := rfl
@[simp] theorem Shuttle.setVreg_branchFrom (s : Shuttle) (b n : Nat) (c : RegCell) : (s.setVreg b n c).branchFrom = s.branchFrom := rfl
@[simp] theorem Shuttle.setVreg_fmt (s : Shuttle) (b n : Nat) (c : RegCell) : (s.setVreg b n c).fmt = s.fmt := rfl
@[simp] theorem Shuttle.setVreg_seed (s : Shuttle) (b n : Nat) (c : RegCell) : (s.setVreg b n c).seed = s.seed := rfl
@[simp] theorem Shuttle.setVreg_sregs (s : Shuttle) (b n : Nat) (c : RegCell) : (s.setVreg b n c).sregs = s.sregs := rfl
@[simp] theorem Shuttle.setVreg_preds (s : Shuttle) (b n : Nat) (c : RegCell) : (s.setVreg b n c).preds = s.preds := rfl
@[simp] theorem Shuttle.setVreg_flags (s : Shuttle) (b n : Nat) (c : RegCell) : (s.setVreg b n c).flags = s.flags := rfl
@[simp] theorem Shuttle.setVreg_counts (s : Shuttle) (b n : Nat) (c : RegCell) : (s.setVreg b n c).counts = s.counts := rfl
@[simp] theorem Shuttle.setVreg_blocks (s : Shuttle) (b n : Nat) (c : RegCell) : (s.setVreg b n c).blocks = s.blocks := rfl
@[simp] theorem Shuttle.setVreg_running (s : Shuttle) (b n : Nat) (c : RegCell) : (s.setVreg b n c).running = s.running := rfl
@[simp] theorem Shuttle.setVreg_frontier (s : Shuttle) (b n : Nat) (c : RegCell) : (s.setVreg b n c).frontier = s.frontier := rfl
@[simp] theorem Shuttle.setVreg_handler (s : Shuttle) (b n : Nat) (c : RegCell) : (s.setVreg b n c).handler = s.handler := rfl
@[simp] theorem Shuttle.setVreg_suspended (s : Shuttle) (b n : Nat) (c : RegCell) : (s.setVreg b n c).suspended = s.suspended := rfl
@[simp] theorem Shuttle.setVreg_traps (s : Shuttle) (b n : Nat) (c : RegCell) : (s.setVreg b n c).traps = s.traps := rfl
@[simp] theorem Shuttle.setVreg_laneFence (s : Shuttle) (b n : Nat) (c : RegCell) : (s.setVreg b n c).laneFence = s.laneFence := rfl
@[simp] theorem Shuttle.setVreg_accs (s : Shuttle) (b n : Nat) (c : RegCell) : (s.setVreg b n c).accs = s.accs := rfl
@[simp] theorem Shuttle.setVreg_regions (s : Shuttle) (b n : Nat) (c : RegCell) : (s.setVreg b n c).regions = s.regions := rfl
@[simp] theorem Shuttle.setVreg_seq (s : Shuttle) (b n : Nat) (c : RegCell) : (s.setVreg b n c).seq = s.seq := rfl
@[simp] theorem Shuttle.setVreg_splits (s : Shuttle) (b n : Nat) (c : RegCell) : (s.setVreg b n c).splits = s.splits := rfl
@[simp] theorem Shuttle.setVreg_arrived (s : Shuttle) (b n : Nat) (c : RegCell) : (s.setVreg b n c).arrived = s.arrived := rfl
@[simp] theorem Shuttle.setVreg_txns (s : Shuttle) (b n : Nat) (c : RegCell) : (s.setVreg b n c).txns = s.txns := rfl
@[simp] theorem Shuttle.setVreg_record (s : Shuttle) (b n : Nat) (c : RegCell) : (s.setVreg b n c).record = s.record := rfl
@[simp] theorem Shuttle.setVreg_exposed (s : Shuttle) (b n : Nat) (c : RegCell) : (s.setVreg b n c).exposed = s.exposed := rfl
@[simp] theorem Shuttle.setVreg_sscw (s : Shuttle) (b n : Nat) (c : RegCell) : (s.setVreg b n c).sscw = s.sscw := rfl
@[simp] theorem Shuttle.setVreg_waiter (s : Shuttle) (b n : Nat) (c : RegCell) : (s.setVreg b n c).waiter = s.waiter := rfl
@[simp] theorem Shuttle.setVreg_vregs (s : Shuttle) (b n : Nat) (c : RegCell) :
    (s.setVreg b n c).vregs = putK blankReg s.vregs (vkey b n) c := rfl

@[simp] theorem Shuttle.setFlag_id (s : Shuttle) (b v : Nat) : (s.setFlag b v).id = s.id := rfl
@[simp] theorem Shuttle.setFlag_team (s : Shuttle) (b v : Nat) : (s.setFlag b v).team = s.team := rfl
@[simp] theorem Shuttle.setFlag_stage (s : Shuttle) (b v : Nat) : (s.setFlag b v).stage = s.stage := rfl
@[simp] theorem Shuttle.setFlag_num (s : Shuttle) (b v : Nat) : (s.setFlag b v).num = s.num := rfl
@[simp] theorem Shuttle.setFlag_spawned (s : Shuttle) (b v : Nat) : (s.setFlag b v).spawned = s.spawned := rfl
@[simp] theorem Shuttle.setFlag_nthreads (s : Shuttle) (b v : Nat) : (s.setFlag b v).nthreads = s.nthreads := rfl
@[simp] theorem Shuttle.setFlag_core (s : Shuttle) (b v : Nat) : (s.setFlag b v).core = s.core := rfl
@[simp] theorem Shuttle.setFlag_part (s : Shuttle) (b v : Nat) : (s.setFlag b v).part = s.part := rfl
@[simp] theorem Shuttle.setFlag_lane (s : Shuttle) (b v : Nat) : (s.setFlag b v).lane = s.lane := rfl
@[simp] theorem Shuttle.setFlag_slot (s : Shuttle) (b v : Nat) : (s.setFlag b v).slot = s.slot := rfl
@[simp] theorem Shuttle.setFlag_live (s : Shuttle) (b v : Nat) : (s.setFlag b v).live = s.live := rfl
@[simp] theorem Shuttle.setFlag_stopped (s : Shuttle) (b v : Nat) : (s.setFlag b v).stopped = s.stopped := rfl
@[simp] theorem Shuttle.setFlag_pc (s : Shuttle) (b v : Nat) : (s.setFlag b v).pc = s.pc := rfl
@[simp] theorem Shuttle.setFlag_branchFrom (s : Shuttle) (b v : Nat) : (s.setFlag b v).branchFrom = s.branchFrom := rfl
@[simp] theorem Shuttle.setFlag_fmt (s : Shuttle) (b v : Nat) : (s.setFlag b v).fmt = s.fmt := rfl
@[simp] theorem Shuttle.setFlag_seed (s : Shuttle) (b v : Nat) : (s.setFlag b v).seed = s.seed := rfl
@[simp] theorem Shuttle.setFlag_sregs (s : Shuttle) (b v : Nat) : (s.setFlag b v).sregs = s.sregs := rfl
@[simp] theorem Shuttle.setFlag_vregs (s : Shuttle) (b v : Nat) : (s.setFlag b v).vregs = s.vregs := rfl
@[simp] theorem Shuttle.setFlag_preds (s : Shuttle) (b v : Nat) : (s.setFlag b v).preds = s.preds := rfl
@[simp] theorem Shuttle.setFlag_counts (s : Shuttle) (b v : Nat) : (s.setFlag b v).counts = s.counts := rfl
@[simp] theorem Shuttle.setFlag_blocks (s : Shuttle) (b v : Nat) : (s.setFlag b v).blocks = s.blocks := rfl
@[simp] theorem Shuttle.setFlag_running (s : Shuttle) (b v : Nat) : (s.setFlag b v).running = s.running := rfl
@[simp] theorem Shuttle.setFlag_frontier (s : Shuttle) (b v : Nat) : (s.setFlag b v).frontier = s.frontier := rfl
@[simp] theorem Shuttle.setFlag_handler (s : Shuttle) (b v : Nat) : (s.setFlag b v).handler = s.handler := rfl
@[simp] theorem Shuttle.setFlag_suspended (s : Shuttle) (b v : Nat) : (s.setFlag b v).suspended = s.suspended := rfl
@[simp] theorem Shuttle.setFlag_traps (s : Shuttle) (b v : Nat) : (s.setFlag b v).traps = s.traps := rfl
@[simp] theorem Shuttle.setFlag_laneFence (s : Shuttle) (b v : Nat) : (s.setFlag b v).laneFence = s.laneFence := rfl
@[simp] theorem Shuttle.setFlag_accs (s : Shuttle) (b v : Nat) : (s.setFlag b v).accs = s.accs := rfl
@[simp] theorem Shuttle.setFlag_regions (s : Shuttle) (b v : Nat) : (s.setFlag b v).regions = s.regions := rfl
@[simp] theorem Shuttle.setFlag_seq (s : Shuttle) (b v : Nat) : (s.setFlag b v).seq = s.seq := rfl
@[simp] theorem Shuttle.setFlag_splits (s : Shuttle) (b v : Nat) : (s.setFlag b v).splits = s.splits := rfl
@[simp] theorem Shuttle.setFlag_arrived (s : Shuttle) (b v : Nat) : (s.setFlag b v).arrived = s.arrived := rfl
@[simp] theorem Shuttle.setFlag_txns (s : Shuttle) (b v : Nat) : (s.setFlag b v).txns = s.txns := rfl
@[simp] theorem Shuttle.setFlag_record (s : Shuttle) (b v : Nat) : (s.setFlag b v).record = s.record := rfl
@[simp] theorem Shuttle.setFlag_exposed (s : Shuttle) (b v : Nat) : (s.setFlag b v).exposed = s.exposed := rfl
@[simp] theorem Shuttle.setFlag_sscw (s : Shuttle) (b v : Nat) : (s.setFlag b v).sscw = s.sscw := rfl
@[simp] theorem Shuttle.setFlag_waiter (s : Shuttle) (b v : Nat) : (s.setFlag b v).waiter = s.waiter := rfl
@[simp] theorem Shuttle.setFlag_flags (s : Shuttle) (b v : Nat) : (s.setFlag b v).flags = putK 0 s.flags b v := rfl

@[simp] theorem Shuttle.setCount_id (s : Shuttle) (b v : Nat) : (s.setCount b v).id = s.id := rfl
@[simp] theorem Shuttle.setCount_team (s : Shuttle) (b v : Nat) : (s.setCount b v).team = s.team := rfl
@[simp] theorem Shuttle.setCount_stage (s : Shuttle) (b v : Nat) : (s.setCount b v).stage = s.stage := rfl
@[simp] theorem Shuttle.setCount_num (s : Shuttle) (b v : Nat) : (s.setCount b v).num = s.num := rfl
@[simp] theorem Shuttle.setCount_spawned (s : Shuttle) (b v : Nat) : (s.setCount b v).spawned = s.spawned := rfl
@[simp] theorem Shuttle.setCount_nthreads (s : Shuttle) (b v : Nat) : (s.setCount b v).nthreads = s.nthreads := rfl
@[simp] theorem Shuttle.setCount_core (s : Shuttle) (b v : Nat) : (s.setCount b v).core = s.core := rfl
@[simp] theorem Shuttle.setCount_part (s : Shuttle) (b v : Nat) : (s.setCount b v).part = s.part := rfl
@[simp] theorem Shuttle.setCount_lane (s : Shuttle) (b v : Nat) : (s.setCount b v).lane = s.lane := rfl
@[simp] theorem Shuttle.setCount_slot (s : Shuttle) (b v : Nat) : (s.setCount b v).slot = s.slot := rfl
@[simp] theorem Shuttle.setCount_live (s : Shuttle) (b v : Nat) : (s.setCount b v).live = s.live := rfl
@[simp] theorem Shuttle.setCount_stopped (s : Shuttle) (b v : Nat) : (s.setCount b v).stopped = s.stopped := rfl
@[simp] theorem Shuttle.setCount_pc (s : Shuttle) (b v : Nat) : (s.setCount b v).pc = s.pc := rfl
@[simp] theorem Shuttle.setCount_branchFrom (s : Shuttle) (b v : Nat) : (s.setCount b v).branchFrom = s.branchFrom := rfl
@[simp] theorem Shuttle.setCount_fmt (s : Shuttle) (b v : Nat) : (s.setCount b v).fmt = s.fmt := rfl
@[simp] theorem Shuttle.setCount_seed (s : Shuttle) (b v : Nat) : (s.setCount b v).seed = s.seed := rfl
@[simp] theorem Shuttle.setCount_sregs (s : Shuttle) (b v : Nat) : (s.setCount b v).sregs = s.sregs := rfl
@[simp] theorem Shuttle.setCount_vregs (s : Shuttle) (b v : Nat) : (s.setCount b v).vregs = s.vregs := rfl
@[simp] theorem Shuttle.setCount_preds (s : Shuttle) (b v : Nat) : (s.setCount b v).preds = s.preds := rfl
@[simp] theorem Shuttle.setCount_flags (s : Shuttle) (b v : Nat) : (s.setCount b v).flags = s.flags := rfl
@[simp] theorem Shuttle.setCount_blocks (s : Shuttle) (b v : Nat) : (s.setCount b v).blocks = s.blocks := rfl
@[simp] theorem Shuttle.setCount_running (s : Shuttle) (b v : Nat) : (s.setCount b v).running = s.running := rfl
@[simp] theorem Shuttle.setCount_frontier (s : Shuttle) (b v : Nat) : (s.setCount b v).frontier = s.frontier := rfl
@[simp] theorem Shuttle.setCount_handler (s : Shuttle) (b v : Nat) : (s.setCount b v).handler = s.handler := rfl
@[simp] theorem Shuttle.setCount_suspended (s : Shuttle) (b v : Nat) : (s.setCount b v).suspended = s.suspended := rfl
@[simp] theorem Shuttle.setCount_traps (s : Shuttle) (b v : Nat) : (s.setCount b v).traps = s.traps := rfl
@[simp] theorem Shuttle.setCount_laneFence (s : Shuttle) (b v : Nat) : (s.setCount b v).laneFence = s.laneFence := rfl
@[simp] theorem Shuttle.setCount_accs (s : Shuttle) (b v : Nat) : (s.setCount b v).accs = s.accs := rfl
@[simp] theorem Shuttle.setCount_regions (s : Shuttle) (b v : Nat) : (s.setCount b v).regions = s.regions := rfl
@[simp] theorem Shuttle.setCount_seq (s : Shuttle) (b v : Nat) : (s.setCount b v).seq = s.seq := rfl
@[simp] theorem Shuttle.setCount_splits (s : Shuttle) (b v : Nat) : (s.setCount b v).splits = s.splits := rfl
@[simp] theorem Shuttle.setCount_arrived (s : Shuttle) (b v : Nat) : (s.setCount b v).arrived = s.arrived := rfl
@[simp] theorem Shuttle.setCount_txns (s : Shuttle) (b v : Nat) : (s.setCount b v).txns = s.txns := rfl
@[simp] theorem Shuttle.setCount_record (s : Shuttle) (b v : Nat) : (s.setCount b v).record = s.record := rfl
@[simp] theorem Shuttle.setCount_exposed (s : Shuttle) (b v : Nat) : (s.setCount b v).exposed = s.exposed := rfl
@[simp] theorem Shuttle.setCount_sscw (s : Shuttle) (b v : Nat) : (s.setCount b v).sscw = s.sscw := rfl
@[simp] theorem Shuttle.setCount_waiter (s : Shuttle) (b v : Nat) : (s.setCount b v).waiter = s.waiter := rfl
@[simp] theorem Shuttle.setCount_counts (s : Shuttle) (b v : Nat) :
    (s.setCount b v).counts = putK 0 s.counts b (v % 2 ^ 64) := rfl

@[simp] theorem Shuttle.takeOver_id (s : Shuttle) (n k : Nat) : (s.takeOver n k).id = s.id := rfl
@[simp] theorem Shuttle.takeOver_team (s : Shuttle) (n k : Nat) : (s.takeOver n k).team = s.team := rfl
@[simp] theorem Shuttle.takeOver_stage (s : Shuttle) (n k : Nat) : (s.takeOver n k).stage = s.stage := rfl
@[simp] theorem Shuttle.takeOver_num (s : Shuttle) (n k : Nat) : (s.takeOver n k).num = s.num := rfl
@[simp] theorem Shuttle.takeOver_spawned (s : Shuttle) (n k : Nat) : (s.takeOver n k).spawned = s.spawned := rfl
@[simp] theorem Shuttle.takeOver_nthreads (s : Shuttle) (n k : Nat) : (s.takeOver n k).nthreads = s.nthreads := rfl
@[simp] theorem Shuttle.takeOver_core (s : Shuttle) (n k : Nat) : (s.takeOver n k).core = s.core := rfl
@[simp] theorem Shuttle.takeOver_part (s : Shuttle) (n k : Nat) : (s.takeOver n k).part = s.part := rfl
@[simp] theorem Shuttle.takeOver_lane (s : Shuttle) (n k : Nat) : (s.takeOver n k).lane = s.lane := rfl
@[simp] theorem Shuttle.takeOver_slot (s : Shuttle) (n k : Nat) : (s.takeOver n k).slot = s.slot := rfl
@[simp] theorem Shuttle.takeOver_live (s : Shuttle) (n k : Nat) : (s.takeOver n k).live = s.live := rfl
@[simp] theorem Shuttle.takeOver_stopped (s : Shuttle) (n k : Nat) : (s.takeOver n k).stopped = s.stopped := rfl
@[simp] theorem Shuttle.takeOver_pc (s : Shuttle) (n k : Nat) : (s.takeOver n k).pc = s.pc := rfl
@[simp] theorem Shuttle.takeOver_branchFrom (s : Shuttle) (n k : Nat) : (s.takeOver n k).branchFrom = s.branchFrom := rfl
@[simp] theorem Shuttle.takeOver_fmt (s : Shuttle) (n k : Nat) : (s.takeOver n k).fmt = s.fmt := rfl
@[simp] theorem Shuttle.takeOver_seed (s : Shuttle) (n k : Nat) : (s.takeOver n k).seed = s.seed := rfl
@[simp] theorem Shuttle.takeOver_sregs (s : Shuttle) (n k : Nat) : (s.takeOver n k).sregs = s.sregs := rfl
@[simp] theorem Shuttle.takeOver_vregs (s : Shuttle) (n k : Nat) : (s.takeOver n k).vregs = s.vregs := rfl
@[simp] theorem Shuttle.takeOver_preds (s : Shuttle) (n k : Nat) : (s.takeOver n k).preds = s.preds := rfl
@[simp] theorem Shuttle.takeOver_flags (s : Shuttle) (n k : Nat) : (s.takeOver n k).flags = s.flags := rfl
@[simp] theorem Shuttle.takeOver_counts (s : Shuttle) (n k : Nat) : (s.takeOver n k).counts = s.counts := rfl
@[simp] theorem Shuttle.takeOver_blocks (s : Shuttle) (n k : Nat) : (s.takeOver n k).blocks = s.blocks := rfl
@[simp] theorem Shuttle.takeOver_running (s : Shuttle) (n k : Nat) : (s.takeOver n k).running = s.running := rfl
@[simp] theorem Shuttle.takeOver_frontier (s : Shuttle) (n k : Nat) : (s.takeOver n k).frontier = s.frontier := rfl
@[simp] theorem Shuttle.takeOver_handler (s : Shuttle) (n k : Nat) : (s.takeOver n k).handler = s.handler := rfl
@[simp] theorem Shuttle.takeOver_suspended (s : Shuttle) (n k : Nat) : (s.takeOver n k).suspended = s.suspended := rfl
@[simp] theorem Shuttle.takeOver_traps (s : Shuttle) (n k : Nat) : (s.takeOver n k).traps = s.traps := rfl
@[simp] theorem Shuttle.takeOver_laneFence (s : Shuttle) (n k : Nat) : (s.takeOver n k).laneFence = s.laneFence := rfl
@[simp] theorem Shuttle.takeOver_regions (s : Shuttle) (n k : Nat) : (s.takeOver n k).regions = s.regions := rfl
@[simp] theorem Shuttle.takeOver_seq (s : Shuttle) (n k : Nat) : (s.takeOver n k).seq = s.seq := rfl
@[simp] theorem Shuttle.takeOver_splits (s : Shuttle) (n k : Nat) : (s.takeOver n k).splits = s.splits := rfl
@[simp] theorem Shuttle.takeOver_arrived (s : Shuttle) (n k : Nat) : (s.takeOver n k).arrived = s.arrived := rfl
@[simp] theorem Shuttle.takeOver_txns (s : Shuttle) (n k : Nat) : (s.takeOver n k).txns = s.txns := rfl
@[simp] theorem Shuttle.takeOver_record (s : Shuttle) (n k : Nat) : (s.takeOver n k).record = s.record := rfl
@[simp] theorem Shuttle.takeOver_exposed (s : Shuttle) (n k : Nat) : (s.takeOver n k).exposed = s.exposed := rfl
@[simp] theorem Shuttle.takeOver_sscw (s : Shuttle) (n k : Nat) : (s.takeOver n k).sscw = s.sscw := rfl
@[simp] theorem Shuttle.takeOver_waiter (s : Shuttle) (n k : Nat) : (s.takeOver n k).waiter = s.waiter := rfl

@[simp] theorem Shuttle.takeOver_sreg (s : Shuttle) (n k j : Nat) : (s.takeOver n k).sreg j = s.sreg j := rfl

@[simp] theorem Shuttle.advance_id (s : Shuttle) (is : Issue) : (s.advance is).id = s.id := rfl
@[simp] theorem Shuttle.advance_team (s : Shuttle) (is : Issue) : (s.advance is).team = s.team := rfl
@[simp] theorem Shuttle.advance_stage (s : Shuttle) (is : Issue) : (s.advance is).stage = s.stage := rfl
@[simp] theorem Shuttle.advance_num (s : Shuttle) (is : Issue) : (s.advance is).num = s.num := rfl
@[simp] theorem Shuttle.advance_spawned (s : Shuttle) (is : Issue) : (s.advance is).spawned = s.spawned := rfl
@[simp] theorem Shuttle.advance_nthreads (s : Shuttle) (is : Issue) : (s.advance is).nthreads = s.nthreads := rfl
@[simp] theorem Shuttle.advance_core (s : Shuttle) (is : Issue) : (s.advance is).core = s.core := rfl
@[simp] theorem Shuttle.advance_part (s : Shuttle) (is : Issue) : (s.advance is).part = s.part := rfl
@[simp] theorem Shuttle.advance_lane (s : Shuttle) (is : Issue) : (s.advance is).lane = s.lane := rfl
@[simp] theorem Shuttle.advance_slot (s : Shuttle) (is : Issue) : (s.advance is).slot = s.slot := rfl
@[simp] theorem Shuttle.advance_live (s : Shuttle) (is : Issue) : (s.advance is).live = s.live := rfl
@[simp] theorem Shuttle.advance_stopped (s : Shuttle) (is : Issue) : (s.advance is).stopped = s.stopped := rfl
@[simp] theorem Shuttle.advance_fmt (s : Shuttle) (is : Issue) : (s.advance is).fmt = s.fmt := rfl
@[simp] theorem Shuttle.advance_seed (s : Shuttle) (is : Issue) : (s.advance is).seed = s.seed := rfl
@[simp] theorem Shuttle.advance_sregs (s : Shuttle) (is : Issue) : (s.advance is).sregs = s.sregs := rfl
@[simp] theorem Shuttle.advance_vregs (s : Shuttle) (is : Issue) : (s.advance is).vregs = s.vregs := rfl
@[simp] theorem Shuttle.advance_preds (s : Shuttle) (is : Issue) : (s.advance is).preds = s.preds := rfl
@[simp] theorem Shuttle.advance_flags (s : Shuttle) (is : Issue) : (s.advance is).flags = s.flags := rfl
@[simp] theorem Shuttle.advance_counts (s : Shuttle) (is : Issue) : (s.advance is).counts = s.counts := rfl
@[simp] theorem Shuttle.advance_blocks (s : Shuttle) (is : Issue) : (s.advance is).blocks = s.blocks := rfl
@[simp] theorem Shuttle.advance_running (s : Shuttle) (is : Issue) : (s.advance is).running = s.running := rfl
@[simp] theorem Shuttle.advance_frontier (s : Shuttle) (is : Issue) : (s.advance is).frontier = s.frontier := rfl
@[simp] theorem Shuttle.advance_handler (s : Shuttle) (is : Issue) : (s.advance is).handler = s.handler := rfl
@[simp] theorem Shuttle.advance_suspended (s : Shuttle) (is : Issue) : (s.advance is).suspended = s.suspended := rfl
@[simp] theorem Shuttle.advance_traps (s : Shuttle) (is : Issue) : (s.advance is).traps = s.traps := rfl
@[simp] theorem Shuttle.advance_laneFence (s : Shuttle) (is : Issue) : (s.advance is).laneFence = s.laneFence := rfl
@[simp] theorem Shuttle.advance_accs (s : Shuttle) (is : Issue) : (s.advance is).accs = s.accs := rfl
@[simp] theorem Shuttle.advance_regions (s : Shuttle) (is : Issue) : (s.advance is).regions = s.regions := rfl
@[simp] theorem Shuttle.advance_seq (s : Shuttle) (is : Issue) : (s.advance is).seq = s.seq := rfl
@[simp] theorem Shuttle.advance_splits (s : Shuttle) (is : Issue) : (s.advance is).splits = s.splits := rfl
@[simp] theorem Shuttle.advance_arrived (s : Shuttle) (is : Issue) : (s.advance is).arrived = s.arrived := rfl
@[simp] theorem Shuttle.advance_txns (s : Shuttle) (is : Issue) : (s.advance is).txns = s.txns := rfl
@[simp] theorem Shuttle.advance_record (s : Shuttle) (is : Issue) : (s.advance is).record = s.record := rfl
@[simp] theorem Shuttle.advance_exposed (s : Shuttle) (is : Issue) : (s.advance is).exposed = s.exposed := rfl
@[simp] theorem Shuttle.advance_sscw (s : Shuttle) (is : Issue) : (s.advance is).sscw = s.sscw := rfl
@[simp] theorem Shuttle.advance_waiter (s : Shuttle) (is : Issue) : (s.advance is).waiter = s.waiter := rfl
@[simp] theorem Shuttle.advance_pc (s : Shuttle) (is : Issue) : (s.advance is).pc = is.next := rfl
@[simp] theorem Shuttle.advance_branchFrom (s : Shuttle) (is : Issue) : (s.advance is).branchFrom = none := rfl

@[simp] theorem Shuttle.branchTo_id (s : Shuttle) (is : Issue) (t : Nat) : (s.branchTo is t).id = s.id := rfl
@[simp] theorem Shuttle.branchTo_team (s : Shuttle) (is : Issue) (t : Nat) : (s.branchTo is t).team = s.team := rfl
@[simp] theorem Shuttle.branchTo_stage (s : Shuttle) (is : Issue) (t : Nat) : (s.branchTo is t).stage = s.stage := rfl
@[simp] theorem Shuttle.branchTo_num (s : Shuttle) (is : Issue) (t : Nat) : (s.branchTo is t).num = s.num := rfl
@[simp] theorem Shuttle.branchTo_spawned (s : Shuttle) (is : Issue) (t : Nat) : (s.branchTo is t).spawned = s.spawned := rfl
@[simp] theorem Shuttle.branchTo_nthreads (s : Shuttle) (is : Issue) (t : Nat) : (s.branchTo is t).nthreads = s.nthreads := rfl
@[simp] theorem Shuttle.branchTo_core (s : Shuttle) (is : Issue) (t : Nat) : (s.branchTo is t).core = s.core := rfl
@[simp] theorem Shuttle.branchTo_part (s : Shuttle) (is : Issue) (t : Nat) : (s.branchTo is t).part = s.part := rfl
@[simp] theorem Shuttle.branchTo_lane (s : Shuttle) (is : Issue) (t : Nat) : (s.branchTo is t).lane = s.lane := rfl
@[simp] theorem Shuttle.branchTo_slot (s : Shuttle) (is : Issue) (t : Nat) : (s.branchTo is t).slot = s.slot := rfl
@[simp] theorem Shuttle.branchTo_live (s : Shuttle) (is : Issue) (t : Nat) : (s.branchTo is t).live = s.live := rfl
@[simp] theorem Shuttle.branchTo_stopped (s : Shuttle) (is : Issue) (t : Nat) : (s.branchTo is t).stopped = s.stopped := rfl
@[simp] theorem Shuttle.branchTo_fmt (s : Shuttle) (is : Issue) (t : Nat) : (s.branchTo is t).fmt = s.fmt := rfl
@[simp] theorem Shuttle.branchTo_seed (s : Shuttle) (is : Issue) (t : Nat) : (s.branchTo is t).seed = s.seed := rfl
@[simp] theorem Shuttle.branchTo_sregs (s : Shuttle) (is : Issue) (t : Nat) : (s.branchTo is t).sregs = s.sregs := rfl
@[simp] theorem Shuttle.branchTo_vregs (s : Shuttle) (is : Issue) (t : Nat) : (s.branchTo is t).vregs = s.vregs := rfl
@[simp] theorem Shuttle.branchTo_preds (s : Shuttle) (is : Issue) (t : Nat) : (s.branchTo is t).preds = s.preds := rfl
@[simp] theorem Shuttle.branchTo_flags (s : Shuttle) (is : Issue) (t : Nat) : (s.branchTo is t).flags = s.flags := rfl
@[simp] theorem Shuttle.branchTo_counts (s : Shuttle) (is : Issue) (t : Nat) : (s.branchTo is t).counts = s.counts := rfl
@[simp] theorem Shuttle.branchTo_blocks (s : Shuttle) (is : Issue) (t : Nat) : (s.branchTo is t).blocks = s.blocks := rfl
@[simp] theorem Shuttle.branchTo_running (s : Shuttle) (is : Issue) (t : Nat) : (s.branchTo is t).running = s.running := rfl
@[simp] theorem Shuttle.branchTo_frontier (s : Shuttle) (is : Issue) (t : Nat) : (s.branchTo is t).frontier = s.frontier := rfl
@[simp] theorem Shuttle.branchTo_handler (s : Shuttle) (is : Issue) (t : Nat) : (s.branchTo is t).handler = s.handler := rfl
@[simp] theorem Shuttle.branchTo_suspended (s : Shuttle) (is : Issue) (t : Nat) : (s.branchTo is t).suspended = s.suspended := rfl
@[simp] theorem Shuttle.branchTo_traps (s : Shuttle) (is : Issue) (t : Nat) : (s.branchTo is t).traps = s.traps := rfl
@[simp] theorem Shuttle.branchTo_laneFence (s : Shuttle) (is : Issue) (t : Nat) : (s.branchTo is t).laneFence = s.laneFence := rfl
@[simp] theorem Shuttle.branchTo_accs (s : Shuttle) (is : Issue) (t : Nat) : (s.branchTo is t).accs = s.accs := rfl
@[simp] theorem Shuttle.branchTo_regions (s : Shuttle) (is : Issue) (t : Nat) : (s.branchTo is t).regions = s.regions := rfl
@[simp] theorem Shuttle.branchTo_seq (s : Shuttle) (is : Issue) (t : Nat) : (s.branchTo is t).seq = s.seq := rfl
@[simp] theorem Shuttle.branchTo_splits (s : Shuttle) (is : Issue) (t : Nat) : (s.branchTo is t).splits = s.splits := rfl
@[simp] theorem Shuttle.branchTo_arrived (s : Shuttle) (is : Issue) (t : Nat) : (s.branchTo is t).arrived = s.arrived := rfl
@[simp] theorem Shuttle.branchTo_txns (s : Shuttle) (is : Issue) (t : Nat) : (s.branchTo is t).txns = s.txns := rfl
@[simp] theorem Shuttle.branchTo_record (s : Shuttle) (is : Issue) (t : Nat) : (s.branchTo is t).record = s.record := rfl
@[simp] theorem Shuttle.branchTo_exposed (s : Shuttle) (is : Issue) (t : Nat) : (s.branchTo is t).exposed = s.exposed := rfl
@[simp] theorem Shuttle.branchTo_sscw (s : Shuttle) (is : Issue) (t : Nat) : (s.branchTo is t).sscw = s.sscw := rfl
@[simp] theorem Shuttle.branchTo_waiter (s : Shuttle) (is : Issue) (t : Nat) : (s.branchTo is t).waiter = s.waiter := rfl
@[simp] theorem Shuttle.branchTo_pc (s : Shuttle) (is : Issue) (t : Nat) : (s.branchTo is t).pc = t := rfl

/-! ## The device -/

@[simp] theorem Dev.setShuttle_issue (d : Dev) (s : Shuttle) : (d.setShuttle s).issue = d.issue := rfl
@[simp] theorem Dev.setShuttle_tick (d : Dev) (s : Shuttle) : (d.setShuttle s).tick = d.tick := rfl
@[simp] theorem Dev.setShuttle_nextId (d : Dev) (s : Shuttle) : (d.setShuttle s).nextId = d.nextId := rfl
@[simp] theorem Dev.setShuttle_teams (d : Dev) (s : Shuttle) : (d.setShuttle s).teams = d.teams := rfl
@[simp] theorem Dev.setShuttle_launches (d : Dev) (s : Shuttle) : (d.setShuttle s).launches = d.launches := rfl
@[simp] theorem Dev.setShuttle_queues (d : Dev) (s : Shuttle) : (d.setShuttle s).queues = d.queues := rfl
@[simp] theorem Dev.setShuttle_cmds (d : Dev) (s : Shuttle) : (d.setShuttle s).cmds = d.cmds := rfl
@[simp] theorem Dev.setShuttle_signals (d : Dev) (s : Shuttle) : (d.setShuttle s).signals = d.signals := rfl
@[simp] theorem Dev.setShuttle_granules (d : Dev) (s : Shuttle) : (d.setShuttle s).granules = d.granules := rfl
@[simp] theorem Dev.setShuttle_matOps (d : Dev) (s : Shuttle) : (d.setShuttle s).matOps = d.matOps := rfl
@[simp] theorem Dev.setShuttle_tiles (d : Dev) (s : Shuttle) : (d.setShuttle s).tiles = d.tiles := rfl
@[simp] theorem Dev.setShuttle_chains (d : Dev) (s : Shuttle) : (d.setShuttle s).chains = d.chains := rfl
@[simp] theorem Dev.setShuttle_funcs (d : Dev) (s : Shuttle) : (d.setShuttle s).funcs = d.funcs := rfl
@[simp] theorem Dev.setShuttle_parts (d : Dev) (s : Shuttle) : (d.setShuttle s).parts = d.parts := rfl
@[simp] theorem Dev.setShuttle_smode (d : Dev) (s : Shuttle) : (d.setShuttle s).smode = d.smode := rfl
@[simp] theorem Dev.setShuttle_mem (d : Dev) (s : Shuttle) : (d.setShuttle s).mem = d.mem := rfl
@[simp] theorem Dev.setShuttle_poison (d : Dev) (s : Shuttle) : (d.setShuttle s).poison = d.poison := rfl
@[simp] theorem Dev.setShuttle_keyTags (d : Dev) (s : Shuttle) : (d.setShuttle s).keyTags = d.keyTags := rfl
@[simp] theorem Dev.setShuttle_l1 (d : Dev) (s : Shuttle) : (d.setShuttle s).l1 = d.l1 := rfl
@[simp] theorem Dev.setShuttle_tlb (d : Dev) (s : Shuttle) : (d.setShuttle s).tlb = d.tlb := rfl
@[simp] theorem Dev.setShuttle_serialRegs (d : Dev) (s : Shuttle) : (d.setShuttle s).serialRegs = d.serialRegs := rfl
@[simp] theorem Dev.setShuttle_logWait (d : Dev) (s : Shuttle) : (d.setShuttle s).logWait = d.logWait := rfl
@[simp] theorem Dev.setShuttle_tw2m (d : Dev) (s : Shuttle) : (d.setShuttle s).tw2m = d.tw2m := rfl
@[simp] theorem Dev.setShuttle_cycles (d : Dev) (s : Shuttle) : (d.setShuttle s).cycles = d.cycles := rfl
@[simp] theorem Dev.setShuttle_msix (d : Dev) (s : Shuttle) : (d.setShuttle s).msix = d.msix := rfl
@[simp] theorem Dev.setShuttle_scrubbed (d : Dev) (s : Shuttle) : (d.setShuttle s).scrubbed = d.scrubbed := rfl
@[simp] theorem Dev.setShuttle_linkInsecure (d : Dev) (s : Shuttle) : (d.setShuttle s).linkInsecure = d.linkInsecure := rfl
@[simp] theorem Dev.setShuttle_shuttles (d : Dev) (s : Shuttle) :
    (d.setShuttle s).shuttles = putShuttle d.shuttles s := rfl

@[simp] theorem Dev.setTeam_issue (d : Dev) (t : Team) : (d.setTeam t).issue = d.issue := rfl
@[simp] theorem Dev.setTeam_tick (d : Dev) (t : Team) : (d.setTeam t).tick = d.tick := rfl
@[simp] theorem Dev.setTeam_nextId (d : Dev) (t : Team) : (d.setTeam t).nextId = d.nextId := rfl
@[simp] theorem Dev.setTeam_shuttles (d : Dev) (t : Team) : (d.setTeam t).shuttles = d.shuttles := rfl
@[simp] theorem Dev.setTeam_launches (d : Dev) (t : Team) : (d.setTeam t).launches = d.launches := rfl
@[simp] theorem Dev.setTeam_queues (d : Dev) (t : Team) : (d.setTeam t).queues = d.queues := rfl
@[simp] theorem Dev.setTeam_cmds (d : Dev) (t : Team) : (d.setTeam t).cmds = d.cmds := rfl
@[simp] theorem Dev.setTeam_signals (d : Dev) (t : Team) : (d.setTeam t).signals = d.signals := rfl
@[simp] theorem Dev.setTeam_granules (d : Dev) (t : Team) : (d.setTeam t).granules = d.granules := rfl
@[simp] theorem Dev.setTeam_matOps (d : Dev) (t : Team) : (d.setTeam t).matOps = d.matOps := rfl
@[simp] theorem Dev.setTeam_tiles (d : Dev) (t : Team) : (d.setTeam t).tiles = d.tiles := rfl
@[simp] theorem Dev.setTeam_chains (d : Dev) (t : Team) : (d.setTeam t).chains = d.chains := rfl
@[simp] theorem Dev.setTeam_funcs (d : Dev) (t : Team) : (d.setTeam t).funcs = d.funcs := rfl
@[simp] theorem Dev.setTeam_parts (d : Dev) (t : Team) : (d.setTeam t).parts = d.parts := rfl
@[simp] theorem Dev.setTeam_smode (d : Dev) (t : Team) : (d.setTeam t).smode = d.smode := rfl
@[simp] theorem Dev.setTeam_mem (d : Dev) (t : Team) : (d.setTeam t).mem = d.mem := rfl
@[simp] theorem Dev.setTeam_poison (d : Dev) (t : Team) : (d.setTeam t).poison = d.poison := rfl
@[simp] theorem Dev.setTeam_keyTags (d : Dev) (t : Team) : (d.setTeam t).keyTags = d.keyTags := rfl
@[simp] theorem Dev.setTeam_l1 (d : Dev) (t : Team) : (d.setTeam t).l1 = d.l1 := rfl
@[simp] theorem Dev.setTeam_tlb (d : Dev) (t : Team) : (d.setTeam t).tlb = d.tlb := rfl
@[simp] theorem Dev.setTeam_serialRegs (d : Dev) (t : Team) : (d.setTeam t).serialRegs = d.serialRegs := rfl
@[simp] theorem Dev.setTeam_logWait (d : Dev) (t : Team) : (d.setTeam t).logWait = d.logWait := rfl
@[simp] theorem Dev.setTeam_tw2m (d : Dev) (t : Team) : (d.setTeam t).tw2m = d.tw2m := rfl
@[simp] theorem Dev.setTeam_cycles (d : Dev) (t : Team) : (d.setTeam t).cycles = d.cycles := rfl
@[simp] theorem Dev.setTeam_msix (d : Dev) (t : Team) : (d.setTeam t).msix = d.msix := rfl
@[simp] theorem Dev.setTeam_scrubbed (d : Dev) (t : Team) : (d.setTeam t).scrubbed = d.scrubbed := rfl
@[simp] theorem Dev.setTeam_linkInsecure (d : Dev) (t : Team) : (d.setTeam t).linkInsecure = d.linkInsecure := rfl
@[simp] theorem Dev.setTeam_teams (d : Dev) (t : Team) :
    (d.setTeam t).teams = d.teams.map fun x => if x.id == t.id then t else x := rfl

@[simp] theorem Dev.setLaunch_issue (d : Dev) (l : Launch) : (d.setLaunch l).issue = d.issue := rfl
@[simp] theorem Dev.setLaunch_tick (d : Dev) (l : Launch) : (d.setLaunch l).tick = d.tick := rfl
@[simp] theorem Dev.setLaunch_nextId (d : Dev) (l : Launch) : (d.setLaunch l).nextId = d.nextId := rfl
@[simp] theorem Dev.setLaunch_shuttles (d : Dev) (l : Launch) : (d.setLaunch l).shuttles = d.shuttles := rfl
@[simp] theorem Dev.setLaunch_teams (d : Dev) (l : Launch) : (d.setLaunch l).teams = d.teams := rfl
@[simp] theorem Dev.setLaunch_queues (d : Dev) (l : Launch) : (d.setLaunch l).queues = d.queues := rfl
@[simp] theorem Dev.setLaunch_cmds (d : Dev) (l : Launch) : (d.setLaunch l).cmds = d.cmds := rfl
@[simp] theorem Dev.setLaunch_signals (d : Dev) (l : Launch) : (d.setLaunch l).signals = d.signals := rfl
@[simp] theorem Dev.setLaunch_granules (d : Dev) (l : Launch) : (d.setLaunch l).granules = d.granules := rfl
@[simp] theorem Dev.setLaunch_matOps (d : Dev) (l : Launch) : (d.setLaunch l).matOps = d.matOps := rfl
@[simp] theorem Dev.setLaunch_tiles (d : Dev) (l : Launch) : (d.setLaunch l).tiles = d.tiles := rfl
@[simp] theorem Dev.setLaunch_chains (d : Dev) (l : Launch) : (d.setLaunch l).chains = d.chains := rfl
@[simp] theorem Dev.setLaunch_funcs (d : Dev) (l : Launch) : (d.setLaunch l).funcs = d.funcs := rfl
@[simp] theorem Dev.setLaunch_parts (d : Dev) (l : Launch) : (d.setLaunch l).parts = d.parts := rfl
@[simp] theorem Dev.setLaunch_smode (d : Dev) (l : Launch) : (d.setLaunch l).smode = d.smode := rfl
@[simp] theorem Dev.setLaunch_mem (d : Dev) (l : Launch) : (d.setLaunch l).mem = d.mem := rfl
@[simp] theorem Dev.setLaunch_poison (d : Dev) (l : Launch) : (d.setLaunch l).poison = d.poison := rfl
@[simp] theorem Dev.setLaunch_keyTags (d : Dev) (l : Launch) : (d.setLaunch l).keyTags = d.keyTags := rfl
@[simp] theorem Dev.setLaunch_l1 (d : Dev) (l : Launch) : (d.setLaunch l).l1 = d.l1 := rfl
@[simp] theorem Dev.setLaunch_tlb (d : Dev) (l : Launch) : (d.setLaunch l).tlb = d.tlb := rfl
@[simp] theorem Dev.setLaunch_serialRegs (d : Dev) (l : Launch) : (d.setLaunch l).serialRegs = d.serialRegs := rfl
@[simp] theorem Dev.setLaunch_logWait (d : Dev) (l : Launch) : (d.setLaunch l).logWait = d.logWait := rfl
@[simp] theorem Dev.setLaunch_tw2m (d : Dev) (l : Launch) : (d.setLaunch l).tw2m = d.tw2m := rfl
@[simp] theorem Dev.setLaunch_cycles (d : Dev) (l : Launch) : (d.setLaunch l).cycles = d.cycles := rfl
@[simp] theorem Dev.setLaunch_msix (d : Dev) (l : Launch) : (d.setLaunch l).msix = d.msix := rfl
@[simp] theorem Dev.setLaunch_scrubbed (d : Dev) (l : Launch) : (d.setLaunch l).scrubbed = d.scrubbed := rfl
@[simp] theorem Dev.setLaunch_linkInsecure (d : Dev) (l : Launch) : (d.setLaunch l).linkInsecure = d.linkInsecure := rfl
@[simp] theorem Dev.setLaunch_launches (d : Dev) (l : Launch) :
    (d.setLaunch l).launches = d.launches.map fun x => if x.id == l.id then l else x := rfl

@[simp] theorem Dev.setCmd_issue (d : Dev) (c : CopyCmd) : (d.setCmd c).issue = d.issue := rfl
@[simp] theorem Dev.setCmd_tick (d : Dev) (c : CopyCmd) : (d.setCmd c).tick = d.tick := rfl
@[simp] theorem Dev.setCmd_nextId (d : Dev) (c : CopyCmd) : (d.setCmd c).nextId = d.nextId := rfl
@[simp] theorem Dev.setCmd_shuttles (d : Dev) (c : CopyCmd) : (d.setCmd c).shuttles = d.shuttles := rfl
@[simp] theorem Dev.setCmd_teams (d : Dev) (c : CopyCmd) : (d.setCmd c).teams = d.teams := rfl
@[simp] theorem Dev.setCmd_launches (d : Dev) (c : CopyCmd) : (d.setCmd c).launches = d.launches := rfl
@[simp] theorem Dev.setCmd_queues (d : Dev) (c : CopyCmd) : (d.setCmd c).queues = d.queues := rfl
@[simp] theorem Dev.setCmd_signals (d : Dev) (c : CopyCmd) : (d.setCmd c).signals = d.signals := rfl
@[simp] theorem Dev.setCmd_granules (d : Dev) (c : CopyCmd) : (d.setCmd c).granules = d.granules := rfl
@[simp] theorem Dev.setCmd_matOps (d : Dev) (c : CopyCmd) : (d.setCmd c).matOps = d.matOps := rfl
@[simp] theorem Dev.setCmd_tiles (d : Dev) (c : CopyCmd) : (d.setCmd c).tiles = d.tiles := rfl
@[simp] theorem Dev.setCmd_chains (d : Dev) (c : CopyCmd) : (d.setCmd c).chains = d.chains := rfl
@[simp] theorem Dev.setCmd_funcs (d : Dev) (c : CopyCmd) : (d.setCmd c).funcs = d.funcs := rfl
@[simp] theorem Dev.setCmd_parts (d : Dev) (c : CopyCmd) : (d.setCmd c).parts = d.parts := rfl
@[simp] theorem Dev.setCmd_smode (d : Dev) (c : CopyCmd) : (d.setCmd c).smode = d.smode := rfl
@[simp] theorem Dev.setCmd_mem (d : Dev) (c : CopyCmd) : (d.setCmd c).mem = d.mem := rfl
@[simp] theorem Dev.setCmd_poison (d : Dev) (c : CopyCmd) : (d.setCmd c).poison = d.poison := rfl
@[simp] theorem Dev.setCmd_keyTags (d : Dev) (c : CopyCmd) : (d.setCmd c).keyTags = d.keyTags := rfl
@[simp] theorem Dev.setCmd_l1 (d : Dev) (c : CopyCmd) : (d.setCmd c).l1 = d.l1 := rfl
@[simp] theorem Dev.setCmd_tlb (d : Dev) (c : CopyCmd) : (d.setCmd c).tlb = d.tlb := rfl
@[simp] theorem Dev.setCmd_serialRegs (d : Dev) (c : CopyCmd) : (d.setCmd c).serialRegs = d.serialRegs := rfl
@[simp] theorem Dev.setCmd_logWait (d : Dev) (c : CopyCmd) : (d.setCmd c).logWait = d.logWait := rfl
@[simp] theorem Dev.setCmd_tw2m (d : Dev) (c : CopyCmd) : (d.setCmd c).tw2m = d.tw2m := rfl
@[simp] theorem Dev.setCmd_cycles (d : Dev) (c : CopyCmd) : (d.setCmd c).cycles = d.cycles := rfl
@[simp] theorem Dev.setCmd_msix (d : Dev) (c : CopyCmd) : (d.setCmd c).msix = d.msix := rfl
@[simp] theorem Dev.setCmd_scrubbed (d : Dev) (c : CopyCmd) : (d.setCmd c).scrubbed = d.scrubbed := rfl
@[simp] theorem Dev.setCmd_linkInsecure (d : Dev) (c : CopyCmd) : (d.setCmd c).linkInsecure = d.linkInsecure := rfl
@[simp] theorem Dev.setCmd_cmds (d : Dev) (c : CopyCmd) :
    (d.setCmd c).cmds = d.cmds.map fun x => if x.id == c.id then c else x := rfl

@[simp] theorem Dev.setQueue_issue (d : Dev) (q : Queue) : (d.setQueue q).issue = d.issue := rfl
@[simp] theorem Dev.setQueue_tick (d : Dev) (q : Queue) : (d.setQueue q).tick = d.tick := rfl
@[simp] theorem Dev.setQueue_nextId (d : Dev) (q : Queue) : (d.setQueue q).nextId = d.nextId := rfl
@[simp] theorem Dev.setQueue_shuttles (d : Dev) (q : Queue) : (d.setQueue q).shuttles = d.shuttles := rfl
@[simp] theorem Dev.setQueue_teams (d : Dev) (q : Queue) : (d.setQueue q).teams = d.teams := rfl
@[simp] theorem Dev.setQueue_launches (d : Dev) (q : Queue) : (d.setQueue q).launches = d.launches := rfl
@[simp] theorem Dev.setQueue_cmds (d : Dev) (q : Queue) : (d.setQueue q).cmds = d.cmds := rfl
@[simp] theorem Dev.setQueue_signals (d : Dev) (q : Queue) : (d.setQueue q).signals = d.signals := rfl
@[simp] theorem Dev.setQueue_granules (d : Dev) (q : Queue) : (d.setQueue q).granules = d.granules := rfl
@[simp] theorem Dev.setQueue_matOps (d : Dev) (q : Queue) : (d.setQueue q).matOps = d.matOps := rfl
@[simp] theorem Dev.setQueue_tiles (d : Dev) (q : Queue) : (d.setQueue q).tiles = d.tiles := rfl
@[simp] theorem Dev.setQueue_chains (d : Dev) (q : Queue) : (d.setQueue q).chains = d.chains := rfl
@[simp] theorem Dev.setQueue_funcs (d : Dev) (q : Queue) : (d.setQueue q).funcs = d.funcs := rfl
@[simp] theorem Dev.setQueue_parts (d : Dev) (q : Queue) : (d.setQueue q).parts = d.parts := rfl
@[simp] theorem Dev.setQueue_smode (d : Dev) (q : Queue) : (d.setQueue q).smode = d.smode := rfl
@[simp] theorem Dev.setQueue_mem (d : Dev) (q : Queue) : (d.setQueue q).mem = d.mem := rfl
@[simp] theorem Dev.setQueue_poison (d : Dev) (q : Queue) : (d.setQueue q).poison = d.poison := rfl
@[simp] theorem Dev.setQueue_keyTags (d : Dev) (q : Queue) : (d.setQueue q).keyTags = d.keyTags := rfl
@[simp] theorem Dev.setQueue_l1 (d : Dev) (q : Queue) : (d.setQueue q).l1 = d.l1 := rfl
@[simp] theorem Dev.setQueue_tlb (d : Dev) (q : Queue) : (d.setQueue q).tlb = d.tlb := rfl
@[simp] theorem Dev.setQueue_serialRegs (d : Dev) (q : Queue) : (d.setQueue q).serialRegs = d.serialRegs := rfl
@[simp] theorem Dev.setQueue_logWait (d : Dev) (q : Queue) : (d.setQueue q).logWait = d.logWait := rfl
@[simp] theorem Dev.setQueue_tw2m (d : Dev) (q : Queue) : (d.setQueue q).tw2m = d.tw2m := rfl
@[simp] theorem Dev.setQueue_cycles (d : Dev) (q : Queue) : (d.setQueue q).cycles = d.cycles := rfl
@[simp] theorem Dev.setQueue_msix (d : Dev) (q : Queue) : (d.setQueue q).msix = d.msix := rfl
@[simp] theorem Dev.setQueue_scrubbed (d : Dev) (q : Queue) : (d.setQueue q).scrubbed = d.scrubbed := rfl
@[simp] theorem Dev.setQueue_linkInsecure (d : Dev) (q : Queue) : (d.setQueue q).linkInsecure = d.linkInsecure := rfl
@[simp] theorem Dev.setQueue_queues (d : Dev) (q : Queue) :
    (d.setQueue q).queues = d.queues.map fun x => if x.id == q.id then q else x := rfl

@[simp] theorem Dev.setFunc_issue (d : Dev) (fn : Nat) (f : Func) : (d.setFunc fn f).issue = d.issue := rfl
@[simp] theorem Dev.setFunc_tick (d : Dev) (fn : Nat) (f : Func) : (d.setFunc fn f).tick = d.tick := rfl
@[simp] theorem Dev.setFunc_nextId (d : Dev) (fn : Nat) (f : Func) : (d.setFunc fn f).nextId = d.nextId := rfl
@[simp] theorem Dev.setFunc_shuttles (d : Dev) (fn : Nat) (f : Func) : (d.setFunc fn f).shuttles = d.shuttles := rfl
@[simp] theorem Dev.setFunc_teams (d : Dev) (fn : Nat) (f : Func) : (d.setFunc fn f).teams = d.teams := rfl
@[simp] theorem Dev.setFunc_launches (d : Dev) (fn : Nat) (f : Func) : (d.setFunc fn f).launches = d.launches := rfl
@[simp] theorem Dev.setFunc_queues (d : Dev) (fn : Nat) (f : Func) : (d.setFunc fn f).queues = d.queues := rfl
@[simp] theorem Dev.setFunc_cmds (d : Dev) (fn : Nat) (f : Func) : (d.setFunc fn f).cmds = d.cmds := rfl
@[simp] theorem Dev.setFunc_signals (d : Dev) (fn : Nat) (f : Func) : (d.setFunc fn f).signals = d.signals := rfl
@[simp] theorem Dev.setFunc_granules (d : Dev) (fn : Nat) (f : Func) : (d.setFunc fn f).granules = d.granules := rfl
@[simp] theorem Dev.setFunc_matOps (d : Dev) (fn : Nat) (f : Func) : (d.setFunc fn f).matOps = d.matOps := rfl
@[simp] theorem Dev.setFunc_tiles (d : Dev) (fn : Nat) (f : Func) : (d.setFunc fn f).tiles = d.tiles := rfl
@[simp] theorem Dev.setFunc_chains (d : Dev) (fn : Nat) (f : Func) : (d.setFunc fn f).chains = d.chains := rfl
@[simp] theorem Dev.setFunc_parts (d : Dev) (fn : Nat) (f : Func) : (d.setFunc fn f).parts = d.parts := rfl
@[simp] theorem Dev.setFunc_smode (d : Dev) (fn : Nat) (f : Func) : (d.setFunc fn f).smode = d.smode := rfl
@[simp] theorem Dev.setFunc_mem (d : Dev) (fn : Nat) (f : Func) : (d.setFunc fn f).mem = d.mem := rfl
@[simp] theorem Dev.setFunc_poison (d : Dev) (fn : Nat) (f : Func) : (d.setFunc fn f).poison = d.poison := rfl
@[simp] theorem Dev.setFunc_keyTags (d : Dev) (fn : Nat) (f : Func) : (d.setFunc fn f).keyTags = d.keyTags := rfl
@[simp] theorem Dev.setFunc_l1 (d : Dev) (fn : Nat) (f : Func) : (d.setFunc fn f).l1 = d.l1 := rfl
@[simp] theorem Dev.setFunc_tlb (d : Dev) (fn : Nat) (f : Func) : (d.setFunc fn f).tlb = d.tlb := rfl
@[simp] theorem Dev.setFunc_serialRegs (d : Dev) (fn : Nat) (f : Func) : (d.setFunc fn f).serialRegs = d.serialRegs := rfl
@[simp] theorem Dev.setFunc_logWait (d : Dev) (fn : Nat) (f : Func) : (d.setFunc fn f).logWait = d.logWait := rfl
@[simp] theorem Dev.setFunc_tw2m (d : Dev) (fn : Nat) (f : Func) : (d.setFunc fn f).tw2m = d.tw2m := rfl
@[simp] theorem Dev.setFunc_cycles (d : Dev) (fn : Nat) (f : Func) : (d.setFunc fn f).cycles = d.cycles := rfl
@[simp] theorem Dev.setFunc_msix (d : Dev) (fn : Nat) (f : Func) : (d.setFunc fn f).msix = d.msix := rfl
@[simp] theorem Dev.setFunc_scrubbed (d : Dev) (fn : Nat) (f : Func) : (d.setFunc fn f).scrubbed = d.scrubbed := rfl
@[simp] theorem Dev.setFunc_linkInsecure (d : Dev) (fn : Nat) (f : Func) : (d.setFunc fn f).linkInsecure = d.linkInsecure := rfl
@[simp] theorem Dev.setFunc_funcs (d : Dev) (fn : Nat) (f : Func) :
    (d.setFunc fn f).funcs = insK d.funcs fn f := rfl

@[simp] theorem Dev.setPart_issue (d : Dev) (p : Nat) (v : Part) : (d.setPart p v).issue = d.issue := rfl
@[simp] theorem Dev.setPart_tick (d : Dev) (p : Nat) (v : Part) : (d.setPart p v).tick = d.tick := rfl
@[simp] theorem Dev.setPart_nextId (d : Dev) (p : Nat) (v : Part) : (d.setPart p v).nextId = d.nextId := rfl
@[simp] theorem Dev.setPart_shuttles (d : Dev) (p : Nat) (v : Part) : (d.setPart p v).shuttles = d.shuttles := rfl
@[simp] theorem Dev.setPart_teams (d : Dev) (p : Nat) (v : Part) : (d.setPart p v).teams = d.teams := rfl
@[simp] theorem Dev.setPart_launches (d : Dev) (p : Nat) (v : Part) : (d.setPart p v).launches = d.launches := rfl
@[simp] theorem Dev.setPart_queues (d : Dev) (p : Nat) (v : Part) : (d.setPart p v).queues = d.queues := rfl
@[simp] theorem Dev.setPart_cmds (d : Dev) (p : Nat) (v : Part) : (d.setPart p v).cmds = d.cmds := rfl
@[simp] theorem Dev.setPart_signals (d : Dev) (p : Nat) (v : Part) : (d.setPart p v).signals = d.signals := rfl
@[simp] theorem Dev.setPart_granules (d : Dev) (p : Nat) (v : Part) : (d.setPart p v).granules = d.granules := rfl
@[simp] theorem Dev.setPart_matOps (d : Dev) (p : Nat) (v : Part) : (d.setPart p v).matOps = d.matOps := rfl
@[simp] theorem Dev.setPart_tiles (d : Dev) (p : Nat) (v : Part) : (d.setPart p v).tiles = d.tiles := rfl
@[simp] theorem Dev.setPart_chains (d : Dev) (p : Nat) (v : Part) : (d.setPart p v).chains = d.chains := rfl
@[simp] theorem Dev.setPart_funcs (d : Dev) (p : Nat) (v : Part) : (d.setPart p v).funcs = d.funcs := rfl
@[simp] theorem Dev.setPart_smode (d : Dev) (p : Nat) (v : Part) : (d.setPart p v).smode = d.smode := rfl
@[simp] theorem Dev.setPart_mem (d : Dev) (p : Nat) (v : Part) : (d.setPart p v).mem = d.mem := rfl
@[simp] theorem Dev.setPart_poison (d : Dev) (p : Nat) (v : Part) : (d.setPart p v).poison = d.poison := rfl
@[simp] theorem Dev.setPart_keyTags (d : Dev) (p : Nat) (v : Part) : (d.setPart p v).keyTags = d.keyTags := rfl
@[simp] theorem Dev.setPart_l1 (d : Dev) (p : Nat) (v : Part) : (d.setPart p v).l1 = d.l1 := rfl
@[simp] theorem Dev.setPart_tlb (d : Dev) (p : Nat) (v : Part) : (d.setPart p v).tlb = d.tlb := rfl
@[simp] theorem Dev.setPart_serialRegs (d : Dev) (p : Nat) (v : Part) : (d.setPart p v).serialRegs = d.serialRegs := rfl
@[simp] theorem Dev.setPart_logWait (d : Dev) (p : Nat) (v : Part) : (d.setPart p v).logWait = d.logWait := rfl
@[simp] theorem Dev.setPart_tw2m (d : Dev) (p : Nat) (v : Part) : (d.setPart p v).tw2m = d.tw2m := rfl
@[simp] theorem Dev.setPart_cycles (d : Dev) (p : Nat) (v : Part) : (d.setPart p v).cycles = d.cycles := rfl
@[simp] theorem Dev.setPart_msix (d : Dev) (p : Nat) (v : Part) : (d.setPart p v).msix = d.msix := rfl
@[simp] theorem Dev.setPart_scrubbed (d : Dev) (p : Nat) (v : Part) : (d.setPart p v).scrubbed = d.scrubbed := rfl
@[simp] theorem Dev.setPart_linkInsecure (d : Dev) (p : Nat) (v : Part) : (d.setPart p v).linkInsecure = d.linkInsecure := rfl
@[simp] theorem Dev.setPart_parts (d : Dev) (p : Nat) (v : Part) :
    (d.setPart p v).parts = insK d.parts p v := rfl

/-! ## The state -/

@[simp] theorem State.setShuttle_agenda (s : State) (sh : Shuttle) : (s.setShuttle sh).agenda = s.agenda := rfl
@[simp] theorem State.setShuttle_pending (s : State) (sh : Shuttle) : (s.setShuttle sh).pending = s.pending := rfl
@[simp] theorem State.setShuttle_lease (s : State) (sh : Shuttle) : (s.setShuttle sh).lease = s.lease := rfl
@[simp] theorem State.setShuttle_harts (s : State) (sh : Shuttle) : (s.setShuttle sh).harts = s.harts := rfl
@[simp] theorem State.setShuttle_board (s : State) (sh : Shuttle) : (s.setShuttle sh).board = s.board := rfl
@[simp] theorem State.setShuttle_ages (s : State) (sh : Shuttle) : (s.setShuttle sh).ages = s.ages := rfl

@[simp] theorem State.ticked_agenda (s : State) : (s.ticked).agenda = s.agenda := rfl
@[simp] theorem State.ticked_pending (s : State) : (s.ticked).pending = s.pending := rfl
@[simp] theorem State.ticked_lease (s : State) : (s.ticked).lease = s.lease := rfl
@[simp] theorem State.ticked_harts (s : State) : (s.ticked).harts = s.harts := rfl
@[simp] theorem State.ticked_board (s : State) : (s.ticked).board = s.board := rfl
@[simp] theorem State.ticked_ages (s : State) : (s.ticked).ages = s.ages := rfl

@[simp] theorem State.issuing_agenda (s : State) (is : Issue) : (s.issuing is).agenda = s.agenda := rfl
@[simp] theorem State.issuing_pending (s : State) (is : Issue) : (s.issuing is).pending = s.pending := rfl
@[simp] theorem State.issuing_lease (s : State) (is : Issue) : (s.issuing is).lease = s.lease := rfl
@[simp] theorem State.issuing_harts (s : State) (is : Issue) : (s.issuing is).harts = s.harts := rfl
@[simp] theorem State.issuing_board (s : State) (is : Issue) : (s.issuing is).board = s.board := rfl
@[simp] theorem State.issuing_ages (s : State) (is : Issue) : (s.issuing is).ages = s.ages := rfl

@[simp] theorem State.unissued_agenda (s : State) : (s.unissued).agenda = s.agenda := rfl
@[simp] theorem State.unissued_pending (s : State) : (s.unissued).pending = s.pending := rfl
@[simp] theorem State.unissued_lease (s : State) : (s.unissued).lease = s.lease := rfl
@[simp] theorem State.unissued_harts (s : State) : (s.unissued).harts = s.harts := rfl
@[simp] theorem State.unissued_board (s : State) : (s.unissued).board = s.board := rfl
@[simp] theorem State.unissued_ages (s : State) : (s.unissued).ages = s.ages := rfl

@[simp] theorem State.setHart_agenda (s : State) (i : Nat) (h : Hart) : (s.setHart i h).agenda = s.agenda := rfl
@[simp] theorem State.setHart_pending (s : State) (i : Nat) (h : Hart) : (s.setHart i h).pending = s.pending := rfl
@[simp] theorem State.setHart_dev (s : State) (i : Nat) (h : Hart) : (s.setHart i h).dev = s.dev := rfl
@[simp] theorem State.setHart_lease (s : State) (i : Nat) (h : Hart) : (s.setHart i h).lease = s.lease := rfl
@[simp] theorem State.setHart_board (s : State) (i : Nat) (h : Hart) : (s.setHart i h).board = s.board := rfl
@[simp] theorem State.setHart_ages (s : State) (i : Nat) (h : Hart) : (s.setHart i h).ages = s.ages := rfl
@[simp] theorem State.setHart_harts (s : State) (i : Nat) (h : Hart) : (s.setHart i h).harts = s.harts.set i h := rfl

@[simp] theorem State.setShuttle_dev (s : State) (sh : Shuttle) : (s.setShuttle sh).dev = s.dev.setShuttle sh := rfl
@[simp] theorem State.issuing_issue (s : State) (is : Issue) : (s.issuing is).dev.issue = some is := rfl
@[simp] theorem State.unissued_issue (s : State) : s.unissued.dev.issue = none := rfl
@[simp] theorem State.ticked_tick (s : State) : s.ticked.dev.tick = s.dev.tick + 1 := rfl
@[simp] theorem State.ticked_issue (s : State) : s.ticked.dev.issue = s.dev.issue := rfl
@[simp] theorem State.ticked_mem (s : State) : s.ticked.dev.mem = s.dev.mem := rfl

end Sys2Proof.Machine
end

