-- ==== Sys2Proof/Laws/Device.lean ====
section
/-!
SUPPORT. What shared operations of the device, of the frontier and of a firmware hart can do, so that no proof unfolds them.
-/
namespace Sys2Proof.Machine

/-- What comes from outside always has a next state, and does nothing to a device that is halted or without power. -/
theorem execOutside_cases (x : Outside) (s : State) :
    (s.up = true ∧ execOutside x s = .next (s.outsideUp x)) ∨ (s.up = false ∧ execOutside x s = .next s) := by
  cases h : s.up <;> simp [execOutside, h]

/-- An entry that joins the frontier is empty and leaves it, stands behind the others, or is one with an entry that it merges
with. -/
theorem joinFrontier_cases (lcode : List Nat) (fr : List Entry) (e : Entry) :
    (e.beats = [] ∧ joinFrontier lcode fr e = fr) ∨
    ((∀ x ∈ fr, x.merges lcode e = false) ∧ joinFrontier lcode fr e = fr ++ [e]) ∨
    ∃ x ∈ fr, x.merges lcode e = true ∧ joinFrontier lcode fr e = (fr.filter fun y => y.beats != x.beats) ++ [x.merge e] := by
  unfold joinFrontier
  split
  · next h => exact .inl ⟨by simpa using h, rfl⟩
  · split
    · next h => exact .inr (.inl ⟨by simpa using h, rfl⟩)
    · next x h => exact .inr (.inr ⟨x, List.mem_of_find?_eq_some h, by have := List.find?_some h; exact this, rfl⟩)

/-- An exception is taken in S mode when it is delegated from a lower mode, else in M mode; the registers of the program stay. -/
theorem Hart.take_cases (h : Hart) (cause tval : Nat) :
    (h.mode ≠ .m ∧ bit h.medeleg cause = true ∧ (h.take cause tval).mode = .s ∧ (h.take cause tval).sepc = h.pc ∧
      (h.take cause tval).scause = cause ∧ (h.take cause tval).stval = tval ∧ (h.take cause tval).pc = h.stvec / 4 * 4) ∨
    ((h.mode = .m ∨ bit h.medeleg cause = false) ∧ (h.take cause tval).mode = .m ∧ (h.take cause tval).mepc = h.pc ∧
      (h.take cause tval).mcause = cause ∧ (h.take cause tval).mtval = tval ∧ (h.take cause tval).pc = h.mtvec / 4 * 4) := by
  unfold Hart.take
  cases hb : bit h.medeleg cause <;> by_cases hm : h.mode = .m <;> simp [hm]

theorem Hart.take_frame (h : Hart) (cause tval : Nat) :
    (h.take cause tval).xregs = h.xregs ∧ (h.take cause tval).fregs = h.fregs ∧ (h.take cause tval).pmpcfg = h.pmpcfg ∧
      (h.take cause tval).pmpaddr = h.pmpaddr ∧ (h.take cause tval).satp = h.satp ∧ (h.take cause tval).loaded = h.loaded := by
  unfold Hart.take
  split <;> exact ⟨rfl, rfl, rfl, rfl, rfl, rfl⟩

/-- x0 stays zero. -/
@[simp] theorem Hart.setX_zero (h : Hart) (v : Nat) : h.setX 0 v = h := rfl

/-- The boot ROM moves no state of the board. -/
@[simp] theorem boot_board (s : State) : s.boot.board = s.board := by
  unfold State.boot State.loadImage
  dsimp only
  split <;> rfl

end Sys2Proof.Machine
end

