-- ==== Sys2Proof/Laws/Lists.lean ====
section
/-!
SUPPORT. What the lists keyed by number do: a read after a write, and the canonical form (rising keys, no default value),
which every operation of the byte memory keeps.
-/
namespace Sys2Proof.Machine

variable {α : Type}

/-! ## Reads after writes -/

theorem getK_insK (d : α) (m : List (Nat × α)) (k : Nat) (v : α) (j : Nat) :
    getK d (insK m k v) j = if j = k then v else getK d m j := by
  induction m with
  | nil =>
    by_cases h : j = k
    · simp [insK, getK, h]
    · simp [insK, getK, h, Ne.symm h]
  | cons p m ih =>
    obtain ⟨k', v'⟩ := p
    simp only [insK]
    split
    · by_cases h : j = k
      · simp [getK, h]
      · simp [getK, h, Ne.symm h]
    · split
      · next _ h' =>
        obtain rfl : k' = k := by simpa using h'
        by_cases h : j = k'
        · simp [getK, h]
        · simp [getK, h, Ne.symm h]
      · next _ h' =>
        by_cases h : j = k
        · subst h
          simp only [getK, if_neg h', ih, if_pos]
        · simp only [getK, ih, if_neg h]

theorem getK_delK (d : α) (m : List (Nat × α)) (k j : Nat) :
    getK d (delK m k) j = if j = k then d else getK d m j := by
  induction m with
  | nil => simp [delK, getK]
  | cons p m ih =>
    obtain ⟨k', v'⟩ := p
    simp only [delK]
    split
    · next h' =>
      obtain rfl : k' = k := by simpa using h'
      rw [ih]
      by_cases h : j = k'
      · simp [h]
      · simp [getK, h, Ne.symm h]
    · next h' =>
      by_cases h : j = k
      · subst h
        simp only [getK, if_neg h', ih, if_pos]
      · simp only [getK, ih, if_neg h]

theorem getK_putK [DecidableEq α] (d : α) (m : List (Nat × α)) (k : Nat) (v : α) (j : Nat) :
    getK d (putK d m k v) j = if j = k then v else getK d m j := by
  unfold putK
  split
  · next h => rw [getK_delK, h]
  · rw [getK_insK]

/-! ## Registers -/

@[simp] theorem Shuttle.sreg_setSreg (s : Shuttle) (n : Nat) (c : RegCell) (j : Nat) :
    (s.setSreg n c).sreg j = if j = n then c else s.sreg j := getK_putK _ _ _ _ _

theorem vkey_inj {b n b' n' : Nat} (h : n < 1024) (h' : n' < 1024) (e : vkey b n = vkey b' n') : b = b' ∧ n = n' := by
  unfold vkey at e
  omega

@[simp] theorem Shuttle.vreg_setVreg (s : Shuttle) (b n : Nat) (c : RegCell) (b' n' : Nat) :
    (s.setVreg b n c).vreg b' n' = if vkey b' n' = vkey b n then c else s.vreg b' n' := getK_putK _ _ _ _ _

@[simp] theorem Shuttle.flag_setFlag (s : Shuttle) (b v b' : Nat) :
    (s.setFlag b v).flag b' = if b' = b then v else s.flag b' := getK_putK _ _ _ _ _

@[simp] theorem Dev.func_setFunc (d : Dev) (fn : Nat) (f : Func) (fn' : Nat) :
    (d.setFunc fn f).func fn' = if fn' = fn then f else d.func fn' := getK_insK _ _ _ _ _

@[simp] theorem Dev.part_setPart (d : Dev) (p : Nat) (v : Part) (p' : Nat) :
    (d.setPart p v).part p' = if p' = p then v else d.part p' := getK_insK _ _ _ _ _

@[simp] theorem readByte_writeByte (m : Memory) (a : Nat) (b : Byte) (j : Nat) :
    readByte (writeByte m a b) j = if j = a then b else readByte m j := getK_putK _ _ _ _ _

/-- A byte outside a written range reads as before. -/
theorem readByte_writeBytes_outside (m : Memory) (a : Nat) (bs : List Byte) (j : Nat)
    (h : j < a ∨ a + bs.length ≤ j) : readByte (writeBytes m a bs) j = readByte m j := by
  induction bs generalizing m a with
  | nil => rfl
  | cons b bs ih =>
    simp only [List.length_cons] at h
    rw [writeBytes, ih _ _ (by omega), readByte_writeByte, if_neg (by omega)]

/-- A written byte reads as written. -/
theorem readByte_writeBytes_inside (m : Memory) (a : Nat) (bs : List Byte) (k : Nat) (h : k < bs.length) :
    readByte (writeBytes m a bs) (a + k) = bs[k] := by
  induction bs generalizing m a k with
  | nil => simp at h
  | cons b bs ih =>
    rw [writeBytes]
    cases k with
    | zero => rw [readByte_writeBytes_outside _ _ _ _ (.inl (by omega))]; simp
    | succ k =>
      have e : a + (k + 1) = a + 1 + k := by omega
      rw [e, ih _ _ _ (by simpa using h)]
      rfl

/-! ## The canonical form -/

theorem mem_delK {m : List (Nat × α)} {k : Nat} {p : Nat × α} (h : p ∈ delK m k) : p ∈ m := by
  induction m with
  | nil => simp [delK] at h
  | cons q m ih =>
    obtain ⟨k', v'⟩ := q
    simp only [delK] at h
    split at h
    · exact List.mem_cons_of_mem _ (ih h)
    · rcases List.mem_cons.mp h with h | h
      · simp [h]
      · exact List.mem_cons_of_mem _ (ih h)

theorem mem_insK {m : List (Nat × α)} {k : Nat} {v : α} {p : Nat × α} (h : p ∈ insK m k v) : p ∈ m ∨ p = (k, v) := by
  induction m with
  | nil => simp [insK] at h; exact .inr h
  | cons q m ih =>
    obtain ⟨k', v'⟩ := q
    simp only [insK] at h
    split at h
    · rcases List.mem_cons.mp h with h | h
      · exact .inr h
      · exact .inl h
    · split at h
      · rcases List.mem_cons.mp h with h | h
        · exact .inr h
        · exact .inl (List.mem_cons_of_mem _ h)
      · rcases List.mem_cons.mp h with h | h
        · exact .inl (by simp [h])
        · rcases ih h with h | h
          · exact .inl (List.mem_cons_of_mem _ h)
          · exact .inr h

theorem sparseWf_nil (d : α) : SparseWf d ([] : List (Nat × α)) := ⟨.nil, by simp⟩

theorem sparseWf_cons {d : α} {k : Nat} {v : α} {m : List (Nat × α)} :
    SparseWf d ((k, v) :: m) ↔ v ≠ d ∧ (∀ p ∈ m, k < p.1) ∧ SparseWf d m := by
  simp only [SparseWf, List.pairwise_cons, List.forall_mem_cons]
  exact ⟨fun ⟨⟨h1, h2⟩, h3, h4⟩ => ⟨h3, h1, h2, h4⟩, fun ⟨h3, h1, h2, h4⟩ => ⟨⟨h1, h2⟩, h3, h4⟩⟩

theorem sparseWf_delK {d : α} {m : List (Nat × α)} (h : SparseWf d m) (k : Nat) : SparseWf d (delK m k) := by
  induction m with
  | nil => exact h
  | cons q m ih =>
    obtain ⟨k', v'⟩ := q
    obtain ⟨h1, h2, h3⟩ := sparseWf_cons.1 h
    simp only [delK]
    split
    · exact ih h3
    · exact sparseWf_cons.2 ⟨h1, fun p hp => h2 p (mem_delK hp), ih h3⟩

theorem sparseWf_insK {d : α} {m : List (Nat × α)} (h : SparseWf d m) (k : Nat) {v : α} (hv : v ≠ d) :
    SparseWf d (insK m k v) := by
  induction m with
  | nil => exact sparseWf_cons.2 ⟨hv, by simp, sparseWf_nil d⟩
  | cons q m ih =>
    obtain ⟨k', v'⟩ := q
    obtain ⟨h1, h2, h3⟩ := sparseWf_cons.1 h
    simp only [insK]
    split
    · next hlt =>
      refine sparseWf_cons.2 ⟨hv, fun p hp => ?_, h⟩
      rcases List.mem_cons.mp hp with hp | hp
      · simpa [hp] using hlt
      · exact Nat.lt_trans hlt (h2 p hp)
    · next hge =>
      split
      · next he =>
        obtain rfl : k' = k := by simpa using he
        exact sparseWf_cons.2 ⟨hv, h2, h3⟩
      · next hne =>
        have hne : k' ≠ k := by simpa using hne
        refine sparseWf_cons.2 ⟨h1, fun p hp => ?_, ih h3⟩
        rcases mem_insK hp with hp | hp
        · exact h2 p hp
        · rw [hp]; omega

theorem sparseWf_putK [DecidableEq α] {d : α} {m : List (Nat × α)} (h : SparseWf d m) (k : Nat) (v : α) :
    SparseWf d (putK d m k v) := by
  unfold putK
  split
  · exact sparseWf_delK h k
  · next hv => exact sparseWf_insK h k hv

theorem sparseWf_filter {d : α} {m : List (Nat × α)} (h : SparseWf d m) (f : Nat × α → Bool) : SparseWf d (m.filter f) :=
  ⟨h.1.filter f, fun p hp => h.2 p (List.mem_filter.mp hp).1⟩

/-- Writing a byte keeps the canonical form. -/
theorem wf_writeByte {m : Memory} (h : Memory.wf m) (a : Nat) (b : Byte) : Memory.wf (writeByte m a b) :=
  sparseWf_putK h a b

/-- Writing bytes keeps the canonical form. -/
theorem wf_writeBytes {m : Memory} (h : Memory.wf m) (a : Nat) (bs : List Byte) : Memory.wf (writeBytes m a bs) := by
  induction bs generalizing m a with
  | nil => exact h
  | cons b bs ih => exact ih (wf_writeByte h a b) (a + 1)

/-- Blanking a range keeps the canonical form. -/
theorem wf_eraseRange {m : Memory} (h : Memory.wf m) (lo n : Nat) : Memory.wf (eraseRange m lo n) :=
  sparseWf_filter h _

/-- Bringing a line under a key keeps the canonical form. -/
theorem wf_rekeyLine {d : Dev} (h : Memory.wf d.mem) (k : Key) (line : Nat) : Memory.wf (d.rekeyLine k line).mem := by
  unfold Dev.rekeyLine
  dsimp only
  split
  · exact h
  · exact wf_writeBytes h _ _

theorem wf_rekeyLines {d : Dev} (h : Memory.wf d.mem) (k : Key) (lines : List Nat) :
    Memory.wf (lines.foldl (fun d l => d.rekeyLine k l) d).mem := by
  induction lines generalizing d with
  | nil => exact h
  | cons l ls ih => exact ih (wf_rekeyLine h k l)

/-- A write under a key keeps the canonical form. -/
theorem wf_writeUnder {d : Dev} (h : Memory.wf d.mem) (k : Option Key) (key : Nat) (bs : List Byte) :
    Memory.wf (d.writeUnder k key bs).mem := by
  cases k with
  | none => exact wf_writeBytes h _ _
  | some k => exact wf_writeBytes (wf_rekeyLines h k _) _ _

/-- A write at a home keeps the canonical form. -/
theorem wf_homeWrite {d : Dev} (h : Memory.wf d.mem) (k : Option Key) (key : Nat) (bs : List Byte) :
    Memory.wf (d.homeWrite k key bs).mem := wf_writeUnder h k key bs

theorem wf_setFunc {d : Dev} (h : Memory.wf d.mem) (fn : Nat) (f : Func) : Memory.wf (d.setFunc fn f).mem := h

/-- A write to a reserved area keeps the canonical form. -/
theorem wf_writeReserved {d : Dev} (h : Memory.wf d.mem) (fn pa : Nat) (bs : List Byte) :
    Memory.wf (d.writeReserved fn pa bs).mem := by
  unfold Dev.writeReserved
  split
  · exact wf_homeWrite h _ _ _
  · exact h

/-- Posting an error record keeps the canonical form. -/
theorem wf_postError {d : Dev} (h : Memory.wf d.mem) (fn : Nat) (e : ErrorInfo) : Memory.wf (d.postError fn e).mem := by
  have key : ∀ (b : Bool) (f g : Func) (pa : Nat) (bs : List Byte),
      Memory.wf (if b = true then d.setFunc fn f else (d.setFunc fn g).writeReserved fn pa bs).mem := by
    intro b f g pa bs
    split
    · exact h
    · exact wf_writeReserved (d := d.setFunc fn g) h _ _ _
  exact key _ _ _ _ _

/-- Ending a team keeps the canonical form. -/
theorem wf_terminate {d : Dev} (h : Memory.wf d.mem) (s : Shuttle) (kind cause sub detail : Nat)
    (image copy : List Nat) (moved : Nat) : Memory.wf (d.terminate s kind cause sub detail image copy moved).mem := by
  unfold Dev.terminate
  split
  · exact h
  · split
    · exact h
    · split
      · exact h
      · exact wf_postError h _ _

/-- A trap keeps the canonical form. -/
theorem wf_trap {d : Dev} (h : Memory.wf d.mem) (s : Shuttle) (has : Bool) (off : Nat) (t : TrapInfo) (susp : Suspended) :
    Memory.wf (d.trap s has off t susp).mem := by
  unfold Dev.trap
  split
  · exact wf_terminate h _ _ _ _ _ _ _ _
  · split
    · exact h
    · exact wf_terminate h _ _ _ _ _ _ _ _

end Sys2Proof.Machine
end

