-- ==== Sys2Proof/Laws/PerInstr.lean ====
section
/-!
SUPPORT. For every instruction: the words of its encoding are 32-bit words, and no instruction takes more than three
(spec/04 R85, R87, R88, R90).
-/
namespace Sys2Proof.Laws

set_option Elab.async false
set_option linter.unusedSimpArgs false

theorem low_lt_pow (w : Nat) (i : Int) : low w i < 2 ^ w := by
  unfold low
  have h : (0 : Int) < 2 ^ w := Int.pow_pos (by decide)
  have h1 := Int.emod_nonneg i (Int.ne_of_gt h)
  have h2 := Int.emod_lt_of_pos i h
  rw [Int.toNat_lt h1, Int.natCast_pow]
  exact h2

theorem b2n_le_one (b : Bool) : b2n b ≤ 1 := by cases b <;> decide

theorem mkS2_fits {op x y fn : Nat} (ho : op < 128) (hx : x < 1024) (hy : y < 1024) (hf : fn < 32) :
    mkS2 op x y fn < 2 ^ 32 := by
  unfold mkS2; omega

theorem mkSI_fits {op x : Nat} (imm : Int) (ho : op < 128) (hx : x < 1024) : mkSI op x imm < 2 ^ 32 := by
  have := low_lt_pow 15 imm
  unfold mkSI; omega

theorem satomAccepts_bounds {aop t : Nat} (h : satomAccepts aop t = true) : aop < 8 ∧ t < 16 := by
  unfold satomAccepts at h
  split at h <;> simp only [Bool.or_eq_true, Bool.and_eq_true, beq_iff_eq, decide_eq_true_eq] at h <;> omega

theorem knownCsr_le {n : Nat} (h : knownCsr n = true) : n ≤ 32 := by
  simp only [knownCsr, Bool.or_eq_true, Bool.and_eq_true, beq_iff_eq, decide_eq_true_eq] at h; omega

/-- What the family says of an instruction. -/
def EncodedWordsFit.Statement (i : Instr) : Prop := i.wf = true → (∀ w ∈ encode i, w < 2 ^ 32) ∧ (encode i).length ≤ 3

theorem lane_words_fit {i : Instr} {opc : Nat} {w : LaneWord} (ho : opc < 1024)
    (he : encode i = [mkLane opc w % 2 ^ 32, mkLane opc w / 2 ^ 32 % 2 ^ 32, mkLane opc w / 2 ^ 64])
    (hw : i.wf = Machine.laneWellFormed opc w) : EncodedWordsFit.Statement i := by
  intro h
  rw [hw] at h
  simp only [Machine.laneWellFormed, Machine.laneFields, Bool.and_eq_true, decide_eq_true_eq] at h
  obtain ⟨⟨⟨⟨⟨⟨⟨⟨hd, ha⟩, hb⟩, hc⟩, hp⟩, hE⟩, ht⟩, hx⟩, -⟩ := h
  have hu := b2n_le_one w.u
  have hk := b2n_le_one w.blk
  have hv : mkLane opc w < 2 ^ 96 := by unfold mkLane; omega
  rw [he]
  refine ⟨?_, by simp⟩
  intro v hm
  simp only [List.mem_cons, List.not_mem_nil, or_false] at hm
  omega

theorem event_words_fit {i : Instr} (he : encode i = []) : EncodedWordsFit.Statement i := by
  intro _; simp [he]

theorem one_word_fits {i : Instr} {a : Nat} (he : encode i = [a]) (ha : i.wf = true → a < 2 ^ 32) :
    EncodedWordsFit.Statement i := by
  intro h; simpa [he] using ha h

theorem two_words_fit {i : Instr} {a b : Nat} (he : encode i = [a, b]) (ha : i.wf = true → a < 2 ^ 32 ∧ b < 2 ^ 32) :
    EncodedWordsFit.Statement i := by
  intro h; simpa [he] using ha h

theorem two_registers_fit {i : Instr} {op x y fn : Nat} (ho : op < 128) (hf : fn < 32)
    (he : encode i = [mkS2 op x y fn]) (hw : i.wf = (wfReg x && wfReg y)) : EncodedWordsFit.Statement i := by
  refine one_word_fits he fun h => ?_
  simp only [hw, wfReg, Bool.and_eq_true, decide_eq_true_eq] at h
  exact mkS2_fits ho h.1 h.2 hf

theorem register_immediate_fits {i : Instr} {op x : Nat} {imm : Int} (ho : op < 128)
    (he : encode i = [mkSI op x imm]) (hw : i.wf = (wfReg x && wfImm15 imm)) : EncodedWordsFit.Statement i := by
  refine one_word_fits he fun h => ?_
  simp only [hw, wfReg, Bool.and_eq_true, decide_eq_true_eq] at h
  exact mkSI_fits imm ho h.1

theorem EncodedWordsFit.smov (x y : Nat) : EncodedWordsFit.Statement (.smov x y) :=
  two_registers_fit (by decide) (by decide) rfl rfl

theorem EncodedWordsFit.sadd (x y : Nat) : EncodedWordsFit.Statement (.sadd x y) :=
  two_registers_fit (by decide) (by decide) rfl rfl

theorem EncodedWordsFit.ssub (x y : Nat) : EncodedWordsFit.Statement (.ssub x y) :=
  two_registers_fit (by decide) (by decide) rfl rfl

theorem EncodedWordsFit.sand (x y : Nat) : EncodedWordsFit.Statement (.sand x y) :=
  two_registers_fit (by decide) (by decide) rfl rfl

theorem EncodedWordsFit.sor (x y : Nat) : EncodedWordsFit.Statement (.sor x y) :=
  two_registers_fit (by decide) (by decide) rfl rfl

theorem EncodedWordsFit.sxor (x y : Nat) : EncodedWordsFit.Statement (.sxor x y) :=
  two_registers_fit (by decide) (by decide) rfl rfl

theorem EncodedWordsFit.sshl (x y : Nat) : EncodedWordsFit.Statement (.sshl x y) :=
  two_registers_fit (by decide) (by decide) rfl rfl

theorem EncodedWordsFit.sshr (x y : Nat) : EncodedWordsFit.Statement (.sshr x y) :=
  two_registers_fit (by decide) (by decide) rfl rfl

theorem EncodedWordsFit.ssra (x y : Nat) : EncodedWordsFit.Statement (.ssra x y) :=
  two_registers_fit (by decide) (by decide) rfl rfl

theorem EncodedWordsFit.smul (x y : Nat) : EncodedWordsFit.Statement (.smul x y) :=
  two_registers_fit (by decide) (by decide) rfl rfl

theorem EncodedWordsFit.smulh (x y : Nat) : EncodedWordsFit.Statement (.smulh x y) :=
  two_registers_fit (by decide) (by decide) rfl rfl

theorem EncodedWordsFit.smulhu (x y : Nat) : EncodedWordsFit.Statement (.smulhu x y) :=
  two_registers_fit (by decide) (by decide) rfl rfl

theorem EncodedWordsFit.sdiv (x y : Nat) : EncodedWordsFit.Statement (.sdiv x y) :=
  two_registers_fit (by decide) (by decide) rfl rfl

theorem EncodedWordsFit.sdivu (x y : Nat) : EncodedWordsFit.Statement (.sdivu x y) :=
  two_registers_fit (by decide) (by decide) rfl rfl

theorem EncodedWordsFit.srem (x y : Nat) : EncodedWordsFit.Statement (.srem x y) :=
  two_registers_fit (by decide) (by decide) rfl rfl

theorem EncodedWordsFit.sremu (x y : Nat) : EncodedWordsFit.Statement (.sremu x y) :=
  two_registers_fit (by decide) (by decide) rfl rfl

theorem EncodedWordsFit.smin (x y : Nat) : EncodedWordsFit.Statement (.smin x y) :=
  two_registers_fit (by decide) (by decide) rfl rfl

theorem EncodedWordsFit.smax (x y : Nat) : EncodedWordsFit.Statement (.smax x y) :=
  two_registers_fit (by decide) (by decide) rfl rfl

theorem EncodedWordsFit.sminu (x y : Nat) : EncodedWordsFit.Statement (.sminu x y) :=
  two_registers_fit (by decide) (by decide) rfl rfl

theorem EncodedWordsFit.smaxu (x y : Nat) : EncodedWordsFit.Statement (.smaxu x y) :=
  two_registers_fit (by decide) (by decide) rfl rfl

theorem EncodedWordsFit.sslt (x y : Nat) : EncodedWordsFit.Statement (.sslt x y) :=
  two_registers_fit (by decide) (by decide) rfl rfl

theorem EncodedWordsFit.ssltu (x y : Nat) : EncodedWordsFit.Statement (.ssltu x y) :=
  two_registers_fit (by decide) (by decide) rfl rfl

theorem EncodedWordsFit.sseq (x y : Nat) : EncodedWordsFit.Statement (.sseq x y) :=
  two_registers_fit (by decide) (by decide) rfl rfl

theorem EncodedWordsFit.snot (x y : Nat) : EncodedWordsFit.Statement (.snot x y) :=
  two_registers_fit (by decide) (by decide) rfl rfl

theorem EncodedWordsFit.sclz (x y : Nat) : EncodedWordsFit.Statement (.sclz x y) :=
  two_registers_fit (by decide) (by decide) rfl rfl

theorem EncodedWordsFit.spopc (x y : Nat) : EncodedWordsFit.Statement (.spopc x y) :=
  two_registers_fit (by decide) (by decide) rfl rfl

theorem EncodedWordsFit.sbrev (x y : Nat) : EncodedWordsFit.Statement (.sbrev x y) :=
  two_registers_fit (by decide) (by decide) rfl rfl

theorem EncodedWordsFit.sneg (x y : Nat) : EncodedWordsFit.Statement (.sneg x y) :=
  two_registers_fit (by decide) (by decide) rfl rfl

theorem EncodedWordsFit.smov64 (x y : Nat) : EncodedWordsFit.Statement (.smov64 x y) :=
  two_registers_fit (by decide) (by decide) rfl rfl

theorem EncodedWordsFit.sadd64 (x y : Nat) : EncodedWordsFit.Statement (.sadd64 x y) :=
  two_registers_fit (by decide) (by decide) rfl rfl

theorem EncodedWordsFit.ssub64 (x y : Nat) : EncodedWordsFit.Statement (.ssub64 x y) :=
  two_registers_fit (by decide) (by decide) rfl rfl

theorem EncodedWordsFit.sshl64 (x y : Nat) : EncodedWordsFit.Statement (.sshl64 x y) :=
  two_registers_fit (by decide) (by decide) rfl rfl

theorem EncodedWordsFit.sshr64 (x y : Nat) : EncodedWordsFit.Statement (.sshr64 x y) :=
  two_registers_fit (by decide) (by decide) rfl rfl

theorem EncodedWordsFit.ssra64 (x y : Nat) : EncodedWordsFit.Statement (.ssra64 x y) :=
  two_registers_fit (by decide) (by decide) rfl rfl

theorem EncodedWordsFit.smul64 (x y : Nat) : EncodedWordsFit.Statement (.smul64 x y) :=
  two_registers_fit (by decide) (by decide) rfl rfl

theorem EncodedWordsFit.sli (x : Nat) (imm : Int) : EncodedWordsFit.Statement (.sli x imm) :=
  register_immediate_fits (by decide) rfl rfl

theorem EncodedWordsFit.sli64 (x : Nat) (imm : Int) : EncodedWordsFit.Statement (.sli64 x imm) :=
  register_immediate_fits (by decide) rfl rfl

theorem EncodedWordsFit.saddi (x : Nat) (imm : Int) : EncodedWordsFit.Statement (.saddi x imm) :=
  register_immediate_fits (by decide) rfl rfl

theorem EncodedWordsFit.sandi (x : Nat) (imm : Int) : EncodedWordsFit.Statement (.sandi x imm) :=
  register_immediate_fits (by decide) rfl rfl

theorem EncodedWordsFit.sori (x : Nat) (imm : Int) : EncodedWordsFit.Statement (.sori x imm) :=
  register_immediate_fits (by decide) rfl rfl

theorem EncodedWordsFit.sxori (x : Nat) (imm : Int) : EncodedWordsFit.Statement (.sxori x imm) :=
  register_immediate_fits (by decide) rfl rfl

theorem EncodedWordsFit.sshli (x : Nat) (imm : Int) : EncodedWordsFit.Statement (.sshli x imm) :=
  register_immediate_fits (by decide) rfl rfl

theorem EncodedWordsFit.sshri (x : Nat) (imm : Int) : EncodedWordsFit.Statement (.sshri x imm) :=
  register_immediate_fits (by decide) rfl rfl

theorem EncodedWordsFit.ssrai (x : Nat) (imm : Int) : EncodedWordsFit.Statement (.ssrai x imm) :=
  register_immediate_fits (by decide) rfl rfl

theorem EncodedWordsFit.ssltiu (x : Nat) (imm : Int) : EncodedWordsFit.Statement (.ssltiu x imm) :=
  register_immediate_fits (by decide) rfl rfl

theorem EncodedWordsFit.saddi64 (x : Nat) (imm : Int) : EncodedWordsFit.Statement (.saddi64 x imm) :=
  register_immediate_fits (by decide) rfl rfl

theorem EncodedWordsFit.sxt (h body : Nat) : EncodedWordsFit.Statement (.sxt h body) := by
  refine two_words_fit rfl fun h => ?_
  simp only [Instr.wf, wfReg, wfImm15, wfOff5, wfInt8, Bool.and_eq_true, decide_eq_true_eq] at h
  omega

theorem EncodedWordsFit.sld (x y : Nat) (off : Int) : EncodedWordsFit.Statement (.sld x y off) := by
  refine one_word_fits rfl fun h => ?_
  simp only [Instr.wf, wfReg, wfImm15, wfOff5, wfInt8, Bool.and_eq_true, decide_eq_true_eq] at h
  simp only [mkS2, mkSI]
  omega

theorem EncodedWordsFit.sld64 (x y : Nat) (off : Int) : EncodedWordsFit.Statement (.sld64 x y off) := by
  refine one_word_fits rfl fun h => ?_
  simp only [Instr.wf, wfReg, wfImm15, wfOff5, wfInt8, Bool.and_eq_true, decide_eq_true_eq] at h
  simp only [mkS2, mkSI]
  omega

theorem EncodedWordsFit.sld128 (x y : Nat) (off : Int) : EncodedWordsFit.Statement (.sld128 x y off) := by
  refine one_word_fits rfl fun h => ?_
  simp only [Instr.wf, wfReg, wfImm15, wfOff5, wfInt8, Bool.and_eq_true, decide_eq_true_eq] at h
  simp only [mkS2, mkSI]
  omega

theorem EncodedWordsFit.sst (x y : Nat) (off : Int) : EncodedWordsFit.Statement (.sst x y off) := by
  refine one_word_fits rfl fun h => ?_
  simp only [Instr.wf, wfReg, wfImm15, wfOff5, wfInt8, Bool.and_eq_true, decide_eq_true_eq] at h
  simp only [mkS2, mkSI]
  omega

theorem EncodedWordsFit.sst64 (x y : Nat) (off : Int) : EncodedWordsFit.Statement (.sst64 x y off) := by
  refine one_word_fits rfl fun h => ?_
  simp only [Instr.wf, wfReg, wfImm15, wfOff5, wfInt8, Bool.and_eq_true, decide_eq_true_eq] at h
  simp only [mkS2, mkSI]
  omega

theorem EncodedWordsFit.sst128 (x y : Nat) (off : Int) : EncodedWordsFit.Statement (.sst128 x y off) := by
  refine one_word_fits rfl fun h => ?_
  simp only [Instr.wf, wfReg, wfImm15, wfOff5, wfInt8, Bool.and_eq_true, decide_eq_true_eq] at h
  simp only [mkS2, mkSI]
  omega

theorem EncodedWordsFit.sldacq (x y : Nat) (off : Int) : EncodedWordsFit.Statement (.sldacq x y off) := by
  refine one_word_fits rfl fun h => ?_
  simp only [Instr.wf, wfReg, wfImm15, wfOff5, wfInt8, Bool.and_eq_true, decide_eq_true_eq] at h
  simp only [mkS2, mkSI]
  omega

theorem EncodedWordsFit.sstrel (x y : Nat) (off : Int) : EncodedWordsFit.Statement (.sstrel x y off) := by
  refine one_word_fits rfl fun h => ?_
  simp only [Instr.wf, wfReg, wfImm15, wfOff5, wfInt8, Bool.and_eq_true, decide_eq_true_eq] at h
  simp only [mkS2, mkSI]
  omega

theorem EncodedWordsFit.satom (x y f ord aop t z : Nat) :
    EncodedWordsFit.Statement (.satom x y f ord aop t z) := by
  refine two_words_fit rfl fun h => ?_
  simp only [Instr.wf, wfReg, wfImm15, wfOff5, wfInt8, Bool.and_eq_true, decide_eq_true_eq] at h
  have := satomAccepts_bounds h.1.2
  simp only [mkS2, mkSI]
  omega

theorem EncodedWordsFit.sbr (off : Int) : EncodedWordsFit.Statement (.sbr off) := by
  refine one_word_fits rfl fun h => ?_
  simp only [Instr.wf, wfReg, wfImm15, wfOff5, wfInt8, Bool.and_eq_true, decide_eq_true_eq] at h
  have := low_lt_pow 15 off
  simp only [mkS2, mkSI]
  omega

theorem EncodedWordsFit.sbz (x : Nat) (off : Int) : EncodedWordsFit.Statement (.sbz x off) :=
  register_immediate_fits (by decide) rfl rfl

theorem EncodedWordsFit.sbnz (x : Nat) (off : Int) : EncodedWordsFit.Statement (.sbnz x off) :=
  register_immediate_fits (by decide) rfl rfl

theorem EncodedWordsFit.sblz (x : Nat) (off : Int) : EncodedWordsFit.Statement (.sblz x off) :=
  register_immediate_fits (by decide) rfl rfl

theorem EncodedWordsFit.sbgez (x : Nat) (off : Int) : EncodedWordsFit.Statement (.sbgez x off) :=
  register_immediate_fits (by decide) rfl rfl

theorem EncodedWordsFit.scall (x : Nat) (off : Int) : EncodedWordsFit.Statement (.scall x off) :=
  register_immediate_fits (by decide) rfl rfl

theorem EncodedWordsFit.sjr (x : Nat) : EncodedWordsFit.Statement (.sjr x) := by
  refine one_word_fits rfl fun h => ?_
  simp only [Instr.wf, wfReg, wfImm15, wfOff5, wfInt8, Bool.and_eq_true, decide_eq_true_eq] at h
  simp only [mkS2, mkSI]
  omega

theorem EncodedWordsFit.sjrL (x y : Nat) : EncodedWordsFit.Statement (.sjrL x y) :=
  two_registers_fit (by decide) (by decide) rfl rfl

theorem EncodedWordsFit.sloop (x : Nat) (off : Int) : EncodedWordsFit.Statement (.sloop x off) :=
  register_immediate_fits (by decide) rfl rfl

theorem EncodedWordsFit.sfet (x y : Nat) : EncodedWordsFit.Statement (.sfet x y) :=
  two_registers_fit (by decide) (by decide) rfl rfl

theorem EncodedWordsFit.swfull (x : Nat) : EncodedWordsFit.Statement (.swfull x) := by
  refine one_word_fits rfl fun h => ?_
  simp only [Instr.wf, wfReg, wfImm15, wfOff5, wfInt8, Bool.and_eq_true, decide_eq_true_eq] at h
  simp only [mkS2, mkSI]
  omega

theorem EncodedWordsFit.sempt (x : Nat) : EncodedWordsFit.Statement (.sempt x) := by
  refine one_word_fits rfl fun h => ?_
  simp only [Instr.wf, wfReg, wfImm15, wfOff5, wfInt8, Bool.and_eq_true, decide_eq_true_eq] at h
  simp only [mkS2, mkSI]
  omega

theorem EncodedWordsFit.sidx (x k : Nat) : EncodedWordsFit.Statement (.sidx x k) := by
  refine one_word_fits rfl fun h => ?_
  simp only [Instr.wf, wfReg, wfImm15, wfOff5, wfInt8, Bool.and_eq_true, decide_eq_true_eq] at h
  simp only [mkS2, mkSI]
  omega

theorem EncodedWordsFit.smapq (x sel : Nat) : EncodedWordsFit.Statement (.smapq x sel) := by
  refine one_word_fits rfl fun h => ?_
  simp only [Instr.wf, wfReg, wfImm15, wfOff5, wfInt8, Bool.and_eq_true, decide_eq_true_eq] at h
  simp only [mkS2, mkSI]
  omega

theorem EncodedWordsFit.srgnb (k : Nat) : EncodedWordsFit.Statement (.srgnb k) := by
  refine one_word_fits rfl fun h => ?_
  simp only [Instr.wf, wfReg, wfImm15, wfOff5, wfInt8, Bool.and_eq_true, decide_eq_true_eq] at h
  simp only [mkS2, mkSI]
  omega

theorem EncodedWordsFit.srgne (k : Nat) : EncodedWordsFit.Statement (.srgne k) := by
  refine one_word_fits rfl fun h => ?_
  simp only [Instr.wf, wfReg, wfImm15, wfOff5, wfInt8, Bool.and_eq_true, decide_eq_true_eq] at h
  simp only [mkS2, mkSI]
  omega

theorem EncodedWordsFit.sbar (k id : Nat) : EncodedWordsFit.Statement (.sbar k id) := by
  refine one_word_fits rfl fun h => ?_
  simp only [Instr.wf, wfReg, wfImm15, wfOff5, wfInt8, Bool.and_eq_true, decide_eq_true_eq] at h
  simp only [mkS2, mkSI]
  omega

theorem EncodedWordsFit.sfenceSc (k : Nat) : EncodedWordsFit.Statement (.sfenceSc k) := by
  refine one_word_fits rfl fun h => ?_
  simp only [Instr.wf, wfReg, wfImm15, wfOff5, wfInt8, Bool.and_eq_true, decide_eq_true_eq] at h
  simp only [mkS2, mkSI]
  omega

theorem EncodedWordsFit.sfenceAcqrel : EncodedWordsFit.Statement .sfenceAcqrel := by
  refine one_word_fits rfl fun h => ?_
  simp only [Instr.wf, wfReg, wfImm15, wfOff5, wfInt8, Bool.and_eq_true, decide_eq_true_eq] at h
  simp only [mkS2, mkSI]
  omega

theorem EncodedWordsFit.sfenceRel : EncodedWordsFit.Statement .sfenceRel := by
  refine one_word_fits rfl fun h => ?_
  simp only [Instr.wf, wfReg, wfImm15, wfOff5, wfInt8, Bool.and_eq_true, decide_eq_true_eq] at h
  simp only [mkS2, mkSI]
  omega

theorem EncodedWordsFit.sfenceAcq : EncodedWordsFit.Statement .sfenceAcq := by
  refine one_word_fits rfl fun h => ?_
  simp only [Instr.wf, wfReg, wfImm15, wfOff5, wfInt8, Bool.and_eq_true, decide_eq_true_eq] at h
  simp only [mkS2, mkSI]
  omega

theorem EncodedWordsFit.sirb (id : Nat) : EncodedWordsFit.Statement (.sirb id) := by
  refine one_word_fits rfl fun h => ?_
  simp only [Instr.wf, wfReg, wfImm15, wfOff5, wfInt8, Bool.and_eq_true, decide_eq_true_eq] at h
  have := low_lt_pow 15 id
  simp only [mkS2, mkSI]
  omega

theorem EncodedWordsFit.sirc (x id : Nat) : EncodedWordsFit.Statement (.sirc x id) := by
  refine one_word_fits rfl fun h => ?_
  simp only [Instr.wf, wfReg, wfImm15, wfOff5, wfInt8, Bool.and_eq_true, decide_eq_true_eq] at h
  have := low_lt_pow 15 id
  simp only [mkS2, mkSI]
  omega

theorem EncodedWordsFit.lrun (x y n entry : Nat) : EncodedWordsFit.Statement (.lrun x y n entry) := by
  refine two_words_fit rfl fun h => ?_
  simp only [Instr.wf, wfReg, wfImm15, wfOff5, wfInt8, Bool.and_eq_true, decide_eq_true_eq] at h
  simp only [mkS2, mkSI]
  omega

theorem EncodedWordsFit.lsync : EncodedWordsFit.Statement .lsync := by
  refine one_word_fits rfl fun h => ?_
  simp only [Instr.wf, wfReg, wfImm15, wfOff5, wfInt8, Bool.and_eq_true, decide_eq_true_eq] at h
  simp only [mkS2, mkSI]
  omega

theorem EncodedWordsFit.sshare (x y f : Nat) : EncodedWordsFit.Statement (.sshare x y f) := by
  refine one_word_fits rfl fun h => ?_
  simp only [Instr.wf, wfReg, wfImm15, wfOff5, wfInt8, Bool.and_eq_true, decide_eq_true_eq] at h
  simp only [mkS2, mkSI]
  omega

theorem EncodedWordsFit.scoll (x y k op : Nat) : EncodedWordsFit.Statement (.scoll x y k op) := by
  refine one_word_fits rfl fun h => ?_
  simp only [Instr.wf, wfReg, wfImm15, wfOff5, wfInt8, Bool.and_eq_true, decide_eq_true_eq] at h
  simp only [mkS2, mkSI]
  omega

theorem EncodedWordsFit.sprfx (x y k op : Nat) : EncodedWordsFit.Statement (.sprfx x y k op) := by
  refine one_word_fits rfl fun h => ?_
  simp only [Instr.wf, wfReg, wfImm15, wfOff5, wfInt8, Bool.and_eq_true, decide_eq_true_eq] at h
  simp only [mkS2, mkSI]
  omega

theorem EncodedWordsFit.sslide (x y k width fill : Nat) (d : Int) :
    EncodedWordsFit.Statement (.sslide x y k width fill d) := by
  refine two_words_fit rfl fun h => ?_
  simp only [Instr.wf, wfReg, wfImm15, wfOff5, wfInt8, Bool.and_eq_true, decide_eq_true_eq] at h
  have := low_lt_pow 16 d
  simp only [mkS2, mkSI]
  omega

theorem EncodedWordsFit.sbcast (x y k rank : Nat) : EncodedWordsFit.Statement (.sbcast x y k rank) := by
  refine two_words_fit rfl fun h => ?_
  simp only [Instr.wf, wfReg, wfImm15, wfOff5, wfInt8, Bool.and_eq_true, decide_eq_true_eq] at h
  simp only [mkS2, mkSI]
  omega

theorem EncodedWordsFit.spawn (x y n target : Nat) : EncodedWordsFit.Statement (.spawn x y n target) := by
  refine two_words_fit rfl fun h => ?_
  simp only [Instr.wf, wfReg, wfImm15, wfOff5, wfInt8, Bool.and_eq_true, decide_eq_true_eq] at h
  simp only [mkS2, mkSI]
  omega

theorem EncodedWordsFit.selct (x k : Nat) : EncodedWordsFit.Statement (.selct x k) := by
  refine one_word_fits rfl fun h => ?_
  simp only [Instr.wf, wfReg, wfImm15, wfOff5, wfInt8, Bool.and_eq_true, decide_eq_true_eq] at h
  simp only [mkS2, mkSI]
  omega

theorem EncodedWordsFit.ssetfmt (x : Nat) : EncodedWordsFit.Statement (.ssetfmt x) := by
  refine one_word_fits rfl fun h => ?_
  simp only [Instr.wf, wfReg, wfImm15, wfOff5, wfInt8, Bool.and_eq_true, decide_eq_true_eq] at h
  simp only [mkS2, mkSI]
  omega

theorem EncodedWordsFit.scpy (x y : Nat) (restart : Bool) (r : Nat) :
    EncodedWordsFit.Statement (.scpy x y restart r) := by
  refine two_words_fit rfl fun h => ?_
  simp only [Instr.wf, wfReg, wfImm15, wfOff5, wfInt8, Bool.and_eq_true, decide_eq_true_eq] at h
  have := b2n_le_one restart
  simp only [mkS2, mkSI]
  omega

theorem EncodedWordsFit.swaitc (x y : Nat) : EncodedWordsFit.Statement (.swaitc x y) :=
  two_registers_fit (by decide) (by decide) rfl rfl

theorem EncodedWordsFit.ssig (x y op : Nat) (ord loc : Bool) (d sreg : Nat) :
    EncodedWordsFit.Statement (.ssig x y op ord loc d sreg) := by
  refine two_words_fit rfl fun h => ?_
  simp only [Instr.wf, wfReg, wfImm15, wfOff5, wfInt8, Bool.and_eq_true, decide_eq_true_eq] at h
  have := b2n_le_one loc
  have := b2n_le_one ord
  simp only [mkS2, mkSI]
  omega

theorem EncodedWordsFit.sthd (x y h : Nat) : EncodedWordsFit.Statement (.sthd x y h) := by
  refine one_word_fits rfl fun h => ?_
  simp only [Instr.wf, wfReg, wfImm15, wfOff5, wfInt8, Bool.and_eq_true, decide_eq_true_eq] at h
  simp only [mkS2, mkSI]
  omega

theorem EncodedWordsFit.smma (x y sreg : Nat) (own zero pair : Bool) (tile : Nat) :
    EncodedWordsFit.Statement (.smma x y sreg own zero pair tile) := by
  refine two_words_fit rfl fun h => ?_
  simp only [Instr.wf, wfReg, wfImm15, wfOff5, wfInt8, Bool.and_eq_true, decide_eq_true_eq] at h
  have := b2n_le_one own
  have := b2n_le_one pair
  have := b2n_le_one zero
  simp only [mkS2, mkSI]
  omega

theorem EncodedWordsFit.smacq (own : Bool) (tile : Nat) : EncodedWordsFit.Statement (.smacq own tile) := by
  refine one_word_fits rfl fun h => ?_
  simp only [Instr.wf, wfReg, wfImm15, wfOff5, wfInt8, Bool.and_eq_true, decide_eq_true_eq] at h
  have := b2n_le_one own
  simp only [mkS2, mkSI]
  omega

theorem EncodedWordsFit.smrel (own : Bool) (tile : Nat) : EncodedWordsFit.Statement (.smrel own tile) := by
  refine one_word_fits rfl fun h => ?_
  simp only [Instr.wf, wfReg, wfImm15, wfOff5, wfInt8, Bool.and_eq_true, decide_eq_true_eq] at h
  have := b2n_le_one own
  simp only [mkS2, mkSI]
  omega

theorem EncodedWordsFit.smld (x y tile sreg : Nat) (e : Int) (bf own : Bool) :
    EncodedWordsFit.Statement (.smld x y tile sreg e bf own) := by
  refine two_words_fit rfl fun h => ?_
  simp only [Instr.wf, wfReg, wfImm15, wfOff5, wfInt8, Bool.and_eq_true, decide_eq_true_eq] at h
  have := b2n_le_one bf
  have := b2n_le_one own
  have := low_lt_pow 8 e
  simp only [mkS2, mkSI]
  omega

theorem EncodedWordsFit.smst (x y tile sreg : Nat) (e : Int) (own : Bool) :
    EncodedWordsFit.Statement (.smst x y tile sreg e own) := by
  refine two_words_fit rfl fun h => ?_
  simp only [Instr.wf, wfReg, wfImm15, wfOff5, wfInt8, Bool.and_eq_true, decide_eq_true_eq] at h
  have := b2n_le_one own
  have := low_lt_pow 8 e
  simp only [mkS2, mkSI]
  omega

theorem EncodedWordsFit.sscan (x y c : Nat) (first last : Bool) :
    EncodedWordsFit.Statement (.sscan x y c first last) := by
  refine two_words_fit rfl fun h => ?_
  simp only [Instr.wf, wfReg, wfImm15, wfOff5, wfInt8, Bool.and_eq_true, decide_eq_true_eq] at h
  have := b2n_le_one first
  have := b2n_le_one last
  simp only [mkS2, mkSI]
  omega

theorem EncodedWordsFit.sscw (x c : Nat) : EncodedWordsFit.Statement (.sscw x c) := by
  refine one_word_fits rfl fun h => ?_
  simp only [Instr.wf, wfReg, wfImm15, wfOff5, wfInt8, Bool.and_eq_true, decide_eq_true_eq] at h
  simp only [mkS2, mkSI]
  omega

theorem EncodedWordsFit.sacc (x y q : Nat) : EncodedWordsFit.Statement (.sacc x y q) := by
  refine two_words_fit rfl fun h => ?_
  simp only [Instr.wf, wfReg, wfImm15, wfOff5, wfInt8, Bool.and_eq_true, decide_eq_true_eq] at h
  simp only [mkS2, mkSI]
  omega

theorem EncodedWordsFit.sbankScr (x e : Nat) : EncodedWordsFit.Statement (.sbankScr x e) := by
  refine two_words_fit rfl fun h => ?_
  simp only [Instr.wf, wfReg, wfImm15, wfOff5, wfInt8, Bool.and_eq_true, decide_eq_true_eq] at h
  simp only [mkS2, mkSI]
  omega

theorem EncodedWordsFit.sbankFifo (x y e : Nat) : EncodedWordsFit.Statement (.sbankFifo x y e) := by
  refine two_words_fit rfl fun h => ?_
  simp only [Instr.wf, wfReg, wfImm15, wfOff5, wfInt8, Bool.and_eq_true, decide_eq_true_eq] at h
  simp only [mkS2, mkSI]
  omega

theorem EncodedWordsFit.sbankRel (x e : Nat) : EncodedWordsFit.Statement (.sbankRel x e) := by
  refine two_words_fit rfl fun h => ?_
  simp only [Instr.wf, wfReg, wfImm15, wfOff5, wfInt8, Bool.and_eq_true, decide_eq_true_eq] at h
  simp only [mkS2, mkSI]
  omega

theorem EncodedWordsFit.sbankTake (x y : Nat) (fifo : Bool) (e : Nat) :
    EncodedWordsFit.Statement (.sbankTake x y fifo e) := by
  refine two_words_fit rfl fun h => ?_
  simp only [Instr.wf, wfReg, wfImm15, wfOff5, wfInt8, Bool.and_eq_true, decide_eq_true_eq] at h
  have := b2n_le_one fifo
  simp only [mkS2, mkSI]
  omega

theorem EncodedWordsFit.slaunch (x y : Nat) : EncodedWordsFit.Statement (.slaunch x y) := by
  refine two_words_fit rfl fun h => ?_
  simp only [Instr.wf, wfReg, wfImm15, wfOff5, wfInt8, Bool.and_eq_true, decide_eq_true_eq] at h
  simp only [mkS2, mkSI]
  omega

theorem EncodedWordsFit.sarm (x y tag count : Nat) : EncodedWordsFit.Statement (.sarm x y tag count) := by
  refine two_words_fit rfl fun h => ?_
  simp only [Instr.wf, wfReg, wfImm15, wfOff5, wfInt8, Bool.and_eq_true, decide_eq_true_eq] at h
  simp only [mkS2, mkSI]
  omega

theorem EncodedWordsFit.strap (code : Int) : EncodedWordsFit.Statement (.strap code) := by
  refine one_word_fits rfl fun h => ?_
  simp only [Instr.wf, wfReg, wfImm15, wfOff5, wfInt8, Bool.and_eq_true, decide_eq_true_eq] at h
  have := low_lt_pow 15 code
  simp only [mkS2, mkSI]
  omega

theorem EncodedWordsFit.strapRet : EncodedWordsFit.Statement .strapRet := by
  refine one_word_fits rfl fun h => ?_
  simp only [Instr.wf, wfReg, wfImm15, wfOff5, wfInt8, Bool.and_eq_true, decide_eq_true_eq] at h
  have := low_lt_pow 15 0
  simp only [mkS2, mkSI]
  omega

theorem EncodedWordsFit.sbrk : EncodedWordsFit.Statement .sbrk := by
  refine one_word_fits rfl fun h => ?_
  simp only [Instr.wf, wfReg, wfImm15, wfOff5, wfInt8, Bool.and_eq_true, decide_eq_true_eq] at h
  simp only [mkS2, mkSI]
  omega

theorem EncodedWordsFit.sexit : EncodedWordsFit.Statement .sexit := by
  refine one_word_fits rfl fun h => ?_
  simp only [Instr.wf, wfReg, wfImm15, wfOff5, wfInt8, Bool.and_eq_true, decide_eq_true_eq] at h
  simp only [mkS2, mkSI]
  omega

theorem EncodedWordsFit.scsrR (x csr : Nat) : EncodedWordsFit.Statement (.scsrR x csr) := by
  refine one_word_fits rfl fun h => ?_
  simp only [Instr.wf, wfReg, wfImm15, wfOff5, wfInt8, Bool.and_eq_true, decide_eq_true_eq] at h
  have := knownCsr_le h.2
  simp only [mkS2, mkSI]
  omega

theorem EncodedWordsFit.scsrW (x csr : Nat) : EncodedWordsFit.Statement (.scsrW x csr) := by
  refine one_word_fits rfl fun h => ?_
  simp only [Instr.wf, wfReg, wfImm15, wfOff5, wfInt8, Bool.and_eq_true, decide_eq_true_eq] at h
  have := knownCsr_le h.1.2
  simp only [mkS2, mkSI]
  omega

theorem EncodedWordsFit.syield : EncodedWordsFit.Statement .syield := by
  refine one_word_fits rfl fun h => ?_
  simp only [Instr.wf, wfReg, wfImm15, wfOff5, wfInt8, Bool.and_eq_true, decide_eq_true_eq] at h
  simp only [mkS2, mkSI]
  omega

theorem EncodedWordsFit.snop : EncodedWordsFit.Statement .snop := by
  refine one_word_fits rfl fun h => ?_
  simp only [Instr.wf, wfReg, wfImm15, wfOff5, wfInt8, Bool.and_eq_true, decide_eq_true_eq] at h
  simp only [mkS2, mkSI]
  omega

theorem EncodedWordsFit.scyc (x : Nat) : EncodedWordsFit.Statement (.scyc x) := by
  refine one_word_fits rfl fun h => ?_
  simp only [Instr.wf, wfReg, wfImm15, wfOff5, wfInt8, Bool.and_eq_true, decide_eq_true_eq] at h
  simp only [mkS2, mkSI]
  omega

theorem EncodedWordsFit.add (w : LaneWord) : EncodedWordsFit.Statement (.add w) :=
  lane_words_fit (by decide) rfl rfl

theorem EncodedWordsFit.sub (w : LaneWord) : EncodedWordsFit.Statement (.sub w) :=
  lane_words_fit (by decide) rfl rfl

theorem EncodedWordsFit.mul (w : LaneWord) : EncodedWordsFit.Statement (.mul w) :=
  lane_words_fit (by decide) rfl rfl

theorem EncodedWordsFit.mulh (w : LaneWord) : EncodedWordsFit.Statement (.mulh w) :=
  lane_words_fit (by decide) rfl rfl

theorem EncodedWordsFit.mad (w : LaneWord) : EncodedWordsFit.Statement (.mad w) :=
  lane_words_fit (by decide) rfl rfl

theorem EncodedWordsFit.and (w : LaneWord) : EncodedWordsFit.Statement (.and w) :=
  lane_words_fit (by decide) rfl rfl

theorem EncodedWordsFit.or (w : LaneWord) : EncodedWordsFit.Statement (.or w) :=
  lane_words_fit (by decide) rfl rfl

theorem EncodedWordsFit.xor (w : LaneWord) : EncodedWordsFit.Statement (.xor w) :=
  lane_words_fit (by decide) rfl rfl

theorem EncodedWordsFit.lop3 (w : LaneWord) : EncodedWordsFit.Statement (.lop3 w) :=
  lane_words_fit (by decide) rfl rfl

theorem EncodedWordsFit.shl (w : LaneWord) : EncodedWordsFit.Statement (.shl w) :=
  lane_words_fit (by decide) rfl rfl

theorem EncodedWordsFit.shr (w : LaneWord) : EncodedWordsFit.Statement (.shr w) :=
  lane_words_fit (by decide) rfl rfl

theorem EncodedWordsFit.sra (w : LaneWord) : EncodedWordsFit.Statement (.sra w) :=
  lane_words_fit (by decide) rfl rfl

theorem EncodedWordsFit.min (w : LaneWord) : EncodedWordsFit.Statement (.min w) :=
  lane_words_fit (by decide) rfl rfl

theorem EncodedWordsFit.max (w : LaneWord) : EncodedWordsFit.Statement (.max w) :=
  lane_words_fit (by decide) rfl rfl

theorem EncodedWordsFit.abs (w : LaneWord) : EncodedWordsFit.Statement (.abs w) :=
  lane_words_fit (by decide) rfl rfl

theorem EncodedWordsFit.neg (w : LaneWord) : EncodedWordsFit.Statement (.neg w) :=
  lane_words_fit (by decide) rfl rfl

theorem EncodedWordsFit.clz (w : LaneWord) : EncodedWordsFit.Statement (.clz w) :=
  lane_words_fit (by decide) rfl rfl

theorem EncodedWordsFit.popc (w : LaneWord) : EncodedWordsFit.Statement (.popc w) :=
  lane_words_fit (by decide) rfl rfl

theorem EncodedWordsFit.brev (w : LaneWord) : EncodedWordsFit.Statement (.brev w) :=
  lane_words_fit (by decide) rfl rfl

theorem EncodedWordsFit.bfe (w : LaneWord) : EncodedWordsFit.Statement (.bfe w) :=
  lane_words_fit (by decide) rfl rfl

theorem EncodedWordsFit.bfi (w : LaneWord) : EncodedWordsFit.Statement (.bfi w) :=
  lane_words_fit (by decide) rfl rfl

theorem EncodedWordsFit.sel (w : LaneWord) : EncodedWordsFit.Statement (.sel w) :=
  lane_words_fit (by decide) rfl rfl

theorem EncodedWordsFit.cmp (w : LaneWord) : EncodedWordsFit.Statement (.cmp w) :=
  lane_words_fit (by decide) rfl rfl

theorem EncodedWordsFit.div (w : LaneWord) : EncodedWordsFit.Statement (.div w) :=
  lane_words_fit (by decide) rfl rfl

theorem EncodedWordsFit.rem (w : LaneWord) : EncodedWordsFit.Statement (.rem w) :=
  lane_words_fit (by decide) rfl rfl

theorem EncodedWordsFit.addsat (w : LaneWord) : EncodedWordsFit.Statement (.addsat w) :=
  lane_words_fit (by decide) rfl rfl

theorem EncodedWordsFit.subsat (w : LaneWord) : EncodedWordsFit.Statement (.subsat w) :=
  lane_words_fit (by decide) rfl rfl

theorem EncodedWordsFit.dp2 (w : LaneWord) : EncodedWordsFit.Statement (.dp2 w) :=
  lane_words_fit (by decide) rfl rfl

theorem EncodedWordsFit.dp4 (w : LaneWord) : EncodedWordsFit.Statement (.dp4 w) :=
  lane_words_fit (by decide) rfl rfl

theorem EncodedWordsFit.shrr (w : LaneWord) : EncodedWordsFit.Statement (.shrr w) :=
  lane_words_fit (by decide) rfl rfl

theorem EncodedWordsFit.mov (w : LaneWord) : EncodedWordsFit.Statement (.mov w) :=
  lane_words_fit (by decide) rfl rfl

theorem EncodedWordsFit.movi (w : LaneWord) : EncodedWordsFit.Statement (.movi w) :=
  lane_words_fit (by decide) rfl rfl

theorem EncodedWordsFit.plop (w : LaneWord) : EncodedWordsFit.Statement (.plop w) :=
  lane_words_fit (by decide) rfl rfl

theorem EncodedWordsFit.fadd (w : LaneWord) : EncodedWordsFit.Statement (.fadd w) :=
  lane_words_fit (by decide) rfl rfl

theorem EncodedWordsFit.fsub (w : LaneWord) : EncodedWordsFit.Statement (.fsub w) :=
  lane_words_fit (by decide) rfl rfl

theorem EncodedWordsFit.fmul (w : LaneWord) : EncodedWordsFit.Statement (.fmul w) :=
  lane_words_fit (by decide) rfl rfl

theorem EncodedWordsFit.fma (w : LaneWord) : EncodedWordsFit.Statement (.fma w) :=
  lane_words_fit (by decide) rfl rfl

theorem EncodedWordsFit.fmin (w : LaneWord) : EncodedWordsFit.Statement (.fmin w) :=
  lane_words_fit (by decide) rfl rfl

theorem EncodedWordsFit.fmax (w : LaneWord) : EncodedWordsFit.Statement (.fmax w) :=
  lane_words_fit (by decide) rfl rfl

theorem EncodedWordsFit.fneg (w : LaneWord) : EncodedWordsFit.Statement (.fneg w) :=
  lane_words_fit (by decide) rfl rfl

theorem EncodedWordsFit.fabs (w : LaneWord) : EncodedWordsFit.Statement (.fabs w) :=
  lane_words_fit (by decide) rfl rfl

theorem EncodedWordsFit.fcmp (w : LaneWord) : EncodedWordsFit.Statement (.fcmp w) :=
  lane_words_fit (by decide) rfl rfl

theorem EncodedWordsFit.fclass (w : LaneWord) : EncodedWordsFit.Statement (.fclass w) :=
  lane_words_fit (by decide) rfl rfl

theorem EncodedWordsFit.frnd (w : LaneWord) : EncodedWordsFit.Statement (.frnd w) :=
  lane_words_fit (by decide) rfl rfl

theorem EncodedWordsFit.frcp (w : LaneWord) : EncodedWordsFit.Statement (.frcp w) :=
  lane_words_fit (by decide) rfl rfl

theorem EncodedWordsFit.frsq (w : LaneWord) : EncodedWordsFit.Statement (.frsq w) :=
  lane_words_fit (by decide) rfl rfl

theorem EncodedWordsFit.fsqrt (w : LaneWord) : EncodedWordsFit.Statement (.fsqrt w) :=
  lane_words_fit (by decide) rfl rfl

theorem EncodedWordsFit.fdiv (w : LaneWord) : EncodedWordsFit.Statement (.fdiv w) :=
  lane_words_fit (by decide) rfl rfl

theorem EncodedWordsFit.fexp2 (w : LaneWord) : EncodedWordsFit.Statement (.fexp2 w) :=
  lane_words_fit (by decide) rfl rfl

theorem EncodedWordsFit.flog2 (w : LaneWord) : EncodedWordsFit.Statement (.flog2 w) :=
  lane_words_fit (by decide) rfl rfl

theorem EncodedWordsFit.fsinpi (w : LaneWord) : EncodedWordsFit.Statement (.fsinpi w) :=
  lane_words_fit (by decide) rfl rfl

theorem EncodedWordsFit.fcospi (w : LaneWord) : EncodedWordsFit.Statement (.fcospi w) :=
  lane_words_fit (by decide) rfl rfl

theorem EncodedWordsFit.ftanh (w : LaneWord) : EncodedWordsFit.Statement (.ftanh w) :=
  lane_words_fit (by decide) rfl rfl

theorem EncodedWordsFit.fsigm (w : LaneWord) : EncodedWordsFit.Statement (.fsigm w) :=
  lane_words_fit (by decide) rfl rfl

theorem EncodedWordsFit.fcsgn (w : LaneWord) : EncodedWordsFit.Statement (.fcsgn w) :=
  lane_words_fit (by decide) rfl rfl

theorem EncodedWordsFit.cvt (w : LaneWord) : EncodedWordsFit.Statement (.cvt w) :=
  lane_words_fit (by decide) rfl rfl

theorem EncodedWordsFit.pack (w : LaneWord) : EncodedWordsFit.Statement (.pack w) :=
  lane_words_fit (by decide) rfl rfl

theorem EncodedWordsFit.unpk (w : LaneWord) : EncodedWordsFit.Statement (.unpk w) :=
  lane_words_fit (by decide) rfl rfl

theorem EncodedWordsFit.tw2d (w : LaneWord) : EncodedWordsFit.Statement (.tw2d w) :=
  lane_words_fit (by decide) rfl rfl

theorem EncodedWordsFit.ld (w : LaneWord) : EncodedWordsFit.Statement (.ld w) :=
  lane_words_fit (by decide) rfl rfl

theorem EncodedWordsFit.st (w : LaneWord) : EncodedWordsFit.Statement (.st w) :=
  lane_words_fit (by decide) rfl rfl

theorem EncodedWordsFit.atom (w : LaneWord) : EncodedWordsFit.Statement (.atom w) :=
  lane_words_fit (by decide) rfl rfl

theorem EncodedWordsFit.red (w : LaneWord) : EncodedWordsFit.Statement (.red w) :=
  lane_words_fit (by decide) rfl rfl

theorem EncodedWordsFit.pf (w : LaneWord) : EncodedWordsFit.Statement (.pf w) :=
  lane_words_fit (by decide) rfl rfl

theorem EncodedWordsFit.cln (w : LaneWord) : EncodedWordsFit.Statement (.cln w) :=
  lane_words_fit (by decide) rfl rfl

theorem EncodedWordsFit.tbeg (w : LaneWord) : EncodedWordsFit.Statement (.tbeg w) :=
  lane_words_fit (by decide) rfl rfl

theorem EncodedWordsFit.tend (w : LaneWord) : EncodedWordsFit.Statement (.tend w) :=
  lane_words_fit (by decide) rfl rfl

theorem EncodedWordsFit.tabt (w : LaneWord) : EncodedWordsFit.Statement (.tabt w) :=
  lane_words_fit (by decide) rfl rfl

theorem EncodedWordsFit.tsts (w : LaneWord) : EncodedWordsFit.Statement (.tsts w) :=
  lane_words_fit (by decide) rfl rfl

theorem EncodedWordsFit.bra (w : LaneWord) : EncodedWordsFit.Statement (.bra w) :=
  lane_words_fit (by decide) rfl rfl

theorem EncodedWordsFit.brr (w : LaneWord) : EncodedWordsFit.Statement (.brr w) :=
  lane_words_fit (by decide) rfl rfl

theorem EncodedWordsFit.lcall (w : LaneWord) : EncodedWordsFit.Statement (.lcall w) :=
  lane_words_fit (by decide) rfl rfl

theorem EncodedWordsFit.lend (w : LaneWord) : EncodedWordsFit.Statement (.lend w) :=
  lane_words_fit (by decide) rfl rfl

theorem EncodedWordsFit.lidx (w : LaneWord) : EncodedWordsFit.Statement (.lidx w) :=
  lane_words_fit (by decide) rfl rfl

theorem EncodedWordsFit.lshb (w : LaneWord) : EncodedWordsFit.Statement (.lshb w) :=
  lane_words_fit (by decide) rfl rfl

theorem EncodedWordsFit.lvote (w : LaneWord) : EncodedWordsFit.Statement (.lvote w) :=
  lane_words_fit (by decide) rfl rfl

theorem EncodedWordsFit.xissue (w : LaneWord) : EncodedWordsFit.Statement (.xissue w) :=
  lane_words_fit (by decide) rfl rfl

theorem EncodedWordsFit.lfmt (w : LaneWord) : EncodedWordsFit.Statement (.lfmt w) :=
  lane_words_fit (by decide) rfl rfl

theorem EncodedWordsFit.rdflg (w : LaneWord) : EncodedWordsFit.Statement (.rdflg w) :=
  lane_words_fit (by decide) rfl rfl

theorem EncodedWordsFit.clrflg (w : LaneWord) : EncodedWordsFit.Statement (.clrflg w) :=
  lane_words_fit (by decide) rfl rfl

theorem EncodedWordsFit.lnop (w : LaneWord) : EncodedWordsFit.Statement (.lnop w) :=
  lane_words_fit (by decide) rfl rfl

theorem EncodedWordsFit.ltrap (w : LaneWord) : EncodedWordsFit.Statement (.ltrap w) :=
  lane_words_fit (by decide) rfl rfl

theorem EncodedWordsFit.accrd (w : LaneWord) : EncodedWordsFit.Statement (.accrd w) :=
  lane_words_fit (by decide) rfl rfl

theorem EncodedWordsFit.accwr (w : LaneWord) : EncodedWordsFit.Statement (.accwr w) :=
  lane_words_fit (by decide) rfl rfl

theorem EncodedWordsFit.bperm (w : LaneWord) : EncodedWordsFit.Statement (.bperm w) :=
  lane_words_fit (by decide) rfl rfl

theorem EncodedWordsFit.producerFill (sh id : Nat) : EncodedWordsFit.Statement (.producerFill sh id) :=
  event_words_fit rfl

theorem EncodedWordsFit.teamTermination (team : Nat) : EncodedWordsFit.Statement (.teamTermination team) :=
  event_words_fit rfl

theorem EncodedWordsFit.fifoPop (sh id : Nat) : EncodedWordsFit.Statement (.fifoPop sh id) :=
  event_words_fit rfl

theorem EncodedWordsFit.fifoPush (sh id : Nat) : EncodedWordsFit.Statement (.fifoPush sh id) :=
  event_words_fit rfl

theorem EncodedWordsFit.copyWaiterWake (cmd : Nat) : EncodedWordsFit.Statement (.copyWaiterWake cmd) :=
  event_words_fit rfl

theorem EncodedWordsFit.translationWalk (sh id : Nat) : EncodedWordsFit.Statement (.translationWalk sh id) :=
  event_words_fit rfl

theorem EncodedWordsFit.faultReplay (fn id : Nat) : EncodedWordsFit.Statement (.faultReplay fn id) :=
  event_words_fit rfl

theorem EncodedWordsFit.transactionCommit (sh beat : Nat) :
    EncodedWordsFit.Statement (.transactionCommit sh beat) :=
  event_words_fit rfl

theorem EncodedWordsFit.serialTokenGrant (fn : Nat) : EncodedWordsFit.Statement (.serialTokenGrant fn) :=
  event_words_fit rfl

theorem EncodedWordsFit.txnLogRoomGrant (cluster : Nat) :
    EncodedWordsFit.Statement (.txnLogRoomGrant cluster) :=
  event_words_fit rfl

theorem EncodedWordsFit.copyEngineGrant (part : Nat) : EncodedWordsFit.Statement (.copyEngineGrant part) :=
  event_words_fit rfl

theorem EncodedWordsFit.copySegment (cmd : Nat) : EncodedWordsFit.Statement (.copySegment cmd) :=
  event_words_fit rfl

theorem EncodedWordsFit.copyBudgetPause (cmd : Nat) : EncodedWordsFit.Statement (.copyBudgetPause cmd) :=
  event_words_fit rfl

theorem EncodedWordsFit.copyComplete (cmd : Nat) : EncodedWordsFit.Statement (.copyComplete cmd) :=
  event_words_fit rfl

theorem EncodedWordsFit.operandFetch (op : Nat) (sideB : Bool) :
    EncodedWordsFit.Statement (.operandFetch op sideB) :=
  event_words_fit rfl

theorem EncodedWordsFit.accessStreamPush (stream : Nat) :
    EncodedWordsFit.Statement (.accessStreamPush stream) :=
  event_words_fit rfl

theorem EncodedWordsFit.matrixOpRetire (core : Nat) : EncodedWordsFit.Statement (.matrixOpRetire core) :=
  event_words_fit rfl

theorem EncodedWordsFit.scanTileRun (tile : Nat) : EncodedWordsFit.Statement (.scanTileRun tile) :=
  event_words_fit rfl

theorem EncodedWordsFit.carryReceipt (tile : Nat) : EncodedWordsFit.Statement (.carryReceipt tile) :=
  event_words_fit rfl

theorem EncodedWordsFit.chainCompletion (chain core : Nat) :
    EncodedWordsFit.Statement (.chainCompletion chain core) :=
  event_words_fit rfl

theorem EncodedWordsFit.qbindUnbind (fn q : Nat) : EncodedWordsFit.Statement (.qbindUnbind fn q) :=
  event_words_fit rfl

theorem EncodedWordsFit.blockAdmit (q : Nat) : EncodedWordsFit.Statement (.blockAdmit q) :=
  event_words_fit rfl

theorem EncodedWordsFit.prologueRun (launch : Nat) : EncodedWordsFit.Statement (.prologueRun launch) :=
  event_words_fit rfl

theorem EncodedWordsFit.launchMap (launch : Nat) : EncodedWordsFit.Statement (.launchMap launch) :=
  event_words_fit rfl

theorem EncodedWordsFit.teamDispatch (part : Nat) : EncodedWordsFit.Statement (.teamDispatch part) :=
  event_words_fit rfl

theorem EncodedWordsFit.teamSave (team : Nat) : EncodedWordsFit.Statement (.teamSave team) :=
  event_words_fit rfl

theorem EncodedWordsFit.teamDiscard (team : Nat) : EncodedWordsFit.Statement (.teamDiscard team) :=
  event_words_fit rfl

theorem EncodedWordsFit.mailboxMessage (dom src tag : Nat) (payload : List Byte) :
    EncodedWordsFit.Statement (.mailboxMessage dom src tag payload) :=
  event_words_fit rfl

theorem EncodedWordsFit.mailboxFire (fn : Nat) : EncodedWordsFit.Statement (.mailboxFire fn) :=
  event_words_fit rfl

theorem EncodedWordsFit.inboundFabricRequest (r : FabricRequest) :
    EncodedWordsFit.Statement (.inboundFabricRequest r) :=
  event_words_fit rfl

theorem EncodedWordsFit.hostBar2Access (fn off size : Nat) (write : Bool) (data : List Byte) :
    EncodedWordsFit.Statement (.hostBar2Access fn off size write data) :=
  event_words_fit rfl

theorem EncodedWordsFit.bloadLoad (fn addr : Nat) : EncodedWordsFit.Statement (.bloadLoad fn addr) :=
  event_words_fit rfl

theorem EncodedWordsFit.bloadUnload (fn addr : Nat) : EncodedWordsFit.Statement (.bloadUnload fn addr) :=
  event_words_fit rfl

theorem EncodedWordsFit.keySlotChangeComplete (fn : Nat) :
    EncodedWordsFit.Statement (.keySlotChangeComplete fn) :=
  event_words_fit rfl

theorem EncodedWordsFit.budgetUnitCharge (fn : Nat) : EncodedWordsFit.Statement (.budgetUnitCharge fn) :=
  event_words_fit rfl

theorem EncodedWordsFit.sliceEnd (part : Nat) : EncodedWordsFit.Statement (.sliceEnd part) :=
  event_words_fit rfl

theorem EncodedWordsFit.unassignedOpcode (sub : Nat) : EncodedWordsFit.Statement (.unassignedOpcode sub) :=
  event_words_fit rfl

theorem EncodedWordsFit.l2RemapComplete (fn : Nat) : EncodedWordsFit.Statement (.l2RemapComplete fn) :=
  event_words_fit rfl

theorem EncodedWordsFit.tinvComplete (fn : Nat) : EncodedWordsFit.Statement (.tinvComplete fn) :=
  event_words_fit rfl

theorem EncodedWordsFit.fqresUnrecoverable (fn id : Nat) :
    EncodedWordsFit.Statement (.fqresUnrecoverable fn id) :=
  event_words_fit rfl

theorem EncodedWordsFit.ualinkErrorCompletion (sender : FabricSender) (addr : Nat) :
    EncodedWordsFit.Statement (.ualinkErrorCompletion sender addr) :=
  event_words_fit rfl

theorem EncodedWordsFit.flitParityError (agent : FlitAgent) (die : Nat) :
    EncodedWordsFit.Statement (.flitParityError agent die) :=
  event_words_fit rfl

theorem EncodedWordsFit.hartMemoryAccess (r : HartAccess) : EncodedWordsFit.Statement (.hartMemoryAccess r) :=
  event_words_fit rfl

theorem EncodedWordsFit.keyctlLoad (fn slot : Nat) : EncodedWordsFit.Statement (.keyctlLoad fn slot) :=
  event_words_fit rfl

theorem EncodedWordsFit.keyctlDraw (fn slot : Nat) : EncodedWordsFit.Statement (.keyctlDraw fn slot) :=
  event_words_fit rfl

theorem EncodedWordsFit.pdescWrite (p : Nat) (ext : Bool) (v : Nat) :
    EncodedWordsFit.Statement (.pdescWrite p ext v) :=
  event_words_fit rfl

theorem EncodedWordsFit.memShareWrite (fn : Nat) (size : Bool) (v : Nat) :
    EncodedWordsFit.Statement (.memShareWrite fn size v) :=
  event_words_fit rfl

theorem EncodedWordsFit.fdomWrite (fn v : Nat) : EncodedWordsFit.Statement (.fdomWrite fn v) :=
  event_words_fit rfl

theorem EncodedWordsFit.errsWrite (fn v : Nat) : EncodedWordsFit.Statement (.errsWrite fn v) :=
  event_words_fit rfl

theorem EncodedWordsFit.fqsWrite (fn v : Nat) : EncodedWordsFit.Statement (.fqsWrite fn v) :=
  event_words_fit rfl

theorem EncodedWordsFit.registerWrite (addr v : Nat) : EncodedWordsFit.Statement (.registerWrite addr v) :=
  event_words_fit rfl

theorem EncodedWordsFit.functionLevelReset (fn : Nat) : EncodedWordsFit.Statement (.functionLevelReset fn) :=
  event_words_fit rfl

theorem EncodedWordsFit.pfFlr : EncodedWordsFit.Statement .pfFlr :=
  event_words_fit rfl

theorem EncodedWordsFit.powerstateD3hotWrite : EncodedWordsFit.Statement .powerstateD3hotWrite :=
  event_words_fit rfl

theorem EncodedWordsFit.d3hotExit : EncodedWordsFit.Statement .d3hotExit :=
  event_words_fit rfl

theorem EncodedWordsFit.d3coldPowerRemoval : EncodedWordsFit.Statement .d3coldPowerRemoval :=
  event_words_fit rfl

theorem EncodedWordsFit.throttleEvent (cause : ThrottleCause) (clock : Nat) :
    EncodedWordsFit.Statement (.throttleEvent cause clock) :=
  event_words_fit rfl

theorem EncodedWordsFit.getstate : EncodedWordsFit.Statement .getstate :=
  event_words_fit rfl

theorem EncodedWordsFit.scrub : EncodedWordsFit.Statement .scrub :=
  event_words_fit rfl

theorem EncodedWordsFit.getrecord (piece : Nat) : EncodedWordsFit.Statement (.getrecord piece) :=
  event_words_fit rfl

theorem EncodedWordsFit.setlessee (hash : BitVec 384) : EncodedWordsFit.Statement (.setlessee hash) :=
  event_words_fit rfl

theorem EncodedWordsFit.release : EncodedWordsFit.Statement .release :=
  event_words_fit rfl

theorem EncodedWordsFit.recover : EncodedWordsFit.Statement .recover :=
  event_words_fit rfl

theorem EncodedWordsFit.powerOn : EncodedWordsFit.Statement .powerOn :=
  event_words_fit rfl

theorem EncodedWordsFit.linkCrcError (link : Link) : EncodedWordsFit.Statement (.linkCrcError link) :=
  event_words_fit rfl

theorem EncodedWordsFit.throttleCauseCleared (cause : ThrottleCause) :
    EncodedWordsFit.Statement (.throttleCauseCleared cause) :=
  event_words_fit rfl

theorem EncodedWordsFit.queueNotify (fn q : Nat) : EncodedWordsFit.Statement (.queueNotify fn q) :=
  event_words_fit rfl

theorem EncodedWordsFit.ideIntegrityFailure (fn : Nat) :
    EncodedWordsFit.Statement (.ideIntegrityFailure fn) :=
  event_words_fit rfl

theorem EncodedWordsFit.spdmRequest (r : SpdmRequest) : EncodedWordsFit.Statement (.spdmRequest r) :=
  event_words_fit rfl

theorem EncodedWordsFit.bcmdRefill (fn : Nat) : EncodedWordsFit.Statement (.bcmdRefill fn) :=
  event_words_fit rfl

theorem EncodedWordsFit.l2bmWrite (fn v : Nat) : EncodedWordsFit.Statement (.l2bmWrite fn v) :=
  event_words_fit rfl

theorem EncodedWordsFit.hseedWrite (fn k v : Nat) : EncodedWordsFit.Statement (.hseedWrite fn k v) :=
  event_words_fit rfl

theorem EncodedWordsFit.tinvWrite (fn v : Nat) : EncodedWordsFit.Statement (.tinvWrite fn v) :=
  event_words_fit rfl

theorem EncodedWordsFit.reevaluationTick : EncodedWordsFit.Statement .reevaluationTick :=
  event_words_fit rfl

theorem EncodedWordsFit.scrubComplete : EncodedWordsFit.Statement .scrubComplete :=
  event_words_fit rfl

theorem EncodedWordsFit.qbindBind (fn qcb q : Nat) : EncodedWordsFit.Statement (.qbindBind fn qcb q) :=
  event_words_fit rfl

theorem EncodedWordsFit.fqresReplay (fn id : Nat) : EncodedWordsFit.Statement (.fqresReplay fn id) :=
  event_words_fit rfl

end Sys2Proof.Laws
end

