-- ==== Sys2Proof/Laws/Stream.lean ====
section
/-!
SUPPORT. What the shared operations of the scalar stream can do: onIssue, scalarGo and scalarReg answer one of three
things (done, waiting, or a trap: illegal, or poison read), a trap one of two (the handler is entered, or the team ends), and
the machine words agree with bit vectors.
-/
namespace Sys2Proof.Machine

/-! ## Instructions at issue -/

theorem onIssue_eq {s : State} {is : Issue} {sh : Shuttle} {env : Env} (h : s.AtIssue is sh env)
    (f : Issue → Shuttle → Env → Dev → Dev) : onIssue s f = .next { s with dev := f is sh env s.dev } := by
  obtain ⟨h1, h2, h3⟩ := h
  simp [onIssue, h1, h2, h3]

/-- An instruction of a stream that answers a next state had something at issue, and changes the device only. -/
theorem onIssue_next {s t : State} {f : Issue → Shuttle → Env → Dev → Dev} (h : onIssue s f = .next t) :
    ∃ is sh env, s.AtIssue is sh env ∧ t = { s with dev := f is sh env s.dev } := by
  unfold onIssue at h
  split at h
  · cases h
  · next is h1 =>
    split at h
    · cases h
    · next sh h2 =>
      split at h
      · cases h
      · next env h3 =>
        cases h
        exact ⟨is, sh, env, ⟨h1, h2, h3⟩, rfl⟩

theorem RegCell.present_of_full {c : RegCell} (h : c.isFull = true) : c.present = true := by simp [RegCell.present, h]

theorem RegCell.not_bad_of_full {c : RegCell} (h : c.isFull = true) : c.isBad = false := by
  cases c <;> simp_all [RegCell.isFull, RegCell.isBad]

/-- A use whose registers are full, and whose destinations have no producer pending, waits for nothing and reads no poison. -/
theorem ScalarUse.ready_of_full {u : ScalarUse} {s : Shuttle} (hr : ∀ n ∈ u.reads, (s.sreg n).isFull = true)
    (hw : ∀ n ∈ u.writes, (s.sreg n).isPending = false) : u.ready s = true ∧ u.broken s = false := by
  refine ⟨?_, ?_⟩
  · simp only [ScalarUse.ready, Bool.and_eq_true, List.all_eq_true]
    exact ⟨fun n hn => RegCell.present_of_full (hr n hn), fun n hn => by simp [hw n hn]⟩
  · rw [ScalarUse.broken, List.any_eq_false]
    exact fun n hn => by simp [RegCell.not_bad_of_full (hr n hn)]

theorem scalarGo_done {u : ScalarUse} {is : Issue} {sh : Shuttle} {env : Env} {d done : Dev}
    (h : u.illegal env.nest.ns = none) (hr : u.ready sh = true) (hb : u.broken sh = false) :
    scalarGo u is sh env d done = done := by
  simp [scalarGo, h, hr, hb]

theorem scalarGo_waits {u : ScalarUse} {is : Issue} {sh : Shuttle} {env : Env} {d done : Dev}
    (h : u.illegal env.nest.ns = none) (hr : u.ready sh = false) : scalarGo u is sh env d done = d := by
  simp [scalarGo, h, hr]

theorem scalarGo_broken {u : ScalarUse} {is : Issue} {sh : Shuttle} {env : Env} {d done : Dev}
    (h : u.illegal env.nest.ns = none) (hr : u.ready sh = true) (hb : u.broken sh = true) :
    scalarGo u is sh env d done = d.scalarTrapOf is sh env 0x13 0 := by
  simp [scalarGo, h, hr, hb]

theorem scalarGo_illegal {u : ScalarUse} {is : Issue} {sh : Shuttle} {env : Env} {d done : Dev} {sub : Nat}
    (h : u.illegal env.nest.ns = some sub) : scalarGo u is sh env d done = d.scalarTrapOf is sh env 0x10 sub := by
  simp [scalarGo, h]

/-- A scalar instruction is illegal, waits, reads poison, or is done. -/
theorem scalarGo_cases (u : ScalarUse) (is : Issue) (sh : Shuttle) (env : Env) (d done : Dev) :
    (∃ sub, u.illegal env.nest.ns = some sub ∧ scalarGo u is sh env d done = d.scalarTrapOf is sh env 0x10 sub) ∨
      (u.illegal env.nest.ns = none ∧ u.ready sh = false ∧ scalarGo u is sh env d done = d) ∨
      (u.illegal env.nest.ns = none ∧ u.ready sh = true ∧ u.broken sh = true ∧
        scalarGo u is sh env d done = d.scalarTrapOf is sh env 0x13 0) ∨
      (u.illegal env.nest.ns = none ∧ u.ready sh = true ∧ u.broken sh = false ∧ scalarGo u is sh env d done = done) := by
  cases h : u.illegal env.nest.ns with
  | some sub => exact .inl ⟨sub, rfl, scalarGo_illegal h⟩
  | none =>
    cases hr : u.ready sh with
    | false => exact .inr (.inl ⟨rfl, rfl, scalarGo_waits h hr⟩)
    | true =>
      cases hb : u.broken sh with
      | true => exact .inr (.inr (.inl ⟨rfl, rfl, rfl, scalarGo_broken h hr hb⟩))
      | false => exact .inr (.inr (.inr ⟨rfl, rfl, rfl, scalarGo_done h hr hb⟩))

theorem scalarReg_done {s : State} {is : Issue} {sh : Shuttle} {env : Env} {u : ScalarUse} {f : Issue → Shuttle → Shuttle}
    (h : s.AtIssue is sh env) (hu : u.illegal env.nest.ns = none) (hr : u.ready sh = true) (hb : u.broken sh = false) :
    scalarReg u f s = .next (s.setShuttle (f is sh)) := by
  simp [scalarReg, onIssue_eq h, scalarGo_done hu hr hb, State.setShuttle]

theorem scalarReg_waits {s : State} {is : Issue} {sh : Shuttle} {env : Env} {u : ScalarUse} {f : Issue → Shuttle → Shuttle}
    (h : s.AtIssue is sh env) (hu : u.illegal env.nest.ns = none) (hr : u.ready sh = false) :
    scalarReg u f s = .next s := by
  simp [scalarReg, onIssue_eq h, scalarGo_waits hu hr]

/-! ## Traps -/

/-- A cause from 0x10 on ends the team. -/
theorem trap_terminating (d : Dev) (s : Shuttle) (has : Bool) (off : Nat) (t : TrapInfo) (susp : Suspended)
    (h : 5 < t.cause) : d.trap s has off t susp = d.terminate s 1 t.cause t.sub 0 (trapWords t (s.traps + 1)) [] 0 := by
  have h' : ¬ t.cause ≤ 5 := by omega
  simp [Dev.trap, h']

/-- A cause of the handler enters it, outside a handler. -/
theorem trap_enters (d : Dev) (s : Shuttle) (off : Nat) (t : TrapInfo) (susp : Suspended) (h : t.cause ≤ 5)
    (hh : s.handler = false) : d.trap s true off t susp = d.setShuttle (s.enterHandler t off susp) := by
  simp [Dev.trap, h, hh]

theorem Shuttle.sreg_putWords (s : Shuttle) (n : Nat) (ws : List Nat) (j : Nat) :
    (s.putWords n ws).sreg j = if n ≤ j ∧ j < n + ws.length then fullOf (ws.getD (j - n) 0) else s.sreg j := by
  induction ws generalizing s n with
  | nil => rw [if_neg (by simp only [List.length_nil]; omega)]; rfl
  | cons w ws ih =>
    rw [Shuttle.putWords, ih]
    simp only [Shuttle.sreg_setSreg, List.length_cons]
    by_cases h : j = n
    · subst h
      rw [if_neg (by omega), if_pos rfl, if_pos (by omega), Nat.sub_self]
      rfl
    · by_cases h2 : n + 1 ≤ j ∧ j < n + 1 + ws.length
      · have e : j - n = j - (n + 1) + 1 := by omega
        rw [if_pos h2, if_pos (by omega), e]
        rfl
      · rw [if_neg h2, if_neg h, if_neg (by omega)]

/-- Writing registers changes the scalar registers only. -/
theorem Shuttle.putWords_frame (s : Shuttle) (n : Nat) (ws : List Nat) : { s.putWords n ws with sregs := s.sregs } = s := by
  induction ws generalizing s n with
  | nil => rfl
  | cons w ws ih =>
    have h := ih (s.setSreg n (fullOf w)) (n + 1)
    rw [Shuttle.putWords]
    exact congrArg (fun z : Shuttle => { z with sregs := s.sregs }) h

/-- The trap record, and the registers below it, at the entry to a handler. -/
theorem Shuttle.sreg_enterHandler (s : Shuttle) (t : TrapInfo) (off : Nat) (susp : Suspended) (j : Nat) :
    (s.enterHandler t off susp).sreg j =
      if 1008 ≤ j ∧ j < 1024 then fullOf ((trapWords t (s.traps + 1)).getD (j - 1008) 0) else s.sreg j := by
  have hl : (trapWords t (s.traps + 1)).length = 16 := by simp [trapWords]
  have h := Shuttle.sreg_putWords (s.takeOver 1008 16) 1008 (trapWords t (s.traps + 1)) j
  rw [hl, Shuttle.takeOver_sreg] at h
  rw [← h]
  simp only [Shuttle.enterHandler, Shuttle.sreg]

theorem scalarTrapOf_illegal (d : Dev) (is : Issue) (sh : Shuttle) (env : Env) (sub : Nat) :
    d.scalarTrapOf is sh env 0x10 sub =
      d.terminate sh 1 0x10 sub 0 (trapWords (scalarTrap is sh 0x10 sub) (sh.traps + 1)) [] 0 := by
  unfold Dev.scalarTrapOf
  rw [trap_terminating _ _ _ _ _ _ (by simp [scalarTrap])]
  rfl

/-! ## Shuttles of the device -/

theorem find_putShuttle {l : List Shuttle} {id : Nat} {s s' : Shuttle} (h : l.find? (fun x => x.id == id) = some s)
    (hid : s'.id = s.id) : (putShuttle l s').find? (fun x => x.id == id) = some s' := by
  have hs : s.id = id := by simpa using List.find?_some h
  induction l with
  | nil => simp at h
  | cons x l ih =>
    by_cases hx : x.id = id
    · simp [putShuttle, hid, hs, hx]
    · rw [List.find?_cons_of_neg (by simpa using hx)] at h
      have hne : ¬ x.id = s'.id := by rw [hid, hs]; exact hx
      simp only [putShuttle, List.map_cons, beq_iff_eq, hne, if_false]
      rw [List.find?_cons_of_neg (by simpa using hx)]
      simpa [putShuttle] using ih h

/-- The shuttle put in its own place is found there. -/
theorem Dev.shuttle_setShuttle {d : Dev} {id : Nat} {s s' : Shuttle} (h : d.shuttle id = some s) (hid : s'.id = s.id) :
    (d.setShuttle s').shuttle id = some s' := find_putShuttle h hid

/-- Another shuttle is found as before. -/
theorem Dev.shuttle_setShuttle_other {d : Dev} {id : Nat} {s' : Shuttle} (h : s'.id ≠ id) :
    (d.setShuttle s').shuttle id = d.shuttle id := by
  unfold Dev.shuttle Dev.setShuttle putShuttle
  dsimp only
  induction d.shuttles with
  | nil => rfl
  | cons x l ih =>
    by_cases hx : x.id = id
    · simp [hx, Ne.symm h]
    · rw [List.find?_cons_of_neg (by simpa using hx), ← ih, List.map_cons]
      by_cases he : x.id = s'.id
      · rw [if_pos (by simpa using he), List.find?_cons_of_neg (by simpa using h)]
      · rw [if_neg (by simpa using he), List.find?_cons_of_neg (by simpa using hx)]

/-! ## Words -/

theorem sext_toNat (v : Word) : sext 32 v.toNat = v.toInt := by
  have h := v.isLt
  unfold sext
  rw [BitVec.toInt_eq_toNat_cond, Nat.mod_eq_of_lt h]
  dsimp only
  split <;> split <;> (try rfl) <;> omega

theorem fullOf_toNat (v : Word) : fullOf v.toNat = .full v := by simp [fullOf]

theorem ofNat_low (i : Int) : BitVec.ofNat 32 (low 32 i) = BitVec.ofInt 32 i := by
  apply BitVec.eq_of_toNat_eq
  simp [low, BitVec.toNat_ofInt]
  omega

end Sys2Proof.Machine
end

