-- ==== Sys2Proof/Tests/Slice0.lean ====
section
/-!
SUPPORT. Tests of single steps on small states, words written out from the manual's encodings, ill-formed terms for each check
of WellFormed, and, for each statement that has hypotheses, states and operands that meet them.
-/
namespace Sys2Proof.Tests
open Sys2Proof Sys2Proof.Machine

set_option Elab.async false

/-! ## Small states -/

/-- The nest of `State.place` with some of its words replaced. -/
def nestWith (ws : List (Nat × Nat)) : List Byte :=
  ws.foldl (fun b p => b.take p.1 ++ leBytes 4 p.2 ++ b.drop (p.1 + 4)) placedNest

/-- What team 2 of launch 1 runs in, with a nest and code. -/
def envOf (nest : List (Nat × Nat)) (scode lcode : List Nat) : Env :=
  let b := { placedBolt scode lcode with nest := nestWith nest }
  { team := placedTeam 2 1, launch := placedLaunch 1, bolt := b, nest := nestAt b.nest 0 }

/-- A device on which shuttles of that team run, with an instruction of one of them at issue. -/
def stageAll (e : Env) (shs : List Shuttle) (is : Issue) : State :=
  { State.reset with dev := { Dev.reset with
      nextId := 10, issue := some is, shuttles := shs, teams := [e.team], launches := [e.launch],
      funcs := [(0, { Func.reset with bolts := [e.bolt] })], parts := [(0, { Part.reset with running := some 0 })] } }

def stage (e : Env) (sh : Shuttle) (is : Issue) : State := stageAll e [sh] is

/-- The same device with its function changed. -/
def withFunc (s : State) (f : Func → Func) : State := { s with dev := s.dev.setFunc 0 (f (s.dev.func 0)) }

/-- Shuttle 3 with some scalar registers. -/
def shuttleWith (rs : List (Nat × RegCell)) : Shuttle := { placedShuttle 3 2 false with sregs := rs }

/-- A one-word scalar instruction at offset 0. -/
def issue0 : Issue := { sh := 3, lane := false, first := 0, pc := 0, next := 1, words := [0xEA000000] }

/-- An instruction ends in a state. -/
def goesTo (i : Instr) (s t : State) : Bool :=
  match exec i s with
  | .next u => decide (u = t)
  | _ => false

/-- What holds of the state that an instruction ends in. -/
def ends (i : Instr) (s : State) (p : State → Bool) : Bool :=
  match exec i s with
  | .next u => p u
  | _ => false

/-- What holds of the state after an event from outside. -/
def endsOutside (o : Outside) (s : State) (p : State → Bool) : Bool :=
  match execOutside o s with
  | .next u => p u
  | _ => false

theorem next_of_goesTo {i : Instr} {s t : State} (h : goesTo i s t = true) : exec i s = .next t := by
  unfold goesTo at h
  split at h
  · next u hu => rw [hu, of_decide_eq_true h]
  · cases h

/-- Whether a list of registers can be read now, and whether it can be written. -/
def canRead (e : Env) (sh : Shuttle) (y k : Nat) : Bool :=
  (regRange y k).all fun r => nameable e.nest.ns r && (sh.sreg r).isFull
def canWrite (e : Env) (sh : Shuttle) (x k : Nat) : Bool :=
  (regRange x k).all fun r => decide (64 ≤ r) && nameable e.nest.ns r && !(sh.sreg r).isPending

theorem mem_regRange {y k r : Nat} (h1 : y ≤ r) (h2 : r < y + k) : r ∈ regRange y k := by
  unfold regRange
  exact List.mem_map.2 ⟨r - y, List.mem_range.2 (by omega), by omega⟩

theorem reads_of_canRead {e : Env} {sh : Shuttle} {y k : Nat} (h : canRead e sh y k = true) : ReadsAll e sh y k := by
  intro r h1 h2
  have := List.all_eq_true.1 h r (mem_regRange h1 h2)
  simpa using this

theorem writes_of_canWrite {e : Env} {sh : Shuttle} {x k : Nat} (h : canWrite e sh x k = true) : WritableAll e sh x k := by
  intro r h1 h2
  have := List.all_eq_true.1 h r (mem_regRange h1 h2)
  simpa [and_assoc] using this

/-- A block of registers that an engine instruction may read, and the register of its status. -/
theorem ready_of {e : Env} {sh : Shuttle} {x y n k : Nat} (hw : canWrite e sh x 1 = true) (hr : canRead e sh y n = true)
    (hn : y + n ≤ 1008) (hk : y % k = 0) : BlockReady e sh x y n k :=
  ⟨writes_of_canWrite hw x (Nat.le_refl x) (by omega), reads_of_canRead hr, hn, hk⟩

/-- The team is ended by a trap whose record has this CAUSE and SUB. -/
def endsTeam (i : Instr) (s : State) (sh : Shuttle) (is : Issue) (sub : Nat) : Bool :=
  goesTo i s { s with dev := s.dev.terminate sh 1 0x10 sub 0 (trapWords (scalarTrap is sh 0x10 sub) (sh.traps + 1)) [] 0 }


/-- Function 0 with 1 GiB of its memory mapped at its own addresses, through tables at 0x2000 to 0x5000, and host memory
above; its partition has one slice. -/
def mapped (s : State) : State :=
  let word := fun (m : Memory) (p : Nat × Nat) => writeBytes m (0x100000000000 + p.1) (leBytes 8 p.2)
  withFunc { s with dev := { s.dev.setPart 0 { s.dev.part 0 with pdesc := (s.dev.part 0).pdesc ||| (2 ^ 63 + 2 ^ 52) } with
      mem := [(0x2000, 0x3003), (0x3000, 0xD), (0x3008, 0x20D), (0x4000, 0x5003), (0x5000, 0xD), (0x5008, 0x4000000D)].foldl word s.dev.mem } }
    fun f => { f with memb := 0, mems := 2 ^ 30, s2root := 0x2001, s1root := [(0, 0x4001)] }
/-- Some 32-bit words in partition 0 at an address. -/
def withWords (s : State) (a : Nat) (ws : List Nat) : State :=
  { s with dev := { s.dev with mem := writeBytes s.dev.mem (0x100000000000 + a) (ws.flatMap (leBytes 4)) } }
/-- A byte of partition 0 at such an address. -/
def byteAt (s : State) (a : Nat) : Nat := (readByte s.dev.mem (0x100000000000 + a)).toNat
/-! ## The scalar stream -/

def env0 : Env := envOf [] [0xEA000000] []
def sh0 : Shuttle := shuttleWith [(70, .full 5), (71, .full 7), (72, .pending), (73, .empty), (76, .full 3), (77, .full 1),
  (90, .full 0xFFFFFF), (91, .full 0x1000000), (92, .full 1), (93, .full 0x80000000)]
def st0 : State := stage env0 sh0 issue0

theorem test_RegisterArithmetic_sadd :
    st0.AtIssue issue0 sh0 env0 ∧ Reads env0 sh0 70 5 ∧ Reads env0 sh0 71 7 ∧
      goesTo (.sadd 70 71) st0 (st0.setShuttle ((sh0.setSreg 70 (.full 12)).advance issue0)) := by decide +kernel
theorem test_RegisterArithmetic_snot :
    Reads env0 sh0 70 5 ∧ Writable env0 sh0 73 ∧
      goesTo (.snot 73 70) st0 (st0.setShuttle ((sh0.setSreg 73 (.full 0xFFFFFFFA)).advance issue0)) := by decide +kernel
theorem test_sdiv_by_zero :
    Reads env0 sh0 74 0 ∧
      goesTo (.sdiv 70 74) st0 (st0.setShuttle ((sh0.setSreg 70 (.full 0xFFFFFFFF)).advance issue0)) := by decide +kernel
theorem test_ssub_wraps : goesTo (.ssub 70 71) st0 (st0.setShuttle ((sh0.setSreg 70 (.full 0xFFFFFFFE)).advance issue0)) := by
  decide +kernel
theorem test_sclz : goesTo (.sclz 80 70) st0 (st0.setShuttle ((sh0.setSreg 80 (.full 29)).advance issue0)) := by decide +kernel

theorem test_PairArithmetic :
    st0.AtIssue issue0 sh0 env0 ∧ Reads env0 sh0 70 5 ∧ Reads env0 sh0 71 7 ∧ Reads env0 sh0 76 3 ∧ Reads env0 sh0 77 1 ∧
      Writable env0 sh0 80 ∧ Writable env0 sh0 81 ∧
      goesTo (.sadd64 70 76) st0
        (st0.setShuttle (((sh0.setSreg 70 (.full 8)).setSreg 71 (.full 8)).advance issue0)) := by decide +kernel

theorem test_ImmediateForms :
    st0.AtIssue issue0 sh0 env0 ∧ Writable env0 sh0 80 ∧ Writable env0 sh0 81 ∧ Reads env0 sh0 70 5 ∧ Reads env0 sh0 71 7 ∧
      goesTo (.sli64 80 (-1)) st0
        (st0.setShuttle (((sh0.setSreg 80 (.full 0xFFFFFFFF)).setSreg 81 (.full 0xFFFFFFFF)).advance issue0)) ∧
      goesTo (.sshli 70 31) st0 (st0.setShuttle ((sh0.setSreg 70 (.full 0x80000000)).advance issue0)) ∧
      goesTo (.sshri 70 0) st0 (st0.setShuttle (sh0.advance issue0)) ∧
      goesTo (.saddi64 70 (-6)) st0
        (st0.setShuttle (((sh0.setSreg 70 (.full 0xFFFFFFFF)).setSreg 71 (.full 6)).advance issue0)) := by decide +kernel

/-- A nest that declares 900 scalar registers. -/
def envNs : Env := envOf [(4, 900 * 2 ^ 16 + 768)] [0xEA000000] []
def stNs : State := stage envNs sh0 issue0
theorem test_IllegalForms :
    stNs.AtIssue issue0 sh0 envNs ∧ nameable envNs.nest.ns 900 = false ∧ nameable envNs.nest.ns 899 = true ∧
      endsTeam (.sadd 63 70) stNs sh0 issue0 4 ∧ endsTeam (.sadd 900 70) stNs sh0 issue0 2 ∧
      endsTeam (.sadd 70 900) stNs sh0 issue0 2 ∧ endsTeam (.sbz 900 0) stNs sh0 issue0 2 ∧
      endsTeam (.sfet 70 70) stNs sh0 issue0 4 ∧ endsTeam (.sli64 63 0) stNs sh0 issue0 4 ∧
      endsTeam (.sadd64 71 76) stNs sh0 issue0 3 ∧ endsTeam (.sadd64 70 77) stNs sh0 issue0 3 ∧
      endsTeam (.sshli 70 (-1)) stNs sh0 issue0 1 ∧ endsTeam (.sshli 70 32) stNs sh0 issue0 1 ∧
      endsTeam (.sshri 63 31) stNs sh0 issue0 4 ∧ endsTeam (.ssrai 900 0) stNs sh0 issue0 2 := by decide +kernel
theorem test_WaitingForms :
    (sh0.sreg 73).isFull = false ∧ (sh0.sreg 72).isPending = true ∧ goesTo (.sadd 70 73) st0 st0 ∧
      goesTo (.snot 72 70) st0 st0 ∧ goesTo (.saddi 73 1) st0 st0 ∧ goesTo (.sli 72 1) st0 st0 ∧ goesTo (.sempt 72) st0 st0 := by
  decide +kernel

theorem test_ScalarFrame :
    st0.AtIssue issue0 sh0 env0 ∧ Instr.sadd 70 71 ∈ oneDestination 70 71 0 0 ∧ Instr.saddi64 70 3 ∈ pairDestination 70 71 3 ∧
      Instr.snop ∈ noDestination 70 0 ∧ ends (.sadd 70 71) st0 (fun t => (t.dev.shuttle 3).isSome) ∧
      ends (.saddi64 70 3) st0 (fun t => (t.dev.shuttle 3).isSome) ∧ ends .snop st0 (fun t => (t.dev.shuttle 3).isSome) := by
  decide +kernel

/-- The word is at offset 5. -/
def issue5 : Issue := { issue0 with first := 5, pc := 5, next := 6 }
def st5 : State := stage env0 sh0 issue5

theorem test_BranchesAndLoops :
    st5.AtIssue issue5 sh0 env0 ∧ (branchTarget issue5 (-5) : Int) = 5 + (-5) ∧ 2 ^ 63 ≤ branchTarget issue5 (-6) ∧
      Reads env0 sh0 74 0 ∧ Reads env0 sh0 93 0x80000000 ∧
      goesTo (.sbz 74 (-5)) st5 (st5.setShuttle (sh0.branchTo issue5 0)) ∧
      goesTo (.sbz 70 (-5)) st5 (st5.setShuttle (sh0.advance issue5)) ∧
      goesTo (.sblz 93 2) st5 (st5.setShuttle (sh0.branchTo issue5 7)) ∧
      goesTo (.sbgez 93 2) st5 (st5.setShuttle (sh0.advance issue5)) := by decide +kernel
theorem test_sloop :
    Reads env0 sh0 92 1 ∧ Reads env0 sh0 74 0 ∧
      goesTo (.sloop 92 (-1)) st5 (st5.setShuttle ((sh0.setSreg 92 (.full 0)).advance issue5)) ∧
      goesTo (.sloop 74 (-1)) st5 (st5.setShuttle ((sh0.setSreg 74 (.full 0xFFFFFFFF)).branchTo issue5 4)) := by decide +kernel
theorem test_calls :
    Writable env0 sh0 80 ∧ Reads env0 sh0 71 7 ∧
      goesTo (.scall 80 1) st5 (st5.setShuttle ((sh0.setSreg 80 (.full 6)).branchTo issue5 6)) ∧
      goesTo (.sjrL 71 71) st5 (st5.setShuttle ((sh0.setSreg 71 (.full 6)).branchTo issue5 7)) := by decide +kernel

theorem test_FullEmptyInstructions :
    st0.AtIssue issue0 sh0 env0 ∧ Writable env0 sh0 80 ∧ nameable env0.nest.ns 72 = true ∧ Reads env0 sh0 70 5 ∧
      goesTo (.sfet 80 72) st0 (st0.setShuttle ((sh0.setSreg 80 (.full 0)).advance issue0)) ∧
      goesTo (.swfull 70) st0 (st0.setShuttle (sh0.advance issue0)) ∧
      goesTo (.sempt 70) st0 (st0.setShuttle ((sh0.setSreg 70 .empty).advance issue0)) := by decide +kernel

def shBlock : Shuttle := { sh0 with blocks := [placedBlock 4] }
def stBlock : State := stage env0 shBlock issue0

theorem test_SystemRegisters :
    st0.AtIssue issue0 sh0 env0 ∧ Reads env0 sh0 90 0xFFFFFF ∧ Reads env0 sh0 91 0x1000000 ∧
      goesTo (.ssetfmt 90) st0 (st0.setShuttle { sh0.advance issue0 with fmt := 0xFFFFFF }) ∧
      endsTeam (.ssetfmt 91) st0 sh0 issue0 1 ∧ endsTeam (.scsrW 91 16) st0 sh0 issue0 1 ∧
      ends (.scsrW 90 23) st0 (fun t => t.dev.tw2Map 0 7 == 0xFFFFFF && t.dev.tw2Map 1 7 == 0x423C30) ∧
      stBlock.AtIssue issue0 shBlock env0 ∧ Reads env0 shBlock 90 0xFFFFFF ∧ goesTo (.scsrW 90 23) stBlock stBlock := by
  decide +kernel
theorem test_scsr :
    Writable env0 sh0 80 ∧ goesTo (.scsrR 80 16) st0 (st0.setShuttle ((sh0.setSreg 80 (.full 0x423C30)).advance issue0)) ∧
      goesTo (.scsrW 70 1) st0 (st0.setShuttle { sh0.advance issue0 with seed := 5 * 2 ^ 32 }) ∧
      goesTo .syield st0 (st0.setShuttle (sh0.advance issue0)) := by decide +kernel
theorem test_scyc : Writable env0 sh0 80 ∧ Writable env0 sh0 81 ∧ 80 % 2 = 0 := by decide +kernel

/-- A nest with a trap handler at offset 9. -/
def envTrap : Env := envOf [(0, 32), (64, 9)] [0xEA000000] []
def stTrap : State := stage envTrap sh0 issue0
def shHandler : Shuttle :=
  { shuttleWith [(1010, .full 6), (1011, .full 2)] with handler := true, suspended := .scalar }
def stHandler : State := stage envTrap shHandler issue0
def shNoReturn : Shuttle := { shuttleWith [(1010, .empty)] with handler := true }
def stNoReturn : State := stage envTrap shNoReturn issue0

theorem test_SoftwareTrap :
    stTrap.AtIssue issue0 sh0 envTrap ∧ envTrap.nest.hasTrap = true ∧ sh0.handler = false ∧
      ends (.strap (-2)) stTrap (fun t => t.dev.shuttle 3 |>.any fun h =>
        h.pc == 9 && h.handler && h.sval 1008 == 1 && h.sval 1010 == 1 && h.sval 1018 == 0xFFFFFFFE && h.sval 1023 == 1) := by
  decide +kernel
theorem test_strap_stops :
    env0.nest.hasTrap = false ∧ ends (.strap 0) st0 (fun t => t.dev.teams.all fun x => x.dying) ∧
      stHandler.AtIssue issue0 shHandler envTrap ∧ ends (.strap 0) stHandler (fun t => t.dev.teams.all fun x => x.dying) := by
  decide +kernel
/-- Lane suspensions: of a trap, and of an `ltrap`. -/
def shLaneTrap (skip : Bool) : Shuttle :=
  { placedShuttle 3 2 true with
    sregs := [(1010, .full 6), (1011, .full 2)], handler := true, suspended := .lane 0 [0] skip }
theorem test_TrapReturn :
    issue0.words = [0xEA000000] ∧ shHandler.sreg 1010 = .full 6 ∧ shHandler.sreg 1011 = .full 2 ∧
      ends .strapRet stHandler (fun t => t.dev.shuttle 3 |>.any fun h => h.pc == 6 && !h.handler) ∧
      endsTeam .strapRet st0 sh0 issue0 0 ∧ stNoReturn.AtIssue issue0 shNoReturn envTrap ∧
      goesTo .strapRet stNoReturn stNoReturn := by decide +kernel
theorem test_TrapReturn_lane :
    (shLaneTrap true).frontier = [Entry.start 0 [0] 0] ∧
      ends .strapRet (stage envTrap (shLaneTrap true) issue0) (fun t => t.dev.shuttle 3 |>.any fun h =>
        h.frontier.map (fun e => (e.pc, e.beats)) == [(3, [0])]) ∧
      ends .strapRet (stage envTrap (shLaneTrap false) issue0) (fun t => t.dev.shuttle 3 |>.any fun h =>
        h.frontier.map (fun e => (e.pc, e.beats)) == [(2, [0])]) := by decide +kernel

def stDebug : State := withFunc st0 fun f => { f with dbgen := 1, fqb := 0x1000, fqs := 64 }
theorem test_Breakpoint :
    st0.AtIssue issue0 sh0 env0 ∧ (st0.dev.func 0).dbgen % 2 = 0 ∧
      goesTo .sbrk st0 (st0.setShuttle (sh0.advance issue0)) ∧ stDebug.AtIssue issue0 sh0 env0 ∧ (stDebug.dev.func 0).dbgen % 2 = 1 ∧ ringOk (stDebug.dev.func 0).fqs = true ∧
      ends .sbrk stDebug (fun t => (t.dev.shuttle 3 |>.any fun h => h.stopped && h.sval 1010 == 1) &&
        ((t.dev.func 0).faults.map fun e => (e.kind, e.addr)) == [(3, 1)]) := by decide +kernel

/-- Debug is enabled, and the fault queue is not; an entry stands in the queue before. -/
def stNoQueue : State := withFunc st0 fun f => { f with dbgen := 1 }
def entry0 : FaultEntry :=
  { id := 4, kind := 1, stage := 1, access := 1, ctx := 0, unitLo := 0, unitSize := 4096, addr := 0, team := 0, joined := 0,
    posted := true, resolved := false, owner := .shuttle 9 }
def stSecond : State := withFunc stDebug fun f => { f with faults := [entry0], nextFault := 5 }
theorem test_Breakpoint_queue :
    ringOk (stNoQueue.dev.func 0).fqs = false ∧ (stNoQueue.dev.func 0).dbgen % 2 = 1 ∧
      goesTo .sbrk stNoQueue (stNoQueue.setShuttle (sh0.advance issue0)) ∧
      ends .sbrk stSecond (fun t => ((t.dev.func 0).faults.map fun e => (e.id, e.kind)) == [(4, 1), (5, 3)]) := by decide +kernel
/-! ## Lane blocks, levels, barriers and threads -/

/-- A nest with level 0 declared and uniform and level 1 declared, one lane word, and a launch with given levels. -/
def levelsOf (ls : List LevelMap) : List LevelMap := ls ++ List.replicate (4 - ls.length) { extent := 1, outer := 7, inner := 0, fact := 1 }
def envLevels (ls : List LevelMap) : Env :=
  let e := envOf [(12, 0xC0), (20, 0x80)] [0xEA000000] [0]
  { e with launch := { e.launch with levels := levelsOf ls } }
def lane2 : LevelMap := { extent := 2, outer := 7, inner := 1, fact := 2 }
def seq3 : LevelMap := { extent := 3, outer := 7, inner := 4, fact := 3 }
def team2 : LevelMap := { extent := 2, outer := 7, inner := 3, fact := 2 }
def envL : Env := envLevels []
def stL (sh : Shuttle) : State := stage envL sh issue0
def shHandling : Shuttle := { sh0 with handler := true }

theorem test_LaneBlockLaunch :
    (stL sh0).AtIssue issue0 sh0 envL ∧ sh0.handler = false ∧ 0 < envL.bolt.lcode.length ∧ sh0.blocks.length < 8 ∧
      canWrite envL sh0 1000 8 ∧ canRead envL sh0 100 8 ∧
      ends (.lrun 1000 100 8 0) (stL sh0) (fun t => t.dev.shuttle 3 |>.any fun h =>
        h.blocks.length == 1 && h.sreg 1000 == .pending && h.sreg 1007 == .pending && h.running) ∧
      ends (.lrun 0 100 0 0) (stL sh0) (fun t => t.dev.shuttle 3 |>.any fun h => h.blocks.length == 1 && h.sregs == sh0.sregs) := by
  decide +kernel
theorem test_LaneBlockLaunch_ready : WritableAll envL sh0 1000 8 ∧ ReadsAll envL sh0 100 8 :=
  ⟨writes_of_canWrite (by decide +kernel), reads_of_canRead (by decide +kernel)⟩
def shFull : Shuttle := { sh0 with blocks := List.replicate 8 (placedBlock 4), running := true, frontier := [Entry.start 0 [0] 0] }
theorem test_LaneBlockLaunch_waits :
    (stL shFull).AtIssue issue0 shFull envL ∧ 8 ≤ shFull.blocks.length ∧ goesTo (.lrun 80 100 2 0) (stL shFull) (stL shFull) ∧
      (stL shHandling).AtIssue issue0 shHandling envL ∧ endsTeam (.lrun 80 100 2 0) (stL shHandling) shHandling issue0 0 := by
  decide +kernel

/-- An access of a lane thread, and one of the scalar stream, that has not been performed. -/
def accOf (beat : Option Nat) (st : AccStatus) : Access :=
  { id := 8, word := 0, beat := beat, kind := .load, va := 0x1000, size := 4, data := 0, ord := 0, dst := .sregs 80,
    covers := [0], block := 4, status := st }
def shLaneAcc : Shuttle := { sh0 with accs := [accOf (some 0) .walk] }
def shAcc : Shuttle := { sh0 with accs := [accOf none .walk] }

theorem test_LaneQueueWaits :
    (stL sh0).AtIssue issue0 sh0 envL ∧ sh0.blocks = [] ∧ (∀ a ∈ shAcc.accs, a.beat ≠ none → a.performed = true) ∧
      goesTo .lsync (stL shAcc) (stL (shAcc.advance issue0)) ∧ goesTo .lsync (stL shBlock) (stL shBlock) ∧
      goesTo .lsync (stL shLaneAcc) (stL shLaneAcc) ∧ endsTeam (.sshare 33 70 31) (stL sh0) sh0 issue0 4 ∧
      endsTeam .lsync (stL shHandling) shHandling issue0 0 := by decide +kernel
theorem test_sshare :
    32 + 31 ≤ 63 ∧ canRead envL sh0 76 32 ∧ goesTo (.sshare 32 76 31) (stL shBlock) (stL shBlock) ∧
      ends (.sshare 32 76 31) (stL sh0) (fun t => t.dev.shuttle 3 |>.any fun h =>
        h.sval 32 == 3 && h.sval 63 == 0 && h.sval 46 == 0xFFFFFF) := by decide +kernel
theorem test_sshare_ready : ReadsAll envL sh0 76 (31 + 1) := reads_of_canRead (by decide +kernel)

def envLane : Env := envLevels [lane2]
def envTeam : Env := envLevels [team2]
def shSpawned : Shuttle := { sh0 with spawned := true, nthreads := 1 }
theorem test_LevelQueries :
    (stage envLane sh0 issue0).AtIssue issue0 sh0 envLane ∧ Writable envLane sh0 80 ∧ Writable envLane sh0 81 ∧
      (envLane.nest.level 0).uniform = true ∧ (envLane.nest.level 1).uniform = false ∧ envLane.launch.levels[0]? = some lane2 ∧
      endsTeam (.sidx 63 0) (stage envLane sh0 issue0) sh0 issue0 4 ∧
      ends (.sidx 80 0) (stage envLane sh0 issue0) (fun t => t.dev.shuttle 3 |>.any fun h => h.sval 80 == 0) ∧
      ends (.smapq 80 0) (stage envLane sh0 issue0) (fun t => t.dev.shuttle 3 |>.any fun h =>
        h.pair 80 == 2 * 2 ^ 32 + 7 * 2 ^ 27 + 2 ^ 24 + 2) ∧
      ends (.smapq 80 4) (stage envLane sh0 issue0) (fun t => t.dev.shuttle 3 |>.any fun h =>
        h.sval 80 == 2 ^ 25 + 2 ^ 14 + 2) ∧
      ends (.smapq 80 5) (stage envLane sh0 issue0) (fun t => t.dev.shuttle 3 |>.any fun h => h.sval 80 == 16) := by decide +kernel
theorem test_selct :
    teamLevel envLane.launch.levels 0 = false ∧ teamLevel envTeam.launch.levels 0 = true ∧
      ends (.selct 80 0) (stage envLane sh0 issue0) (fun t => t.dev.shuttle 3 |>.any fun h => h.sval 80 == 1) ∧
      ends (.selct 80 0) (stage envTeam sh0 issue0) (fun t => t.dev.teams.all fun x => x.dying) ∧
      (stage envLane shSpawned issue0).AtIssue issue0 shSpawned envLane ∧ shSpawned.spawned = true ∧
      ends (.selct 80 0) (stage envLane shSpawned issue0) (fun t => t.dev.teams.all fun x => x.dying) := by decide +kernel

def region (k start : Nat) : Region :=
  { level := k, start := start, flags0 := [], counts0 := [], flagsAcc := [], countsAcc := [] }
def envSeq : Env := envLevels [seq3]
def shIn (seq : Nat) : Shuttle := { sh0 with regions := [region 0 7], seq := [seq, 0, 0, 0] }
def shSeqBlock : Shuttle := { shIn 0 with blocks := [placedBlock 4] }
theorem test_srgnb :
    (stage envSeq sh0 issue0).AtIssue issue0 sh0 envSeq ∧ sh0.splits = [] ∧ sh0.spawned = false ∧
      (envSeq.nest.level 0).decl = true ∧ (envSeq.nest.level 2).decl = false ∧ (∀ r ∈ sh0.regions, r.level < 0) ∧
      envSeq.nest.slicesOf sh0.stage = [] ∧
      ends (.srgnb 0) (stage envSeq sh0 issue0) (fun t => t.dev.shuttle 3 |>.any fun h =>
        h.regions == [region 0 1] && h.seq == [0, 0, 0, 0]) ∧
      (∃ r ∈ (shIn 0).regions, 0 ≤ r.level) ∧
      ends (.srgnb 0) (stage envSeq (shIn 0) issue0) (fun t => t.dev.teams.all fun x => x.dying) ∧
      ends (.srgne 2) (stage envSeq sh0 issue0) (fun t => t.dev.teams.all fun x => x.dying) ∧
      ends (.srgne 0) (stage envSeq sh0 issue0) (fun t => t.dev.teams.all fun x => x.dying) ∧
      ends (.srgne 1) (stage envSeq (shIn 0) issue0) (fun t => t.dev.teams.all fun x => x.dying) ∧
      ends (.srgne 0) (stage envSeq shSpawned issue0) (fun t => t.dev.teams.all fun x => x.dying) := by decide +kernel
theorem test_srgne :
    (stage envSeq (shIn 1) issue0).AtIssue issue0 (shIn 1) envSeq ∧ seqLevel envSeq.launch.levels 0 = true ∧ Settled (shIn 1) ∧
      (shIn 1).seq.getD 0 0 + 1 < seqCount envSeq.launch.levels 0 0 ∧ seqCount envSeq.launch.levels 0 0 ≤ (shIn 2).seq.getD 0 0 + 1 ∧
      ends (.srgne 0) (stage envSeq (shIn 1) issue0) (fun t => t.dev.shuttle 3 |>.any fun h =>
        h.pc == 7 && h.seq == [2, 0, 0, 0] && h.regions.length == 1) ∧
      ends (.srgne 0) (stage envSeq (shIn 2) issue0) (fun t => t.dev.shuttle 3 |>.any fun h =>
        h.pc == 1 && h.seq == [0, 0, 0, 0] && h.regions == []) ∧
      seqLevel envL.launch.levels 0 = false ∧
      goesTo (.srgne 0) (stL (shIn 0)) (stL { (shIn 0).advance issue0 with regions := [] }) ∧
      goesTo (.srgne 0) (stage envSeq shSeqBlock issue0) (stage envSeq shSeqBlock issue0) := by decide +kernel

/-- Two threads with v4 of 5 and 7. -/
def shVals : Shuttle := { shuttleWith [(70, .full 1)] with vregs := [(4, .full 5), (1028, .full 7)] }
def stVals : State := stage envLane shVals issue0
def vals (t : State) (r : Nat) : List Nat := ((t.dev.shuttle 3).map fun h => [(h.vreg 0 r).val, (h.vreg 1 r).val]).getD []
theorem test_BarriersAndCollectives :
    stVals.AtIssue issue0 shVals envLane ∧ shVals.handler = false ∧ shVals.arrived = none ∧ Settled shVals ∧
      shVals.nonePending = true ∧ shVals.openSeq envLane.launch.levels 0 = [] ∧ stVals.dev.shuttlesOf 2 = [shVals] ∧
      envLane.team.arrivals = [] ∧ 5 < envLane.nest.nv ∧ teamLevel envLane.launch.levels 0 = false ∧
      (∀ b ∈ shVals.threads envLane.launch.levels 0 [0, 0, 0, 0], (shVals.vreg b 4).isFull = true) ∧
      nameable envLane.nest.ns 70 = true ∧ (shVals.sreg 70).isFull = true ∧
      ends (.scoll 5 4 0 0) stVals (fun t => vals t 5 == [12, 12] && vals t 4 == [5, 7]) ∧
      ends (.sprfx 5 4 0 0) stVals (fun t => vals t 5 == [0, 5]) ∧
      ends (.sslide 5 4 0 0 70 1) stVals (fun t => vals t 5 == [7, 1]) ∧
      ends (.sbcast 5 4 0 70) stVals (fun t => vals t 5 == [7, 7]) ∧
      ends (.sbar 0 3) stVals (fun t => t.dev.shuttle 3 |>.any fun h => h.pc == 1 && h.arrived == none) := by decide +kernel
theorem test_barrier_waits :
    goesTo (.sbar 0 3) (stL shBlock) (stL shBlock) ∧ goesTo (.sbar 0 3) (stL shAcc) (stL shAcc) ∧
      ends (.sbar 0 3) (stage envTeam sh0 issue0) (fun t => t.dev.teams.all fun x => x.dying) ∧
      ends (.sbar 0 3) (stage envLane shSpawned issue0) (fun t => t.dev.teams.all fun x => x.dying) := by decide +kernel

theorem test_CollectiveResults :
    (∀ v ∈ [5, 7, 9], v < 2 ^ 32) ∧ collResults (0x46, 0, -1) [5, 7, 9] 1 = [1, 5, 7] ∧
      treeReduce (collOp 1) 4 [0x3F800000, 0x4B800000, 0x3F800000, 0x3F800000] = 0x4B800001 ∧
      exPrefix 1 [0x3F800000, 0x4B800000, 0x3F800000, 0x3F800000] = [0, 0x3F800000, 0x4B800000, 0x4B800000] ∧
      collResults (0x46, 1, 1) [0x00050004, 0x00070006] 9 = [0x00060005, 0x00090007] ∧
      collResults (0x44, 1, 0) [0x7F800000, 0xFF800000] 0 = [0x7FC00000, 0x7FC00000] := by decide +kernel

/-- A region table with an entry for id 6 at word 0, without and with the counter register s70. -/
def envRegion (creg : Nat) : Env :=
  let e := envOf [(112, 1), (120, 256)] [0xEA000000] []
  let b := { e.bolt with nest := e.bolt.nest ++ leBytes 4 (6 + creg * 65536) ++ leBytes 4 0 }
  { e with bolt := b, nest := nestAt b.nest 0 }
theorem test_RegionBoundaries :
    (stage (envRegion 0x3FF) sh0 issue0).AtIssue issue0 sh0 (envRegion 0x3FF) ∧
      (envRegion 0x3FF).nest.boundaryOk 6 0x3FF issue0.first = true ∧ (envRegion 70).nest.boundaryOk 6 70 issue0.first = true ∧
      (∀ r ∈ (envRegion 70).nest.regions, r.id ≠ 7) ∧ Settled sh0 ∧ Reads (envRegion 70) sh0 70 5 ∧
      ends (.sirb 6) (stage (envRegion 0x3FF) sh0 issue0) (fun t => t.dev.shuttle 3 |>.any fun h =>
        h.record.any fun r => r.resume == 0 && r.creg == none) ∧
      ends (.sirc 70 6) (stage (envRegion 70) sh0 issue0) (fun t => t.dev.shuttle 3 |>.any fun h =>
        h.record.any fun r => r.creg == some 70 && r.cval == 5) ∧
      endsTeam (.sirb 7) (stage (envRegion 70) sh0 issue0) sh0 issue0 1 ∧
      goesTo (.sirb 6) (stage (envRegion 0x3FF) shBlock issue0) (stage (envRegion 0x3FF) shBlock issue0) ∧
      goesTo (.sirb 6) (stage (envRegion 0x3FF) shSpawned issue0)
        (stage (envRegion 0x3FF) (shSpawned.advance issue0) issue0) ∧
      endsTeam (.sirb 6) (stage (envRegion 0x3FF) shHandling issue0) shHandling issue0 0 := by decide +kernel

/-- A nest of 8 vector and 80 scalar registers. -/
def envSmall : Env := envOf [(4, 96 * 2 ^ 16 + 8)] [0xEA000000] []
def shSmall : Shuttle := { shuttleWith [] with nthreads := 1 }
theorem test_Spawning :
    (stage envSmall shSmall issue0).AtIssue issue0 shSmall envSmall ∧ Writable envSmall shSmall 80 ∧ Settled shSmall ∧
      canRead envSmall shSmall 70 8 ∧
      (coreRoom ((stage envSmall shSmall issue0).dev.onCore 0) 8 envSmall.nest.nv envSmall.nest.ns).isSome ∧
      ends (.spawn 80 70 8 5) (stage envSmall shSmall issue0) (fun t => t.dev.shuttles.length == 2 &&
        (t.dev.shuttle 10 |>.any fun h => h.pc == 5 && h.spawned && h.nthreads == 8)) ∧
      goesTo (.spawn 80 100 8 5) (stL { sh0 with blocks := [placedBlock 4] }) (stL { sh0 with blocks := [placedBlock 4] }) := by
  decide +kernel
theorem test_Spawning_ready : ReadsAll envSmall shSmall 70 8 := reads_of_canRead (by decide +kernel)
/-- A core whose twelve scalar pools are taken, 8 shuttles of 1,024 entries each. -/
def crowd : List Shuttle :=
  (List.range 96).map fun i => { shuttleWith [] with id := 3 + 20 * i, part := i / 8, lane := i % 8, nthreads := 1 }
theorem test_Spawning_none :
    (stageAll env0 crowd issue0).AtIssue issue0 (crowd.headD (Shuttle.fresh 0 0)) env0 ∧
      coreRoom ((stageAll env0 crowd issue0).dev.onCore 0) 1 768 1008 = none ∧
      ends (.spawn 80 70 1 5) (stageAll env0 crowd issue0) (fun t => t.dev.shuttles.length == 96 &&
        (t.dev.shuttle 3 |>.any fun h => h.sreg 80 == .full 0 && h.pc == 1)) := by decide +kernel

/-! ## Scalar memory instructions -/

/-- A team with a SCRATCH entry 0 and a FIFO entry 1 of four 4-byte slots. -/
def envBanks : Env :=
  { env0 with team := { env0.team with banks :=
      [{ entry := 0, bank := 0, fifo := none, shared := false, slots := [] },
        { entry := 1, bank := 1, fifo := some (4, 4), shared := false, slots := [] }] } }
/-- s70 holds 0x1000, s72 a scratch address, s74 a FIFO bank, s76 an address of no space; s78 is 9. -/
def shMem : Shuttle := shuttleWith [(70, .full 0x1000), (73, .full 0xFE000000), (74, .full 0x80000), (75, .full 0xFD000000),
  (77, .full 0x01000000), (78, .full 9)]
def stMem : State := stage envBanks shMem issue0
def lastAcc (t : State) (p : Access → Bool) : Bool :=
  (t.dev.shuttle 3).any fun h => h.accs.any p

theorem test_ScalarLoads :
    stMem.AtIssue issue0 shMem envBanks ∧ Reads envBanks shMem 70 0x1000 ∧ Reads envBanks shMem 71 0 ∧
      reach 0 envBanks.team 0x1004 4 = .virt 0x1004 ∧ reach 0 envBanks.team 0x1008 16 = .bad ∧
      reach 0 envBanks.team (0xFE * 2 ^ 56 + 16) 16 = .window (scratchLoc 2 0 16) ∧
      reach 0 envBanks.team (0xFD * 2 ^ 56 + 2 ^ 19) 4 = .fifo 1 ∧
      ends (.sld 80 70 1) stMem (fun t => lastAcc t fun a => a.va == 0x1004 && a.size == 4 && a.status == .walk) ∧
      ends (.sld128 80 72 4) stMem (fun t => lastAcc t fun a => a.size == 16 && a.status == .home (scratchLoc 2 0 16)) ∧
      ends (.sld 80 74 0) stMem (fun t => lastAcc t fun a => a.status == .fifo 1) := by decide +kernel
/-- The team has a copy of 64 bytes at 128 of its team-state area. -/
def teamCopy : Team := { envBanks.team with copies := [{ handle := 0, inst := [], entry := none, offset := 128, size := 64 }] }
theorem test_ScalarLoads_reach :
    reach 0 teamCopy (0xFC * 2 ^ 56 + 188) 4 = .window (teamLoc 0 teamCopy 188) ∧ reach 0 teamCopy (0xFC * 2 ^ 56 + 192) 4 = .bad ∧
      reach 0 teamCopy (0xFE * 2 ^ 56 + 2 ^ 23) 4 = .bad ∧ reach 0 teamCopy (0xFE * 2 ^ 56 + 2 ^ 19) 4 = .bad ∧
      reach 0 teamCopy (0xFD * 2 ^ 56 + 2 ^ 19 + 4) 4 = .bad ∧ reach 0 teamCopy (0xFD * 2 ^ 56) 4 = .bad ∧
      reach 0 teamCopy (0xFD * 2 ^ 56 + 2 ^ 19) 8 = .bad := by decide +kernel
theorem test_ScalarLoads_bad :
    reach 0 envBanks.team (2 ^ 56) 4 = .bad ∧
      ends (.sld 80 76 0) stMem (fun t => t.dev.teams.all fun x => x.dying) ∧
      ends (.sld128 80 70 2) stMem (fun t => (t.dev.teams.all fun x => x.dying) && (t.dev.shuttle 3).any fun h => h.sreg 80 == .full 0) := by
  decide +kernel
theorem test_ScalarLoads_ready : WritableAll envBanks shMem 80 4 ∧ ReadsAll envBanks shMem 76 4 :=
  ⟨writes_of_canWrite (by decide +kernel), reads_of_canRead (by decide +kernel)⟩

theorem test_ScalarStores :
    canRead envBanks shMem 76 4 ∧
      ends (.sst128 76 70 4) stMem (fun t => lastAcc t fun a =>
        a.va == 0x1010 && a.size == 16 && a.kind == .store && a.data == 0x01000000 * 2 ^ 32 + 9 * 2 ^ 64) ∧
      ends (.sstrel 78 70 (-1)) stMem (fun t => lastAcc t fun a => a.va == 0xFFC && a.ord == 2 && a.data == 9) ∧
      ends (.sst 78 76 0) stMem (fun t => t.dev.teams.all fun x => x.dying) := by decide +kernel

/-- The access of the instruction at offset 0, under way or arrived. -/
def accHere (size : Nat) (st : AccStatus) : Access :=
  { id := 8, word := 0, beat := none, kind := .load, va := 0x1000, size := size, data := 0, ord := 1, dst := .stream,
    covers := [0], block := 0, status := st }
def shWaits (st : AccStatus) : Shuttle := { shMem with accs := [accHere 8 st] }
theorem test_AcquireLoadAndAtomic :
    stMem.AtIssue issue0 shMem envBanks ∧ shMem.waitingAccess issue0 = none ∧ Writable envBanks shMem 80 ∧
      (shWaits (.arrived 77)).waitingAccess issue0 = some (accHere 8 (.arrived 77)) ∧
      ends (.sldacq 80 70 0) (stage envBanks (shWaits (.arrived 77)) issue0) (fun t => t.dev.shuttle 3 |>.any fun h =>
        h.sreg 80 == .full 77 && h.accs == [] && h.pc == 1) ∧
      ends (.sldacq 80 70 0) stMem (fun t => lastAcc t fun a => a.va == 0x1000 && a.ord == 1) ∧
      ends (.sldacq 80 76 0) stMem (fun t => t.dev.teams.all fun x => x.dying) := by decide +kernel
theorem test_satom :
    80 % 2 = 0 ∧ 78 % 2 = 0 ∧
      ends (.satom 80 70 0 2 7 7 78) stMem (fun t => lastAcc t fun a =>
        a.kind == .atom 7 7 0 && a.data == 9 && a.size == 8 && a.ord == 2) ∧
      ends (.satom 80 70 0 2 0 7 78) (stage envBanks (shWaits (.arrived (5 + 6 * 2 ^ 32))) issue0) (fun t =>
        t.dev.shuttle 3 |>.any fun h => h.pair 80 == 5 + 6 * 2 ^ 32 && h.pc == 1) ∧
      goesTo (.satom 80 70 0 2 0 0 78) (stage envBanks (shWaits .walk) issue0) (stage envBanks (shWaits .walk) issue0) := by
  decide +kernel
theorem test_satom_ready : WritableAll envBanks shMem 80 2 ∧ ReadsAll envBanks shMem 78 2 ∧ ReadsAll envBanks shMem 80 2 :=
  ⟨writes_of_canWrite (by decide +kernel), reads_of_canRead (by decide +kernel), reads_of_canRead (by decide +kernel)⟩

def copyOf (cluster : Nat) : L1Copy := { cluster := cluster, block := 1, keyid := 0, val := 0, ro := false }
def stCopies : State := { stL sh0 with dev := { (stL sh0).dev with l1 := [copyOf 0, copyOf 1] } }
theorem test_Fences :
    stCopies.AtIssue issue0 sh0 envL ∧ Settled sh0 ∧ teamLevel envL.launch.levels 0 = false ∧
      ends (.sfenceSc 0) stCopies (fun t => t.dev.l1 == [copyOf 1]) ∧
      ends .sfenceAcq stCopies (fun t => t.dev.l1 == [copyOf 1]) ∧
      ends .sfenceAcqrel stCopies (fun t => t.dev.l1 == [copyOf 1]) ∧
      ends .sfenceRel stCopies (fun t => t.dev.l1 == [copyOf 0, copyOf 1]) ∧
      goesTo .sfenceRel (stL shAcc) (stL shAcc) ∧ goesTo .sfenceAcq (stL shBlock) (stL shBlock) ∧
      ends (.sfenceSc 0) (stage envTeam sh0 issue0) (fun t => t.dev.teams.all fun x => x.dying) ∧
      ends (.sfenceSc 0) (stage envLane shSpawned issue0) (fun t => t.dev.teams.all fun x => x.dying) := by decide +kernel

theorem test_PrefixedInstructions :
    ((BitVec.ofNat 25 (2 ^ 25 - 1) ++ BitVec.ofNat 15 (2 ^ 15 - 1) : BitVec 40)).toInt = -1 ∧
      ((BitVec.ofNat 25 1 ++ BitVec.ofNat 5 3 : BitVec 30)).toInt = 35 ∧
      goesTo (.sxt 1 0x08280004) st0 (st0.setShuttle ((sh0.setSreg 80 (.full 0x8004)).advance issue0)) ∧
      ends (.sxt 1 (0x10 * 2 ^ 25 + 80 * 2 ^ 15 + 70 * 2 ^ 5 + 3)) stMem (fun t => lastAcc t fun a => a.va == 0x1000 + 140) ∧
      ends (.sxt 0 (0x01 * 2 ^ 25)) st0 (fun t => t.dev.teams.all fun x => x.dying) := by decide +kernel

/-! ## Engine and scheduling instructions -/

/-- Words in registers from y on. -/
def wordsAt (y : Nat) (ws : List Nat) : List (Nat × RegCell) :=
  ((List.range ws.length).zip ws).map fun p => (y + p.1, .full (BitVec.ofNat 32 p.2))
/-- An instruction completes with a status word in s80 and nothing else. -/
def gives (i : Instr) (s : State) (sh : Shuttle) (v : Nat) : Bool :=
  goesTo i s (s.setShuttle ((sh.setSreg 80 (.full (BitVec.ofNat 32 v))).advance issue0))
/-- The same of an instruction that exposes its shuttle. -/
def bares (i : Instr) (s : State) (sh : Shuttle) (v : Nat) : Bool :=
  goesTo i s (s.setShuttle { (sh.setSreg 80 (.full (BitVec.ofNat 32 v))).advance issue0 with exposed := true })
/-- A function with some of every quota. -/
def quotas (f : Func) : Func := { f with cq := 8, wq := 1, sq := 2, pq := 4, fwmask := 2, fdom := 7, mems := 2 ^ 30, l2bm := 1 }

/-- A fill of one 8-byte element into host memory (XFORM 2, DSPACE 4), and one whose destination is misaligned. -/
def fillWords : List Nat := [9, 0, 0x2000, 0, 0x21340, 0, 0, 0, 0, 0, 1] ++ List.replicate 29 0
def fillBad : List Nat := [9, 0, 0x2004, 0, 0x21340, 0, 0, 0, 0, 0, 1] ++ List.replicate 29 0
def shCopy (ws : List Nat) : Shuttle := shuttleWith (wordsAt 88 ws ++ [(200, .full 1)])
def stCopy (ws : List Nat) : State := withFunc (stage env0 (shCopy ws) issue0) quotas
def envCopy : Env := env0
theorem test_CopyAcceptance :
    (stCopy fillWords).AtIssue issue0 (shCopy fillWords) env0 ∧ Settled (shCopy fillWords) ∧
      copyCheck ((stCopy fillWords).dev.func 0) (some env0.team) fillWords = none ∧
      (stCopy fillWords).dev.bufferRoom 0 (some env0.team) = true ∧ (regRange 88 40).map (shCopy fillWords).sval = fillWords ∧
      ends (.scpy 80 88 false 0) (stCopy fillWords) (fun t => t.dev.cmds.any fun c => c.pos == 0 && c.words == fillWords) ∧
      ends (.scpy 80 88 true 200) (stCopy fillWords) (fun t => t.dev.cmds.any fun c => c.pos == 1) ∧
      bares (.scpy 80 88 false 0) (stCopy fillBad) (shCopy fillBad) (2 * 256 + 3) := by decide +kernel
theorem test_CopyAcceptance_ready :
    BlockReady env0 (shCopy fillWords) 80 88 40 8 ∧ ReadsAll env0 (shCopy fillWords) 200 2 :=
  ⟨ready_of (by decide +kernel) (by decide +kernel) (by decide) (by decide), reads_of_canRead (by decide +kernel)⟩
/-- Four commands hold the team's buffers, and the function has no more. -/
def cmdOf (id : Nat) (st : CmdStatus) : CopyCmd := newCopy id 0 0 (.shuttle 3 2) 0 fillWords 0 st {}
def stNoBuffer : State :=
  { stCopy fillWords with dev := { (stCopy fillWords).dev with cmds := (List.range 8).map fun i => cmdOf (20 + i) (.running i) } }
theorem test_CopyAcceptance_waits :
    stNoBuffer.AtIssue issue0 (shCopy fillWords) env0 ∧ stNoBuffer.dev.bufferRoom 0 (some env0.team) = false ∧
      goesTo (.scpy 80 88 false 0) stNoBuffer stNoBuffer := by decide +kernel

/-- s70 pair 5, s72 pair 0x40, s74 pair misaligned, s76 pair out of the space; s78 is device 1, s79 device 9; s84 pair a FIFO. -/
def shSig : Shuttle := shuttleWith [(70, .full 5), (72, .full 0x40), (74, .full 0x44), (77, .full 0x1000000), (78, .full 1),
  (79, .full 9), (85, .full 0xFD000000)]
def stSig : State := withFunc (stage env0 shSig issue0) quotas
theorem test_Signals :
    stSig.AtIssue issue0 shSig env0 ∧ Reads env0 shSig 70 5 ∧ Reads env0 shSig 71 0 ∧ Reads env0 shSig 72 0x40 ∧
      Writable env0 shSig 80 ∧ (stSig.dev.func 0).reaches 1 = true ∧ (stSig.dev.func 0).reaches 9 = false ∧
      ends (.ssig 70 72 1 false false 78 80) stSig (fun t => t.dev.signals.any fun g =>
        g.store && g.value == 5 && g.addr == 0x40 && g.device == some 1) ∧
      bares (.ssig 70 72 0 true false 79 80) stSig shSig (255 * 256 + 12) ∧
      bares (.ssig 70 76 0 true true 0 80) stSig shSig (255 * 256 + 2) ∧
      bares (.ssig 70 74 0 true true 0 80) stSig shSig (255 * 256 + 3) := by decide +kernel
def shCounter (v : Nat) : Shuttle := { shSig with accs := [accHere 8 (.arrived v)], waiter := true }
theorem test_CounterWaits :
    stSig.dev.waiterRoom shSig 0 = true ∧ (withFunc stSig fun f => { f with wq := 0 }).dev.waiterRoom shSig 0 = false ∧
      goesTo (.swaitc 72 70) (withFunc stSig fun f => { f with wq := 0 }) (withFunc stSig fun f => { f with wq := 0 }) ∧
      reach 0 env0.team 0x40 8 = .virt 0x40 ∧ ends (.swaitc 72 70) stSig (fun t => lastAcc t fun a => a.va == 0x40 && a.ord == 1) ∧
      ends (.swaitc 72 70) (stage env0 (shCounter 5) issue0) (fun t => t.dev.shuttle 3 |>.any fun h => h.pc == 1 && !h.waiter) ∧
      ends (.swaitc 72 70) (stage env0 (shCounter 4) issue0) (fun t => t.dev.shuttle 3 |>.any fun h => h.pc == 0 && h.waiter && h.accs == []) ∧
      ends (.swaitc 84 70) stSig (fun t => t.dev.teams.all fun x => x.dying) := by decide +kernel

/-- A handle block of 16 rows and columns of I8 at 0x1000 with STAGE entry 1, and one with no rows. -/
def handleWords (rows : Nat) : List Nat := [0x1000, 0, rows, 16, 16, 0x16, 0, 0]
def shHandle (rows : Nat) : Shuttle := shuttleWith (wordsAt 88 (handleWords rows))
def stHandle (rows : Nat) : State := stage envBanks (shHandle rows) issue0
def handle0 : Handle := { num := 3, base := 0x1000, rows := 16, cols := 16, stride := 16, stage := 1, fmtc := 6 }
theorem test_TileHandles :
    (stHandle 16).AtIssue issue0 (shHandle 16) envBanks ∧ sthdCheck envBanks.team (handleWords 16) = none ∧
      (regRange 88 8).map (shHandle 16).sval = handleWords 16 ∧
      ends (.sthd 80 88 3) (stHandle 16) (fun t => t.dev.teams.all fun x => x.handles == [handle0]) ∧
      gives (.sthd 80 88 3) (stHandle 0) (shHandle 0) (2 * 256 + 1) := by decide +kernel
theorem test_TileHandles_ready : BlockReady envBanks (shHandle 16) 80 88 8 8 :=
  ready_of (by decide +kernel) (by decide +kernel) (by decide) (by decide)
def moveOf (id tile : Nat) : MatOp :=
  { id := id, team := 2, sh := 3, cores := [0], tile := tile, kind := .store 0x1000 512 0, fmt := 0, map := 0, draw := [],
    a := noOperand, b := noOperand, row := 0, fault := none }
def stTile : State := { st0 with dev := { st0.dev with matOps := [moveOf 30 31] } }
theorem test_Tokens :
    stTile.AtIssue issue0 sh0 env0 ∧ 31 < env0.nest.tiles ∧ env0.nest.tiles ≤ 32 ∧
      (∃ o ∈ stTile.dev.matOps, o.team = env0.team.id ∧ o.tile = 31 ∧ 0 ∈ o.cores) ∧
      goesTo (.smacq true 31) stTile stTile ∧ ends (.smacq false 30) stTile (fun t => t.dev.shuttle 3 |>.any fun h => h.pc == 1) ∧
      endsTeam (.smacq true 32) stTile sh0 issue0 2 ∧ endsTeam (.smrel true 32) stTile sh0 issue0 2 ∧
      goesTo (.smrel true 31) st0 (st0.setShuttle (sh0.advance issue0)) ∧ goesTo (.smrel true 31) (stL shBlock) (stL shBlock) ∧
      endsTeam (.smrel true 31) (stL shHandling) shHandling issue0 0 := by decide +kernel

/-- Two operand blocks that name handle 3, K 32; FMT 0x66 is I8 by I8. -/
def envMat : Env := { envBanks with team := { envBanks.team with handles := [handle0], cores := [0, 1] } }
def shMat (fmt : Nat) : Shuttle :=
  { shuttleWith (wordsAt 88 [0x31, 32, 0, 0, 0, 0, 0, 0] ++ wordsAt 96 [0x31, 32, 0, 0, 0, 0, 0, 0] ++
      wordsAt 104 [0x31, 33, 0, 0, 0, 0, 0, 0]) with fmt := fmt }
def stMat (fmt : Nat) : State := withFunc (stage envMat (shMat fmt) issue0) quotas
def blockA : OperandBlock :=
  { ws := [0x31, 32, 0, 0, 0, 0, 0, 0], word := 0, code := 6, scaled := false, k64 := false, other := 32 }
theorem test_MatrixMultiplyIssue :
    (stMat 0x66).AtIssue issue0 (shMat 0x66) envMat ∧ fmtA 0x66 = 6 ∧ fmtB 0x66 = 6 ∧ fmtIllegal 0x66 = false ∧
      operandCheck envMat.team blockA = none ∧ (stMat 0x66).dev.matRoom [0] = true ∧ (stMat 0x66).dev.slaved 0 = false ∧
      ((stMat 0x66).dev.captureOperand 0 0 10 envMat.team blockA (operandOf envMat.team blockA 128 (groupOfA 0x66))).2.todo = [] ∧
      ends (.smma 88 96 80 true true false 31) (stMat 0x66) (fun t => t.dev.matOps.any fun o =>
        o.cores == [0] && o.tile == 31 && o.kind == .mma true 32 && o.fmt == 0x66) ∧
      ends (.smma 88 96 80 true false true 31) (stMat 0x66) (fun t => t.dev.matOps.any fun o => o.cores == [0, 1]) ∧
      gives (.smma 104 96 80 true true false 0) (stMat 0x66) (shMat 0x66) (1 * 256 + 1) ∧
      gives (.smma 88 104 80 true true false 0) (stMat 0x66) (shMat 0x66) (9 * 256 + 1) ∧
      endsTeam (.smma 88 96 80 true true false 0) (stMat 0x60) (shMat 0x60) issue0 5 ∧
      endsTeam (.smma 88 96 80 true true false 0) (stMat 0x05) (shMat 0x05) issue0 5 := by decide +kernel
theorem test_MatrixMultiplyIssue_ready :
    BlockReady envMat (shMat 0x66) 80 88 8 8 ∧ BlockReady envMat (shMat 0x66) 80 96 8 8 :=
  ⟨ready_of (by decide +kernel) (by decide +kernel) (by decide) (by decide),
    ready_of (by decide +kernel) (by decide +kernel) (by decide) (by decide)⟩
def envOne : Env := { envMat with team := { envMat.team with cores := [0] } }
def stFullUnit : State :=
  { stMat 0x66 with dev := { (stMat 0x66).dev with matOps := (List.range 8).map fun i => moveOf (30 + i) i } }
theorem test_MatrixMultiplyIssue_pair :
    gives (.smma 88 96 80 true true true 0) (stage envOne (shMat 0x66) issue0) (shMat 0x66) (255 * 256 + 11) ∧
      stFullUnit.dev.matRoom [0] = false ∧ goesTo (.smma 88 96 80 true true false 31) stFullUnit stFullUnit := by decide +kernel

/-- s70 pair 0x1000, s72 pair 0x1008; s74 is 512, s75 is 8. -/
def shMove (fmt : Nat) : Shuttle :=
  { shuttleWith [(70, .full 0x1000), (72, .full 0x1008), (74, .full 512), (75, .full 8)] with fmt := fmt }
def stMove (fmt : Nat) : State := withFunc (stage env0 (shMove fmt) issue0) quotas
theorem test_TileMoves :
    (stMove 0).AtIssue issue0 (shMove 0) env0 ∧ Reads env0 (shMove 0) 70 0x1000 ∧ Reads env0 (shMove 0) 71 0 ∧
      Reads env0 (shMove 0) 74 512 ∧ Writable env0 (shMove 0) 80 ∧ fmtAccout 0 ≠ 3 ∧ fmtNround 0 = 0 ∧
      (stMove 0).dev.matRoom [0] = true ∧
      gives (.smst 72 74 31 80 0 true) (stMove 0) (shMove 0) (255 * 256 + 3) ∧
      gives (.smld 70 75 31 80 0 true true) (stMove 0) (shMove 0) (255 * 256 + 3) := by decide +kernel
theorem test_TileMoves_illegal :
    ∃ f, fmtAccout f = 3 ∧ endsTeam (.smst 70 74 31 80 0 true) (stMove f) (shMove f) issue0 5 := ⟨0x30000, by decide +kernel⟩

/-- Core 1 follows in a pair under way; FMT with a scale code, and a block code, that is reserved. -/
def stSlaved : State :=
  let s := withFunc (stage envMat { shMat 0x66 with core := 1 } issue0) quotas
  { s with dev := { s.dev with matOps := [{ moveOf 30 5 with cores := [0, 1] }] } }
theorem test_MatrixMultiplyIssue_slaved :
    stSlaved.dev.slaved 1 = true ∧ goesTo (.smma 88 96 80 true true false 31) stSlaved stSlaved ∧
      endsTeam (.smma 88 96 80 true true false 0) (stMat 0x300) (shMat 0x300) issue0 5 ∧
      endsTeam (.smma 88 96 80 true true false 0) (stMat 0x3000) (shMat 0x3000) issue0 5 := by decide +kernel
/-- A tile of one I32 sum: element 0 of a chain of one, at 0x1000 to 0x2000; and one of no elements. -/
def scanWords (len : Nat) : List Nat := [0x1000, 0, 0x2000, 0, len, 5, 0, 1, 0, 0, 0, 0]
def shScan (ws : List Nat) : Shuttle := shuttleWith (wordsAt 88 ws)
def stScan (ws : List Nat) : State := withFunc (stage env0 (shScan ws) issue0) quotas
theorem test_ScanInstructions :
    (stScan (scanWords 1)).AtIssue issue0 (shScan (scanWords 1)) env0 ∧ scanCheck (scanWords 1) = none ∧ Settled (shScan (scanWords 1)) ∧
      (regRange 88 12).map (shScan (scanWords 1)).sval = scanWords 1 ∧ (shScan (scanWords 1)).sval 93 % 16 ≠ 7 ∧
      (stScan (scanWords 1)).dev.scanRoom (shScan (scanWords 1)) env0 15 = true ∧
      ends (.sscan 80 88 15 true true) (stScan (scanWords 1)) (fun t => t.dev.tiles.any fun x =>
        x.j == 0 && x.len == 1 && x.kind == 5 && x.status == .queued) ∧
      gives (.sscan 80 88 15 true true) (stScan (scanWords 0)) (shScan (scanWords 0)) (4 * 256 + 1) := by decide +kernel
theorem test_ScanInstructions_ready : BlockReady env0 (shScan (scanWords 1)) 80 88 12 4 :=
  ready_of (by decide +kernel) (by decide +kernel) (by decide) (by decide)
/-- A CUSTOM tile, whose program is read first; and no chain slot. -/
def customWords : List Nat := [0x1000, 0, 0x2000, 0, 1, 7, 0, 1, 0x3000, 0, 0, 0]
def stNoSlot : State := withFunc (stScan (scanWords 1)) fun f => { f with sq := 0 }
theorem test_ScanInstructions_custom :
    scanCheck customWords = none ∧ (shScan customWords).waitingAccess issue0 = none ∧ reach 0 env0.team 0x3000 4 = .virt 0x3000 ∧
      ends (.sscan 80 88 15 true true) (stScan customWords) (fun t => lastAcc t fun a => a.va == 0x3000 && a.size == 4) ∧
      stNoSlot.dev.scanRoom (shScan (scanWords 1)) env0 15 = false ∧ goesTo (.sscan 80 88 15 true true) stNoSlot stNoSlot := by
  decide +kernel
def chainOf (complete : Bool) (passed : List Nat) (poison : Option Nat) : Chain :=
  { uid := 40, launch := 1, id := 15, part := 0, fn := 0, n := 1, shape := [], seen := [0], carries := [], sentTo := 1,
    poisonFrom := poison, complete := complete, passed := passed }
def stChain (c : Chain) : State := { stScan [] with dev := { (stScan []).dev with chains := [c] } }
theorem test_sscw :
    (stChain (chainOf true [0] none)).AtIssue issue0 (shScan []) env0 ∧ Writable env0 (shScan []) 80 ∧
      (stChain (chainOf true [0] none)).dev.waiterRoom (shScan []) 0 = true ∧
      ends (.sscw 80 15) (stChain (chainOf true [0] none)) (fun t => t.dev.shuttle 3 |>.any fun h => h.sreg 80 == .full 0 && h.pc == 1) ∧
      ends (.sscw 80 15) (stChain (chainOf true [0] (some 0))) (fun t => t.dev.shuttle 3 |>.any fun h => h.sval 80 == 0xFF0A) ∧
      ends (.sscw 80 15) (stChain (chainOf true [1] none)) (fun t => t.dev.shuttle 3 |>.any fun h => h.waiter && h.pc == 0) ∧
      goesTo (.sscw 80 15) (withFunc (stChain (chainOf true [0] none)) fun f => { f with wq := 0 })
        (withFunc (stChain (chainOf true [0] none)) fun f => { f with wq := 0 }) := by decide +kernel

/-- A nest whose stage 0 has a dynamic access slice on queue 0. -/
def envSlice : Env :=
  let e := envOf [(128, 1), (136, 256)] [0xEA000000] []
  let b := { e.bolt with nest := e.bolt.nest ++ leBytes 4 0x10 ++ leBytes 124 0 }
  { e with bolt := b, nest := nestAt b.nest 0 }
def sliceWords (nd : Nat) : List Nat := [0x1000, 0, 0, 0, 0x200 + 4096 * nd, 0, 0, 0, 0, 0, 4] ++ List.replicate 29 0
def shSlice (nd : Nat) : Shuttle := { shuttleWith (wordsAt 88 (sliceWords nd)) with nthreads := 1 }
def stSlice (e : Env) (nd : Nat) : State := withFunc (stage e (shSlice nd) issue0) quotas
def streamOf (q : Nat) : Stream :=
  { id := 50, sh := 3, beat := 0, seq := [0, 0, 0, 0], stage := 0, coord := [0, 0, 0, 0], q := q, base := 0x1000, size := 4,
    exts := [4], strides := [1], pos := 0, fault := none, dynamic := true, ready := true }
def envStreaming : Env := { envSlice with team := { envSlice.team with streams := [streamOf 0] } }
theorem test_DynamicSlices :
    (stSlice envSlice 1).AtIssue issue0 (shSlice 1) envSlice ∧ (shSlice 1).handler = false ∧ saccCheck (sliceWords 1) = none ∧
      (regRange 88 40).map (shSlice 1).sval = sliceWords 1 ∧ (shSlice 1).dynamicQueue envSlice.nest 0 = true ∧
      (shSlice 1).dynamicQueue envSlice.nest 3 = false ∧ (stSlice envSlice 1).dev.bufferRoom 0 (some envSlice.team) = true ∧
      ends (.sacc 80 88 0) (stSlice envSlice 1) (fun t => t.dev.teams.any fun x => x.streams.length == 1) ∧
      bares (.sacc 80 88 3) (stSlice envSlice 1) (shSlice 1) (255 * 256 + 4) ∧
      bares (.sacc 80 88 0) (stSlice envSlice 0) (shSlice 0) (4 * 256 + 1) ∧
      bares (.sacc 80 88 0) (stSlice envStreaming 1) (shSlice 1) (255 * 256 + 5) ∧
      endsTeam (.sacc 80 88 0) (stL shHandling) shHandling issue0 0 := by decide +kernel
theorem test_DynamicSlices_ready : BlockReady envSlice (shSlice 1) 80 88 40 8 :=
  ready_of (by decide +kernel) (by decide +kernel) (by decide) (by decide)

/-- s70 pair a geometry of four 4-byte slots, s72 pair one of 8,192 bytes, s74 pair the largest. -/
def shBank : Shuttle := shuttleWith [(70, .full 4), (71, .full 4), (72, .full 8192), (73, .full 1), (74, .full 4096), (75, .full 128),
  (76, .full 4096), (77, .full 129)]
def stBank : State := stage envBanks shBank issue0
def bankIs (t : State) (e : Nat) (p : Option BankEntry → Bool) : Bool := (t.dev.team 2).any fun u => p (u.bank e)
def scratch0 : BankEntry := { entry := 0, bank := 0, fifo := none, shared := false, slots := [] }
theorem test_BankChanges :
    stBank.AtIssue issue0 shBank envBanks ∧ shBank.handler = false ∧ Settled shBank ∧ Writable envBanks shBank 80 ∧
      envBanks.team.bank 0 = some scratch0 ∧ stBank.dev.entryFetching envBanks.team 0 = false ∧
      stBank.dev.entryBusy envBanks.team 0 = false ∧
      ends (.sbankFifo 80 74 0) stBank (fun t => bankIs t 0 fun b => b == some { scratch0 with fifo := some (4096, 128) }) ∧
      ends (.sbankScr 80 1) stBank (fun t => bankIs t 1 fun b => b.any fun b => b.fifo.isNone) ∧
      ends (.sbankRel 80 0) stBank (fun t => bankIs t 0 fun b => b.isNone) ∧
      bares (.sbankFifo 80 72 0) stBank shBank (255 * 256 + 1) ∧ bares (.sbankFifo 80 76 0) stBank shBank (255 * 256 + 1) := by
  decide +kernel
theorem test_sbank_take :
    envBanks.team.bank 15 = none ∧ (stBank.dev.poolBank 0).isSome ∧ canRead envBanks shBank 70 2 ∧
      ends (.sbankTake 80 0 false 15) stBank (fun t => bankIs t 15 fun b => b.any fun b => b.fifo.isNone && b.bank == 2) ∧
      ends (.sbankTake 80 70 true 15) stBank (fun t => bankIs t 15 fun b => b.any fun b => b.fifo == some (4, 4)) ∧
      bares (.sbankTake 80 0 false 0) stBank shBank (255 * 256 + 13) ∧ bares (.sbankRel 80 15) stBank shBank (255 * 256 + 13) := by
  decide +kernel
/-- A fetch goes into a STAGE entry; and a registered range lies in entry 15, which has a poisoned byte. -/
def stStaging (e : Nat) : State :=
  let p := { noOperand with handle := some { handle0 with stage := e }, rows := 16, rowBytes := 16, fetchRow := 16 }
  { stBank with dev := { stBank.dev with matOps := [{ moveOf 33 5 with kind := .mma true 32, a := p }] } }
def stHeld15 : State :=
  { stBank with dev := { stBank.dev with granules := [{ owner := 7, page := scratchKey 2 15 0 / 4096, dst := true, left := 1 }] } }
def stPoison15 : State := { stBank with dev := { stBank.dev with poison := [scratchKey 2 15 8] } }
theorem test_BankChanges_waits :
    (stStaging 1).dev.entryFetching envBanks.team 1 = true ∧ bares (.sbankRel 80 1) (stStaging 1) shBank (255 * 256 + 13) ∧
      bares (.sbankTake 80 0 false 15) (stStaging 15) shBank (255 * 256 + 13) ∧
      stHeld15.dev.entryBusy envBanks.team 15 = true ∧ goesTo (.sbankTake 80 0 false 15) stHeld15 stHeld15 ∧
      ends (.sbankTake 80 0 false 15) stPoison15 (fun t => t.dev.poison == []) ∧
      endsTeam (.sbankTake 80 0 false 15) (stL shHandling) shHandling issue0 0 := by decide +kernel
theorem test_BankChanges_ready : ReadsAll envBanks shBank 70 2 := reads_of_canRead (by decide +kernel)
def envNoPool : Env :=
  { env0 with team := { env0.team with banks := (List.range 14).map fun k =>
      { entry := k, bank := k, fifo := none, shared := k == 0, slots := [] } } }
theorem test_sbank_none :
    (stage envNoPool shBank issue0).AtIssue issue0 shBank envNoPool ∧ (stage envNoPool shBank issue0).dev.poolBank 0 = none ∧
      bares (.sbankTake 80 0 false 15) (stage envNoPool shBank issue0) shBank (255 * 256 + 8) ∧
      bares (.sbankScr 80 0) (stage envNoPool shBank issue0) shBank (255 * 256 + 13) := by decide +kernel

/-- A launch of the nest at 0 with priority 3, one with a misaligned counter, one of no nest, one at the parent's priority. -/
def launchWords (desc w12 cnt dep : Nat) : List Nat := [desc, 0, 1, 1, 1, 1, 0, 0, cnt, 0, 1, 0, w12, 0, dep, 0]
def shLaunch (ws : List Nat) : Shuttle := shuttleWith (wordsAt 88 ws)
def stLaunch (ws : List Nat) : State := withFunc (stage env0 (shLaunch ws) issue0) quotas
theorem test_DeviceLaunches :
    (stLaunch (launchWords 0 3 0 0)).AtIssue issue0 (shLaunch (launchWords 0 3 0 0)) env0 ∧ Settled (shLaunch (launchWords 0 3 0 0)) ∧
      (stLaunch (launchWords 0 3 0 0)).dev.launchCheck 0 false (launchWords 0 3 0 0) false 1 = none ∧
      (regRange 88 16).map (shLaunch (launchWords 0 3 0 0)).sval = launchWords 0 3 0 0 ∧
      ends (.slaunch 80 88) (stLaunch (launchWords 0 3 0 0)) (fun t => t.dev.launches.any fun l => l.depth == 1 && l.prio == 3 && l.phase == .toMap) ∧
      ends (.slaunch 80 88) (stLaunch (launchWords 0 8 0 16)) (fun t => t.dev.launches.any fun l => l.depth == 1 && l.prio == 0 && l.phase == .held) ∧
      bares (.slaunch 80 88) (stLaunch (launchWords 0 16 0 0)) (shLaunch (launchWords 0 16 0 0)) (12 * 256 + 1) ∧
      bares (.slaunch 80 88) (stLaunch (launchWords 0 0 4 0)) (shLaunch (launchWords 0 0 4 0)) (8 * 256 + 3) ∧
      bares (.slaunch 80 88) (stLaunch (launchWords 256 0 0 0)) (shLaunch (launchWords 256 0 0 0)) 9 := by decide +kernel
theorem test_DeviceLaunches_ready : BlockReady env0 (shLaunch (launchWords 0 3 0 0)) 80 88 16 8 :=
  ready_of (by decide +kernel) (by decide +kernel) (by decide) (by decide)
def stDeep : State := withFunc (stLaunch (launchWords 0 3 0 0)) fun f => { f with nlim := 0 }
def tag0 : ArmedTag :=
  { tag := 65535, count := 1, words := launchWords 0 3 0 0, depth := 1, ctx := 0, prio := 0, rootQueue := 0 }
theorem test_sarm :
    min 8 (stDeep.dev.func 0).nlim < 1 ∧
      bares (.slaunch 80 88) stDeep (shLaunch (launchWords 0 3 0 0)) (255 * 256 + 7) ∧
      ends (.sarm 80 88 65535 1) (stLaunch (launchWords 0 3 0 0)) (fun t => (t.dev.func 0).tags == [tag0]) ∧
      ends (.sarm 80 88 65535 0) (withFunc (stLaunch (launchWords 0 3 0 0)) fun f => { f with tags := [tag0] })
        (fun t => (t.dev.func 0).tags == []) ∧
      bares (.sarm 80 88 65535 1) (withFunc (stLaunch (launchWords 0 3 0 0)) fun f => { f with tags := [tag0] })
        (shLaunch (launchWords 0 3 0 0)) (255 * 256 + 5) := by decide +kernel

def shOther : Shuttle := { shuttleWith [] with id := 6 }
def stTwo : State := stageAll env0 [sh0, shOther] issue0
def stTwoTeams : State := { st0 with dev := { st0.dev with teams := [env0.team, { placedTeam 9 1 with num := 1 }] } }
theorem test_ShuttleExit :
    stTwo.AtIssue issue0 sh0 env0 ∧ Settled sh0 ∧ env0.team.arrivals = [] ∧
      (∃ z ∈ stTwo.dev.shuttles, z.team = sh0.team ∧ z.id ≠ sh0.id ∧ z.live = true) ∧
      ends .sexit stTwo (fun t => t.dev.shuttle 3 |>.any fun h => !h.live && h.sregs == []) ∧
      stTwoTeams.AtIssue issue0 sh0 env0 ∧ (∀ z ∈ stTwoTeams.dev.shuttles, z.team = sh0.team → z.id = sh0.id ∨ z.live = false) ∧
      stTwoTeams.dev.engineBusy env0.team = false ∧ stTwoTeams.dev.launchHeld env0.launch = false ∧
      (∃ u ∈ stTwoTeams.dev.teams, u.launch = env0.launch.id ∧ u.id ≠ env0.team.id) ∧
      ends .sexit stTwoTeams (fun t => t.dev.teams.map (fun u => u.id) == [9] && t.dev.shuttles == []) ∧
      goesTo .sexit (stL shBlock) (stL shBlock) ∧ goesTo .sexit (stL shAcc) (stL shAcc) := by decide +kernel

/-! ## Lane words -/

/-- A word with no modifiers, and where it is at issue. -/
def word (d a b c t x : Nat) : LaneWord :=
  { d := d, a := a, b := b, c := c, pg := 7, u := false, blk := false, e := 0, t := t, x := x }
def laneIssue (opc : Nat) (w : LaneWord) : Issue :=
  { sh := 3, lane := true, first := 0, pc := 0, next := 1, words := laneParts (mkLane opc w) }
def runOf (opc : Nat) (w : LaneWord) : LaneRun :=
  { opc := opc, row := (laneRow opc).getD (LaneRow.mk [] .zero false .none 0 false), w := w, set := [0, 1], path := [],
    raw := laneParts (mkLane opc w) }
/-- A shuttle of two threads that runs a block with some vector registers, and one of them as a single thread. -/
def blockTwo : Block := { placedBlock 4 with beats := [0, 1] }
def entryTwo : Entry := Entry.start 0 [0, 1] 0
def laneSh (vs : List (Nat × RegCell)) : Shuttle :=
  { placedShuttle 3 2 true with blocks := [blockTwo], frontier := [entryTwo], vregs := vs }
def stLane (e : Env) (sh : Shuttle) (opc : Nat) (w : LaneWord) : State := withFunc (stage e sh (laneIssue opc w)) quotas
def envLanes : Env :=
  let e := envOf [] [0xEA000000] [0, 0, 0, 0]
  { e with launch := { e.launch with levels := levelsOf [lane2] } }
/-- v4 is 5 and 7, v5 is 3 and 9, v6 is 2 and 2, v7 empty, v8 pending. -/
def sh4 : Shuttle := laneSh [(4, .full 5), (5, .full 3), (6, .full 2), (7, .empty), (8, .pending), (1028, .full 7), (1029, .full 9),
  (1030, .full 2), (1031, .empty), (1032, .pending)]
def atWordOnly (i : Instr) (opc : Nat) (w : LaneWord) (e : Env) (sh : Shuttle) : Bool :=
  decide ((stLane e sh opc w).AtWord (laneIssue opc w) sh e blockTwo entryTwo i (runOf opc w))
def atWord (i : Instr) (opc : Nat) (w : LaneWord) (e : Env) (sh : Shuttle) : Bool :=
  decide ((stLane e sh opc w).AtWord (laneIssue opc w) sh e blockTwo entryTwo i (runOf opc w)) &&
    decide ((runOf opc w).Reads sh blockTwo) && decide ((runOf opc w).Writes sh)
/-- What a step of a word leaves in the shuttle. -/
def after (i : Instr) (opc : Nat) (w : LaneWord) (e : Env) (sh : Shuttle) (p : Shuttle → Bool) : Bool :=
  ends i (stLane e sh opc w) fun t => (t.dev.shuttle 3).any p
def two (h : Shuttle) (r : Nat) : List Nat := [(h.vreg 0 r).val, (h.vreg 1 r).val]
def dies (i : Instr) (opc : Nat) (w : LaneWord) (e : Env) (sh : Shuttle) : Bool :=
  ends i (stLane e sh opc w) fun t => t.dev.teams.all fun x => x.dying

theorem test_LaneArithmetic_add :
    let w := word 10 4 5 788 0 0
    (laneFn 0x001).isSome ∧ atWord (.add w) 0x001 w envLanes sh4 ∧
      after (.add w) 0x001 w envLanes sh4 fun h => two h 10 == [8, 16] && h.frontier == [Entry.start 1 [0, 1] 0] := by decide +kernel
theorem test_LaneArithmetic_uniform :
    let w := { word 10 4 5 788 0 0 with u := true }
    atWord (.add w) 0x001 w envLanes sh4 ∧ after (.add w) 0x001 w envLanes sh4 fun h => two h 10 == [8, 8] := by decide +kernel
theorem test_LaneArithmetic_cmp :
    let w := word 3 4 5 788 0 4
    atWord (.cmp w) 0x017 w envLanes sh4 ∧
      after (.cmp w) 0x017 w envLanes sh4 fun h => h.pred 0 3 && !h.pred 1 3 && h.vregs == sh4.vregs := by decide +kernel
theorem test_LaneArithmetic_sr :
    let w := word 10 4 5 788 8 5
    atWord (.fadd w) 0x040 w envLanes sh4 ∧ selectsSR (runOf 0x040 w).row w = true ∧
      after (.fadd w) 0x040 w envLanes sh4 fun h => h.count 0 == 1 && h.count 1 == 1 := by decide +kernel
theorem test_LaneArithmetic_sat :
    let w := word 10 4 5 788 0 0
    let sh := laneSh [(4, .full 0x7FFFFFFF), (5, .full 1)]
    atWord (.addsat w) 0x01A w envLanes sh ∧
      after (.addsat w) 0x01A w envLanes sh fun h => two h 10 == [0x7FFFFFFF, 0] && h.flag 0 == flagSAT && h.flag 1 == 0 := by
  decide +kernel

/-- The operands of one thread. -/
def argOf (t x : Nat) (a b c : Word) : LaneArg :=
  { w := word 3 1 2 4 t x, x := x, a := a.toNat, b := b.toNat, c := c.toNat, pv := fun n => n == 1, map := 0, draw := 0 }
def fnGives (opc : Nat) (p : LaneArg) (v : Nat) : Bool := ((laneFn opc).map fun f => (f p).1) == some v
theorem test_LaneIntegerResults :
    (argOf 0 0 5 7 1).w.t < 2 ∧ fnGives 0x003 (argOf 0 0 0xFFFFFFFF 2 0) 0xFFFFFFFE ∧ fnGives 0x004 (argOf 0 0 0x80000000 2 0) 0xFFFFFFFF ∧
      fnGives 0x004 (argOf 1 0 0x80000000 2 0) 1 ∧ fnGives 0x018 (argOf 0 0 5 0 0) 0xFFFFFFFF ∧
      fnGives 0x018 (argOf 0 0 0x80000000 0xFFFFFFFF 0) 0x80000000 ∧ fnGives 0x019 (argOf 1 0 5 0 0) 5 ∧
      fnGives 0x014 (argOf 0 0 0xF0 0x0404 0) 0xFFFFFFFF ∧ fnGives 0x014 (argOf 1 0 0xF0 0x2000 0) 0xF0 ∧
      fnGives 0x001 (argOf 2 0 0x00FF7FFF 0x00010001 0) 0x01008000 ∧ fnGives 0x015 (argOf 15 0 0xF 0x1234 0x0404) 0x12F4 ∧
      fnGives 0x009 (argOf 15 (0x96 * 16) 0xC 0xA 0x9) 0xFFFFFFFF = false ∧ fnGives 0x016 (argOf 15 1 5 7 0) 5 ∧
      fnGives 0x016 (argOf 15 2 5 7 0) 7 := by decide +kernel
theorem test_LaneFloatResults :
    (argOf 8 0 0x7FC00000 0 0).w.t = 8 ∧ fnGives 0x040 (argOf 8 0 0x3F800000 0x40000000 0) 0x40400000 ∧
      fnGives 0x040 (argOf 8 0 0x7F800001 0 0) 0x7FC00000 ∧ fnGives 0x046 (argOf 8 0 0x80000000 0 0) 0 ∧
      fnGives 0x044 (argOf 8 0 0xBF800000 0x3F800000 0) 0xBF800000 ∧ fnGives 0x045 (argOf 8 0 0xBF800000 0x3F800000 0) 0x3F800000 ∧
      fnGives 0x048 (argOf 8 0 0x80000000 0 0) 1 ∧ fnGives 0x048 (argOf 8 2 0x80000000 0 0) 0 ∧
      fnGives 0x049 (argOf 8 0 0x80000001 0 0) 4 ∧ fnGives 0x049 (argOf 8 0 0xFF800000 0 0) 1 ∧
      fnGives 0x049 (argOf 8 0 0x7F800001 0 0) 256 := by decide +kernel

/-- The first coordinates of code 0xA5: −5/2, 3/2 and −1/2 twice (R61). -/
theorem test_LaneFloatResults_weights :
    (List.range 4).map (tw2Weight 0x423C30 0xA5) =
      [.fin true 10 (-2), .fin false 12 (-3), .fin true 8 (-4), .fin true 8 (-4)] := by decide +kernel
/-- Forms of the conversions, with the operands of the manual's examples (R147 to R151). -/
def cArg (t st el : Nat) (a b : Nat) : LaneArg := { argOf t (st * 2 ^ 10 + el * 2 ^ 14) 0 0 0 with a := a, b := b, map := 0x00423C30 }
theorem test_LaneFloatResults_conversions :
    (xRnd (cArg 13 12 1 0 0).x < 6 ∧ xSt (cArg 13 12 1 0 0).x = 12 ∧ xElem (cArg 13 12 1 0 0).x = 1) ∧
      fnGives 0x081 (cArg 13 12 0 (0x3F800000 + 2 ^ 32 * 0x43FA0000) (0x3E99999A + 2 ^ 32 * 0x80000000)) 0x802A7F38 = false ∧
      fnGives 0x081 (cArg 13 9 0 (0x3F800000 + 2 ^ 32 * 0x43FA0000) (0x3E99999A + 2 ^ 32 * 0x80000000)) 0x802A7F38 ∧
      fnGives 0x083 (cArg 11 0 0 0xA5 0) 0x3FC0C020 ∧ fnGives 0x083 (cArg 11 0 1 0xA5 0) 0xBF00BF00 ∧
      fnGives 0x080 (cArg 0 1 0 0x80000000 0) 0x80000000 ∧ fnGives 0x080 (cArg 0 8 0 0xC0200000 0) 0xFFFFFFFE ∧
      fnGives 0x080 (cArg 8 0 0 0xFFFFFFFF 0) 0xBF800000 ∧ fnGives 0x080 (cArg 12 8 0 0x3F800000 0) 0x3FF0000000000000 ∧
      fnGives 0x080 (cArg 9 13 1 0x38B80000 0) 0x3F800000BF800000 ∧ fnGives 0x082 (cArg 0 2 1 0x80007FFF 0) 0xFFFF8000 ∧
      fnGives 0x082 (cArg 8 10 0 0x3C00 0) 0x3F800000 ∧ fnGives 0x081 (cArg 2 0 0 0x12345 7) 0x72345 := by decide +kernel
/-- A quarter in F32, on which every function is defined and none is zero. -/
theorem test_LaneFunctionsRound :
    let p := argOf 8 0 0x3E800000 0 0
    (p.w.t ∈ [8, 9, 10, 11, 12] ∧ xRnd p.x < 6 ∧
      floatVal .f32 (modified .f32 p.x 0 (elemOf FloatFmt.f32.width p.a 0)) = .fin false 0x800000 (-25)) ∧
      fnGives 0x04F p 0x3F9837F0 ∧ fnGives 0x050 p 0xC0000000 ∧ fnGives 0x051 p 0x3F3504F3 ∧ fnGives 0x052 p 0x3F3504F3 ∧
      fnGives 0x053 p 0x3E7ACBF5 ∧ fnGives 0x054 p 0x3F0FEACD := by decide +kernel
theorem test_LaneFunctionsRound_domain :
    let x : ℝ := (FloatVal.fin false 0x800000 (-25)).rat
    0 < x ∧ (2 : ℝ) ^ x ≠ 0 ∧ Real.logb 2 x ≠ 0 ∧ Real.sin (Real.pi * x) ≠ 0 ∧ Real.cos (Real.pi * x) ≠ 0 ∧ Real.tanh x ≠ 0 ∧
      1 / (1 + Real.exp (-x)) ≠ 0 := by
  have h : ((FloatVal.fin false 0x800000 (-25)).rat : ℝ) = 1 / 4 := by norm_num [FloatVal.rat]
  have pi := Real.pi_pos
  simp only [h]
  refine ⟨by norm_num, (Real.rpow_pos_of_pos (by norm_num) _).ne', ?_, ?_, ?_, ?_, ?_⟩
  · exact (Real.logb_neg (by norm_num) (by norm_num) (by norm_num)).ne
  · exact (Real.sin_pos_of_pos_of_lt_pi (by linarith) (by linarith)).ne'
  · exact (Real.cos_pos_of_mem_Ioo ⟨by linarith, by linarith⟩).ne'
  · rw [Real.tanh_eq_sinh_div_cosh]
    exact (div_pos (Real.sinh_pos_iff.2 (by norm_num)) (Real.cosh_pos _)).ne'
  · positivity

theorem test_LaneControl_branches :
    let b := word 788 788 788 788 0 0xFFFFFFFF
    let b3 := word 788 788 788 788 0 3
    let r := word 788 6 788 788 0 0
    let c := word 10 788 788 788 0 2
    let n := word 788 788 788 788 0 0
    atWord (.bra b3) 0x0F0 b3 envLanes sh4 ∧ atWord (.brr r) 0x0F1 r envLanes sh4 ∧ atWord (.lcall c) 0x0F2 c envLanes sh4 ∧
      atWord (.lnop n) 0x0FB n envLanes sh4 ∧
      (after (.bra b3) 0x0F0 b3 envLanes sh4 fun h => h.frontier == [Entry.start 3 [0, 1] 0]) ∧
      (after (.bra b) 0x0F0 b envLanes sh4 fun h => h.frontier == [Entry.start (2 ^ 64 - 1) [0, 1] 0]) ∧
      (after (.brr r) 0x0F1 r envLanes sh4 fun h => h.frontier == [Entry.start 2 [0, 1] 0]) ∧
      (after (.lcall c) 0x0F2 c envLanes sh4 fun h => h.frontier == [Entry.start 2 [0, 1] 0] && two h 10 == [1, 1]) := by
  decide +kernel
/-- Only thread 1 has p2. -/
def shPred : Shuttle := { sh4 with preds := [(10, 1)] }
theorem test_LaneControl_diverges :
    let b := { word 788 788 788 788 0 3 with pg := 2 }
    let none := { word 788 788 788 788 0 3 with pg := 3 }
    (runOf 0x0F0 b).ex shPred = [1] ∧ (runOf 0x0F0 none).ex shPred = [] ∧
      (after (.bra b) 0x0F0 b envLanes shPred fun h => h.frontier == [Entry.start 3 [1] 0, Entry.start 1 [0] 0]) ∧
      (after (.bra none) 0x0F0 none envLanes shPred fun h => h.frontier == [Entry.start 1 [0, 1] 0]) := by decide +kernel
theorem test_LaneControl_lfmt :
    let w := word 788 4 788 788 0 0
    let sh := laneSh [(4, .full 0xFFFFFF), (1028, .full 0xFFFFFF)]
    let bad := laneSh [(4, .full 0x1000000), (1028, .full 0x1000000)]
    atWord (.lfmt w) 0x0F8 w envLanes sh ∧ atWord (.lfmt w) 0x0F8 w envLanes bad ∧
      (after (.lfmt w) 0x0F8 w envLanes sh fun h => h.frontier == [Entry.start 1 [0, 1] 0xFFFFFF]) ∧
      dies (.lfmt w) 0x0F8 w envLanes bad := by decide +kernel
def endWord : LaneWord := word 788 788 788 788 0 0
def shOut (written : List Nat) : Shuttle := { sh4 with blocks := [{ blockTwo with outBase := 80, outN := 1, written := written }] }
theorem test_LaneControl_lend :
    atWord (.lend endWord) 0x0F3 endWord envLanes sh4 ∧
      (after (.lend endWord) 0x0F3 endWord envLanes sh4 fun h => h.blocks == [] && !h.running) ∧
      (after (.lend endWord) 0x0F3 endWord envLanes (shOut [0]) fun h => h.blocks == []) ∧
      dies (.lend endWord) 0x0F3 endWord envLanes (shOut []) ∧
      (after (.lend endWord) 0x0F3 endWord envLanes { sh4 with blocks := [blockTwo, { placedBlock 5 with entry := 2 }] } fun h =>
        h.running && h.frontier == [Entry.start 2 [0] 0]) := by decide +kernel
def envLaneTrap : Env :=
  let e := envOf [(0, 32), (64, 9)] [0xEA000000] [0, 0, 0, 0]
  { e with launch := { e.launch with levels := levelsOf [lane2] } }
theorem test_LaneControl_ltrap :
    let w := word 788 4 5 788 0 0
    atWord (.ltrap w) 0x0FC w envLaneTrap sh4 ∧ envLaneTrap.nest.hasTrap = true ∧ envLanes.nest.hasTrap = false ∧
      (after (.ltrap w) 0x0FC w envLaneTrap sh4 fun h => h.handler && h.pc == 9 && h.sval 1008 == 2 && h.sval 1018 == 5 && h.sval 1012 == 3) ∧
      dies (.ltrap w) 0x0FC w envLanes sh4 ∧ dies (.ltrap w) 0x0FC w envLaneTrap { sh4 with handler := true } := by decide +kernel

theorem test_LaneQueries_index :
    let i := word 10 788 788 788 0 0
    let v := word 10 788 788 788 0 2
    let f := word 10 788 788 788 0 0
    let c := word 788 6 788 788 0 0
    let shf := { sh4 with flags := [(0, 0x22), (1, 3)] }
    atWord (.lidx i) 0x0F4 i envLanes sh4 ∧ (after (.lidx i) 0x0F4 i envLanes sh4 fun h => two h 10 == [0, 1]) ∧
      atWord (.lvote v) 0x0F6 v envLanes sh4 ∧ (after (.lvote v) 0x0F6 v envLanes sh4 fun h => two h 10 == [0, 0]) ∧
      atWord (.rdflg f) 0x0F9 f envLanes shf ∧ shf.flagsInFlight [0, 1] = false ∧
      (after (.rdflg f) 0x0F9 f envLanes shf fun h => two h 10 == [0x22, 3]) ∧
      atWord (.clrflg c) 0x0FA c envLanes shf ∧ (after (.clrflg c) 0x0FA c envLanes shf fun h => h.flag 0 == 0x20 && h.flag 1 == 1) := by
  decide +kernel
def envBperm : Env :=
  let e := envOf [(0, 64)] [0xEA000000] [0, 0, 0, 0]
  { e with launch := { e.launch with levels := levelsOf [lane2] } }
theorem test_LaneQueries_bperm :
    let w := word 10 4 5 788 0 0
    let sh := laneSh [(4, .full 5), (5, .full 1), (1028, .full 7), (1029, .full 2)]
    atWord (.bperm w) 0x120 w envBperm sh ∧ 1 % 8 ∈ blockTwo.beats ∧ 2 % 8 ∉ blockTwo.beats ∧
      after (.bperm w) 0x120 w envBperm sh fun h => two h 10 == [7, 0] := by decide +kernel
/-- A team with a shared copy of 128 bytes at level 0 in entry 2. -/
def envShared : Env :=
  let e := envOf [(80, 1), (88, 256)] [0xEA000000] [0, 0, 0, 0]
  let b := { e.bolt with nest := e.bolt.nest ++ leBytes 4 128 ++ leBytes 4 0 }
  { e with bolt := b, nest := nestAt b.nest 0,
           team := { e.team with copies := [{ handle := 0, inst := [], entry := some 2, offset := 128, size := 128 }] } }
theorem test_LaneQueries_lshb :
    let w := word 10 788 788 788 0 0
    let w1 := word 10 788 788 788 0 1
    envShared.nest.shared[0]? = some { bytes := 128, level := 0 } ∧ teamLevel envShared.launch.levels 0 = false ∧
      atWord (.lshb w) 0x0F5 w envShared sh4 ∧
      (after (.lshb w) 0x0F5 w envShared sh4 fun h => (h.vreg 0 10).val == 2 * 2 ^ 19 + 128 && (h.vreg 0 11).val == 0xFE000000) ∧
      dies (.lshb w1) 0x0F5 w1 envShared sh4 := by decide +kernel
theorem test_LaneQueries_tiles :
    let rd := word 10 4 788 788 0 31
    let wr := word 788 4 5 788 0 31
    (stLane envLanes sh4 0x110 rd).dev.tokenOut 2 0 31 = false ∧ atWord (.accrd rd) 0x110 rd envLanes sh4 ∧
      atWord (.accwr wr) 0x111 wr envLanes sh4 ∧
      (ends (.accwr wr) (stLane envLanes sh4 0x111 wr) fun t =>
        leNat (readBytes t.dev.mem (tileKey 2 0 31 0 5) 4) == 3 && leNat (readBytes t.dev.mem (tileKey 2 0 31 0 7) 4) == 9) ∧
      (after (.accrd rd) 0x110 rd envLanes sh4 fun h => two h 10 == [0, 0]) := by decide +kernel
def stToken (w : LaneWord) : State :=
  { stLane envLanes sh4 0x110 w with dev := { (stLane envLanes sh4 0x110 w).dev with matOps := [moveOf 30 31] } }
theorem test_LaneQueries_token :
    let rd := word 10 4 788 788 0 31
    (stToken rd).dev.tokenOut 2 0 31 = true ∧ ends (.accrd rd) (stToken rd) fun t => t.dev.teams.all fun x => x.dying := by
  decide +kernel

/-- v4 pair a scratch address of thread 0 and of thread 1, v6 an index. -/
def envScratch : Env := { envBanks with bolt := envLanes.bolt, nest := envLanes.nest, launch := envLanes.launch }
def shAddr : Shuttle := laneSh [(4, .full 16), (5, .full 0xFE000000), (6, .full 2), (10, .full 77), (1028, .full 32),
  (1029, .full 0xFE000000), (1030, .full 3), (1034, .full 78)]
/-- Every access of a word goes to its home. -/
def atHomes (w : LaneWord) (opc : Nat) (i : Instr) : Bool :=
  let s := stLane envScratch shAddr opc w
  let c : LaneCtx := { is := laneIssue opc w, env := envScratch, blk := blockTwo, cur := entryTwo }
  let q := (runOf opc w).requests shAddr envScratch blockTwo entryTwo
  atWord i opc w envScratch shAddr && q.all (fun x => x.reach != .bad) &&
    (meetAll c (runOf opc w) q s.dev).2.all fun p => match p.2 with
      | .home _ => true
      | _ => false
theorem test_LaneMemory :
    let l := word 12 4 6 788 2 (2 * 2 ^ 24)
    let t := word 788 4 6 10 2 (2 * 2 ^ 24 + 2 * 2 ^ 27)
    atHomes l 0x0A0 (.ld l) ∧ atHomes t 0x0A1 (.st t) ∧ (runOf 0x0A0 l).casSrcs = [] ∧
      (after (.ld l) 0x0A0 l envScratch shAddr fun h => (h.accs.map fun a => (a.va, a.size, a.beat)) ==
        [(0xFE * 2 ^ 56 + 24, 4, some 0), (0xFE * 2 ^ 56 + 44, 4, some 1)] && h.vreg 0 12 == .pending && h.vreg 1 12 == .pending) ∧
      (after (.st t) 0x0A1 t envScratch shAddr fun h => (h.accs.map fun a => (a.data, a.ord)) == [(77, 2), (78, 2)]) := by decide +kernel
def shVirt : Shuttle := laneSh [(4, .full 0x1000), (6, .full 2), (10, .full 77), (1028, .full 0x2000), (1030, .full 3), (1034, .full 78)]
theorem test_LaneMemory_atomics :
    let a := word 12 4 6 10 0 (2 * 2 ^ 24)
    let r := word 788 4 6 10 0 (2 * 2 ^ 24 + 2 * 2 ^ 27)
    atWord (.atom a) 0x0A2 a envScratch shVirt ∧ atWord (.red r) 0x0A3 r envScratch shVirt ∧
      dies (.atom a) 0x0A2 a envScratch shAddr ∧
      (ends (.atom a) (mapped (stLane envScratch shVirt 0x0A2 a)) fun t => t.dev.shuttle 3 |>.any fun h =>
        (h.accs.map fun a => (a.va, a.kind, a.data)) == [(0x1008, .atom 0 0 0, 77), (0x200C, .atom 0 0 0, 78)]) ∧
      (ends (.red r) (mapped (stLane envScratch shVirt 0x0A3 r)) fun t => t.dev.shuttle 3 |>.any fun h =>
        (h.accs.map fun a => (a.kind, a.ord)) == [(.red 0 0, 2), (.red 0 0, 2)]) := by decide +kernel
theorem test_LaneMemory_hints :
    let p := word 788 4 6 788 0 0
    let far := laneSh [(5, .full 0x01000000), (1029, .full 0x01000000)]
    atWord (.pf p) 0x0A4 p envScratch far ∧
      (∀ q ∈ (runOf 0x0A4 p).requests far envScratch blockTwo entryTwo, 2 ^ 56 ≤ q.a) ∧
      (after (.pf p) 0x0A4 p envScratch far fun h => h.frontier == [Entry.start 1 [0, 1] 0]) ∧
      (after (.cln p) 0x0A5 p envScratch far fun h => h.frontier == [Entry.start 1 [0, 1] 0]) := by decide +kernel

/-! ## Transactions, checks and `xissue` -/

/-- Words under p2, which only thread 1 has. -/
def tx (d a x : Nat) : LaneWord := { word d a 788 788 0 x with pg := 2 }
/-- Thread 1 of the two, with its transaction. -/
def shTx (ts : List Txn) : Shuttle := { shPred with txns := ts }
def txn (active : Bool) (restart : Option Nat) (log : List LogUnit) : Txn :=
  { beat := 1, pc := 5, fmt := 0, active := active, serial := false, count := 2, restart := restart, log := log, committing := false }
def unit0 : LogUnit :=
  { loc := { key := 0x100000001000, keyid := 0, hctx := 0, space := 0, ro := false }, va := 0x1000, readVal := 0, writeVal := 9,
    writeMask := 255, readMask := 0 }
def entryIs (h : Shuttle) (l : List (Nat × List Nat × EntryStatus)) : Bool := h.frontier.map (fun e => (e.pc, e.beats, e.status)) == l
theorem test_LaneTransactions_begin :
    let w := tx 10 788 0
    atWord (.tbeg w) 0x0E0 w envLanes (shTx []) ∧ (runOf 0x0E0 w).ex (shTx []) = [1] ∧ (shTx []).attempt 1 = none ∧
      (shTx []).restartStatus 1 = 0 ∧ (shTx [txn false (some 0x2000201) []]).restartStatus 1 = 0x2000201 ∧
      (after (.tbeg w) 0x0E0 w envLanes (shTx []) fun h => (h.attempt 1).isSome && two h 10 == [0, 0]) ∧
      (after (.tbeg w) 0x0E0 w envLanes (shTx [txn false (some 0x2000201) []]) fun h =>
        two h 10 == [0, 0x2000201] && h.txns == []) ∧
      (after (.tbeg w) 0x0E0 w envLanes (shTx [txn false (some 0x0802) []]) fun h =>
        entryIs h [(1, [0], .ready), (0, [1], .serialToken)]) := by decide +kernel
/-- Every bank of the cluster is held. -/
def envAllBanks : Env :=
  { envLanes with team := { envLanes.team with banks := (List.range 16).map fun k =>
      { entry := k, bank := k, fifo := none, shared := false, slots := [] } } }
theorem test_LaneTransactions_room :
    let w := tx 10 788 0
    atWord (.tbeg w) 0x0E0 w envAllBanks (shTx []) ∧ (stLane envAllBanks (shTx []) 0x0E0 w).dev.logRoom 0 = 0 ∧
      (after (.tbeg w) 0x0E0 w envAllBanks (shTx []) fun h => entryIs h [(1, [0], .ready), (0, [1], .logRoom)]) := by decide +kernel
theorem test_LaneTransactions_open :
    let w := tx 10 788 0
    let a := tx 788 4 0
    let n := tx 788 788 0
    let log := shTx [txn true none [unit0]]
    atWord (.tbeg w) 0x0E0 w envLanes log ∧ log.attempt 1 = some (txn true none [unit0]) ∧ atWord (.tabt a) 0x0E2 a envLanes log ∧
      atWord (.tend n) 0x0E1 n envLanes log ∧ atWord (.tsts w) 0x0E3 w envLanes log ∧ log.releaseReady blockTwo [1] = true ∧
      (after (.tbeg w) 0x0E0 w envLanes log fun h => entryIs h [(1, [0], .ready), (5, [1], .ready)] && h.restartStatus 1 % 256 == 5) ∧
      (after (.tabt a) 0x0E2 a envLanes log fun h => h.restartStatus 1 == 0x00070304) ∧
      (after (.tend n) 0x0E1 n envLanes (shTx [txn true none []]) fun h => h.txns == [] && entryIs h [(1, [0, 1], .ready)]) ∧
      (after (.tend n) 0x0E1 n envLanes log fun h => (h.attempt 1).any (·.committing)) ∧
      (after (.tend n) 0x0E1 n envLanes (shTx [{ txn true none [unit0] with committing := true }]) fun h =>
        (h.attempt 1).any (·.committing)) ∧
      (after (.tsts w) 0x0E3 w envLanes log fun h => two h 10 == [0, 0x10201]) := by decide +kernel
theorem test_LaneTransactions_outside :
    let a := tx 788 4 0
    let n := tx 788 788 0
    atWord (.tabt a) 0x0E2 a envLanes shPred ∧ (∀ b ∈ (runOf 0x0E2 a).ex shPred, shPred.attempt b = none) ∧
      (after (.tabt a) 0x0E2 a envLanes shPred fun h => entryIs h [(1, [0, 1], .ready)]) ∧
      (after (.tend n) 0x0E1 n envLanes shPred fun h => entryIs h [(1, [0, 1], .ready)]) := by decide +kernel

def stIssue (is : Issue) : State := stage envLanes sh4 is
theorem test_LaneChecks :
    let w := word 10 4 5 788 3 0
    let bad := word 10 4 5 4 0 0
    (stIssue issue0).AtIssue issue0 sh4 envLanes ∧ endsTeam (.unassignedOpcode 1) (stIssue issue0) sh4 issue0 1 ∧
      (stIssue (laneIssue 0x001 w)).AtIssue (laneIssue 0x001 w) sh4 envLanes ∧ sh4.current = some entryTwo ∧
      (ends (.unassignedOpcode 0) (stIssue (laneIssue 0x001 w)) fun t => t.dev.teams.all fun x => x.dying) ∧
      (laneIllegal 0x001 (intRow tsInt true 2) bad 768 32 (sh4.inq envLanes.nest) (sh4.outq envLanes.nest)).isSome ∧
      dies (.add bad) 0x001 bad envLanes sh4 := by decide +kernel
theorem test_LaneChecks_empty :
    let w := word 10 7 5 788 0 0
    let e := { word 10 7 5 788 0 0 with e := 4 }
    atWordOnly (.add w) 0x001 w envLaneTrap sh4 ∧ atWordOnly (.add e) 0x001 e envLaneTrap sh4 ∧
      (runOf 0x001 w).starved sh4 blockTwo ((runOf 0x001 w).evaluates [0, 1]) (runOf 0x001 w).srcs = true ∧
      goesTo (.add w) (stLane envLaneTrap sh4 0x001 w) (stLane envLaneTrap sh4 0x001 w) ∧
      (after (.add e) 0x001 e envLaneTrap sh4 fun h => h.handler && h.sval 1008 == 3 && h.sval 1017 == 7) := by decide +kernel
/-- Queue 0 of stage 0 is fed by an access slice, and thread 1 has two values of it. -/
def envQueue : Env :=
  { envSlice with
    bolt := { envSlice.bolt with lcode := [0, 0, 0, 0] }, launch := envLanes.launch,
    team := { envSlice.team with queues := [{ stage := 0, coord := [1, 0, 0, 0], q := 0, vals := [5, 6] }] } }
theorem test_LaneChecks_queue :
    let w := { word 10 784 788 788 15 0 with pg := 2 }
    let sh := { shPred with vregs := [] }
    atWordOnly (.popc w) 0x012 w envQueue sh ∧ (runOf 0x012 w).ex sh = [1] ∧
      envQueue.team.queueVals sh.stage (sh.coord envQueue.launch.levels envQueue.team.num blockTwo.seq 1) 0 = [5, 6] ∧
      (after (.popc w) 0x012 w envQueue sh fun h => two h 10 == [0, 2]) := by decide +kernel
def shOutput (written : List Nat) : Shuttle :=
  { sh4 with sregs := [(80, .pending)], blocks := [{ blockTwo with outBase := 80, outN := 1, written := written }] }
def blockOut (written : List Nat) : Block := { blockTwo with outBase := 80, outN := 1, written := written }
theorem test_LaneChecks_output :
    let w := { word 776 4 5 788 0 0 with u := true }
    let s := stLane envLanes (shOutput []) 0x001 w
    s.AtWord (laneIssue 0x001 w) (shOutput []) envLanes (blockOut []) entryTwo (.add w) (runOf 0x001 w) ∧
      (runOf 0x001 w).Reads (shOutput []) (blockOut []) ∧ (shOutput []).blockPerformed 4 = true ∧
      (after (.add w) 0x001 w envLanes (shOutput []) fun h => h.sval 80 == 8 && h.blocks.all (fun b => b.written == [0])) ∧
      dies (.add w) 0x001 w envLanes (shOutput [0]) := by decide +kernel
/-- The block has an access that has not been performed: the output register's value is on its way. -/
def shOutBusy : Shuttle := { shOutput [] with accs := [{ accHere 8 .walk with beat := some 0, block := 4 }] }
theorem test_LaneChecks_output_busy :
    let w := { word 776 4 5 788 0 0 with u := true }
    (stLane envLanes shOutBusy 0x001 w).AtWord (laneIssue 0x001 w) shOutBusy envLanes (blockOut []) entryTwo (.add w) (runOf 0x001 w) ∧
      shOutBusy.blockPerformed 4 = false ∧
      (after (.add w) 0x001 w envLanes shOutBusy fun h =>
        (h.accs.map fun a => (a.dst, a.status)).drop 1 == [(.sregs 80, .arrived 8)]) := by decide +kernel

def shIs3 (t : State) (p : Shuttle → Bool) : Bool := (t.dev.shuttle 3).any p
/-- A nest of two stages, whose threads push to queue 1 of the next. -/
def envPush : Env :=
  let e := envOf [(0, 256)] [0xEA000000] [0, 0, 0, 0]
  { e with launch := { e.launch with levels := levelsOf [lane2] } }
theorem test_LaneArithmetic_push :
    let w := word 785 4 5 788 0 0
    let r := runOf 0x001 w
    atWordOnly (.add w) 0x001 w envPush sh4 ∧ r.Reads sh4 blockTwo ∧ r.dstPending sh4 (r.ex sh4) = false ∧ isO w.d = false ∧
      entryTwo.beats.Nodup ∧ r.ex sh4 = [0, 1] ∧ sh4.releaseReady blockTwo [0] = true ∧ sh4.releaseReady blockTwo [1] = true ∧
      (sh4.coord envPush.launch.levels envPush.team.num blockTwo.seq 0) ≠ (sh4.coord envPush.launch.levels envPush.team.num blockTwo.seq 1) ∧
      (ends (.add w) (stLane envPush sh4 0x001 w) fun t => (t.dev.team 2).any fun u =>
        u.queueVals 1 [0, 0, 0, 0] 1 == [8] && u.queueVals 1 [1, 0, 0, 0] 1 == [16] && shIs3 t fun h => h.exposed) := by decide +kernel

/-- v12 to v14 hold `add v10, v4, v5` in one shuttle, and a word of no opcode in the other. -/
def heldAdd : Nat := mkLane 0x001 (word 10 4 5 788 0 0)
def heldBad : Nat := mkLane 0x3FE (word 10 4 5 788 0 0)
def shHolds (x : Nat) : Shuttle :=
  { sh4 with vregs := sh4.vregs ++ ((List.range 2).flatMap fun b => (List.range 3).map fun k =>
      (1024 * b + 12 + k, RegCell.full (BitVec.ofNat 32 (x / 2 ^ (32 * k))))) }
theorem test_xissue :
    let w := word 788 12 788 788 0 0
    let q := word 3 12 788 788 0 1
    atWord (.xissue w) 0x0F7 w envLaneTrap (shHolds heldAdd) ∧ atWord (.xissue q) 0x0F7 q envLaneTrap (shHolds heldBad) ∧
      (shHolds heldAdd).heldWord 0 12 = heldAdd ∧ (shHolds heldAdd).heldWord 1 12 = heldAdd ∧ (shHolds heldBad).heldWord 1 12 = heldBad ∧
      (after (.xissue w) 0x0F7 w envLaneTrap (shHolds heldAdd) fun h => two h 10 == [8, 16] && h.preds == []) ∧
      (after (.xissue q) 0x0F7 q envLaneTrap (shHolds heldAdd) fun h => two h 10 == [8, 16] && !h.pred 0 3) ∧
      (after (.xissue q) 0x0F7 q envLaneTrap (shHolds heldBad) fun h => h.pred 0 3 && h.pred 1 3 && h.pc == 0 && !h.handler) ∧
      (after (.xissue w) 0x0F7 w envLaneTrap (shHolds heldBad) fun h => h.handler && h.sval 1008 == 4 && h.sval 1014 == heldBad % 2 ^ 32) := by
  decide +kernel
/-! ## Events: accesses and copies -/

/-- A device on which a shuttle of a team runs, with nothing at issue. -/
def scene (e : Env) (sh : Shuttle) : State :=
  let s := withFunc (stage e sh issue0) quotas
  { s with dev := { s.dev with issue := none } }
/-- What holds of shuttle 3. -/
def shIs (t : State) (p : Shuttle → Bool) : Bool := (t.dev.shuttle 3).any p
/-- An event leaves the state as it was. -/
def waits (i : Instr) (s : State) : Bool := goesTo i s s
def shAccs (a : Access) : Shuttle :=
  { shuttleWith [(70, .full 1), (80, .pending), (81, .empty)] with accs := [a], vregs := [(10, .pending), (1034, .full 3)] }
def loadAt (st : AccStatus) : Access := accOf none st
def laneLoad (st : AccStatus) : Access := { accOf (some 0) st with dst := .vregs [0, 1] 10 }
theorem test_AccessEvents_fill :
    (scene env0 (shAccs (loadAt (.arrived 9)))).AtAccess (shAccs (loadAt (.arrived 9))) env0 (loadAt (.arrived 9)) ∧
      (scene env0 (shAccs (laneLoad (.arrived 9)))).AtAccess (shAccs (laneLoad (.arrived 9))) env0 (laneLoad (.arrived 9)) ∧
      (ends (.producerFill 3 8) (scene env0 (shAccs (loadAt (.arrived 9)))) fun t => shIs t fun h =>
        h.sval 80 == 9 && h.sval 70 == 1 && h.accs == []) ∧
      (ends (.producerFill 3 8) (scene env0 (shAccs (laneLoad (.arrived 9)))) fun t => shIs t fun h =>
        two h 10 == [9, 3] && h.accs == []) ∧
      (ends (.producerFill 3 8) (scene env0 (shAccs { loadAt (.arrived 9) with lost := [80] })) fun t => shIs t fun h =>
        h.sreg 80 == .pending && h.accs == []) := by decide +kernel

/-- Entry 1 is a FIFO of two 4-byte slots with some of them filled. -/
def envFifo (slots : List (List Byte)) : Env :=
  { env0 with team := { env0.team with banks :=
      [{ entry := 0, bank := 0, fifo := none, shared := false, slots := [] },
        { entry := 1, bank := 1, fifo := some (4, 2), shared := false, slots := slots }] } }
def storeAt (st : AccStatus) : Access := { accOf none st with kind := .store, data := 0x55, dst := .none }
def fifoLen (t : State) (n : Nat) : Bool := (t.dev.team 2).any fun u => (u.bank 1).any fun b => b.slots.length == n
theorem test_AccessEvents_fifo :
    let pop := shAccs (loadAt (.fifo 1))
    let push := shAccs (storeAt (.fifo 1))
    let one := [leBytes 4 7]
    (scene (envFifo one) pop).AtAccess pop (envFifo one) (loadAt (.fifo 1)) ∧ pop.fifoReady (loadAt (.fifo 1)) = true ∧
      (scene (envFifo one) push).AtAccess push (envFifo one) (storeAt (.fifo 1)) ∧ push.fifoReady (storeAt (.fifo 1)) = true ∧
      (ends (.fifoPop 3 8) (scene (envFifo one) pop) fun t => fifoLen t 0 && shIs t fun h =>
        h.accs.all fun a => a.status == .arrived 7) ∧
      waits (.fifoPop 3 8) (scene (envFifo []) pop) ∧
      (ends (.fifoPush 3 8) (scene (envFifo one) push) fun t => fifoLen t 2 && shIs t fun h => h.accs == []) ∧
      waits (.fifoPush 3 8) (scene (envFifo (one ++ one)) push) := by decide +kernel

def isReplay (r : Dev × Meets) : Bool :=
  match r.2 with
  | .replay f => f.kind == 1
  | _ => false
def queueOn (f : Func) : Func := { f with fqb := 0x1000, fqs := 64 }
theorem test_AccessEvents_walk :
    let home := shAccs (storeAt (.home (hostLoc 0x2000)))
    let load := shAccs (loadAt (.home (hostLoc 0x2000)))
    let far := shAccs (loadAt .walk)
    (scene env0 home).AtAccess home env0 (storeAt (.home (hostLoc 0x2000))) ∧ home.inOrder (storeAt (.home (hostLoc 0x2000))) = true ∧
      (scene env0 home).dev.homeOpen 0 3 none (hostLoc 0x2000) 4 true = true ∧ inPartition (hostKey 0x2000) = false ∧
      (scene env0 load).dev.poisoned (hostKey 0x2000) 4 = false ∧ load.inOrder (loadAt (.home (hostLoc 0x2000))) = true ∧
      (ends (.translationWalk 3 8) (scene env0 home) fun t =>
        readBytes t.dev.mem (hostKey 0x2000) 4 == leBytes 4 0x55 && shIs t fun h => h.accs == []) ∧
      (ends (.translationWalk 3 8) (scene env0 load) fun t => shIs t fun h =>
        h.accs.all fun a => a.status == .arrived 0) ∧
      isReplay ((withFunc (scene env0 far) queueOn).dev.meet 0 0 0x1000 .load) ∧
      (ends (.translationWalk 3 8) (withFunc (scene env0 far) queueOn) fun t =>
        ((t.dev.func 0).faults.map fun e => (e.kind, e.addr)) == [(1, 0x1000)]) := by decide +kernel
/-- The host's stream is insecure: a store to it ends the team. -/
theorem test_AccessEvents_insecure :
    let home := shAccs (storeAt (.home (hostLoc 0x2000)))
    let s := withFunc (scene env0 home) fun f => { f with insecure := true }
    s.dev.linked 0 (hostLoc 0x2000) = false ∧ (scene env0 home).dev.linked 0 (hostLoc 0x2000) = true ∧
      (ends (.translationWalk 3 8) s fun t => t.dev.mem == [] && t.dev.teams.all fun u => u.dying) := by decide +kernel
def signal0 (store : Bool) (fault : Option Nat) : Signal :=
  { id := 8, sh := 3, team := 2, fn := 0, ctx := 0, store := store, value := 5, addr := 0x40, device := some 1, fault := fault }
def stSignal (g : Signal) : State := { scene env0 sh0 with dev := { (scene env0 sh0).dev with signals := [g] } }
/-- A later signal to the same device, ordered or not. -/
def twoSignals (ord : Bool) : State :=
  let s := stSignal (signal0 true none)
  { s with dev := { s.dev with signals := s.dev.signals ++ [{ signal0 true none with id := 9, ord := ord }] } }
theorem test_AccessEvents_signal :
    (stSignal (signal0 true none)).dev.homeOpen 0 0 none (peerLoc 7 1 0x40) 8 true = true ∧
      (ends (.translationWalk 3 8) (stSignal (signal0 true none)) fun t =>
        t.dev.signals == [] && readBytes t.dev.mem (peerKey 7 1 0x40) 8 == leBytes 8 5) ∧
      (ends (.translationWalk 3 8) (stSignal (signal0 false none)) fun t =>
        t.dev.signals == [] && readBytes t.dev.mem (peerKey 7 1 0x40) 8 == leBytes 8 5) ∧
      waits (.translationWalk 3 9) (twoSignals true) ∧
      (ends (.translationWalk 3 9) (twoSignals false) fun t => t.dev.signals == [signal0 true none]) := by decide +kernel

/-- The fill of test_CopyAcceptance as a command, on partition 0 with engine 2. -/
def command (st : CmdStatus) : CopyCmd := cmdOf 7 st
def stCmdsOf (e : Env) (cs : List CopyCmd) (f : Func → Func) : State :=
  let s := withFunc (scene e sh0) f
  { s with dev := { s.dev with cmds := cs, parts := [(0, { Part.reset with running := some 0, pdesc := 2 ^ 63 + 4 })] } }
def stCmds (cs : List CopyCmd) (f : Func → Func) : State := stCmdsOf env0 cs f
def broke (f : Func) : Func := { quotas f with bref := 1, bbal := 0 }
def statusIs (i : Instr) (s : State) (st : CmdStatus) : Bool := ends i s fun t => t.dev.cmds.any fun c => c.id == 7 && c.status == st
def servesCmd (s : State) (c : CopyCmd) : Bool :=
  match s.dev.nextUser 0 with
  | some (.cmd x) => x == c
  | _ => false
theorem test_CopyEvents_grant :
    let s := stCmds [command .waiting] quotas
    s.dev.cmd 7 = some (command .waiting) ∧ servesCmd s (command .waiting) ∧
      (s.dev.enginesOf 0).find? (fun e => !s.dev.engineTaken e) = some 2 ∧
      statusIs (.copyEngineGrant 0) s (.running 2) ∧ waits (.copyEngineGrant 0) (stCmds [] quotas) ∧
      waits (.copyEngineGrant 0) (stCmds [command .waiting, cmdOf 8 (.moved 2)] quotas) ∧
      statusIs (.copyEngineGrant 0) (stCmds [command .waiting, { cmdOf 6 .waiting with prio := 1 }] quotas) .waiting := by
  decide +kernel
theorem test_CopyEvents_segment :
    let s := stCmds [command (.running 2)] quotas
    s.dev.cmd 7 = some (command (.running 2)) ∧ copyCount fillWords = 1 ∧ copyXform fillWords = 2 ∧ copyDspace fillWords = 4 ∧
      copyEsize fillWords = 3 ∧ (s.dev.func 0).hasBudget = true ∧ ((stCmds [] broke).dev.func 0).hasBudget = false ∧
      (s.dev.settle 7).engineOpen 0 7 (copyReg fillWords) (hostLoc (dstAddr fillWords 0)) 8 true = true ∧
      s.dev.streamSecure 0 = true ∧
      (ends (.copySegment 7) s fun t => readBytes t.dev.mem (hostKey 0x2000) 8 == leBytes 8 9 &&
        t.dev.cmds.any fun c => c.pos == 1 && c.status == .moved 2) ∧
      waits (.copyBudgetPause 7) s ∧ statusIs (.copyBudgetPause 7) (stCmds [command (.running 2)] broke) .paused ∧
      waits (.copySegment 7) (stCmds [command (.running 2)] broke) := by decide +kernel
/-- One 4-byte element from FIFO entry 1 to host memory. -/
def fifoWords : List Nat := [0, 0, 0x2000, 0, 0x1242, 16, 0, 0, 0, 0, 1] ++ List.replicate 29 0
def fromFifo (st : CmdStatus) : CopyCmd := { command st with words := fifoWords }
/-- That command, the first to wait at entry 1. -/
def parkedCmd : CopyCmd := { fromFifo (.fifoWait 1) with waitAt := some (20, 1) }
def parks (s : State) (c : CopyCmd) : Bool :=
  match Dev.runSegment false 1024 (s.dev.settle c.id) c with
  | (_, _, some (.parked _ _ k)) => k == 1
  | _ => false
theorem test_CopyEvents_fifo :
    let run := stCmdsOf (envFifo []) [fromFifo (.running 2)] quotas
    let wait := fun (slots : List (List Byte)) => stCmdsOf (envFifo slots) [parkedCmd] quotas
    let team := fun (slots : List (List Byte)) => (envFifo slots).team
    parks run (fromFifo (.running 2)) ∧ run.dev.cmdAway (fromFifo (.running 2)) = false ∧
      statusIs (.copySegment 7) run (.fifoWait 1) ∧ (wait []).dev.cmd 7 = some parkedCmd ∧
      (wait []).dev.cmdTeam parkedCmd = some (team []) ∧ (team []).image = none ∧ parkedCmd.pushWaits 1 = false ∧
      (team []).bank 1 = some ⟨1, 1, some (4, 2), false, []⟩ ∧ (wait []).dev.wakes (team []) 1 false 20 = false ∧
      (wait [leBytes 4 7]).dev.wakes (team [leBytes 4 7]) 1 false 20 = true ∧
      (wait [leBytes 4 7]).dev.waitersAt (team [leBytes 4 7]) 1 false false = [] ∧
      (wait [leBytes 4 7]).dev.waitersAt (team [leBytes 4 7]) 1 false true = [20] ∧
      (wait [leBytes 4 7]).dev.bufferRoom 0 (some (team [leBytes 4 7])) = true ∧
      waits (.copyWaiterWake 7) (wait []) ∧ statusIs (.copyWaiterWake 7) (wait [leBytes 4 7]) .waiting := by decide +kernel
/-- Two copies wait at entry 1, and one slot is filled: the first wakes. -/
theorem test_CopyEvents_order :
    let later := { parkedCmd with id := 8, waitAt := some (21, 1) }
    let s := stCmdsOf (envFifo [leBytes 4 7]) [later, parkedCmd] quotas
    let t := stCmdsOf (envFifo [leBytes 4 7]) [later, { parkedCmd with status := .waiting }] quotas
    s.dev.wakes (envFifo [leBytes 4 7]).team 1 false 21 = false ∧ s.dev.wakes (envFifo [leBytes 4 7]).team 1 false 20 = true ∧
      waits (.copyWaiterWake 8) s ∧ waits (.copyWaiterWake 8) t := by decide +kernel
/-- A block that waits for a buffer, with one free, and with another block before it. -/
def blockCmd : CopyCmd := { command .unaccepted with issuer := .queue 5 0x800 [] false }
theorem test_CopyEvents_block :
    let s := stCmds [blockCmd] quotas
    let second := stCmds [blockCmd, { blockCmd with id := 6 }] quotas
    s.dev.cmd 7 = some blockCmd ∧ s.dev.bufferRoom 0 none = true ∧ waits (.copyEngineGrant 0) s ∧
      (ends (.copyWaiterWake 7) s fun t => (t.dev.cmds.map fun c => (c.id, c.status)) == [(10, .waiting)]) ∧
      waits (.copyWaiterWake 7) second := by decide +kernel
/-- A copy of four bytes at 0x1000 to host memory, whose segment began with a page of 4 KiB there. -/
def pageOne : HeldPage := { side := 0, lo := 0x1000, size := 0x1000, loc := hostLoc 0x5000 }
def segmentCmd : CopyCmd := { command (.running 2) with held := [pageOne] }
theorem test_CopyEvents_page :
    isVirtual 0 0x1010 = true ∧ segmentCmd.pageAt 0 0x1010 = some pageOne ∧
      (match ((stCmds [segmentCmd] quotas).dev.spaceAt segmentCmd none 0 0 0x1010 4 .load).2 with
        | .loc l => l.key == hostKey 0x5010
        | _ => false) = true ∧
      (stCmds [segmentCmd] quotas).dev.linked 0 pageOne.loc = true ∧
      (stCmds [segmentCmd] fun f => { quotas f with insecure := true }).dev.linked 0 pageOne.loc = false := by decide +kernel

/-- A moved command with a counter of INC 3 at 0x800. -/
def counted : CopyCmd := { command (.moved 2) with words := (fillWords.set 6 0x800).set 8 3 }
def openCounter (r : Dev × EngineAt) : Bool :=
  match r.2 with
  | .loc l => r.1.engineOpen 0 7 false l 8 true
  | _ => false
theorem test_CopyEvents_complete :
    let s := mapped (stCmds [counted] quotas)
    s.dev.cmd 7 = some counted ∧ counted.cnt = 0x800 ∧ (command (.moved 2)).cnt = 0 ∧ openCounter (s.dev.counterAt counted) ∧
      (ends (.copyComplete 7) s fun t => t.dev.cmds == [] && byteAt t 0x800 == 3) ∧
      (ends (.copyComplete 7) (stCmds [command (.moved 2)] quotas) fun t => t.dev.cmds == [] && t.dev.mem == []) := by decide +kernel
/-! ## Events: the matrix unit, access streams and scans -/

/-- A device with matrix operations of that team. -/
def stMats (e : Env) (os : List MatOp) : State := { scene e sh0 with dev := { (scene e sh0).dev with matOps := os } }
/-- Handle 3 over 16 rows of 16 bytes at offset 0 of the team's scratch entry 0, staged in entry 1. -/
def handleS : Handle := { handle0 with base := 0xFE00000000000000 }
/-- The operand of that handle with `pushed` bytes fetched; and one that has its bytes. -/
def fetchOf (pushed : Nat) : Operand := { noOperand with handle := some handleS, rows := 16, rowBytes := 16, fetchRow := 16, pushed := pushed, engine := some 0 }
def mma (id : Nat) (a b : Operand) : MatOp := { moveOf id 31 with kind := .mma true 32, fmt := 0x66, a := a, b := b }
def fetches (s : State) (o : MatOp) : Bool :=
  match (Dev.slotBytes 0 0 o.id (envFifo []).team o.a handleS ((List.range 4).map (o.a.pushed + ·)) (s.dev.settle o.id)).2 with
  | .ok bs => bs.length == 4
  | _ => false
theorem test_MatrixEvents_fetch :
    let o := mma 31 (fetchOf 8) noOperand
    let s := fun (slots : List (List Byte)) => stMats (envFifo slots) [moveOf 30 5, o]
    (s []).dev.team 2 = some (envFifo []).team ∧ (s []).dev.matOp 31 = some o ∧ o.a.fetching = true ∧
      (s []).dev.matFirst o = false ∧ ((envFifo []).team.bank 1).any (fun b => b.fifo == some (4, 2)) ∧
      (s []).dev.fetchBehind o false 1 = false ∧ ((s []).dev.func 0).hasBudget = true ∧ fetches (s []) o ∧
      (ends (.operandFetch 31 false) (s []) fun t => fifoLen t 1 && t.dev.matOps.any fun x => x.a.pushed == 12) ∧
      (ends (.operandFetch 31 false) (s [leBytes 4 1, leBytes 4 2]) fun t => t.dev.matOps.any fun x =>
        x.a == { fetchOf 8 with engine := none, waitNo := some 10 }) := by decide +kernel
/-- An operand with a piece of scratch entry 0 still unread. -/
def pieceOf : OperandPiece := { scale := false, index := 0, va := 0xFE00000000000000, size := 4 }
def readsPiece (s : State) (o : MatOp) : Bool :=
  match ((s.dev.settle o.id).readPiece 0 0 o.id (envFifo []).team pieceOf).2 with
  | .got bs => bs.length == 4
  | _ => false
theorem test_MatrixEvents_todo :
    let o := mma 31 { noOperand with bytes := [1, 1, 1, 1], rows := 1, rowBytes := 4, todo := [pieceOf] } noOperand
    let s := stMats (envFifo []) [moveOf 30 5, o]
    s.dev.matOp 31 = some o ∧ s.dev.matFirst o = false ∧ readsPiece s o ∧
      (ends (.operandFetch 31 false) s fun t => t.dev.matOps.any fun x => x.a.todo == [] && x.a.bytes == [0, 0, 0, 0]) := by
  decide +kernel
theorem test_MatrixEvents_retire :
    let ready := mma 31 noOperand noOperand
    let waiting := mma 31 (fetchOf 8) noOperand
    ((stMats env0 [ready]).dev.matOn 0).head? = some ready ∧ ready.cores = [0] ∧
      ((stMats env0 [ready]).dev.takeStages ready).2.a.ready = true ∧
      ((stMats env0 [ready]).dev.takeStages ready).2.b.ready = true ∧
      ((stMats env0 [waiting]).dev.takeStages waiting).2.a.ready = false ∧
      (ends (.matrixOpRetire 0) (stMats env0 [waiting]) fun t => t.dev.matOps.length == 1) ∧
      (ends (.matrixOpRetire 0) (stMats env0 [{ moveOf 31 5 with row := 128 }]) fun t => t.dev.matOps == []) := by decide +kernel
/-- A row of −3 and 5, and a row of 7 and 2, of I8. -/
theorem test_MatrixEvents_integer :
    let row := fun (bs : List Nat) => { noOperand with bytes := bs.map (BitVec.ofNat 8), rows := 1, rowBytes := 2 }
    fmtA 0x66 = 6 ∧ mmaElem (mma 31 (row [253, 5]) (row [7, 2])) 2 0 0 1 = 2 ^ 32 - 10 := by decide +kernel

/-- A stream of four 4-byte elements in the team's scratch entry 0, at position `pos`. -/
def stream (pos : Nat) : Stream := { streamOf 0 with base := 0xFE00000000000000, strides := [4], pos := pos }
def envStream (pos n : Nat) : Env :=
  { envBanks with team := { envBanks.team with
      streams := [stream pos], queues := [{ stage := 0, coord := [0, 0, 0, 0], q := 0, vals := List.replicate n 1 }] } }
def stStream (pos n : Nat) : State := scene (envStream pos n) sh0
def loadsValue (s : State) (e : Env) (x : Stream) : Bool :=
  match (s.dev.streamLoad 0 0 e.team (x.addr x.pos) x.size).2 with
  | .val _ => true
  | _ => false
def waitsHeld (s : State) (e : Env) (x : Stream) : Bool :=
  match (s.dev.streamLoad 0 0 e.team (x.addr x.pos) x.size).2 with
  | .held => true
  | _ => false
/-- A registered range of another engine holds the load. -/
def stHeldStream : State :=
  { stStream 0 0 with dev := { (stStream 0 0).dev with
      granules := [{ owner := 7, page := scratchKey 2 0 0 / 4096, dst := true, left := 1 }] } }
theorem test_StreamEvents :
    (stStream 3 2).dev.streamTeam 50 = some ((envStream 3 2).team, stream 3) ∧ (stStream 3 2).dev.team 2 = some (envStream 3 2).team ∧
      ((stStream 3 2).dev.envOfTeam (envStream 3 2).team).isSome ∧ (stream 3).pos < (stream 3).count ∧
      loadsValue (stStream 3 2) (envStream 3 2) (stream 3) ∧
      (ends (.accessStreamPush 50) (stStream 3 2) fun t => (t.dev.team 2).any fun u =>
        u.queueVals 0 [0, 0, 0, 0] 0 == [1, 1, 0] && u.streams == []) ∧
      (ends (.accessStreamPush 50) (stStream 0 2) fun t => (t.dev.team 2).any fun u => u.streams == [stream 1]) ∧
      waitsHeld stHeldStream (envStream 0 0) (stream 0) ∧ waits (.accessStreamPush 50) stHeldStream ∧
      waits (.accessStreamPush 50) (stStream 0 16) ∧ waits (.accessStreamPush 50) (stStream 4 0) := by decide +kernel

/-- Tile j of a chain of three over one I32 element at 0 of scratch entry 0, of I32 sums, to offset 64. -/
def tileOf (j : Nat) (st : TileStatus) (ys : List (List Nat)) : ScanTile :=
  { id := 41, launch := 1, chain := 40, team := 2, sh := 3, core := 0, inAddr := 0xFE00000000000000, outAddr := 0xFE00000000000040,
    len := 1, chans := 1, kind := 5, j := j, n := 3, prog := [], progAddr := 0, dup := false, ys := ys, status := st }
def chainAt (sentTo : Nat) (carries : List (Nat × List Nat)) (poison : Option Nat) : Chain :=
  { chainOf false [] poison with n := 3, sentTo := sentTo, carries := carries }
def stTileOf (t : ScanTile) (c : Chain) : State :=
  { scene envBanks sh0 with dev := { (scene envBanks sh0).dev with
      tiles := [t], chains := [c], parts := [(0, { Part.reset with running := some 0, pdesc := 2 ^ 63 + 2 ^ 52 })] } }
def tileIs (t : State) (p : ScanTile → Bool) : Bool := t.dev.tiles.any p
def locatesOpen (s : State) (t : ScanTile) : Bool :=
  match (s.dev.settle t.id).locate 0 0 (s.dev.team 2) .load t.inPieces with
  | (d, .ok ls) => ls.all fun l => d.engineOpen 0 t.id true l.1 l.2 false && !d.poisoned l.1.key l.2
  | _ => false
def outputsOpen (s : State) (t : ScanTile) (zs : List (List Nat)) : Bool :=
  (Dev.writeOutputs 0 0 (t.id + 1) (s.dev.team 2) ((t.outPieces.map (·.1)).zip (zs.flatMap (projection t.kind t.chans))) (s.dev.settle (t.id + 1))).2.2.isNone
theorem test_ScanEvents_run :
    let t := tileOf 0 .queued []
    let s := stTileOf t (chainAt 0 [] none)
    s.dev.tile 41 = some t ∧ s.dev.chain 40 = some (chainAt 0 [] none) ∧ ((s.dev.tilesOn 0).head?.map fun x => x.id) = some 41 ∧
      locatesOpen s t ∧ (ends (.scanTileRun 41) s fun u => tileIs u fun x => x.ys == [[0]] && x.status == .computed) ∧
      waits (.scanTileRun 41) (stTileOf (tileOf 0 .computed [[7]]) (chainAt 0 [] none)) := by decide +kernel
theorem test_ScanEvents_carry :
    let t0 := tileOf 0 .computed [[7]]
    let t2 := tileOf 2 .computed [[7]]
    let s0 := stTileOf t0 (chainAt 0 [] none)
    let s2 := stTileOf t2 (chainAt 2 [(2, [5])] none)
    let poisoned := stTileOf (tileOf 1 .queued []) (chainAt 1 [] (some 1))
    outputsOpen s0 t0 [[7]] ∧ outputsOpen s2 t2 [[12]] ∧ (chainAt 1 [] (some 1)).poisonedAt 1 = true ∧
      (ends (.carryReceipt 41) s0 fun u => readBytes u.dev.mem (scratchKey 2 0 64) 4 == leBytes 4 7 &&
        u.dev.chains.any fun c => c.sentTo == 1 && c.carries == [(1, [7])]) ∧
      (ends (.carryReceipt 41) s2 fun u => readBytes u.dev.mem (scratchKey 2 0 64) 4 == leBytes 4 12 &&
        u.dev.chains.any fun c => c.complete && c.passed == [0]) ∧
      (ends (.carryReceipt 41) poisoned fun u => tileIs u (fun x => x.status == .sent) && u.dev.mem == []) ∧
      waits (.carryReceipt 41) (stTileOf (tileOf 1 .computed [[7]]) (chainAt 0 [] none)) := by decide +kernel
/-- The output lies in a range that another engine has registered. -/
def stOutHeld : State :=
  let s := stTileOf (tileOf 0 .computed [[7]]) (chainAt 0 [] none)
  { s with dev := { s.dev with granules := [{ owner := 7, page := scratchKey 2 0 0 / 4096, dst := true, left := 1 }] } }
theorem test_ScanEvents_held :
    outputsOpen stOutHeld (tileOf 0 .computed [[7]]) [[7]] = false ∧
      (ends (.carryReceipt 41) stOutHeld fun u => u.dev.tiles == [tileOf 0 .computed [[7]]] && u.dev.mem == []) := by decide +kernel
theorem test_ScanEvents_ring :
    let c := { chainAt 3 [] none with complete := true, passed := [0] }
    let s := stTileOf (tileOf 2 .sent []) c
    s.dev.chainRetired c = false ∧ s.dev.nextCore 0 0 = 1 ∧
      (ends (.chainCompletion 40 1) s fun u => u.dev.chains.any fun x => x.passed == [1, 0]) ∧
      waits (.chainCompletion 40 2) s := by decide +kernel
theorem test_ScanEvents_sums :
    (∀ x ∈ [5, 2 ^ 32 - 1, 9], x < 2 ^ 32) ∧ scanTile (combine 5 0 []) ([5, 2 ^ 32 - 1, 9].map fun x => [x]) = [[5], [4], [13]] := by
  decide +kernel
/-! ## Events: queues and launches -/

/-- Queue 5 of function 0 with its next block at 0x1000. -/
def queue5 : Queue :=
  { id := 5, fn := 0, ctx := 0, prio := 6, vec := 0, capen := false, qcb := 0x800, pos := some 0x1000, parked := false, held := false,
    relink := none, readFault := [], unbinding := false, done := 0, doneAddr := 0, capture := none }
/-- A device with no work, 1 GiB of mapped memory, a present function with its quotas, and some queues. -/
def idle (qs : List Queue) (f : Func → Func) : State :=
  mapped (withFunc { State.reset with dev := { Dev.reset with
      queues := qs, parts := [(0, { Part.reset with running := some 0, pdesc := 2 ^ 63 + 2 ^ 52 + 2 ^ 50 })] } }
    fun g => f { quotas g with qq := 2, rq := 4 })
def withBlock (s : State) (ws : List Nat) : State := withWords s 0x1000 (ws ++ List.replicate (64 - ws.length) 0)
/-- A LAUNCH block with next block 0x1100 and the prologue bit; one with a DEP counter at 0x900; a malformed one. -/
def launchBlock : List Nat :=
  [1, 0, 0x1100, 0] ++ List.replicate 12 0 ++ [0x300, 0, 2, 3, 4, 5, 0x77, 0, 0, 0, 0, 0, 1, 2 ^ 31 + 9]
def depBlock : List Nat := launchBlock.set 4 0x900
def badBlock : List Nat := launchBlock.set 6 1
def reads (s : State) (x : Queue) (a n : Nat) (p : Nat → Bool) : Bool :=
  match (s.dev.walkRead x x.ctx a n).2 with
  | .val v => p v
  | _ => false
def blockWords (v : Nat) : List Nat := (List.range 64).map fun k => v / 2 ^ (32 * k) % 2 ^ 32
theorem test_QueueEvents_entering :
    let s := withBlock (idle [queue5] id) launchBlock
    s.dev.queue 5 = some queue5 ∧ (s.dev.flushCapture 5).queue 5 = some queue5 ∧
      (reads s queue5 0x1000 256 fun v => formatFailure (blockWords v) == none && blockPair (blockWords v) 4 == 0 && blockKind (blockWords v) == 1) ∧
      s.dev.readyRoom 0 = true ∧ (withBlock (idle [queue5] fun f => { f with rq := 0 }) launchBlock).dev.readyRoom 0 = false ∧
      (ends (.blockAdmit 5) s fun t => t.dev.launches.any fun l => l.prio == 6 && l.desc == 0x300 && l.exts == [2, 3, 4, 5] &&
        l.args == 0x77 && l.pin == 1 && l.prog == some 9 && l.phase == .prologue) ∧
      (ends (.blockAdmit 5) s fun t => (t.dev.queue 5).any fun q => q.pos == some 0x1100) ∧
      waits (.blockAdmit 5) (idle [{ queue5 with parked := true }] id) := by decide +kernel
theorem test_QueueEvents_format :
    let s := withBlock (idle [queue5] id) badBlock
    (reads s queue5 0x1000 256 fun v => formatFailure (blockWords v) == some 6 && (blockWords v).take 30 == badBlock) ∧
      s.dev.blockHeld (blockEndOf queue5 0x1000 badBlock) = false := by decide +kernel
theorem test_QueueEvents_dep :
    let s := withWords (withBlock (idle [{ queue5 with pos := some 0x1000 }] id) (depBlock.set 4 0x40000900)) 0x900 [1]
    (reads s queue5 0x1000 256 fun v => formatFailure (blockWords v) == none && blockPair (blockWords v) 4 == 0x40000900) ∧
      reads { s with dev := { s.dev with mem := writeBytes s.dev.mem (hostKey 0x900) (leBytes 8 1) } } queue5 0x40000900 8
        (fun v => v == 1) ∧
      (ends (.blockAdmit 5) { s with dev := { s.dev with mem := writeBytes s.dev.mem (hostKey 0x900) (leBytes 8 1) } } fun t =>
        (t.dev.queue 5).any (fun q => q.held) && t.dev.launches == []) := by decide +kernel

/-- Blocks of the other kinds at 0x1000, with next block 0x1100: a copy of the fill of test_CopyAcceptance; a wait for 1 at host
address 0x900; a signal that adds 5 there; an arming of tag 9; the start of a capture. -/
def copyBlockWords : List Nat := [2, 0, 0x1100, 0] ++ List.replicate 12 0 ++ fillWords
def waitWords (action : Nat) : List Nat :=
  [3, 0, 0x1100, 0] ++ List.replicate 12 0 ++ [0x40000900, 0, 0xFF, 0, 1, 0, 16 * action, 0, 0x1200, 0]
def signalWords (op addr : Nat) : List Nat := [4, 0, 0x1100, 0] ++ List.replicate 12 0 ++ [addr, 0, 5, 0, op]
def armWords (count : Nat) : List Nat :=
  [5, 0, 0x1100, 0] ++ List.replicate 12 0 ++ [0, 0, 1, 1, 1, 1, 0, 0, 0, 0, 1, 0, 3, 0, 0, 0, 9 * 65536 + count]
def captureWords (start : Nat) : List Nat := [6, 0, 0x1100, 0] ++ List.replicate 12 0 ++ [0x7000, 0, 0x1000, 0, start]
def stBlockOf (ws : List Nat) (q : Queue) (f : Func → Func) : State :=
  let s := withBlock (idle [q] fun g => f { g with bolts := [placedBolt [0xEA000000] [0]] }) ws
  { s with dev := { s.dev with mem := writeBytes s.dev.mem (hostKey 0x900) (leBytes 8 0x102) } }
/-- A block is admitted: its status word, and where the walk is. -/
def admitted (s : State) (status : Nat) (p : State → Bool) : Bool :=
  ends (.blockAdmit 5) s fun t =>
    leNat (readBytes t.dev.mem (partBase 0 + 0x1004) 4) == status && ((t.dev.queue 5).any fun q => q.pos == some 0x1100) && p t
def admits (s : State) (kind : Nat) : Bool :=
  reads s queue5 0x1000 256 fun v => formatFailure (blockWords v) == none && blockPair (blockWords v) 4 == 0 && blockKind (blockWords v) == kind
def kindOne (k : Nat) (ws : List Nat) : Bool := admits (stBlockOf ws queue5 id) k
theorem test_QueueEvents_copy :
    kindOne 2 copyBlockWords ∧ copyCheck ((stBlockOf copyBlockWords queue5 id).dev.func 0) none fillWords = none ∧
      admitted (stBlockOf copyBlockWords queue5 id) 0 (fun t => t.dev.cmds.any fun c => c.status == .waiting && c.words == fillWords) ∧
      admitted (stBlockOf copyBlockWords queue5 fun f => { f with cq := 0 }) 0 (fun t =>
        t.dev.cmds.any fun c => c.status == .unaccepted) ∧
      kindOne 2 (copyBlockWords.set 20 0) ∧
      copyCheck ((stBlockOf copyBlockWords queue5 id).dev.func 0) none (fillWords.set 4 0) = some (1, 4) := by decide +kernel
/-- The device after the block of queue 5 at 0x1000 has been read, and after a word at 0x40000900 has been too. -/
def afterBlock (s : State) : Dev := (s.dev.walkRead queue5 0 0x1000 256).1
def afterWord (s : State) : Dev := ((afterBlock s).walkRead queue5 0 0x40000900 8).1
theorem test_QueueEvents_waitmem :
    let s := stBlockOf (waitWords 0) queue5 id
    kindOne 3 (waitWords 0) ∧ kindOne 3 (waitWords 1) ∧ kindOne 3 (waitWords 2) ∧
      ((afterBlock s).walkRead queue5 0 0x40000900 8).2 = .val 0x102 ∧ 0x102 &&& 0xFF = 2 ∧
      (ends (.blockAdmit 5) s fun t => (t.dev.queue 5).any fun q => q.held && q.pos == some 0x1000) := by decide +kernel
theorem test_QueueEvents_signal :
    let d := afterBlock (stBlockOf (signalWords 1 0x40000900) queue5 id)
    kindOne 4 (signalWords 1 0x40000900) ∧ kindOne 4 (signalWords 2 0x40000904) ∧
      d.hubHeld 0 0 0x40000900 8 addKind = false ∧ (d.hubLoc 0 0 0x40000900 8 addKind).2 = some (hostLoc 0x900) ∧
      d.hubHeld 0 0 0x40000904 4 .store = false ∧ (d.hubLoc 0 0 0x40000904 4 .store).2 = some (hostLoc 0x904) ∧
      d.hubHeld 0 0 1 8 .store = false ∧ (d.hubLoc 0 0 1 8 .store).2 = none := by decide +kernel
theorem test_QueueEvents_arm :
    let d := afterBlock (stBlockOf (armWords 2) queue5 id)
    let check := fun ws => d.launchCheck 0 true ((ws ++ List.replicate 31 0).drop 16 |>.take 16) ((d.func 0).armed 9).isSome 0
    kindOne 5 (armWords 2) ∧ kindOne 5 (armWords 0) ∧ kindOne 5 ((armWords 2).set 16 256) ∧ d.readyRoom 0 = true ∧
      check (armWords 2) = none ∧ check ((armWords 2).set 16 256) ≠ none := by decide +kernel
/-- A queue that may capture, and one that does, into the 4 KiB at 0x7000. -/
def capturing : Queue := { queue5 with capen := true, capture := some { buf := 0x7000, len := 0x1000, pos := 0, seqNo := 0 } }
theorem test_QueueEvents_capture :
    let d := afterBlock (stBlockOf (captureWords 1) capturing id)
    kindOne 6 (captureWords 1) ∧ kindOne 6 (captureWords 0) ∧ d.readyRoom 0 = true ∧ queue5.capen = false ∧
      d.queue 5 = some capturing ∧ (d.queue 5).map (·.captureDue) = some [] := by decide +kernel
/-- An entry of a capture that waits is written before the walk goes on. -/
theorem test_QueueEvents_captureDue :
    let s := stBlockOf (signalWords 1 0x40000900) { capturing with captureDue := [(0x7000, 7)] } id
    s.dev.hubHeld 0 0 0x7000 16 .store = false ∧ ((s.dev.flushCapture 5).queue 5).map (·.captureDue) = some [] ∧
      readBytes (s.dev.flushCapture 5).mem (partBase 0 + 0x7000) 16 = leBytes 16 7 := by decide +kernel

/-- A queue control block at 0x800: HEAD 0x1000, DONEADDR 0, and its word 16. -/
def qcbWords (w : Nat) : List Nat := [0x1000, 0] ++ List.replicate 14 0 ++ [w] ++ List.replicate 47 0
def stBind (qs : List Queue) (w : Nat) (f : Func → Func) : State := withWords (idle qs f) 0x800 (qcbWords w)
def stat (i : Instr) (s : State) (v : Nat) : Bool := ends i s fun t => (t.dev.func 0).qbstat == v
theorem test_QueueEvents_bind :
    let ok := stBind [] 0x80000046 id
    ok.Serves 0 ∧ bit (ok.dev.func 0).qbstat 31 = false ∧ ok.dev.queue 5 = none ∧ ((ok.dev.hubRead 0 0 0x800 256).2).isSome ∧
      (idle [] id).dev.hubRead 0 0 (2 ^ 57) 256 = ((idle [] id).dev, none) ∧
      (ends (.qbindBind 0 0x800 5) ok fun t => (t.dev.func 0).qbstat == 5 && t.dev.queues.any fun q =>
        q.id == 5 && q.prio == 6 && q.ctx == 4 && q.vec == 1024 && q.pos == some 0x1000 && !q.capen) ∧
      stat (.qbindBind 0 0x800 5) (stBind [] 0x400 id) (3 * 2 ^ 16 + 5) ∧
      stat (.qbindBind 0 0x800 5) (stBind [queue5] 0 id) (5 * 2 ^ 16 + 5) ∧
      stat (.qbindBind 0 0x800 5) (stBind [{ queue5 with fn := 1 }] 0 id) (1 * 2 ^ 16 + 5) ∧
      stat (.qbindBind 0 0x800 5) (stBind [] 0 fun f => { f with qq := 0 }) (2 * 2 ^ 16 + 5) ∧
      stat (.qbindBind 0 (2 ^ 57) 5) ok (6 * 2 ^ 16 + 5) ∧ stat (.qbindUnbind 0 5) ok (4 * 2 ^ 16 + 5) := by decide +kernel
def launch8 : Launch := { placedLaunch 8 with source := .block 5 0x1000 [] false }
def busyQueue : State := { idle [queue5] id with dev := { (idle [queue5] id).dev with launches := [launch8] } }
theorem test_QueueEvents_unbind :
    (idle [queue5] id).dev.queueBusy 5 = false ∧ busyQueue.dev.queueBusy 5 = true ∧ busyQueue.Serves 0 ∧
      (ends (.qbindUnbind 0 5) (idle [queue5] id) fun t => t.dev.queues == [] && (t.dev.func 0).qbstat == 5) ∧
      (ends (.qbindUnbind 0 5) busyQueue fun t => (t.dev.func 0).qbstat == 2 ^ 31 + 5 && t.dev.queues.any fun q => q.unbinding) := by
  decide +kernel
/-- An unbind under way, and the event that ends it; a write of QBIND meanwhile waits its turn. -/
def unbindingNow (s : State) : State :=
  { s with dev := s.dev.mapQueue 5 fun q => { q with unbinding := true } }
def qbindBusy : State := idle [] fun f => { f with qbstat := 2 ^ 31 + 6 }
theorem test_QueueEvents_unbindEnd :
    let free := unbindingNow (idle [queue5] id)
    let busy := unbindingNow busyQueue
    free.dev.queue 5 = some { queue5 with unbinding := true } ∧ (free.dev.func 0).qwrites = [] ∧ free.dev.queueBusy 5 = false ∧
      busy.dev.queueBusy 5 = true ∧ free.up = true ∧ busy.up = true ∧
      (endsOutside (.unbindEnd 5) busy fun t => decide (t = busy)) ∧
      (endsOutside (.unbindEnd 5) free fun t => t.dev.queues == [] && (t.dev.func 0).qbstat == 5) ∧
      qbindBusy.Serves 0 ∧ bit (qbindBusy.dev.func 0).qbstat 31 = true ∧
      (ends (.qbindUnbind 0 5) qbindBusy fun t => (t.dev.func 0).qwrites == [(0, 5, false)]) ∧
      (ends (.qbindBind 0 0x800 5) qbindBusy fun t => (t.dev.func 0).qwrites == [(0x800, 5, true)]) := by decide +kernel
/-- A device whose stream to the host is no longer secure. -/
def insecure0 : State := withFunc (idle [queue5] id) fun f => { f with insecure := true }
theorem test_QueueEvents_notify :
    let parked := { queue5 with pos := none, parked := true, held := true }
    let s := withWords (idle [parked] fun f => f) 0x800 (qcbWords 0)
    s.dev.queue 5 = some parked ∧ s.Serves 0 ∧ s.Serves 1 ∧ s.dev.hubHeld 0 0 0x800 16 .load = false ∧
      ((s.dev.hubRead 0 0 0x800 16).2).isSome ∧
      (ends (.queueNotify 0 5) s fun t => (t.dev.queue 5).any fun q => q.pos == some 0x1000 && !q.parked && !q.held) ∧
      waits (.queueNotify 1 5) s ∧
      s.streamSecure 0 = true ∧ insecure0.streamSecure 0 = false ∧ waits (.queueNotify 0 5) insecure0 ∧
      (ends .reevaluationTick (idle [{ queue5 with qcbDue := some true }] id) fun t => (t.dev.queue 5).any fun q => q.qcbDue == some false) ∧
      waits (.blockAdmit 5) (idle [{ queue5 with held := true, qcbDue := some true }] id) ∧
      (ends .reevaluationTick (idle [{ queue5 with held := true }] id) fun t => (t.dev.queue 5).any fun q => !q.held) := by
  decide +kernel

/-- Launch 8 from a block, with a prologue at `prog` in the bolt of function 0. -/
def launchIn (phase : LaunchPhase) : Launch :=
  { launch8 with phase := phase, prog := some 0, exts := [1, 2, 3, 4], args := 0x123456789, pin := 7 }
def stRun (l : Launch) (scode : List Nat) : State :=
  let s := idle [queue5] fun f => { f with bolts := [placedBolt scode [0]] }
  { s with dev := { s.dev with launches := [l] } }
/-- `sli s74, w` then `sexit`; an OP that a prologue may not use. -/
def setsW (w : Nat) : List Nat := [0x04 * 2 ^ 25 + 74 * 2 ^ 15 + w, 0xE4000000]
def exits (s : State) (l : Launch) (w : Nat) : Bool :=
  match (Dev.prologueSteps l ((s.dev.func 0).bolts.headD prologueBolt).scode 256 s.dev (prologueStart l 0) 0).2 with
  | .exit p => p.sval 74 == w
  | _ => false
def faultsWith (s : State) (l : Launch) (c : Nat) : Bool :=
  match (Dev.prologueSteps l ((s.dev.func 0).bolts.headD prologueBolt).scode 256 s.dev (prologueStart l 0) 0).2 with
  | .fault n => n == c
  | _ => false
theorem test_LaunchEvents_prologue :
    let l := launchIn .prologue
    (stRun l (setsW 0)).dev.launch 8 = some l ∧ (stRun l (setsW 0)).dev.launchHeld l = false ∧
      ((stRun l (setsW 0)).dev.func l.fn).boltAt l.desc = some (placedBolt (setsW 0) [0]) ∧
      exits (stRun l (setsW 0)) l 0 ∧ exits (stRun l (setsW 1)) l 1 ∧ exits (stRun l [0xE4000000]) l 0 ∧
      exits (stRun l [0xFE000006, 0x04 * 2 ^ 25 + 74 * 2 ^ 15 + 2, 0xE4000000]) l (6 * 2 ^ 15 + 2) ∧
      (ends (.prologueRun 8) (stRun l (setsW 0)) fun t => (t.dev.launch 8).any fun x =>
        x.phase == .toMap && x.runExts == [1, 2, 3, 4] && x.runPin == 7 && x.runArgs == 0x123456789) ∧
      (ends (.prologueRun 8) (stRun l [0xFE000006, 0x04 * 2 ^ 25 + 74 * 2 ^ 15 + 2, 0xE4000000]) fun t => (t.dev.launch 8).any fun x =>
        x.phase == .toMap && x.runLeft == 3) := by decide +kernel
theorem test_LaunchEvents_outcomes :
    let l := launchIn .prologue
    faultsWith (stRun l [0xE0008000]) l 1 ∧ faultsWith (stRun l []) l 5 ∧
      (prologueStart l 0).pair 64 = 0x123456789 ∧ (prologueStart l 0).sval 70 = 3 ∧ (prologueStart l 0).pair 66 = 0x1000 := by
  decide +kernel
def mapsTo (l : Launch) (p : List LevelMap → Bool) : Bool :=
  match mapLaunch ((placedBolt [0xE4000000] [0]).nestOf l.desc) l.runExts l.runPin with
  | .ok ls => p ls
  | .error _ => false
theorem test_LaunchEvents_map :
    let ok := { launchIn .toMap with runExts := [1, 1, 1, 1], runPin := 0 }
    let bad := { launchIn .toMap with runExts := [2, 1, 1, 1], runPin := 0 }
    mapsTo ok (fun ls => ls.length == 4) ∧ mapsTo bad (fun _ => true) = false ∧
      (stRun ok [0xE4000000]).dev.launchHeld ok = false ∧ ((stRun ok []).dev.func 0).boltAt 0x300 = none ∧
      (ends (.launchMap 8) (stRun ok [0xE4000000]) fun t => (t.dev.launch 8).any fun x => x.phase == .placing && x.levels.length == 4) ∧
      (ends (.launchMap 8) (stRun bad [0xE4000000]) fun t => t.dev.launches == []) := by decide +kernel
def heldChild (dep : Nat) : Launch := { launchIn .held with dep := dep }
theorem test_LaunchEvents_held :
    let s := withWords (stRun (heldChild 0x900) [0xE4000000]) 0x900 [0, 1]
    s.dev.hubHeld 0 0 0x900 8 .load = false ∧ ((s.dev.hubRead 0 0 0x900 8).2 = some (2 ^ 32)) ∧
      (ends (.launchMap 8) s fun t => (t.dev.launch 8).any fun x => x.phase == .held) ∧
      (ends (.launchMap 8) (stRun (heldChild 0x900) [0xE4000000]) fun t => (t.dev.launch 8).any fun x => x.phase == .toMap) := by
  decide +kernel
def end0 : BlockEnd := { fn := 0, ctx := 0, q := 77, addr := 0x40001000, cnt := 0, inc := 0, nots := [], irq := false }
theorem test_LaunchEvents_status :
    ((idle [] id).dev.hubLoc 0 0 0x40001004 4 .store).2 = some (hostLoc 0x1004) ∧
      readBytes ((idle [] id).dev.completeBlock end0 4 6).mem (hostKey 0x1004) 4 = leBytes 4 0x80000604 := by decide +kernel
/-! ## Events: teams, slices and budgets -/

/-- A launch of one team of one shuttle whose next team is team 0, in the bolt of function 0. -/
def placing : Launch := { placedLaunch 8 with phase := .placing, nextTeam := 0, runArgs := 0x123456789 }
def stPlace (l : Launch) (f : Func → Func) : State :=
  let s := idle [] fun g => f { g with bolts := [placedBolt [0xE4000000] [0]] }
  { s with dev := { s.dev with launches := [l], nextId := 20 } }
theorem test_TeamEvents_new :
    let s := stPlace placing id
    (s.dev.part 0).running = some 0 ∧ (s.dev.part 0).switching = false ∧ s.dev.headBack 0 = none ∧ s.dev.headLaunch 0 = some placing ∧
      (s.dev.func 0).boltAt placing.desc = some (placedBolt [0xE4000000] [0]) ∧
      (s.dev.fitTeam 0 (placing.needNew (placedBolt [0xE4000000] [0]) ((placedBolt [0xE4000000] [0]).nestOf 0))).isSome ∧ s.dev.team 20 = none ∧
      (ends (.teamDispatch 0) s fun t => (t.dev.team 20).any (fun u => u.launch == 8 && u.resident) &&
        t.dev.shuttles.any fun h => h.team == 20 && h.pair 0 == 0x123456789 && h.pc == 0 && h.nthreads == 1) ∧
      waits (.teamDispatch 0) (stPlace { placing with phase := .toMap } id) ∧
      waits (.teamDispatch 0) (stPlace placing fun f => { f with l2bm := 0 }) ∧ waits (.teamDispatch 0) (idle [] id) := by decide +kernel

/-- Team 2 of launch 1 out of residence, with shuttle 3, which has a record. -/
def record0 : RegionRecord :=
  { resume := 7, creg := some 70, cval := 9, regions := [], seq := [0, 0, 0, 0], fmt := 3, seed := 11, flags := [(0, 1)], counts := [] }
def shBack : Shuttle := { sh0 with record := some record0 }
def teamIn (image : Option Image) (pausing : Option Pausing) (dying : Bool) : Team :=
  { placedTeam 2 1 with image := image, pausing := pausing, dying := dying, resident := image.isNone }
def stTeam (t : Team) (sh : Shuttle) : State :=
  let s := stPlace { placedLaunch 1 with phase := .finishing } id
  { s with dev := { s.dev with teams := [t], shuttles := [sh] } }
def fitsBack (s : State) (t : Team) : Bool :=
  (s.dev.envOfTeam t).any fun env => (s.dev.fitTeam t.fn (s.dev.needBack t env)).isSome
theorem test_TeamEvents_back :
    let saved := stTeam (teamIn (some .saved) none false) shBack
    let gone := stTeam (teamIn (some .discarded) none false) shBack
    saved.dev.headBack 0 = some (teamIn (some .saved) none false) ∧ saved.dev.headLaunch 0 = none ∧
      saved.dev.team 2 = some (teamIn (some .saved) none false) ∧ fitsBack saved (teamIn (some .saved) none false) ∧
      gone.dev.headBack 0 = some (teamIn (some .discarded) none false) ∧ fitsBack gone (teamIn (some .discarded) none false) ∧
      (ends (.teamDispatch 0) saved fun t => (t.dev.team 2).any (fun u => u.resident && u.image == none) &&
        shIs t fun h => h.sregs == sh0.sregs && h.pc == 0) ∧
      (ends (.teamDispatch 0) gone fun t => shIs t fun h => h.sval 70 == 9 && h.pc == 7 && h.fmt == 3 && h.seed == 11 && h.flag 0 == 1) := by
  decide +kernel
def anotherTeam : Team := { placedTeam 9 1 with num := 1 }
def withMat (s : State) : State := { s with dev := { s.dev with matOps := [moveOf 30 5] } }
def withTeam (s : State) (t : Team) : State := { s with dev := { s.dev with teams := s.dev.teams ++ [t] } }
theorem test_TeamEvents_stop :
    let s := stTeam (teamIn none none true) sh0
    s.dev.team 2 = some (teamIn none none true) ∧ (∀ c ∈ s.dev.cmds, c.ofTeam 2 = false) ∧
      s.dev.launch 1 = some { placedLaunch 1 with phase := .finishing } ∧ s.dev.launchHeld { placedLaunch 1 with phase := .finishing } = false ∧
      (ends (.teamTermination 2) s fun t => t.dev.teams == [] && t.dev.launches == [] && t.dev.shuttles == []) ∧
      (ends (.teamTermination 2) (withTeam s anotherTeam) fun t => t.dev.teams == [anotherTeam] && t.dev.launches.length == 1) ∧
      waits (.teamTermination 2) (withMat s) ∧ waits (.teamTermination 2) (stTeam (teamIn none none false) sh0) := by decide +kernel
/-- The operand of an operation of a team that stops is still to be popped from an empty STAGE, which nothing fills. -/
def stStuck : State :=
  let s := stTeam { teamIn none none true with banks := (envFifo []).team.banks } sh0
  { s with dev := { s.dev with matOps := [mma 31 { fetchOf 256 with engine := none } noOperand] } }
theorem test_TeamEvents_stuck :
    (withMat (stTeam (teamIn none none true) sh0)).dev.opMoves (teamIn none none true) (moveOf 30 5) = true ∧
      stStuck.dev.opMoves { teamIn none none true with banks := (envFifo []).team.banks }
        (mma 31 { fetchOf 256 with engine := none } noOperand) = false ∧
      (ends (.teamTermination 2) stStuck fun t => t.dev.matOps == [] && t.dev.teams == []) := by decide +kernel
/-- With request buffers for one team, the one that waits in `sexit` for its lane block is saved for the next. -/
def stRoomFor : State :=
  let s := withFunc (stTeam (teamIn none none false) shBlock) fun f => { f with cq := 4 }
  { s with dev := { s.dev with launches := s.dev.launches ++ [placing] } }
theorem test_TeamEvents_waiting :
    stRoomFor.dev.headBack 0 = none ∧ stRoomFor.dev.headLaunch 0 = some placing ∧
      ((stRoomFor.dev.newPlace placing).map fun x => x.2) = some none ∧ (stRoomFor.dev.func 0).l2bm ≠ 0 ∧
      stRoomFor.dev.waitingVictim 0 = some (teamIn none none false) ∧
      (ends (.teamDispatch 0) stRoomFor fun t =>
        t.dev.team 2 == some { teamIn none (some .save) false with yieldTo := some (8, 0) }) := by decide +kernel
theorem test_TeamEvents_save :
    let s := stTeam (teamIn none (some .save) false) shBack
    s.dev.team 2 = some (teamIn none (some .save) false) ∧ (∀ z ∈ s.dev.shuttlesOf 2, z.txns = []) ∧
      s.dev.saveReady (teamIn none (some .save) false) = true ∧ (withMat s).dev.saveReady (teamIn none (some .save) false) = false ∧
      (ends (.teamSave 2) s fun t => t.dev.team 2 == some (teamIn (some .saved) none false) && t.dev.shuttles == [shBack]) ∧
      waits (.teamSave 2) (withMat s) ∧ waits (.teamSave 2) (stTeam (teamIn none none false) shBack) := by decide +kernel
theorem test_TeamEvents_discard :
    let t := teamIn none (some .discard) false
    let s := stTeam t { shBack with stopped := true }
    s.dev.team 2 = some t ∧ (s.dev.envOfTeam t).isSome ∧ (∀ z ∈ s.dev.shuttlesOf 2, z.live = true → z.stopped = true) ∧
      s.dev.chainOpen 2 = false ∧ s.dev.discardBusy t = false ∧ (withMat s).dev.discardBusy t = true ∧
      (ends (.teamDiscard 2) s fun u => (u.dev.team 2).any (fun x => x.image == some .discarded && !x.resident) &&
        shIs u fun h => h.sregs == [] && h.record == some record0) ∧
      waits (.teamDiscard 2) (withMat s) ∧ waits (.teamDiscard 2) (stTeam (teamIn none none false) shBack) := by decide +kernel

/-- Partition 0 runs function 0 with a budget of `bal`, or is switching. -/
def stSlice0 (bal : Int) (switching : Bool) (ts : List Team) : State :=
  let s := withFunc (stTeam (teamIn none none false) shBack) fun f => { f with bref := 100, bbal := bal }
  { s with dev := { s.dev with
      teams := ts, parts := [(0, { s.dev.part 0 with switching := switching })], l1 := [copyOf 0] } }
theorem test_SliceEvents :
    let run := stSlice0 0 false [teamIn none none false]
    (run.dev.part 0).running = some 0 ∧ run.dev.sliceOver 0 0 = true ∧
      (stSlice0 5 false [teamIn none none false]).dev.sliceOver 0 0 = false ∧ (stSlice0 0 true []).dev.residentIn 0 = [] ∧
      0 ∈ (stSlice0 0 true []).dev.clustersOf 0 ∧
      (ends (.sliceEnd 0) run fun t => (t.dev.part 0).switching && (t.dev.team 2).any fun u => u.pausing == some .discard) ∧
      (ends (.sliceEnd 0) (stSlice0 0 true []) fun t => !(t.dev.part 0).switching && t.dev.l1 == []) ∧
      waits (.sliceEnd 0) (stSlice0 0 true [teamIn none none false]) ∧ waits (.sliceEnd 0) (stSlice0 5 false [teamIn none none false]) := by
  decide +kernel
theorem test_BudgetEvents :
    let s := stSlice0 5 false [teamIn none none false]
    s.dev.usesUnits 0 = true ∧ (stSlice0 5 false []).dev.usesUnits 0 = false ∧ s.Serves 0 ∧ (s.dev.func 0).bref = 100 ∧
      (ends (.budgetUnitCharge 0) s fun t => (t.dev.func 0).bused == 1 && (t.dev.func 0).bbal == 4) ∧
      waits (.budgetUnitCharge 0) (stSlice0 5 false []) ∧
      (ends (.bcmdRefill 0) s fun t => (t.dev.func 0).bbal == 100) ∧ waits (.bcmdRefill 0) (idle [] id) := by decide +kernel
/-- The team that is out of residence and a launch of priority `p` that is ready to place. -/
def stBoth (p : Nat) : State :=
  let s := stTeam (teamIn (some .saved) none false) shBack
  { s with dev := { s.dev with launches := s.dev.launches ++ [{ placing with prio := p }] } }
def placesNew (s : State) : Bool :=
  s.dev.headBack 0 == some (teamIn (some .saved) none false) &&
    ((s.dev.func 0).boltAt placing.desc).any fun b => (s.dev.fitTeam 0 (placing.needNew b (b.nestOf placing.desc))).isSome
theorem test_TeamEvents_priority :
    (stBoth 0).dev.headLaunch 0 = some placing ∧ (stBoth 1).dev.headLaunch 0 = some { placing with prio := 1 } ∧
      placesNew (stBoth 0) ∧ placesNew (stBoth 1) ∧ (stBoth 1).dev.teamPrio (teamIn (some .saved) none false) = 0 ∧
      (ends (.teamDispatch 0) (stBoth 0) fun t => t.dev.team 20 == none && (t.dev.team 2).any (·.resident)) ∧
      (ends (.teamDispatch 0) (stBoth 1) fun t => (t.dev.team 20).any (fun u => u.launch == 8) && !(t.dev.team 2).any (·.resident)) ∧
      waits (.teamDispatch 0) (withFunc (stBoth 1) fun f => { f with l2bm := 0 }) := by decide +kernel
/-- A team that stops with a serial transaction while a matrix operation of it runs. -/
def stSerialDying : State :=
  let s := stTeam (teamIn none none true) { sh0 with txns := [{ txn true none [] with serial := true }] }
  withMat (withFunc s fun f => { f with serial := some (3, 1) })
theorem test_TeamEvents_stop_transactions :
    (∃ o ∈ stSerialDying.dev.matOps, o.team = 2) ∧ (∀ c ∈ stSerialDying.dev.cmds, c.ofTeam 2 = false) ∧
      (stSerialDying.dev.shuttlesOf 2).length = 1 ∧
      (ends (.teamTermination 2) stSerialDying fun v => (v.dev.func 0).serial == none && shIs v (fun h => h.txns == []) &&
        v.dev.teams == stSerialDying.dev.teams) := by decide +kernel
/-- A saved team keeps the maps of its cores, and a switch of functions sets them to their reset values (R129, R428). -/
theorem test_TeamEvents_maps :
    let s := stTeam (teamIn none (some .save) false) shBack
    let m := { s with dev := s.dev.setTw2 [0] 1 0x76543210 }
    let back := { m with dev := (s.dev.setTeam { teamIn (some .saved) none false with tw2 := m.dev.teamMaps (teamIn none none false) }) }
    m.dev.saveReady (teamIn none (some .save) false) = true ∧
      (ends (.teamSave 2) m fun t => (t.dev.team 2).any fun u => u.tw2 == [(1, 0x76543210)]) ∧
      fitsBack back { teamIn (some .saved) none false with tw2 := [(1, 0x76543210)] } ∧
      (ends (.teamDispatch 0) back fun t => (t.dev.team 2).any fun u => u.cores.all fun c => t.dev.tw2Map c 1 == 0x76543210) := by
  decide +kernel
theorem test_SliceEvents_maps :
    let s := stSlice0 0 true []
    let m := { s with dev := s.dev.setTw2 [0] 1 0x76543210 }
    m.dev.residentIn 0 = [] ∧ (m.dev.part 0).running = some 0 ∧ m.dev.tw2Map 0 1 = 0x76543210 ∧
      (ends (.sliceEnd 0) m fun t => t.dev.tw2Map 0 1 == 0x00423C30 && (t.dev.part 0).last == some ((m.dev.nextFunction 0 0).getD 0)) := by
  decide +kernel
/-! ## Events: registers, faults and transactions -/

def fnIs (i : Instr) (s : State) (fn : Nat) (p : Func → Bool) : Bool := ends i s fun t => p (t.dev.func fn)
def stFn (f : Func → Func) : State := idle [] f
theorem test_RegisterEvents_present :
    let s := stFn id
    s.Serves 0 ∧ ¬ s.Serves 2 ∧ (0x068 ∈ [0x050, 0x068, 0x0B0, 0x0B8, 0xA08, 0xA10, 0xA18]) ∧ waits (.l2bmWrite 2 3) s ∧
      waits (.registerWrite (0x3E0000000 + 0x2000 + 0x068) 1) s ∧ waits (.keyctlDraw 2 0) s := by decide +kernel
theorem test_RegisterEvents_lists :
    let s := stFn id
    5 / 2 ^ (8 * bits (s.dev.part 0).pdesc 55 52) = 0 ∧ 256 / 2 ^ (8 * bits (s.dev.part 0).pdesc 55 52) ≠ 0 ∧
      fnIs (.l2bmWrite 0 5) s 0 (fun f => f.remap == [.l2bm 5] && f.l2bm == 1) ∧ waits (.l2bmWrite 0 256) s ∧
      fnIs (.hseedWrite 0 63 7) s 0 (fun f => f.remap == [.hseed 63 7]) ∧
      fnIs (.l2RemapComplete 0) (stFn fun f => { f with remap := [.l2bm 5] }) 0 (fun f => f.l2bm == 5 && f.remap == []) ∧
      fnIs (.l2RemapComplete 0) (stFn fun f => { f with remap := [.hseed 2 9] }) 0 (fun f => getK 0 f.hseed 2 == 9) ∧
      fnIs (.tinvWrite 0 0x1002) s 0 (fun f => f.tinv == [0x1002]) ∧ waits (.tinvWrite 0 3) s ∧ waits (.tinvWrite 0 (2 ^ 56)) s := by
  decide +kernel
theorem test_RegisterEvents_shares :
    let s := stFn id
    s.dev.shareClash 0 (2 ^ 30) (2 ^ 30) = false ∧
      (withFunc s fun f => f).dev.shareClash 1 0 (2 ^ 30) = true ∧
      fnIs (.memShareWrite 0 false (2 ^ 30)) s 0 (fun f => f.memb == 2 ^ 30) ∧ waits (.memShareWrite 0 false 1) s ∧
      waits (.memShareWrite 1 true (2 ^ 30)) s ∧ fnIs (.memShareWrite 0 true (2 ^ 31)) s 0 (fun f => f.mems == 2 ^ 31) ∧
      fnIs (.fdomWrite 0 65535) s 0 (fun f => f.fdom == 65535) ∧ waits (.fdomWrite 1 7) s := by decide +kernel
theorem test_RegisterEvents_plain :
    let s := stFn id
    fnIs (.errsWrite 0 64) (stFn fun f => { f with errh := 3, errt := 4 }) 0 (fun f => f.errs == 64 && f.errh == 0 && f.errt == 0) ∧
      (s.dev.func 0).faults = [] ∧ fnIs (.fqsWrite 0 64) (stFn fun f => { f with fqt := 4 }) 0 (fun f => f.fqs == 64 && f.fqt == 0) ∧
      fnIs (.registerWrite (0x3E0000000 + 0x010) 2) s 0 (fun f => f.tinv == [2]) ∧ fnIs (.registerWrite (0x3E0000000 + 0x050) 31) s 0 (fun f => f.nlim == 15) ∧
      fnIs (.registerWrite (0x3E0000000 + 0x0B0) 77) s 0 (fun f => f.bref == 77) ∧ fnIs (.registerWrite (0x3E0000000 + 0xA08) 64) s 0 (fun f => f.fctx == 0) ∧
      fnIs (.registerWrite (0x3E0000000 + 0x0C8) 1) (stFn fun f => { f with bref := 5, bcap := 3, bbal := 9 }) 0 (fun f => f.bbal == 14) := by decide +kernel
def heldTlb (ctx : Nat) : TlbEntry :=
  { fn := 0, ctx := ctx, page := 1, loc := { key := 0x100000001000, keyid := 0, hctx := 0, space := 0, ro := false },
    canRead := true, canWrite := true, gpa := 0x1000 }
def stTinv (v : Nat) (accs : List Access) : State :=
  let s := withFunc (scene env0 { sh0 with accs := accs }) fun f => { quotas f with tinv := [v] }
  { s with dev := { s.dev with tlb := [heldTlb 0, heldTlb 1] } }
theorem test_RegisterEvents_tinv :
    (stTinv 0x1000 []).dev.tinvWaits 0 0x1000 = false ∧
      (stTinv 2 [loadAt (.home (hostLoc 0))]).dev.tinvWaits 0 2 = true ∧
      (ends (.tinvComplete 0) (stTinv 0x1000 []) fun t => t.dev.tlb == [heldTlb 1]) ∧
      (ends (.tinvComplete 0) (stTinv 2 []) fun t => t.dev.tlb == []) ∧
      waits (.tinvComplete 0) (stTinv 2 [loadAt (.home (hostLoc 0))]) := by decide +kernel
theorem test_RegisterEvents_keys :
    fnIs (.keyctlLoad 0 31) (stFn fun f => { f with keydata := 0x1234 }) 0 (fun f => f.keyChange == [(31, .loaded 0x1234)]) ∧
      fnIs (.keyctlDraw 0 0) (stFn id) 0 (fun f => f.keyChange.length == 1) ∧
      fnIs (.keySlotChangeComplete 0) (stFn fun f => { f with keyChange := [(4, .loaded 9)] }) 0 (fun f =>
        f.keyAt 0 4 == .loaded 9 && f.keyChange == []) := by decide +kernel
theorem test_RegisterEvents_pdesc :
    let s := stFn id
    s.up = true ∧ bit (s.dev.part 0).pdesc 63 = true ∧ s.dev.partBusy 0 = false ∧ (idle [queue5] id).dev.partBusy 0 = true ∧
      s.dev.pdescOk 1 (2 ^ 63 + 2 ^ 56 + 2 ^ 52) = true ∧ s.dev.pdescOk 1 (2 ^ 63 + 2 ^ 52) = false ∧
      (ends (.pdescWrite 1 false (2 ^ 63 + 2 ^ 56 + 2 ^ 52)) s fun t => (t.dev.part 1).pdesc == 2 ^ 63 + 2 ^ 56 + 2 ^ 52) ∧
      waits (.pdescWrite 1 false (2 ^ 63 + 2 ^ 52)) s ∧ waits (.pdescWrite 0 true 1) (idle [queue5] id) ∧
      (ends (.pdescWrite 1 true 0xF0FFFF) s fun t => (t.dev.part 1).pdescx == 0xF0FFFF) := by decide +kernel
theorem test_RegisterEvents_pdesc_maps :
    let v := 2 ^ 63 + 2 ^ 56 + 2 ^ 52
    let s := { stFn id with dev := ((stFn id).dev.setTw2 [12] 1 0x76543210).setTw2 [24] 1 0x76543210 }
    s.up = true ∧ bit (s.dev.part 1).pdesc 63 = false ∧ s.dev.pdescOk 1 v = true ∧
      12 / 12 ∈ validSlices (s.dev.part 1).pdesc ++ validSlices v ∧ 24 / 12 ∉ validSlices (s.dev.part 1).pdesc ++ validSlices v ∧
      (ends (.pdescWrite 1 false (2 ^ 56 + 2 ^ 52)) s fun t => t.dev.tw2Map 12 1 == 0x76543210) ∧
      (ends (.pdescWrite 1 false v) s fun t => t.dev.tw2Map 12 1 == 0x00423C30 && t.dev.tw2Map 24 1 == 0x76543210) := by decide +kernel
def usedBolt : State := { stPlace placing id with dev := { (stPlace placing id).dev with launches := [placing] } }
theorem test_RegisterEvents_unload :
    usedBolt.dev.boltUsed 0 (placedBolt [0xE4000000] [0]) = true ∧
      ((stFn fun f => { f with bolts := [placedBolt [] []] }).dev.boltUsed 0 (placedBolt [] [])) = false ∧
      (ends (.bloadUnload 0 0) usedBolt fun t => t.pending == [.bloadUnload 0 0] && (t.dev.func 0).blstat == 2 ^ 31) ∧
      fnIs (.bloadUnload 0 0) (stFn fun f => { f with bolts := [placedBolt [] []] }) 0 (fun f => f.bolts == [] && f.blstat == 0) := by
  decide +kernel
def imageFaults (s : State) (va : Nat) : Bool :=
  match (Dev.imageRead 0 va 8 s.dev).2 with
  | .faults => true
  | _ => false
theorem test_RegisterEvents_load_faults :
    imageFaults (stFn id) (2 ^ 56) ∧ fnIs (.bloadLoad 0 (2 ^ 56)) (stFn id) 0 (fun f => f.blstat == 6 * 2 ^ 16 && f.bolts == []) := by
  decide +kernel

/-! ### Faults -/

def fault (id kind : Nat) (owner : FaultOwner) : FaultEntry :=
  { id := id, kind := kind, stage := 0, access := 0, ctx := 0, unitLo := 0x1000, unitSize := 4096, addr := 0x1000, team := 0,
    joined := 0, posted := true, resolved := false, owner := owner, teamId := 2 }
def stFault (sh : Shuttle) (es : List FaultEntry) : State :=
  let s := withFunc (scene env0 sh) fun f => { quotas f with fqb := 0x1000, fqs := 64, faults := es }
  { s with dev := { s.dev with parts := [(0, { s.dev.part 0 with pdesc := 2 ^ 63 + 2 ^ 52 + 2 ^ 50 })] } }
def shStopped : Shuttle := { sh0 with stopped := true }
theorem test_FaultEvents_replay :
    let s := stFault sh0 [fault 11 1 (.shuttle 3)]
    let b := stFault shStopped [fault 11 3 (.shuttle 3)]
    s.Serves 0 ∧ b.Serves 0 ∧ (s.dev.func 0).entry 11 = some (fault 11 1 (.shuttle 3)) ∧ (s.dev.func 0).entry 12 = none ∧
      (∀ x ∈ (s.dev.func 0).faults, x.posted = true ∨ x.resolved = true) ∧ b.dev.heldByDiscard shStopped = false ∧
      fnIs (.fqresReplay 0 11) s 0 (fun f => f.faults.map (fun x => (x.posted, x.resolved)) == [(false, true)]) ∧
      (ends (.fqresReplay 0 11) b fun t => (t.dev.func 0).faults == [] && shIs t fun h => !h.stopped) ∧
      waits (.fqresReplay 0 12) s ∧ (∀ c ∈ s.dev.cmds, c.status ≠ .faulted 11) ∧ s.dev.signals = [] ∧ s.dev.matOps = [] ∧
      s.dev.tiles = [] ∧ (∀ c ∈ s.dev.blocksOn 0 11, s.dev.cmdHeld c = false) ∧
      (ends (.fqresUnrecoverable 0 11) s fun t => (t.dev.func 0).faults == [] && t.dev.teams.all fun x => x.dying) := by decide +kernel
def resolved : FaultEntry := { fault 11 1 (.shuttle 3) with posted := false, resolved := true }
def shParked : Shuttle := { sh0 with accs := [loadAt (.faulted 11)] }
def stFaultCmd : State :=
  let s := stFault sh0 [{ resolved with owner := .command 7 }]
  { s with dev := { s.dev with cmds := [command (.faulted 11)] } }
theorem test_FaultEvents_resolved :
    let s := stFault shParked [resolved]
    (s.dev.func 0).faults.find? (fun x => x.id == 11 && x.resolved) = some resolved ∧ s.dev.matOps = [] ∧ s.dev.tiles = [] ∧
      s.dev.cmds = [] ∧ s.dev.shuttle 3 = some shParked ∧ (s.dev.env shParked).isSome ∧
      (ends (.faultReplay 0 11) s fun t => (t.dev.func 0).faults == [] && shIs t fun h => h.accs.all fun a => a.status == .walk) ∧
      stFaultCmd.dev.cmds = [command (.faulted 11)] ∧ (ends (.faultReplay 0 11) stFaultCmd fun t => t.dev.cmds == [command .waiting]) ∧
      waits (.faultReplay 0 11) (stFault sh0 [fault 11 1 (.shuttle 3)]) := by decide +kernel

/-- A copy that has joined the entry of a shuttle ends with it (R413). -/
theorem test_FaultEvents_joined :
    let s := stFault sh0 [fault 11 1 (.shuttle 3)]
    let j := { s with dev := { s.dev with cmds := [command (.faulted 11)] } }
    (ends (.fqresUnrecoverable 0 11) j fun t => t.dev.cmds == [] && t.dev.teams.all fun x => x.dying) ∧
      (∀ c ∈ j.dev.blocksOn 0 11, j.dev.cmdHeld c = false) := by decide +kernel

/-- An attempt of thread 1 that commits 8 bytes of host memory. -/
def hostUnit (read : Nat) : LogUnit :=
  { loc := hostLoc 0x2000, va := 0x40002000, readVal := read, writeVal := 9, writeMask := 255, readMask := 255 }
def commit (read : Nat) : Txn := { txn true none [hostUnit read] with committing := true }
def shCommit (read : Nat) : Shuttle := { shTx [commit read] with frontier := [{ entryTwo with status := .committing }] }
def stCommit (read : Nat) : State := mapped (scene envLanes (shCommit read))
theorem test_TransactionCommit :
    (stCommit 0).dev.shuttle 3 = some (shCommit 0) ∧ (stCommit 0).dev.env (shCommit 0) = some envLanes ∧
      (shCommit 0).attempt 1 = some (commit 0) ∧ (commit 0).committing = true ∧
      (stCommit 0).dev.commitReady (shCommit 0) 0 (commit 0) = true ∧ (stCommit 0).dev.logValid 0 (commit 0) = true ∧
      (stCommit 7).dev.logValid 0 (commit 7) = false ∧
      inPartition (hostKey 0x2000) = false ∧
      (ends (.transactionCommit 3 1) (stCommit 0) fun t => readBytes t.dev.mem (hostKey 0x2000) 8 == leBytes 8 9 &&
        shIs t fun h => h.txns == []) ∧
      (ends (.transactionCommit 3 1) (stCommit 7) fun t => readBytes t.dev.mem (hostKey 0x2000) 8 == leBytes 8 0) := by decide +kernel
/-- Thread 1 waits for the serial token, or for room. -/
def shWaiting (st : EntryStatus) : Shuttle :=
  { shTx [txn false (some 0x0802) []] with frontier := [Entry.start 1 [0] 0, { Entry.start 0 [1] 0 with status := st }] }
def stWaiting (tq : Nat) (st : EntryStatus) : State :=
  let s := withFunc (scene envLanes (shWaiting st)) fun f => { quotas f with tq := tq, serialWait := [(3, 1)] }
  { s with dev := { s.dev with logWait := [(3, 1)] } }
theorem test_TransactionGrants :
    let s := stWaiting 1 .serialToken
    let r := stWaiting 1 .logRoom
    (s.dev.func 0).serialWait = [(3, 1)] ∧ (s.dev.func 0).tokenFree = true ∧ ((stWaiting 0 .serialToken).dev.func 0).tokenFree = false ∧
      (shWaiting .logRoom).txn 1 = some (txn false (some 0x0802) []) ∧ r.dev.logWait = [(3, 1)] ∧ r.dev.openLogs 0 < r.dev.logRoom 0 ∧
      (ends (.serialTokenGrant 0) s fun t => (t.dev.func 0).serial == some (3, 1) && shIs t fun h =>
        (h.attempt 1).any fun x => x.serial) ∧
      (ends (.txnLogRoomGrant 0) r fun t => t.dev.logWait == [] && shIs t fun h => (h.attempt 1).any fun x => !x.serial) ∧
      waits (.serialTokenGrant 0) (stWaiting 0 .serialToken) ∧ waits (.txnLogRoomGrant 0) (scene envLanes sh4) := by decide +kernel
/-! ## Events: fabric, host link, firmware and power -/

/-- A request from device 1 to domain 7, which is function 0. -/
def request (op : FabricOp) (addr size : Nat) (data : List Byte) : FabricRequest :=
  { dom := 7, src := 1, op := op, addr := addr, size := size, data := data }
def stFabric : State := withWords (idle [] id) 0x800 [5, 6]
def stHeldFabric : State :=
  { stFabric with dev := { stFabric.dev with granules := [{ owner := 99, page := 0x100000000, dst := true, left := 1 }] } }
def locOpen (s : State) (r : FabricRequest) : Bool :=
  match s.dev.meet 0 (s.dev.func 0).fctx r.addr (requestKind r) with
  | (d, .loc l) => d.homeOpen 0 0 none l r.size (requestKind r).writes
  | _ => false
def meetsFatal (s : State) (r : FabricRequest) : Bool :=
  match (s.dev.meet 0 (s.dev.func 0).fctx r.addr (requestKind r)).2 with
  | .fatal => true
  | _ => false
def refuses (i : Instr) (s : State) : Bool := ends i s fun t => t.board.fabricError && t.board.fabricReply == none
theorem test_FabricEvents :
    let rd := request .read 0x800 8 []
    let wr := request .write 0x804 4 (leBytes 4 9)
    let add := request .atomAdd 0x800 4 (leBytes 4 0xFFFFFFFF)
    stFabric.up = true ∧ stFabric.dev.domainFn 7 = some 0 ∧ stFabric.dev.domainFn 6 = none ∧ bit (stFabric.dev.func 0).fwmask 1 = true ∧
      isMailbox rd.addr = false ∧ requestSized rd = true ∧ requestSized wr = true ∧ requestSized add = true ∧
      locOpen stFabric rd ∧ locOpen stFabric wr ∧ locOpen stFabric add ∧ locOpen stHeldFabric rd = false ∧
      meetsFatal stFabric (request .read (2 ^ 39) 8 []) ∧
      (ends (.inboundFabricRequest rd) stFabric fun t => t.board.fabricReply == some (leBytes 4 5 ++ leBytes 4 6)) ∧
      (ends (.inboundFabricRequest wr) stFabric fun t => byteAt t 0x804 == 9 && t.board.fabricReply == some []) ∧
      (ends (.inboundFabricRequest add) stFabric fun t => byteAt t 0x800 == 4 && t.board.fabricReply == some (leBytes 4 5)) := by
  decide +kernel
theorem test_FabricEvents_refused :
    let rd := request .read 0x800 8 []
    refuses (.inboundFabricRequest { rd with dom := 6 }) stFabric ∧ refuses (.inboundFabricRequest { rd with src := 2 }) stFabric ∧
      refuses (.inboundFabricRequest (request .read (2 ^ 39) 8 [])) stFabric ∧
      (ends (.inboundFabricRequest rd) stHeldFabric fun t => t.pending == [.inboundFabricRequest rd]) ∧
      { stFabric with board := { stFabric.board with power := .d3hot } }.up = false := by decide +kernel

/-- A write whose byte enables leave a byte out, in a partition and in host memory (R437). -/
theorem test_FabricEvents_enables :
    let wr := { request .write 0x804 4 (leBytes 4 0x01010101) with off := [1] }
    let host := { wr with addr := 2 ^ 30 + 0x804 }
    requestSized wr = true ∧ requestSized host = true ∧ locOpen stFabric wr ∧ locOpen stFabric host ∧
      (match (stFabric.dev.meet 0 (stFabric.dev.func 0).fctx host.addr .store).2 with
       | .loc l => !inPartition l.key
       | _ => false) = true ∧
      (ends (.inboundFabricRequest wr) stFabric fun t => byteAt t 0x804 == 1 && byteAt t 0x805 == 0 && byteAt t 0x806 == 1) ∧
      (ends (.inboundFabricRequest host) stFabric fun t =>
        readBytes t.dev.mem (hostKey 0x804) 4 == leBytes 4 0x01010001 && t.board.fabricReply == some []) := by decide +kernel

/-- A mailbox of two slots at 0x600 of function 0. -/
def stMail (slots : List MboxSlot) : State := idle [] fun f => { f with mbb := 0x600, mbs := 2, mbi := 3, slots := slots, tags := [tag0] }
def mail (slot tag : Nat) (order : Nat) : MboxSlot := { slot := slot, tag := tag, order := order, launch := none }
def payload8 : List Byte := leBytes 8 0x1122
def slotOpen (s : State) : Bool :=
  match s.dev.meet 0 (s.dev.func 0).fctx 0x700 .store with
  | (d, .loc l) => d.homeOpen 0 0 none l 16 true
  | _ => false
theorem test_MailboxEvents :
    (stMail []).dev.domainFn 7 = some 0 ∧ slotOpen (stMail []) ∧ payload8.length = 8 ∧
      (ends (.mailboxMessage 7 1 65535 payload8) (stMail []) fun t => (t.dev.func 0).mbi == 4 && byteAt t 0x700 == 0xFF &&
        byteAt t 0x702 == 8 && byteAt t 0x704 == 1 && byteAt t 0x708 == 0x22 && (t.dev.func 0).slots.map (·.slot) == [1]) ∧
      (ends (.mailboxMessage 7 1 65535 payload8) (stMail [mail 1 0 0]) fun t => (t.dev.func 0).mbdrop == 1 && (t.dev.func 0).mbi == 3) ∧
      (ends (.mailboxMessage 7 1 65535 payload8) stFabric fun t => (t.dev.func 0).mbdrop == 1) ∧
      (stMail [mail 1 65535 4, mail 0 65535 2]).dev.pendingRoom 0 = true ∧
      ((stMail [mail 1 65535 4, mail 0 65535 2]).dev.func 0).nextMessage = some (mail 0 65535 2, tag0) ∧
      (ends (.mailboxFire 0) (stMail [mail 1 65535 4, mail 0 65535 2]) fun t => (t.dev.func 0).tags == [] &&
        t.dev.launches.any fun l => l.source == .fired 65535 0 && l.args == 0x608) ∧
      waits (.mailboxFire 0) (stMail [mail 1 1 4]) := by decide +kernel

def hostGets (i : Instr) (s : State) (v : Option (List Byte)) : Bool := ends i s fun t => t.board.hostReply == v
theorem test_HostEvents :
    stFabric.dev.present 0 = true ∧ stFabric.dev.bar2Held 0 0x800 4 false = false ∧ stHeldFabric.dev.bar2Held 0 0x800 4 false = true ∧
      hostGets (.hostBar2Access 0 0x800 4 false []) stFabric (some (leBytes 4 5)) ∧
      hostGets (.hostBar2Access 0 (2 ^ 30) 4 false []) stFabric none ∧
      (ends (.hostBar2Access 0 0x804 4 true (leBytes 4 77)) stFabric fun t => byteAt t 0x804 == 77) ∧
      (ends (.hostBar2Access 0 0x800 4 false []) stHeldFabric fun t => t.pending == [.hostBar2Access 0 0x800 4 false []]) := by
  decide +kernel
/-- The link stream is insecure. -/
def stInsecure : State := { stFabric with dev := { stFabric.dev with linkInsecure := true } }
/-- An insecure stream, and an address beyond the partition's range, are refused (R6, R443). -/
theorem test_HostEvents_refused :
    let i := Instr.hostBar2Access 0 0x800 4 false []
    let refused := fun (s : State) => ends i s fun t => t.board.hostError && t.board.hostReply == none
    refused (withFunc stFabric fun f => { f with insecure := true }) ∧
      refused stInsecure ∧
      hostGets i (withFunc stInsecure fun f => { f with selective := true }) (some (leBytes 4 5)) ∧
      85899345920 * bits (stFabric.dev.part 0).pdesc 55 52 = 85899345920 ∧
      refused (withFunc stFabric fun f => { f with memb := 85899345920 }) := by decide +kernel
def stErr : State := mapped (scene env0 (shAccs (loadAt (.home (hostLoc 0x2000)))))
theorem test_LinkEvents :
    stErr.dev.shuttle 3 = some (shAccs (loadAt (.home (hostLoc 0x2000)))) ∧
      (ends (.linkCrcError .dieLink) stErr fun t => t.board.softerr == [(9, 1)]) ∧
      (ends (.flitParityError (.shuttle 3 8) 4) stErr fun t => t.board.softerr == [(6, 1)] && t.dev.teams.all fun x => x.dying) ∧
      (ends (.ualinkErrorCompletion (.shuttle 3) 0x1000) stErr fun t => t.dev.teams.all fun x => x.dying) ∧
      waits (.ualinkErrorCompletion (.shuttle 3) 0x2000) stErr ∧
      ((shAccs (loadAt (.home (hostLoc 0x2000)))).accs.find? fun y => y.id == 8) = some (loadAt (.home (hostLoc 0x2000))) ∧
      (ends (.ideIntegrityFailure 0) stFabric fun t => (t.dev.func 0).insecure && t.board.aer == 1) ∧
      (ends (.spdmRequest (.ideSetup 0)) stFabric fun t => !(t.dev.func 0).insecure) := by decide +kernel
theorem test_LinkEvents_streams :
    (ends (.ideIntegrityFailure 48) stFabric fun t => t.dev.linkInsecure && t.board.aerStreams == [48] && t.streamSecure 0 == false) ∧
      (ends (.ideIntegrityFailure 0) stFabric fun t => t.board.aerStreams == [0]) ∧
      (ends (.spdmRequest (.ideSetup 0)) stFabric fun t => (t.dev.func 0).selective) ∧
      (ends (.spdmRequest (.ideSetup 48)) stInsecure fun t => !t.dev.linkInsecure) ∧
      stInsecure.streamSecure 0 = false ∧ (stInsecure.dev.sendMsix 0 3).msix = [] ∧ (stFabric.dev.sendMsix 0 3).msix = [(3, 1)] := by
  decide +kernel
theorem test_OutsideEvents :
    stFabric.up = true ∧ stFabric.dev.linkInsecure = false ∧
      (endsOutside (.corrected 3) stFabric fun t => t.board.softerr == [(3, 1)]) ∧
      (endsOutside (.uncorrectable 0x100000000803) stFabric fun t =>
        t.board.softerr == [(4, 1)] && t.dev.poison == (List.range 8).map (0x100000000800 + ·)) ∧
      (endsOutside (.pfRead 0 8) stFabric fun t => t.board.hostReply.any (·.length == 8)) ∧
      (endsOutside (.pfRead 65532 8) stFabric fun t => t.board.hostError) := by decide +kernel
def access (addr : Nat) (write : Bool) : HartAccess := { hart := 7, addr := addr, size := 8, write := write, value := 0x1234 }
/-- Hart 7, whose next instruction is in the firmware SRAM. -/
def hart0 : Hart := { State.reset.harts.getD 7 Hart.reset with pc := 0x80001000 }
def stHart (h : Hart) : State := State.reset.setHart 7 h
def hartU : Hart := { hart0 with mode := .u }
/-- With MPRV its loads and stores are made in U mode. -/
def hartMprv : Hart := { hart0 with mstatus := 2 ^ 17 }
def hartIs (t : State) (p : Hart → Bool) : Bool := (t.harts[7]?).any p
def fetchesAt (s : State) (h : Hart) (a : Nat) : Bool :=
  match s.hartFetch h with
  | (.pa x, _) => x == a
  | _ => false
theorem test_HartEvents :
    (stHart hart0).harts[7]? = some hart0 ∧ (stHart hart0).up = true ∧ (stHart hart0).lease.bootfail = false ∧ hart0.pmpcfg = [] ∧
      fetchesAt (stHart hart0) hart0 0x80001000 ∧ fetchesAt (stHart hartU) hartU 0x80001000 = false ∧
      hart0.allowed 0x80000000 8 true = true ∧ hartMprv.allowed 0x80000000 8 true = false ∧
      State.reset.dev.rangeOf 0x100000000000 8 = none ∧
      (ends (.hartMemoryAccess (access 0x80000000 true)) (stHart hart0) fun t => readBytes t.dev.mem 0x80000000 8 == leBytes 8 0x1234) ∧
      (ends (.hartMemoryAccess (access 0x80000000 false)) (stHart hart0) fun t => hartIs t fun h => h.loaded == 0) ∧
      (ends (.hartMemoryAccess (access 0x80000000 false)) (stHart hartMprv) fun t => hartIs t fun h => h.mcause == 5) ∧
      (ends (.hartMemoryAccess (access 0x80000000 false)) (stHart hartU) fun t => hartIs t fun h => h.mcause == 1 && h.mtval == 0x80001000) ∧
      (ends (.hartMemoryAccess (access 0x100000000000 true)) (stHart hart0) fun t => hartIs t fun h => h.mcause == 7) := by
  decide +kernel
/-- Atomic accesses, and one that crosses into the next page. -/
theorem test_HartEvents_atomics :
    let amo := { access 0x80000000 false with op := .amo 1, rd := 5 }
    let s := { stHart { hart0 with reserved := some (0x80000000, 8, 7) } with dev := { State.reset.dev with mem := [(0x80000000, 7)] } }
    (ends (.hartMemoryAccess amo) s fun t => readBytes t.dev.mem 0x80000000 8 == leBytes 8 0x123B && hartIs t fun h =>
      getK 0 h.xregs 5 == 7 && h.reserved == none) ∧
      (ends (.hartMemoryAccess { amo with op := .lr }) (stHart hart0) fun t => hartIs t fun h => h.reserved == some (0x80000000, 8, 0)) ∧
      (ends (.hartMemoryAccess { amo with op := .sc }) (stHart hart0) fun t => hartIs t (fun h => getK 0 h.xregs 5 == 1) && t.dev.mem == []) ∧
      (ends (.hartMemoryAccess { amo with addr := 0x80000001 }) (stHart hart0) fun t => hartIs t fun h => h.mcause == 6) ∧
      (ends (.hartMemoryAccess (access 0x80000FFC true)) (stHart hart0) fun t => readBytes t.dev.mem 0x80000FFC 8 == leBytes 8 0x1234) ∧
      (ends (.hartMemoryAccess (access 0x80000FFC false)) (stHart hartMprv) fun t => hartIs t fun h => h.mtval == 0x80000FFC) := by
  decide +kernel
/-- A pending and enabled timer interrupt, and the boot ROM's jump. -/
theorem test_HartEvents_interrupt :
    let h := { hart0 with csrs := [(0x304, 128), (0x344, 128)], mstatus := 8, mtvec := 0x80000101 }
    let boot := { stHart { hart0 with pc := 0 } with lease := { State.reset.lease with image := .tenant, entry := 0x80000040 } }
    h.nextInterrupt = some 7 ∧ h.toS 7 = false ∧ hart0.nextInterrupt = none ∧
      (endsOutside (.hartInterrupt 7) (stHart h) fun t => hartIs t fun g =>
        g.mcause == 2 ^ 63 + 7 && g.pc == 0x80000100 + 28 && g.mepc == 0x80001000) ∧
      (endsOutside (.hartBoot 7) boot fun t => hartIs t fun g => g.pc == 0x80000040) := by decide +kernel
/-- Hart 7 in S mode with Sv48 on, a table at 0x80002000 that maps the first 512 GiB as they lie, which all of PMP allows. -/
def hartS : Hart :=
  { hart0 with
    mode := .s, satp := 9 * 2 ^ 60 + 0x80002, pmpcfg := [(0, 0x1F)], pmpaddr := [(0, 2 ^ 54 - 1)], mtvec := 0x80000100 }
def stSv48 (h : Hart) : State :=
  { stHart h with dev := { State.reset.dev with mem := writeBytes [] 0x80002000 (leBytes 8 0xCF) } }
/-- A lock bit of PMP holds; a hart whose addresses are translated takes page faults, to S mode when they are delegated; the
load of a register; a complex that has halted. -/
theorem test_HartEvents_supervisor :
    let locked := stHart { hart0 with pmpcfg := [(0, 0x98)], pmpaddr := [(0, 5)] }
    let down := { State.reset with lease := { State.reset.lease with bootfail := true } }
    locked.harts[7]? = some { hart0 with pmpcfg := [(0, 0x98)], pmpaddr := [(0, 5)] } ∧
      (endsOutside (.hartCsr 7 0x3A0 0) locked fun t => hartIs t fun h => getK 0 h.pmpcfg 0 == 0x98) ∧
      (endsOutside (.hartCsr 7 0x3B0 9) locked fun t => hartIs t fun h => getK 0 h.pmpaddr 0 == 5) ∧
      (endsOutside (.hartCsr 7 0x3A0 0x1F) (stHart hart0) fun t => hartIs t fun h => getK 0 h.pmpcfg 0 == 0x1F) ∧
      (hartS.dataMode = .s ∧ bits hartS.satp 63 60 ≠ 0) ∧ fetchesAt (stSv48 hartS) hartS 0x80001000 ∧
      (ends (.hartMemoryAccess (access (2 ^ 47) false)) (stSv48 hartS) fun t => hartIs t fun h =>
        h.mcause == 13 && h.mtval == 2 ^ 47 && h.pc == 0x80000100 && h.mode == .m) ∧
      (ends (.hartMemoryAccess (access (2 ^ 47) true)) (stSv48 { hartS with medeleg := 2 ^ 15, stvec := 0x80000200 })
        fun t => hartIs t fun h => h.scause == 15 && h.pc == 0x80000200 && h.mode == .s) ∧
      (ends (.hartMemoryAccess { access 0x80002000 false with rd := 5 }) (stSv48 hartS) fun t => hartIs t fun h =>
          getK 0 h.xregs 5 == 0xCF) ∧
      waits (.hartMemoryAccess (access 0x80000000 true)) down := by decide +kernel

/-- A device with work of function 0 and a queue of function 1. -/
def stDevice : State :=
  let s := scene env0 sh0
  { s with dev := { s.dev with queues := [{ queue5 with fn := 1 }], cmds := [command .waiting] } }
def replies (i : Instr) (s : State) (bs : List Nat) : Bool := ends i s fun t => t.lease.reply == bs.map (BitVec.ofNat 8)
def stLease (st : LeaseState) (record : Option (List Byte)) : State :=
  { State.reset with lease := { State.reset.lease with state := st, record := record, lseq := 3 } }
theorem test_ResetEvents :
    stDevice.up = true ∧
      (ends (.functionLevelReset 0) stDevice fun t => t.dev.teams == [] && t.dev.cmds == [] && t.dev.queues.length == 1 &&
        (t.dev.func 0).l2bm == 1) ∧
      (∀ x ∈ stDevice.dev.teams, x.fn < 48) ∧ (∀ x ∈ stDevice.dev.queues, x.fn < 48) ∧
      (ends .pfFlr stDevice fun t => t.dev.teams == [] && t.dev.queues == []) ∧
      stDevice.streamSecure 0 = true ∧ stDevice.dev.linkInsecure = false := by decide +kernel
/-- On an insecure stream a reset and a write of the power state are refused (R443; log 91). -/
theorem test_ResetEvents_refused :
    let s := { stDevice with dev := { stDevice.dev with linkInsecure := true } }
    let refused := fun (i : Instr) => ends i s fun t => t.board.hostError && t.dev.teams.length == 1 && t.board.power == .d0
    s.streamSecure 0 = false ∧ refused (.functionLevelReset 0) ∧ refused .pfFlr ∧ refused .powerstateD3hotWrite := by decide +kernel
theorem test_LeaseEvents :
    State.reset.board.power ≠ .d3cold ∧ replies .getstate State.reset ([1, 0, 0] ++ List.replicate 9 0) ∧
      replies (.setlessee 5) (stLease .scrub none) [4, 1] ∧ replies .release (stLease .run none) [5, 2] ∧
      (ends .scrub (stLease .run none) fun t => t.lease.state == .scrub && t.lease.lseq == 4) ∧
      replies (.getrecord 0) (stLease .clean none) [3, 4] ∧ replies (.getrecord 1) (stLease .clean (some [])) [3, 3] ∧
      (ends (.setlessee 5) (stLease .clean none) fun t => t.lease.lessee == 5) ∧ waits .scrubComplete (stLease .run none) := by
  decide +kernel
def stPower (p : PowerState) : State := { State.reset with board := { State.reset.board with power := p } }
theorem test_PowerEvents :
    State.reset.dev.allIdle = true ∧ stDevice.dev.allIdle = false ∧
      (ends .powerstateD3hotWrite State.reset fun t => t.board.power == .d3hot) ∧
      (ends .powerstateD3hotWrite stDevice fun t => t.board.d3refused && t.board.power == .d0) ∧
      waits .d3hotExit State.reset ∧
      (ends .d3coldPowerRemoval State.reset fun t => t.board.power == .d3cold) ∧ waits .powerOn State.reset ∧
      (ends (.throttleEvent .coldPlate 9) State.reset fun t => t.board.clock == 9 && t.board.causes == 2) ∧
      (ends (.throttleEvent .current 3) State.reset fun t => t.board.clock == 6) ∧ waits .scrub (stPower .d3cold) := by
  decide +kernel
theorem test_PowerEvents_on :
    ∃ t u, exec .d3hotExit (stPower .d3hot) = .next t ∧ t.board.power = .d0 ∧ exec .powerOn (stPower .d3cold) = .next u ∧
      u.board.power = .d0 := by
  refine ⟨_, _, rfl, ?_, rfl, ?_⟩
  · show (State.boot _).board.power = _
    rw [boot_board]
  · show (State.boot _).board.power = _
    rw [boot_board]
/-! ## A signed bolt -/

/-- The cached translation of page 1. -/
def imageTlb : TlbEntry :=
  { fn := 0, ctx := 0, page := 1, loc := { key := 0x100000001000, keyid := 0, hctx := 0, space := 0, ro := false },
    canRead := true, canWrite := true, gpa := 0x1000, size := 2 ^ 30 }
def imageLoc (va : Nat) : Loc := { imageTlb.loc with key := 0x100000000000 + va }
/-- What `mapped` leaves, in numbers. -/
structure Low (d : Dev) : Prop where
  root2 : (d.func 0).s2root = 0x2001
  root1 : getK 0 (d.func 0).s1root 0 = 0x4001
  memb : (d.func 0).memb = 0
  mems : (d.func 0).mems = 2 ^ 30
  bytes : d.partBytes (partOf 0) = 85899345920
  w2 : d.tableWord 0 0x2000 = 0x3003
  w3 : d.tableWord 0 0x3000 = 0xD
  w4 : d.tableWord 0 0x4000 = 0x5003
  w5 : d.tableWord 0 0x5000 = 0xD
theorem Low.index {va : Nat} (h : va < 2 ^ 30) : levelIndex va 0 = 0 ∧ levelIndex va 1 = 0 := by
  constructor
  · show va / 2 ^ 39 = 0; omega
  · show va / 2 ^ 30 % 512 = 0; omega
theorem Low.s2Walk {d : Dev} (h : Low d) {g : Nat} (hg : g < 2 ^ 30) : d.s2Walk 0 g = .leaf 0xD 1 := by
  have hl : s2Levels d 0 g [0, 1, 2, 3] 0x2000 = .leaf 0xD 1 := by
    obtain ⟨i0, i1⟩ := Low.index hg
    have c0 : checkEntry true 0 0 0x3003 = .table 0x3000 := by decide
    have c1 : checkEntry true 1 0 0xD = .leaf := by decide
    have c2 : bit 0xD 5 = false := by decide
    have t2 : d.tableIn 0 0x2000 = true := by unfold Dev.tableIn; rw [h.bytes]; decide
    have t3 : d.tableIn 0 0x3000 = true := by unfold Dev.tableIn; rw [h.bytes]; decide
    simp only [s2Levels, i0, i1, Nat.mul_zero, Nat.add_zero, h.w2, h.w3, c0, c1, c2, t2, t3]
    rfl
  unfold Dev.s2Walk
  have r0 : bit 0x2001 0 = true := by decide
  have r1 : bits 0x2001 51 12 * 4096 = 0x2000 := by decide
  simp only [h.root2, r0, r1, hl, h.memb, h.mems, h.bytes]
  rfl
theorem Low.s2Access {d : Dev} (h : Low d) {va g : Nat} (hg : g < 2 ^ 30) (r w tw : Bool) :
    d.s2Access 0 va g r w tw = .ok (imageLoc g) true true g := by
  have e0 : leafLoc 0 (d.func 0).fdom g 0xD 1 = imageLoc g := by
    show Loc.mk (partBase 0 + bits 0xD 51 12 * 4096 + g % 2 ^ 30) _ _ _ _ = _
    rw [Nat.mod_eq_of_lt hg]; rfl
  unfold Dev.s2Access
  rw [h.s2Walk hg]
  simp only [e0]
  cases r <;> cases w <;> rfl
theorem Low.s1Word {d : Dev} (h : Low d) {va g : Nat} (hg : g < 2 ^ 30) : d.s1Word 0 va g = .ok (d.tableWord 0 g) := by
  unfold Dev.s1Word
  rw [h.s2Access hg]
  rfl
theorem Low.s1Levels {d : Dev} (h : Low d) {va : Nat} (hg : va < 2 ^ 30) :
    s1Levels d 0 va [0, 1, 2, 3] 0x4000 = .ok (0xD, 1) := by
  obtain ⟨i0, i1⟩ := Low.index hg
  have c0 : checkEntry false 0 0 0x5003 = .table 0x5000 := by decide
  have c1 : checkEntry false 1 0 0xD = .leaf := by decide
  have c2 : bit 0xD 5 = false := by decide
  simp only [Machine.s1Levels, i0, i1, Nat.mul_zero, Nat.add_zero, h.s1Word (va := va) (g := 0x4000) (by decide),
    h.s1Word (va := va) (g := 0x5000) (by decide), h.w4, h.w5, c0, c1, c2]
  rfl
theorem Low.leafBytes {d : Dev} (h : Low d) {va : Nat} (hg : va < 2 ^ 30) : d.leafBytes 0 0 va = 2 ^ 30 := by
  have r1 : bits 0x4001 51 12 * 4096 = 0x4000 := by decide
  have r2 : bits 0xD 51 12 * 4096 + va % leafSize 1 (bit 0xD 5) = va := by
    rw [show bits 0xD 51 12 * 4096 = 0 by decide, show leafSize 1 (bit 0xD 5) = 2 ^ 30 by decide, Nat.zero_add,
      Nat.mod_eq_of_lt hg]
  unfold Dev.leafBytes
  simp only [h.root1, r1, h.s1Levels hg, r2, h.s2Walk hg]
  rfl
theorem Low.walk {d : Dev} (h : Low d) {va : Nat} (hg : va < 2 ^ 30) (r w : Bool) :
    d.walk 0 0 va r w = .ok (imageLoc va) true true va := by
  have hl := h.s1Levels hg
  have r0 : bit 0x4001 0 = true := by decide
  have r1 : bits 0x4001 51 12 * 4096 = 0x4000 := by decide
  have r2 : bits 0xD 51 12 * 4096 + va % leafSize 1 (bit 0xD 5) = va := by
    rw [show bits 0xD 51 12 * 4096 = 0 by decide, show leafSize 1 (bit 0xD 5) = 2 ^ 30 by decide, Nat.zero_add,
      Nat.mod_eq_of_lt hg]
  unfold Dev.walk
  simp only [h.root1, r0, r1, hl, r2, h.s2Access hg]
  cases r <;> cases w <;> rfl
/-- Whether the cached translation of page 1 is `imageTlb`, whatever an access needs. -/
def cachesImage (d : Dev) : Bool := [true, false].all fun r => [true, false].all fun w =>
  d.tlb.find? (fun t => t.fn == 0 && t.ctx == 0 && t.page == 1 && (!r || t.canRead) && (!w || t.canWrite)) == some imageTlb
/-- Cached or walked, an address of page 1 has one location. -/
theorem Low.translate {d : Dev} (h : Low d) (hc : cachesImage d = true) {va : Nat} (h1 : va / 4096 = 1) (r w : Bool) :
    (d.translate 0 0 va r w).2 = .ok (imageLoc va) true true va := by
  have hf : d.tlb.find? (fun t => t.fn == 0 && t.ctx == 0 && t.page == 1 && (!r || t.canRead) && (!w || t.canWrite)) =
      some imageTlb := by
    simp only [cachesImage, List.all_cons, List.all_nil, Bool.and_true, Bool.and_eq_true, beq_iff_eq] at hc
    cases r <;> cases w
    exacts [hc.2.2, hc.2.1, hc.1.2, hc.1.1]
  have e1 : 0x1000 + va % 4096 = va := by omega
  have e3 : 0x100000001000 + va % 4096 = 0x100000000000 + va := by omega
  have e5 : imageTlb.loc.inDomain (d.func 0).fdom = imageTlb.loc := rfl
  unfold Dev.translate
  simp only [h1, hf, h.walk (va := va) (by omega) r w]
  cases Config.tlbHit d.tick 1
  · rfl
  · simp only [e5]
    simp only [imageTlb, imageLoc, e1, e3]
theorem Low.hubStore {d : Dev} (h : Low d) (hc : cachesImage d = true) {va n : Nat} (h1 : va / 4096 = 1) (hn : va % n = 0) :
    (d.hubLoc 0 0 va n .store).2 = some (imageLoc va) := by
  have ht := h.translate hc h1 false true
  have h4 : (decide (va ≥ 2 ^ 56) || va % n != 0) = false := by rw [decide_eq_false (by omega), hn]; rfl
  have key : ∀ p : Dev × WalkEnd, p = d.translate 0 0 va false true → p.2 = .ok (imageLoc va) true true va := fun p hp => hp ▸ ht
  unfold Dev.hubLoc Dev.meet
  simp only [h4, AccKind.reads, AccKind.writes]
  revert key
  generalize d.translate 0 0 va false true = p
  intro key
  obtain ⟨d', e⟩ := p
  have := key _ rfl
  simp only at this
  subst this
  rfl
/-- What a test asks of a state in which the block at 0x1000 may end. -/
def endOpen (d : Dev) : Bool :=
  cachesImage d && d.homeOpen 0 0 none (imageLoc 0x1004) 4 true &&
    decide ((d.func 0).s2root = 0x2001 ∧ getK 0 (d.func 0).s1root 0 = 0x4001 ∧ (d.func 0).memb = 0 ∧ (d.func 0).mems = 2 ^ 30 ∧
      d.partBytes (partOf 0) = 85899345920 ∧ d.tableWord 0 0x2000 = 0x3003 ∧ d.tableWord 0 0x3000 = 0xD ∧
      d.tableWord 0 0x4000 = 0x5003 ∧ d.tableWord 0 0x5000 = 0xD)
theorem blockHeld_of_endOpen {d : Dev} {b : BlockEnd} (h : endOpen d = true) (hb : b.fn = 0 ∧ b.ctx = 0 ∧ b.addr = 0x1000 ∧ b.cnt = 0 ∧ b.nots = [])
    (hd : d.doneHeld b = false) : d.blockHeld b = false := by
  simp only [endOpen, Bool.and_eq_true, decide_eq_true_eq] at h
  obtain ⟨⟨hc, ho⟩, a1, a2, a3, a4, a5, a6, a7, a8, a9⟩ := h
  obtain ⟨b1, b2, b3, b4, b5⟩ := hb
  have hl := Low.hubStore ⟨a1, a2, a3, a4, a5, a6, a7, a8, a9⟩ hc (va := 0x1004) (n := 4) (by decide) (by decide)
  unfold Dev.blockHeld Dev.hubHeld
  rw [b1, b2, b3, b4, b5, hl, hd]
  simp only [AccKind.writes, ho]
  rfl
def endsOpen (ws : List Nat) : Bool :=
  let s := stBlockOf ws queue5 id
  let b := blockEndOf queue5 0x1000 (ws ++ List.replicate (64 - ws.length) 0)
  [afterBlock s, afterWord s].all fun d =>
    endOpen d && !d.doneHeld b && decide (b.fn = 0 ∧ b.ctx = 0 ∧ b.addr = 0x1000 ∧ b.cnt = 0 ∧ b.nots = [])
theorem endsOpen_blockHeld {ws : List Nat} (h : endsOpen ws = true) :
    let s := stBlockOf ws queue5 id
    let b := blockEndOf queue5 0x1000 (ws ++ List.replicate (64 - ws.length) 0)
    (afterBlock s).blockHeld b = false ∧ (afterWord s).blockHeld b = false := by
  simp only [endsOpen, List.all_cons, List.all_nil, Bool.and_true, Bool.and_eq_true, Bool.not_eq_true', decide_eq_true_eq] at h
  exact ⟨blockHeld_of_endOpen h.1.1.1 h.1.2 h.1.1.2, blockHeld_of_endOpen h.2.1.1 h.2.2 h.2.1.2⟩
/-- Of each of these blocks the end waits at no home: one of a bad format, a copy that fails its checks, a WAITMEM, a SIGNAL, an
ARM, a CAPTURE. -/
theorem test_QueueEvents_ends : ∀ ws ∈ [badBlock, copyBlockWords.set 20 0, waitWords 1, waitWords 2, signalWords 1 0x40000900,
    armWords 2, captureWords 1], endsOpen ws = true := by decide +kernel
/-- Bytes as memory cells. -/
def cells : Nat → List Byte → Memory
  | _, [] => []
  | a, b :: bs => if b == 0#8 then cells (a + 1) bs else (a, b) :: cells (a + 1) bs
theorem readByte_cells (bs : List Byte) (m : Memory) : ∀ a k, readByte (cells a bs ++ m) (a + k) =
    if h : k < bs.length then (if bs[k] == 0#8 then readByte m (a + k) else bs[k]) else readByte m (a + k) := by
  have below : ∀ (bs : List Byte) a k, k < a → readByte (cells a bs ++ m) k = readByte m k := by
    intro bs
    induction bs with
    | nil => intro a k _; rfl
    | cons b bs ih =>
      intro a k hk
      unfold cells
      split
      · exact ih _ _ (by omega)
      · have : (a == k) = false := by simp; omega
        simp only [List.cons_append, readByte, getK, this]
        exact ih _ _ (by omega)
  induction bs with
  | nil => intro a k; rfl
  | cons b bs ih =>
    intro a k
    cases k with
    | zero =>
      unfold cells
      split
      · next hb => simp [below bs (a + 1) a (by omega), hb]
      · next hb => simp [readByte, getK, hb]
    | succ k =>
      have e : a + (k + 1) = a + 1 + k := by omega
      unfold cells
      split
      · rw [e, ih (a + 1) k]; simp
      · have : (a == a + 1 + k) = false := by simp; omega
        rw [e]
        simp only [List.cons_append, readByte, getK, this]
        have := ih (a + 1) k
        simp only [readByte] at this
        simpa using this
theorem readBytes_cells {bs : List Byte} {m : Memory} {a : Nat} (hm : ∀ k, k < bs.length → readByte m (a + k) = 0#8) :
    ∀ n k, k + n = bs.length → readBytes (cells a bs ++ m) (a + k) n = bs.drop k := by
  intro n
  induction n with
  | zero => intro k h; rw [List.drop_eq_nil_of_le (by omega)]; rfl
  | succ n ih =>
    intro k h
    have hk : k < bs.length := by omega
    show readByte _ (a + k) :: readBytes _ (a + (k + 1)) n = _
    rw [ih (k + 1) (by omega), readByte_cells, dif_pos hk, hm k hk, List.drop_eq_getElem_cons hk]
    by_cases hb : bs[k] == 0#8
    · rw [if_pos hb, beq_iff_eq.1 hb]
    · rw [if_neg hb]
theorem leBytes_leNat : ∀ bs : List Byte, leBytes bs.length (leNat bs) = bs
  | [] => rfl
  | b :: bs => by
    have h1 : BitVec.ofNat 8 (b.toNat + 256 * leNat bs) = b := by
      apply BitVec.eq_of_toNat_eq
      have := b.isLt
      simp only [BitVec.toNat_ofNat]; omega
    have h2 : (b.toNat + 256 * leNat bs) / 256 = leNat bs := by have := b.isLt; omega
    show BitVec.ofNat 8 (leNat (b :: bs)) :: leBytes bs.length (leNat (b :: bs) / 256) = _
    rw [show leNat (b :: bs) = b.toNat + 256 * leNat bs from rfl, h1, h2, leBytes_leNat bs]
theorem readBytes_length (m : Memory) : ∀ n a, (readBytes m a n).length = n
  | 0, _ => rfl
  | n + 1, a => congrArg (· + 1) (readBytes_length m n (a + 1))
theorem readBytes_add (m : Memory) (n : Nat) : ∀ k a, readBytes m a (k + n) = readBytes m a k ++ readBytes m (a + k) n
  | 0, a => by rw [Nat.zero_add]; rfl
  | k + 1, a => by
    rw [show k + 1 + n = (k + n) + 1 by omega]
    show readByte m a :: readBytes m (a + 1) (k + n) = readByte m a :: (readBytes m (a + 1) k ++ readBytes m (a + (k + 1)) n)
    rw [readBytes_add m n k (a + 1), show a + (k + 1) = a + 1 + k by omega]
/-- A device whose reads of page 1 meet plain memory. -/
structure Plain (d : Dev) : Prop where
  low : Low d
  tlb : d.tlb = [imageTlb]
  tags : d.keyTags = []
  clean : d.scrubbed = false
  granules : d.granules = []
  remap : (d.func 0).remap = []
  keyChange : (d.func 0).keyChange = []
theorem Plain.hubLoc {d : Dev} (h : Plain d) {va : Nat} (h1 : va / 4096 = 1) (h2 : va % 16 = 0) :
    d.hubLoc 0 0 va 16 .load = (d, some (imageLoc va)) := by
  have hw : d.walk 0 0 va true false = .ok (imageLoc va) true true va := h.low.walk (by omega) true false
  have hd : { d with tlb := [imageTlb] } = d := by rw [← h.tlb]
  have hf : d.tlb.find? (fun t => t.fn == 0 && t.ctx == 0 && t.page == 1 && (!true || t.canRead) && (!false || t.canWrite)) =
      some imageTlb := by rw [h.tlb]; rfl
  have e1 : 0x1000 + va % 4096 = va := by omega
  have e2 : va - va % 4096 = 0x1000 := by omega
  have e3 : 0x100000001000 + va % 4096 = 0x100000000000 + va := by omega
  have e4 : 0x100000000000 + va - va % 4096 = 0x100000001000 := by omega
  have key : d.translate 0 0 va true false = (d, .ok (imageLoc va) true true va) := by
    unfold Dev.translate
    simp only [h1, hf, hw]
    cases Config.tlbHit d.tick 1
    · simp only [h.tlb, imageLoc, e2, e4, h.low.leafBytes (va := va) (by omega)]
      exact Prod.ext hd rfl
    · have e5 : imageTlb.loc.inDomain (d.func 0).fdom = imageTlb.loc := rfl
      simp only [e5]
      simp only [imageTlb, imageLoc, e1, e3]
  have h4 : (decide (va ≥ 2 ^ 56) || va % 16 != 0) = false := by rw [decide_eq_false (by omega), h2]; rfl
  simp only [Dev.hubLoc, Dev.meet, AccKind.reads, AccKind.writes, key, h4]
  rfl
theorem Plain.homeOpen {d : Dev} (h : Plain d) (va : Nat) : d.homeOpen 0 0 none (imageLoc va) 16 false = true := by
  simp [Dev.homeOpen, Dev.openFor, Dev.granuleHolds, h.granules, Func.remapHolds, h.remap, h.keyChange]
theorem readUnder_untagged {d : Dev} (h : d.keyTags = []) (hs : d.scrubbed = false) (k : Option Key) (a n : Nat) : d.readUnder k a n = readBytes d.mem a n := by
  have : ∀ l : List Nat, ∀ k, l.all (d.lineAgrees k) = true := by
    intro l k; simp [Dev.lineAgrees, Dev.lineTag, h, hs]
  unfold Dev.readUnder
  split
  · rfl
  · rw [this]; rfl
theorem Plain.homeRead {d : Dev} (h : Plain d) (va : Nat) :
    d.homeRead 0 (imageLoc va) 16 = readBytes d.mem (0x100000000000 + va) 16 := readUnder_untagged h.tags h.clean _ _ _
theorem Plain.imageRead {d : Dev} (h : Plain d) (n : Nat) : ∀ va, va / 4096 = 1 → va + 16 * n ≤ 0x2000 → va % 16 = 0 →
    Dev.imageRead 0 va n d = (d, .bytes (readBytes d.mem (0x100000000000 + va) (16 * n))) := by
  induction n with
  | zero => intro va _ _ _; rfl
  | succ n ih =>
    intro va h1 h2 h3
    have hl := h.hubLoc h1 h3
    have hb : leBytes 16 (leNat (readBytes d.mem (0x100000000000 + va) 16)) = readBytes d.mem (0x100000000000 + va) 16 := by
      have := leBytes_leNat (readBytes d.mem (0x100000000000 + va) 16)
      rwa [readBytes_length] at this
    cases n with
    | zero => simp only [Dev.imageRead, Dev.hubHeld, Dev.hubRead, hl, AccKind.writes, h.homeOpen, h.homeRead, hb]; simp
    | succ n =>
      have h4 := ih (va + 16) (by omega) (by omega) (by omega)
      rw [show 16 * (n + 1 + 1) = 16 + 16 * (n + 1) by omega, readBytes_add]
      unfold Dev.imageRead
      simp only [Dev.hubHeld, Dev.hubRead, hl, AccKind.writes, h.homeOpen, h.homeRead, hb, h4]
      rfl

/-- A key pair's public half, and the signatures of two digests under it, worked out by a program of its own. -/
def boltKey0 : Nat := 0x7ae9e1db1160794c70c1ef071be5191f6c66240f4608fbe8a44ecd36c3ed5db97500f2e4d84e3fb45850fd6f4303302b +
  2 ^ 384 * 0xd8ac21444cd80d241538d8034b399a0dee3636eb5cb00b9499d061a571db0f14bb47ed79453948ed63f3a6ccbbf6e74f
def signatureR : Nat := 0x283c1d7365ce4788f29f8ebf234edffead6fe997fbea5ffa2d58cc9dfa7b1c508b05526f55b9ebb2040f05b48fb6d0e1
def signed (digest s slot : Nat) : List Byte :=
  beBytes 48 digest ++ leBytes 48 signatureR ++ leBytes 48 s ++ leBytes 16 slot
def emptySection : List Byte := signed
  0x38b060a751ac96384cd9327eb1b1e36a21fdb71114be07434c0cc7bf63f6e1da274edebfe76f65fbd51ad2f14898b95b
  0x348b8db995fde27bdaf2ef0659d41fa3ad200ca630c1b3db57af4d2590eaf847621f9094b5cdd9e8475daa23d4a23b8 7
/-- One nest, no code: a header, the nest of `State.place` at 256 and the signatures at 512. -/
def image0 : List Byte :=
  leBytes 4 0x544C4F42 ++ leBytes 4 0x10001 ++ leBytes 8 1312 ++ leBytes 16 0 ++ leBytes 8 256 ++ leBytes 8 256 ++ leBytes 64 0 ++
    leBytes 8 512 ++ leBytes 8 800 ++ leBytes 128 0 ++ placedNest ++
    signed 0xf0b553ff65689bb23a4ef18ed6e8800de2890e65f98b7efbbea7e4195b46087854c3dc90b0aec4d5fcb3a69abaed3cf0
      0xd46e0031530d03824d524a3bd8a50f3631c15668cce050ea2fb37960988a8ca84dd794cb09bf875ea10fc1e229079d44 7 ++
    emptySection ++ emptySection ++ emptySection ++ emptySection
def stImage (img : List Byte) : State :=
  let s := stFn fun f => { f with rsvs := 2 ^ 20, bkey := [(7, boltKey0)] }
  { s with dev := { s.dev with tlb := [imageTlb], mem := cells 0x100000001000 img ++ s.dev.mem } }
theorem readBytes_congr {m m' : Memory} : ∀ n a, (∀ k, k < n → readByte m (a + k) = readByte m' (a + k)) → readBytes m a n = readBytes m' a n
  | 0, _, _ => rfl
  | n + 1, a, h => by
    show readByte m a :: readBytes m (a + 1) n = readByte m' a :: readBytes m' (a + 1) n
    have h0 : readByte m a = readByte m' a := h 0 (by omega)
    have h1 : readBytes m (a + 1) n = readBytes m' (a + 1) n := readBytes_congr n (a + 1) fun k hk => by
      have := h (k + 1) (by omega)
      rwa [show a + (k + 1) = a + 1 + k by omega] at this
    rw [h0, h1]
theorem readByte_absent {m : Memory} {a : Nat} (h : ∀ c ∈ m, c.1 ≠ a) : readByte m a = 0#8 := by
  induction m with
  | nil => rfl
  | cons c m ih =>
    have : (c.1 == a) = false := by simp [h c (by simp)]
    simp only [readByte, getK, this]
    exact ih fun c hc => h c (by simp [hc])
theorem outside_stFn : ∀ c ∈ (stFn id).dev.mem, c.1 < 0x100000001000 ∨ 0x100000002000 ≤ c.1 := by decide +kernel
theorem plain_stImage (img : List Byte) (h : img.length ≤ 4096) : Plain (stImage img).dev := by
  have hw : ∀ pa, 0x2000 ≤ pa → (stImage img).dev.tableWord 0 pa = (stFn id).dev.tableWord 0 pa := by
    intro pa hp
    show leNat (Dev.readUnder _ _ _ _) = leNat (Dev.readUnder _ _ _ _)
    rw [readUnder_untagged rfl rfl, readUnder_untagged rfl rfl]
    refine congrArg leNat (readBytes_congr 8 _ fun k _ => ?_)
    have := readByte_cells img (stFn id).dev.mem 0x100000001000 (pa + k - 0x1000)
    rw [dif_neg (by omega), show 0x100000001000 + (pa + k - 0x1000) = partBase (partOf 0) + pa + k by
      show _ = 0x100000000000 + pa + k; omega] at this
    exact this
  refine { low := ⟨rfl, rfl, rfl, rfl, ?_, ?_, ?_, ?_, ?_⟩, tlb := rfl, tags := rfl, clean := rfl, granules := rfl, remap := rfl, keyChange := rfl }
  · show (stFn id).dev.partBytes (partOf 0) = _; decide +kernel
  all_goals (rw [hw _ (by decide)]; decide +kernel)
/-- What reading an image in page 1 finds. -/
theorem imageRead_stImage {img : List Byte} (h : img.length ≤ 4096) {n r : Nat} (hn : 16 * n + r = img.length) :
    Dev.imageRead 0 0x1000 n (stImage img).dev = ((stImage img).dev, .bytes (img.take (16 * n))) := by
  have hz : ∀ k, k < img.length → readByte (stFn id).dev.mem (0x100000001000 + k) = 0#8 := fun k hk =>
    readByte_absent fun c hc => by have := outside_stFn c hc; omega
  rw [(plain_stImage img h).imageRead n _ (by decide) (by omega) (by decide)]
  have h1 : readBytes (stImage img).dev.mem (0x100000000000 + 0x1000) (16 * n + r) = img :=
    readBytes_cells hz (16 * n + r) 0 (by omega)
  rw [readBytes_add] at h1
  have h2 := congrArg (List.take (16 * n)) h1
  rw [List.take_append_of_le_length (Nat.le_of_eq (readBytes_length ..).symm), List.take_of_length_le
    (Nat.le_of_eq (readBytes_length ..))] at h2
  rw [h2]
theorem length_image0 : image0.length = 1312 := by decide +kernel
theorem checked_image0 : (stImage image0).dev.boltCheck 0 image0 = none := by decide +kernel
theorem test_RegisterEvents_load :
    (stImage image0).Serves 0 ∧ Dev.imageRead 0 0x1000 8 (stImage image0).dev =
        ((stImage image0).dev, .bytes (image0.take 128)) ∧
      boltHeaderOk (image0.take 128) = true ∧ boltSize (image0.take 128) = 1312 ∧
      Dev.imageRead 0 0x1000 ((boltSize (image0.take 128) + 15) / 16) (stImage image0).dev = ((stImage image0).dev, .bytes image0) ∧
      (stImage image0).dev.boltCheck 0 (image0.take (boltSize (image0.take 128))) = none ∧
      patchRecords (image0.take (boltSize (image0.take 128))) = [] := by
  have hs : boltSize (image0.take 128) = 1312 := by decide +kernel
  have ht : image0.take 1312 = image0 := List.take_of_length_le (Nat.le_of_eq length_image0)
  have hl : image0.length ≤ 4096 := by rw [length_image0]; decide
  rw [hs, ht]
  refine ⟨by decide +kernel, imageRead_stImage (r := 1184) hl (by rw [length_image0]), by decide +kernel, rfl, ?_, checked_image0,
    by decide +kernel⟩
  have := imageRead_stImage (n := 82) (r := 0) hl (by rw [length_image0])
  rwa [show 16 * 82 = 1312 from rfl, ht] at this
/-- A flipped bit in a signature; a header of zeros; no header. -/
theorem test_RegisterEvents_load_refuses :
    (stImage image0).dev.boltCheck 0 (image0.take 608 ++ [image0.getD 608 0 ^^^ 1#8] ++ image0.drop 609) = some 3 ∧
      Dev.imageRead 0 0x1000 8 (stImage (List.replicate 128 0#8)).dev =
        ((stImage (List.replicate 128 0#8)).dev, .bytes (List.replicate 128 0#8)) ∧
      boltHeaderOk (List.replicate 128 0#8) = false := by
  have h := imageRead_stImage (img := List.replicate 128 0#8) (n := 8) (r := 0) (by rw [List.length_replicate]; decide)
    (by rw [List.length_replicate])
  rw [List.take_of_length_le (Nat.le_of_eq List.length_replicate)] at h
  exact ⟨by decide +kernel, h, by decide +kernel⟩
/-! ## Decoding: words written out from the encodings (spec/04, spec/05, spec/08, spec/14, spec/16) -/

/-- A scalar word, the word after it, and the instruction. -/
def scalarIs (ps : List (Nat × Nat × Instr)) : Bool :=
  ps.all fun p => (decodeScalar p.1 (some p.2.1)).toOption == some p.2.2 && decodeTableWord 64 (p.1 + p.2.1 * 2 ^ 32) == some p.2.2
theorem test_decode_salu : scalarIs [
    (0x02237FE0, 0x00000000, .smov 70 1023), (0x02237FC1, 0x00000000, .sadd 70 1022),
    (0x02237FA2, 0x00000000, .ssub 70 1021), (0x02237F83, 0x00000000, .sand 70 1020), (0x02237F64, 0x00000000, .sor 70 1019),
    (0x02237F45, 0x00000000, .sxor 70 1018), (0x02237F26, 0x00000000, .sshl 70 1017),
    (0x02237F07, 0x00000000, .sshr 70 1016), (0x02237EE8, 0x00000000, .ssra 70 1015),
    (0x02237EC9, 0x00000000, .smul 70 1014), (0x02237EAA, 0x00000000, .smulh 70 1013),
    (0x02237E8B, 0x00000000, .smulhu 70 1012), (0x02237E6C, 0x00000000, .sdiv 70 1011),
    (0x02237E4D, 0x00000000, .sdivu 70 1010), (0x02237E2E, 0x00000000, .srem 70 1009),
    (0x02237E0F, 0x00000000, .sremu 70 1008), (0x02237DF0, 0x00000000, .smin 70 1007),
    (0x02237DD1, 0x00000000, .smax 70 1006), (0x02237DB2, 0x00000000, .sminu 70 1005),
    (0x02237D93, 0x00000000, .smaxu 70 1004), (0x02237D74, 0x00000000, .sslt 70 1003),
    (0x02237D55, 0x00000000, .ssltu 70 1002), (0x02237D36, 0x00000000, .sseq 70 1001),
    (0x02237D17, 0x00000000, .snot 70 1000), (0x02237CF8, 0x00000000, .sclz 70 999), (0x02237CD9, 0x00000000, .spopc 70 998),
    (0x02237CBA, 0x00000000, .sbrev 70 997), (0x02237C9B, 0x00000000, .sneg 70 996)] = true := by decide +kernel
theorem test_decode_salu64 : scalarIs [
    (0x04287FC0, 0x00000000, .smov64 80 1022), (0x04287F81, 0x00000000, .sadd64 80 1020),
    (0x04287F42, 0x00000000, .ssub64 80 1018), (0x04287F03, 0x00000000, .sshl64 80 1016),
    (0x04287EC4, 0x00000000, .sshr64 80 1014), (0x04287E85, 0x00000000, .ssra64 80 1012),
    (0x04287E46, 0x00000000, .smul64 80 1010)] = true := by decide +kernel
theorem test_decode_immediate : scalarIs [
    (0x08204000, 0x00000000, .sli 64 (-16384)), (0x0A204001, 0x00000000, .sli64 64 (-16383)),
    (0x0C204002, 0x00000000, .saddi 64 (-16382)), (0x0E204003, 0x00000000, .sandi 64 (-16381)),
    (0x10204004, 0x00000000, .sori 64 (-16380)), (0x12204005, 0x00000000, .sxori 64 (-16379)),
    (0x14204006, 0x00000000, .sshli 64 (-16378)), (0x16204007, 0x00000000, .sshri 64 (-16377)),
    (0x18204008, 0x00000000, .ssrai 64 (-16376)), (0x1A204009, 0x00000000, .ssltiu 64 (-16375)),
    (0x1C20400A, 0x00000000, .saddi64 64 (-16374))] = true := by decide +kernel
theorem test_decode_memory : scalarIs [
    (0x202A081F, 0x00000000, .sld 84 64 31), (0x222A081E, 0x00000000, .sld64 84 64 30),
    (0x242A081D, 0x00000000, .sld128 84 64 29), (0x262A081C, 0x00000000, .sst 84 64 28),
    (0x282A081B, 0x00000000, .sst64 84 64 27), (0x2A2A081A, 0x00000000, .sst128 84 64 26),
    (0x2C2A0819, 0x00000000, .sldacq 84 64 25), (0x2E2A0818, 0x00000000, .sstrel 84 64 24),
    (0x22200002, 0x00000000, .sld64 64 0 2), (0x2C280802, 0x00000000, .sldacq 80 64 2),
    (0x2E290800, 0x00000000, .sstrel 82 64 0), (0x30280800, 0x00001C54, .satom 80 64 0 0 0 7 84),
    (0x3028081F, 0x10073FFF, .satom 80 64 31 2 7 15 1023)] = true := by decide +kernel
theorem test_decode_flow : scalarIs [
    (0x40007FFE, 0x00000000, .sbr (-2)), (0x42233FFF, 0x00000000, .sbz 70 16383), (0x44233FFE, 0x00000000, .sbnz 70 16382),
    (0x46233FFD, 0x00000000, .sblz 70 16381), (0x48233FFC, 0x00000000, .sbgez 70 16380),
    (0x4A233FFB, 0x00000000, .scall 70 16379), (0x4C230000, 0x00000000, .sjr 70), (0x4C2308E1, 0x00000000, .sjrL 70 71),
    (0x4E237FFF, 0x00000000, .sloop 70 (-1)), (0xFE0000C0, 0x08240000, .sxt 0xC0 0x08240000),
    (0x60280A20, 0x00000000, .sfet 80 81), (0x62280000, 0x00000000, .swfull 80), (0x64280000, 0x00000000, .sempt 80)] = true := by decide +kernel
theorem test_decode_levels : scalarIs [
    (0x70280003, 0x00000000, .sidx 80 3), (0x72280001, 0x00000000, .smapq 80 1), (0x7228001F, 0x00000000, .smapq 80 31),
    (0x74000002, 0x00000000, .srgnb 2), (0x76000001, 0x00000000, .srgne 1), (0x78000022, 0x00000000, .sbar 2 1),
    (0x780001E3, 0x00000000, .sbar 3 15), (0x7A000001, 0x00000000, .sfenceSc 1), (0x7A000004, 0x00000000, .sfenceAcqrel),
    (0x7A000008, 0x00000000, .sfenceRel), (0x7A00000C, 0x00000000, .sfenceAcq), (0x7C003FFF, 0x00000000, .sirb 16383),
    (0x7E230006, 0x00000000, .sirc 70 6), (0x880A02A1, 0x00000000, .scoll 20 21 0 1),
    (0x8A0A02BF, 0x00000000, .sprfx 20 21 3 7), (0x8C0A02AB, 0x11808000, .sslide 20 21 3 2 70 (-32768)),
    (0x8E0A02A2, 0xFFC00000, .sbcast 20 21 2 1023), (0x90280B07, 0xFFFFFFFF, .spawn 80 88 8 0xFFFFFFFF),
    (0x92280002, 0x00000000, .selct 80 2), (0x94280000, 0x00000000, .ssetfmt 80),
    (0x80280902, 0x00001234, .lrun 80 72 2 0x1234), (0x82000000, 0x00000000, .lsync),
    (0x84040803, 0x00000000, .sshare 8 64 3)] = true := by decide +kernel
theorem test_decode_engines : scalarIs [
    (0xA02D0C00, 0x00000000, .scpy 90 96 false 0), (0xA02D0C00, 0x800003FE, .scpy 90 96 true 1022),
    (0xA2330B80, 0x00000000, .swaitc 102 92), (0xA4230905, 0xFFC0005A, .ssig 70 72 1 true false 1023 90),
    (0xA4230900, 0x0020005A, .ssig 70 72 0 false true 0 90), (0xA62D0C0F, 0x00000000, .sthd 90 96 15),
    (0xA8300D00, 0x16800045, .smma 96 104 90 false true false 5),
    (0xA8300D00, 0x168000BF, .smma 96 104 90 true false true 31), (0xAA00003F, 0x00000000, .smacq true 31),
    (0xAC000005, 0x00000000, .smrel false 5), (0xAE23095F, 0x16A02001, .smld 70 74 31 90 (-128) true true),
    (0xB0230943, 0x169FC000, .smst 70 74 3 90 127 false), (0xB22D0C00, 0x00000012, .sscan 90 96 2 true false),
    (0xB42D0002, 0x00000000, .sscw 90 2), (0xB62D0C03, 0x00000000, .sacc 90 96 3), (0xB82D0000, 0x0000000F, .sbankScr 90 15),
    (0xB82D08C1, 0x00000001, .sbankFifo 90 70 1), (0xB82D0002, 0x00000002, .sbankRel 90 2),
    (0xB82D08C3, 0x00000013, .sbankTake 90 70 true 3), (0xB82D0003, 0x00000003, .sbankTake 90 0 false 3),
    (0xBA2D0C00, 0x00000000, .slaunch 90 96), (0xBC2D0C00, 0xFFFF0001, .sarm 90 96 65535 1)] = true := by decide +kernel
theorem test_decode_system : scalarIs [
    (0xE0000009, 0x00000000, .strap 9), (0xE0008000, 0x00000000, .strapRet), (0xE2000000, 0x00000000, .sbrk),
    (0xE4000000, 0x00000000, .sexit), (0xE62402E0, 0x00000000, .scsrR 72 23), (0xE6240241, 0x00000000, .scsrW 72 18),
    (0xE8000000, 0x00000000, .syield), (0xEA000000, 0x00000000, .snop), (0xEC280000, 0x00000000, .scyc 80)] = true := by decide +kernel

/-- The bits of a lane word, by the positions of R90: OPC 95:86, D 85:76, A 75:66, B 65:56, C 55:46, PG 45:42, U 41, B 40, E 39:37,
T 36:33, X 31:0. The tests below give it as three 32-bit parts, high part first, as the manual's examples do. -/
def laneIs (ps : List (Nat × Nat × Nat × Instr)) : Bool :=
  ps.all fun p =>
    let v := p.1 * 2 ^ 64 + p.2.1 * 2 ^ 32 + p.2.2.1
    (decodeLane v).toOption == some p.2.2.2 && decodeTableWord 96 v == some p.2.2.2
theorem test_decode_integer : laneIs [
    (0x0040C010, 0x05C51C00, 0x00000008, .add (word 12 4 5 788 0 0x8)),
    (0x0080C010, 0x05C51C0A, 0x00000000, .sub (word 12 4 5 788 5 0x0)),
    (0x00C0C018, 0x08C51C0C, 0x00000000, .mul (word 12 6 8 788 6 0x0)),
    (0x0100C018, 0x08C51C0E, 0x00000000, .mulh (word 12 6 8 788 7 0x0)),
    (0x0140C010, 0x05019C02, 0x00000008, .mad (word 12 4 5 6 1 0x8)),
    (0x0180C010, 0x05C51C1E, 0x00000000, .and (word 12 4 5 788 15 0x0)),
    (0x01C0C018, 0x08C51C0E, 0x00000000, .or (word 12 6 8 788 7 0x0)),
    (0x0200C010, 0x05C51CDE, 0x00000000, .xor { word 12 4 5 788 15 0x0 with e := 6 }),
    (0x0240C010, 0x05019C1E, 0x00000960, .lop3 (word 12 4 5 6 15 0x960)),
    (0x0280C010, 0x05C51C04, 0x00000008, .shl (word 12 4 5 788 2 0x8)),
    (0x02C0C010, 0x05C51C06, 0x00000000, .shr (word 12 4 5 788 3 0x0)),
    (0x0300C010, 0x05C51C00, 0x00000000, .sra (word 12 4 5 788 0 0x0)),
    (0x0340C010, 0x05C51C08, 0x00000000, .min (word 12 4 5 788 4 0x0)),
    (0x0380C010, 0x05C51C02, 0x00000000, .max (word 12 4 5 788 1 0x0)),
    (0x03C0C013, 0x14C51C04, 0x00000008, .abs (word 12 4 788 788 2 0x8)),
    (0x0400C013, 0x14C51C08, 0x00000000, .neg (word 12 4 788 788 4 0x0)),
    (0x0440C013, 0x14C51C1E, 0x00000000, .clz (word 12 4 788 788 15 0x0)),
    (0x0480C013, 0x14C51C1E, 0x00000000, .popc (word 12 4 788 788 15 0x0)),
    (0x04C0C01B, 0x14C51C0E, 0x00000000, .brev (word 12 6 788 788 7 0x0)),
    (0x0500C013, 0x15C51C02, 0x00000119, .bfe (word 12 4 789 788 1 0x119)),
    (0x0540C010, 0x05C55C1E, 0x00000404, .bfi (word 12 4 5 789 15 0x404)),
    (0x0580C010, 0x05C51C1E, 0x00000003, .sel (word 12 4 5 788 15 0x3)),
    (0x05C03010, 0x05C51C02, 0x00000004, .cmp (word 3 4 5 788 1 0x4)),
    (0x0600C010, 0x05C51C00, 0x00000000, .div (word 12 4 5 788 0 0x0)),
    (0x0640C010, 0x05C51C06, 0x00000000, .rem (word 12 4 5 788 3 0x0)),
    (0x0680C010, 0x05C51C00, 0x00000000, .addsat (word 12 4 5 788 0 0x0)),
    (0x06C0C010, 0x05C51C08, 0x00000000, .subsat (word 12 4 5 788 4 0x0)),
    (0x0700C010, 0x05019C04, 0x00000008, .dp2 (word 12 4 5 6 2 0x8)),
    (0x0740C010, 0x05019C0A, 0x00000008, .dp4 (word 12 4 5 6 5 0x8)),
    (0x0780C010, 0x05059C04, 0x00000008, .shrr (word 12 4 5 22 2 0x8)),
    (0x07C0C013, 0x14C51C1E, 0x00000000, .mov (word 12 4 788 788 15 0x0)),
    (0x0800CC53, 0x14C51C1E, 0xDEADBEEF, .movi (word 12 788 788 788 15 0xDEADBEEF)),
    (0x08402000, 0x0101DC1E, 0x00000E80, .plop (word 2 0 1 7 15 0xE80))] = true := by decide +kernel
theorem test_decode_float : laneIs [
    (0x1000C010, 0x05C51C10, 0x000001BD, .fadd (word 12 4 5 788 8 0x1BD)),
    (0x1040C010, 0x05C51C14, 0x00000000, .fsub (word 12 4 5 788 10 0x0)),
    (0x1080C010, 0x05C51C16, 0x00000000, .fmul (word 12 4 5 788 11 0x0)),
    (0x10C0A008, 0x03011C10, 0x00000212, .fma (word 10 2 3 4 8 0x212)),
    (0x1100C010, 0x05C51C10, 0x00000000, .fmin (word 12 4 5 788 8 0x0)),
    (0x1140C010, 0x05C51C14, 0x00000000, .fmax (word 12 4 5 788 10 0x0)),
    (0x1180C013, 0x14C51C10, 0x00000000, .fneg (word 12 4 788 788 8 0x0)),
    (0x11C0C01B, 0x14C51C18, 0x00000000, .fabs (word 12 6 788 788 12 0x0)),
    (0x12003010, 0x05C51C10, 0x00000002, .fcmp (word 3 4 5 788 8 0x2)),
    (0x1240C013, 0x14C51C10, 0x00000000, .fclass (word 12 4 788 788 8 0x0)),
    (0x1280C013, 0x14C51C10, 0x00000003, .frnd (word 12 4 788 788 8 0x3)),
    (0x12C0C013, 0x14C51C10, 0x00000000, .frcp (word 12 4 788 788 8 0x0)),
    (0x1300C013, 0x14C51C10, 0x00000000, .frsq (word 12 4 788 788 8 0x0)),
    (0x1340C01B, 0x14C51C18, 0x00000000, .fsqrt (word 12 6 788 788 12 0x0)),
    (0x1380C010, 0x05C51C10, 0x00000008, .fdiv (word 12 4 5 788 8 0x8)),
    (0x13C0C013, 0x14C51C10, 0x00000000, .fexp2 (word 12 4 788 788 8 0x0)),
    (0x1400C013, 0x14C51C10, 0x00000000, .flog2 (word 12 4 788 788 8 0x0)),
    (0x1440C013, 0x14C51C10, 0x00000000, .fsinpi (word 12 4 788 788 8 0x0)),
    (0x1480C013, 0x14C51C10, 0x00000000, .fcospi (word 12 4 788 788 8 0x0)),
    (0x14C0C013, 0x14C51C10, 0x00000000, .ftanh (word 12 4 788 788 8 0x0)),
    (0x1500C013, 0x14C51C10, 0x00000000, .fsigm (word 12 4 788 788 8 0x0)),
    (0x1540C010, 0x05C51C10, 0x00000000, .fcsgn (word 12 4 5 788 8 0x0)),
    (0x2000C013, 0x14C51C10, 0x00000001, .cvt (word 12 4 788 788 8 0x1)),
    (0x2040C050, 0x16C51C1A, 0x00002800, .pack (word 12 20 22 788 13 0x2800)),
    (0x2080C013, 0x14C51C10, 0x0000B400, .unpk (word 12 4 788 788 8 0xB400)),
    (0x20C0C013, 0x14C51C16, 0x00004000, .tw2d (word 12 4 788 788 11 0x4000))] = true := by decide +kernel
theorem test_decode_lane_memory : laneIs [
    (0x2800C008, 0x01C51C04, 0x0AFFFFFC, .ld (word 12 2 1 788 2 0xAFFFFFC)),
    (0x28714008, 0x01009C04, 0x177FFFFF, .st (word 788 2 1 2 2 0x177FFFFF)),
    (0x28808C00, 0x01025C02, 0x0A000000, .atom (word 8 768 1 9 1 0xA000000)),
    (0x28F14C00, 0x01025C10, 0x10028000, .red (word 788 768 1 9 8 0x10028000)),
    (0x29314008, 0x01C51C00, 0x00000040, .pf (word 788 2 1 788 0 0x40)),
    (0x29714008, 0x01C51C00, 0x00000000, .cln (word 788 2 1 788 0 0x0)),
    (0x38009C53, 0x14C51C00, 0x00000000, .tbeg (word 9 788 788 788 0 0x0)),
    (0x38009C53, 0x14C51D00, 0x00000000, .tbeg { word 9 788 788 788 0 0x0 with blk := true }),
    (0x38714C53, 0x14C51C00, 0x00000000, .tend (word 788 788 788 788 0 0x0)),
    (0x38B14013, 0x14C51C00, 0x00000000, .tabt (word 788 4 788 788 0 0x0)),
    (0x38C0CC53, 0x14C51C00, 0x00000000, .tsts (word 12 788 788 788 0 0x0))] = true := by decide +kernel
theorem test_decode_control : laneIs [
    (0x3C314C53, 0x14C50C00, 0xFFFFFFFE, .bra { word 788 788 788 788 0 0xFFFFFFFE with pg := 3 }),
    (0x3C714013, 0x14C51C00, 0x00000000, .brr (word 788 4 788 788 0 0x0)),
    (0x3C80CC53, 0x14C51C00, 0x00000007, .lcall (word 12 788 788 788 0 0x7)),
    (0x3CF14C53, 0x14C51C00, 0x00000000, .lend (word 788 788 788 788 0 0x0)),
    (0x3D00CC53, 0x14C51C00, 0x00000003, .lidx (word 12 788 788 788 0 0x3)),
    (0x3D40CC53, 0x14C51C00, 0x00000001, .lshb (word 12 788 788 788 0 0x1)),
    (0x3D80CC53, 0x14C51C00, 0x00000002, .lvote (word 12 788 788 788 0 0x2)),
    (0x3DC040A3, 0x14C51C00, 0x00000001, .xissue (word 4 40 788 788 0 0x1)),
    (0x3E314013, 0x14C51C00, 0x00000000, .lfmt (word 788 4 788 788 0 0x0)),
    (0x3E40CC53, 0x14C51C00, 0x00000000, .rdflg (word 12 788 788 788 0 0x0)),
    (0x3EB14013, 0x14C51C00, 0x00000000, .clrflg (word 788 4 788 788 0 0x0)),
    (0x3EF14C53, 0x14C51C00, 0x00000000, .lnop (word 788 788 788 788 0 0x0)),
    (0x3F314010, 0x05C51C00, 0x00000000, .ltrap (word 788 4 5 788 0 0x0)),
    (0x4400A02F, 0x14C51C00, 0x00000003, .accrd (word 10 11 788 788 0 0x3)),
    (0x44714010, 0x05C51C00, 0x0000001F, .accwr (word 788 4 5 788 0 0x1F)),
    (0x4800C010, 0x05C51C00, 0x00000000, .bperm (word 12 4 5 788 0 0x0))] = true := by decide +kernel

/-- Words that the map does not assign, and words with a nonzero reserved field (R89, R90). -/
def refusedWith (e : DecodeError) (ps : List (Nat × Nat)) : Bool :=
  ps.all fun p => match decodeScalar p.1 (some p.2) with
    | .error x => x == e
    | .ok _ => false
theorem test_decode_refuses :
    refusedWith .unassigned [(0, 0), (0x02000000 + 28, 0), (0x04000000 + 7, 0), (0x06000000, 0), (0x30000000, 8 * 2 ^ 16), (0x4C000002, 0),
        (0x7A000010, 0), (0x80000009, 0), (0x8C00000C, 0), (0x90000008, 0), (0xA4000002, 0), (0xB8000004, 0), (0xE0010000, 0),
        (0xE6000002, 0), (0xE6000401, 0), (0xE6000060, 0)] ∧
      refusedWith .reserved [(0x40008000, 0), (0x4C000020, 0), (0x60000001, 0), (0x70000004, 0), (0x78000202, 0), (0x7A008000, 0),
        (0x7C004000, 0), (0x82000001, 0), (0x8C000010, 0), (0x92000020, 0), (0xA0000000, 1), (0xA2000001, 0), (0xA4000008, 0),
        (0xA4000000, 3 * 2 ^ 21 + 2 ^ 22), (0xA6000010, 0), (0xA8000000, 2 ^ 8), (0xAA000040, 0), (0xAE000000, 2), (0xB0000000, 2 ^ 13),
        (0xB2000000, 64), (0xB4000010, 0), (0xB6000000, 1), (0xB8000002, 16), (0xBA000000, 1), (0xBC000001, 0), (0xE0008001, 0),
        (0xE2000001, 0), (0xEC000020, 0)] := by decide +kernel
theorem test_decode_short :
    [0x30000000, 0x80000000, 0x8C000000, 0x90000000, 0xA0000000, 0xBC000000, 0xFE000001].all (fun w =>
      match decodeScalar w none with
      | .error .short => true
      | _ => false) = true := by decide +kernel
def laneRefused (e : DecodeError) (vs : List Nat) : Bool :=
  vs.all fun v => match decodeLane v with
    | .error x => x == e
    | .ok _ => false
theorem test_decode_refuses_lane :
    laneRefused .unassigned [0, mkLane 0x3FF (word 12 4 5 788 0 0), mkLane 0x001 (word 12 4 5 788 8 0), mkLane 0x0A2 (word 12 4 5 6 2 0)] ∧
      laneRefused .reserved [mkLane 0x001 (word 12 4 5 788 0 0) + 2 ^ 32, mkLane 0x001 { word 12 4 5 788 0 0 with pg := 15 },
        mkLane 0x001 (word 12 4 5 788 0 1), mkLane 0x0A0 (word 12 4 5 788 2 (2 * 2 ^ 27)), mkLane 0x0F3 (word 788 788 788 788 0 1)] := by
  decide +kernel

/-! ## Ill-formed terms -/

theorem test_illFormed_scalar :
    [Instr.sadd 1024 70, .sadd 70 1024, .sli 70 16384, .sli 70 (-16385), .sxt (2 ^ 25) 0, .sxt 0 (2 ^ 32), .sld 70 72 32, .sld 70 72 (-1),
      .satom 70 72 32 0 0 0 70, .satom 70 72 0 3 0 0 70, .satom 70 72 0 0 3 0 70, .satom 70 72 0 0 8 7 70, .satom 70 72 0 0 0 0 1024,
      .sbr 16384, .sbz 1024 0, .sjr 1024, .sidx 70 4, .smapq 70 32, .srgnb 4, .sbar 4 0, .sbar 0 16, .sirb 16384, .sirc 70 16384,
      .lrun 80 100 9 0, .lrun 80 100 0 (2 ^ 32), .sshare 0 70 32, .scoll 0 0 4 0, .scoll 0 0 0 8, .sslide 0 0 4 0 70 0,
      .sslide 0 0 0 3 70 0, .sslide 0 0 0 0 1024 0, .sslide 0 0 0 0 70 32768, .sslide 0 0 0 0 70 (-32769), .sbcast 0 0 4 70,
      .sbcast 0 0 0 1024, .spawn 80 100 0 0, .spawn 80 100 9 0, .spawn 80 100 1 (2 ^ 32)].all (fun i => !i.wf) = true := by
  decide +kernel
theorem test_illFormed_engines :
    [Instr.scpy 80 88 false 1, .scpy 80 88 true 1024, .ssig 70 72 2 false false 0 80, .ssig 70 72 0 false true 1 80,
      .ssig 70 72 0 false false 1024 80, .ssig 70 72 0 false false 0 1024, .sthd 80 88 16, .smma 88 96 1024 false false false 0,
      .smma 88 96 80 false false false 32, .smacq false 32, .smrel true 32, .smld 70 72 32 80 0 false false, .smld 70 72 0 1024 0 false false,
      .smld 70 72 0 80 128 false false, .smst 70 72 0 80 (-129) false, .sscan 80 88 16 true true, .sscw 80 16, .sacc 80 88 4,
      .sbankScr 80 16, .sbankFifo 80 1024 0, .sbankRel 1024 0, .sbankTake 80 1 false 0, .sarm 80 88 65536 0, .sarm 80 88 0 65536,
      .strap 16384, .scsrR 70 2, .scsrW 70 32].all (fun i => !i.wf) = true := by decide +kernel
theorem test_illFormed_lane :
    [Instr.add (word 1024 4 5 788 0 0), .add (word 12 1024 5 788 0 0), .add (word 12 4 1024 788 0 0), .add (word 12 4 5 1024 0 0),
      .add { word 12 4 5 788 0 0 with pg := 16 }, .add { word 12 4 5 788 0 0 with pg := 15 }, .add { word 12 4 5 788 0 0 with e := 8 },
      .add (word 12 4 5 788 16 0), .add (word 12 4 5 788 0 (2 ^ 32)), .add (word 12 4 5 788 8 0), .add (word 12 4 5 788 0 1),
      .fadd { word 12 4 5 788 8 5 with u := true }, .lend { word 788 788 788 788 0 0 with pg := 3 }].all (fun i => !i.wf) = true := by
  decide +kernel

/-! ## Steps -/

theorem test_DecodeEncodeRoundTrip :
    [Instr.sadd 1023 0, .satom 1023 0 31 2 7 15 1023, .sslide 1023 0 3 2 1023 (-32768), .sxt (2 ^ 25 - 1) (2 ^ 32 - 1),
      .smld 0 1023 31 1023 (-128) true true, .add { word 1023 0 788 1023 7 0 with pg := 14, u := true, blk := true, e := 7 }].all (fun i =>
        i.wf && decide (encode i ≠ []) && (decodeWords i.isLane (encode i)).toOption == some i) = true := by decide +kernel

/-- A device with one turn decided and some code. -/
def stAgenda (a : List Turn) (e : Env) (sh : Shuttle) : State :=
  let s := scene e sh
  { s with agenda := a }
def envCode (ws : List Nat) : Env := envOf [] ws [mkLane 0x0FB (word 788 788 788 788 0 0)]
def issued (s : State) (sh : Shuttle) (e : Env) : Bool := decide (s.dev.issuer 3 = some (sh, e))
theorem test_StepRunsDecoded_scalar :
    let one := stAgenda [.scalar 3] (envCode [0x08230004]) (shuttleWith [])
    let two := stAgenda [.scalar 3] (envCode [0x30280800, 0x1C54]) (shuttleWith [])
    let pre := stAgenda [.scalar 3] (envCode [0xFE0000C0, 0x08240000]) (shuttleWith [])
    issued one (shuttleWith []) (envCode [0x08230004]) ∧ issued two (shuttleWith []) (envCode [0x30280800, 0x1C54]) ∧
      issued pre (shuttleWith []) (envCode [0xFE0000C0, 0x08240000]) ∧
      (decodeScalar 0x08230004 none).toOption = some (.sli 70 4) ∧
      (decodeScalar 0x30280800 (some 0x1C54)).toOption = some (.satom 80 64 0 0 0 7 84) ∧
      (decodeScalar 0xFE0000C0 (some 0x08240000)).toOption = some (.sxt 0xC0 0x08240000) ∧ opOf 0x08230004 ≠ 0x7F ∧
      twoWords (opOf 0x08230004) = false ∧ twoWords (opOf 0x30280800) = true ∧ opOf 0xFE0000C0 = 0x7F ∧
      (match step one with
        | .next t => shIs t fun h => h.sval 70 == 4 && h.pc == 1
        | _ => false) = true ∧
      (match step pre with
        | .next t => shIs t fun h => h.sval 72 == 0x00600000 && h.pc == 2
        | _ => false) = true := by decide +kernel
/-- Whether a step at a state whose one turn is decided executes `unassignedOpcode` with a SUB. -/
def stepRefuses (s : State) (lane : Bool) (first pc next sub : Nat) (words : List Nat) : Bool :=
  match step s, endIssue (exec (.unassignedOpcode sub) ({ s.ticked with agenda := [] }.issuing
    { sh := 3, lane := lane, first := first, pc := pc, next := next, words := words })) with
  | .next t, .next u => decide (t = u)
  | _, _ => false
theorem test_StepRunsDecoded_refused :
    let runs := fun (ws : List Nat) (sh : Shuttle) => stAgenda [.scalar 3] (envCode ws) sh
    let jumped := { shuttleWith [] with pc := 1, branchFrom := some (0, 0x08230004) }
    issued (runs [0] (shuttleWith [])) (shuttleWith []) (envCode [0]) ∧
      issued (runs [0x41FFFFFF] (shuttleWith [])) (shuttleWith []) (envCode [0x41FFFFFF]) ∧
      issued (runs [0x30280800] (shuttleWith [])) (shuttleWith []) (envCode [0x30280800]) ∧
      issued (runs [0x08230004] jumped) jumped (envCode [0x08230004]) ∧
      decodeScalar 0 none = .error .unassigned ∧ decodeScalar 0x41FFFFFF none = .error .reserved ∧
      stepRefuses (runs [0] (shuttleWith [])) false 0 0 1 0 [0] ∧
      stepRefuses (runs [0x41FFFFFF] (shuttleWith [])) false 0 0 1 1 [0x41FFFFFF] ∧
      stepRefuses (runs [0x30280800] (shuttleWith [])) false 0 0 1 0 [0x30280800] ∧
      stepRefuses (runs [0x08230004] jumped) false 0 1 2 0 [0x08230004] := by decide +kernel
def shLaneStep : Shuttle := { sh4 with id := 3 }
theorem test_StepRunsDecoded_lane :
    let s := stAgenda [.lane 3] (envCode [0xEA000000]) shLaneStep
    issued s shLaneStep (envCode [0xEA000000]) ∧ shLaneStep.running = true ∧ shLaneStep.laneSuspended = false ∧
      shLaneStep.current = some entryTwo ∧
      (decodeLane (mkLane 0x0FB (word 788 788 788 788 0 0))).toOption = some (.lnop (word 788 788 788 788 0 0)) ∧
      (match step s with
        | .next t => shIs t fun h => h.frontier == [Entry.start 1 [0, 1] 0]
        | _ => false) = true := by decide +kernel
/-- A lane word that no opcode has, one with a reserved bit, and none. -/
theorem test_StepRunsDecoded_laneRefused :
    let good := mkLane 0x0FB (word 788 788 788 788 0 0)
    let runs := fun (lcode : List Nat) => stAgenda [.lane 3] (envOf [] [0xEA000000] lcode) shLaneStep
    (∀ lcode ∈ [[0], [good ^^^ 1], []], issued (runs lcode) shLaneStep (envOf [] [0xEA000000] lcode)) ∧
      decodeLane 0 = .error .unassigned ∧ decodeLane (good ^^^ 1) = .error .reserved ∧
      stepRefuses (runs [0]) true 0 0 1 0 (laneParts 0) ∧ stepRefuses (runs [good ^^^ 1]) true 0 0 1 1 (laneParts (good ^^^ 1)) ∧
      stepRefuses (runs []) true 0 0 1 0 [] := by decide +kernel
theorem test_StepRunsDecoded_event :
    let s := stAgenda [.event .reevaluationTick] env0 sh0
    let free := stAgenda [] env0 sh0
    ofStream .reevaluationTick = false ∧ s.agenda = [.event .reevaluationTick] ∧ free.agenda = [] ∧ free.ticked.turns ≠ [] ∧
      State.reset.agenda = [] ∧ State.reset.ticked.turns = [] ∧
      (match step s with
        | .next t => t.agenda == []
        | _ => false) = true := by decide +kernel
theorem test_withFetchWord :
    (match step (State.reset.withFetchWord 32 0x08230004) with
      | .next t => t.dev.shuttles.any fun h => h.sval 70 == 4 && h.pc == 1
      | _ => false) = true := by decide +kernel

/-- The invariants hold of a state with a step. -/
theorem test_Invariants :
    let s := stAgenda [.scalar 3] (envCode [0x08230004]) (shuttleWith [])
    s.Quiet ∧ s.MemLegal ∧ s.PowerLegal ∧ s.ComplexLegal ∧
      (match step s with
        | .next _ => true
        | _ => false) = true := by
  unfold State.Quiet State.MemLegal State.PowerLegal State.ComplexLegal
  decide +kernel
end Sys2Proof.Tests
end

section
/-!
PROOF. How a scalar form is illegal, waits or consumes poison: the checks of R100 on what the form uses.
-/
namespace Sys2Proof.Machine

/-! ## Forms that act on the registers of their shuttle -/

/-- The instruction acts on the registers of its shuttle only, and uses what `u` says. -/
def RunsWith (i : Instr) (u : ScalarUse) : Prop := ∃ f, ∀ s, exec i s = scalarReg u f s

theorem scalarTrapOf_poison (d : Dev) (is : Issue) (sh : Shuttle) (env : Env) :
    d.scalarTrapOf is sh env 0x13 0 =
      d.terminate sh 1 0x13 0 0 (trapWords (scalarTrap is sh 0x13 0) (sh.traps + 1)) [] 0 := by
  unfold Dev.scalarTrapOf
  rw [trap_terminating _ _ _ _ _ _ (by simp [scalarTrap])]
  rfl

section
variable {s : State} {is : Issue} {sh : Shuttle} {env : Env} {i : Instr} {u : ScalarUse} {sub : Nat}

theorem RunsWith.endsTeam (hi : RunsWith i u) (h : s.AtIssue is sh env) (hu : u.illegal env.nest.ns = some sub) :
    EndsTeam i s is sh sub := by
  obtain ⟨f, hf⟩ := hi
  rw [EndsTeam, hf, scalarReg, onIssue_eq h, scalarGo_illegal hu, scalarTrapOf_illegal]

theorem RunsWith.waits (hi : RunsWith i u) (h : s.AtIssue is sh env) (hu : u.illegal env.nest.ns = none)
    (hr : u.ready sh = false) : Waits i s := by
  obtain ⟨f, hf⟩ := hi
  rw [Waits, hf, scalarReg_waits h hu hr]

theorem RunsWith.endsByPoison (hi : RunsWith i u) (h : s.AtIssue is sh env) (hu : u.illegal env.nest.ns = none)
    (hr : u.ready sh = true) (hb : u.broken sh = true) : EndsByPoison i s is sh := by
  obtain ⟨f, hf⟩ := hi
  rw [EndsByPoison, hf, scalarReg, onIssue_eq h, scalarGo_broken hu hr hb, scalarTrapOf_poison]

end

/-! ## The checks of R100, in their order -/

namespace ScalarUse
variable {u : ScalarUse} {ns n : Nat}

theorem illegal_sub0 (h0 : u.sub0 = true) : u.illegal ns = some 0 := by simp [illegal, h0]

theorem illegal_sub1 (h0 : u.sub0 = false) (h1 : u.sub1 = true) : u.illegal ns = some 1 := by simp [illegal, h0, h1]

theorem illegal_sub4 (h0 : u.sub0 = false) (h1 : u.sub1 = false) (h4 : u.sub4 = true) : u.illegal ns = some 4 := by
  simp [illegal, h0, h1, h4]

theorem illegal_low (h0 : u.sub0 = false) (h1 : u.sub1 = false) (hd : n ∈ u.dests) (hn : n < 64) :
    u.illegal ns = some 4 := by
  have : u.dests.any (fun n => decide (n < 64)) = true := List.any_eq_true.2 ⟨n, hd, by simpa using hn⟩
  simp [illegal, h0, h1, this]

theorem dests_high (hd : ∀ m ∈ u.dests, 64 ≤ m) : u.dests.any (fun n => decide (n < 64)) = false :=
  List.any_eq_false.2 fun m hm => by simpa using hd m hm

theorem illegal_unnamed (h0 : u.sub0 = false) (h1 : u.sub1 = false) (h4 : u.sub4 = false) (hd : ∀ m ∈ u.dests, 64 ≤ m)
    (hm : n ∈ u.names) (hn : nameable ns n = false) : u.illegal ns = some 2 := by
  have : u.names.any (fun n => !nameable ns n) = true := List.any_eq_true.2 ⟨n, hm, by simp [hn]⟩
  simp [illegal, h0, h1, h4, dests_high hd, this]

theorem names_nameable (hn : ∀ m ∈ u.names, nameable ns m = true) : u.names.any (fun n => !nameable ns n) = false :=
  List.any_eq_false.2 fun m hm => by simp [hn m hm]

theorem illegal_odd (h0 : u.sub0 = false) (h1 : u.sub1 = false) (h4 : u.sub4 = false) (h2 : u.sub2 = false)
    (hd : ∀ m ∈ u.dests, 64 ≤ m) (hn : ∀ m ∈ u.names, nameable ns m = true) {p : Nat × Nat} (hp : p ∈ u.aligned)
    (ho : p.1 % p.2 ≠ 0) : u.illegal ns = some 3 := by
  have : u.aligned.any (fun p => p.1 % p.2 != 0) = true := List.any_eq_true.2 ⟨p, hp, by simpa using ho⟩
  simp [illegal, h0, h1, h2, h4, dests_high hd, names_nameable hn, this]

theorem illegal_none (h0 : u.sub0 = false) (h1 : u.sub1 = false) (h4 : u.sub4 = false) (h2 : u.sub2 = false)
    (hd : ∀ m ∈ u.dests, 64 ≤ m) (hn : ∀ m ∈ u.names, nameable ns m = true) (ha : ∀ p ∈ u.aligned, p.1 % p.2 = 0) :
    u.illegal ns = none := by
  have : u.aligned.any (fun p => p.1 % p.2 != 0) = false := List.any_eq_false.2 fun p hp => by simpa using ha p hp
  simp [illegal, h0, h1, h2, h4, dests_high hd, names_nameable hn, this]

theorem not_ready_of_read {s : Shuttle} (hn : n ∈ u.reads) (h : (s.sreg n).present = false) : u.ready s = false := by
  have : u.reads.all (fun n => (s.sreg n).present) = false := List.all_eq_false.2 ⟨n, hn, by simp [h]⟩
  simp [ready, this]

theorem not_ready_of_write {s : Shuttle} (hn : n ∈ u.writes) (h : (s.sreg n).isPending = true) : u.ready s = false := by
  have : u.writes.all (fun n => !(s.sreg n).isPending) = false := List.all_eq_false.2 ⟨n, hn, by simp [h]⟩
  simp [ready, this]

theorem broken_of_read {s : Shuttle} (hn : n ∈ u.reads) (h : s.sreg n = .bad) : u.broken s = true :=
  List.any_eq_true.2 ⟨n, hn, by simp [h, RegCell.isBad]⟩

end ScalarUse

theorem RegCell.not_pending_of_present {c : RegCell} (h : c.present = true) : c.isPending = false := by
  cases c <;> simp_all [RegCell.present, RegCell.isFull, RegCell.isBad, RegCell.isPending]

/-! ## What the forms use -/

/-- The use of the form of one destination sX: no check of its own, and no pair. -/
structure ScalarUse.WritesOne (u : ScalarUse) (x : Nat) : Prop where
  sub0 : u.sub0 = false
  sub1 : u.sub1 = false
  sub2 : u.sub2 = false
  dests : u.dests = [x]
  named : x ∈ u.names
  aligned : u.aligned = []
  writes : u.writes = [x]

/-- The use of `sfet` (R119). -/
def useSfet (x y : Nat) : ScalarUse := { sub4 := x == y, dests := [x], names := [x, y], writes := [x] }

theorem useSfet_sub4 {x y : Nat} (h : Instr.sfet x y ≠ .sfet x x) : (useSfet x y).sub4 = false :=
  beq_eq_false_iff_ne.2 fun e => h (by rw [e])

theorem twoRegisterForms_runWith (x y : Nat) : ∀ i ∈ twoRegisterForms x y, RunsWith i (useXY x y) := by
  simp only [twoRegisterForms, List.forall_mem_cons]
  refine ⟨?_, ?_, ?_, ?_, ?_, ?_, ?_, ?_, ?_, ?_, ?_, ?_, ?_, ?_, ?_, ?_, ?_, ?_, ?_, ?_, ?_, ?_, by simp⟩ <;>
    exact ⟨_, fun _ => rfl⟩

theorem unaryForms_runWith (x y : Nat) :
    ∀ i ∈ ([.smov x y, .snot x y, .sclz x y, .spopc x y, .sbrev x y, .sneg x y, .sjrL x y] : List Instr),
      RunsWith i (useY x y) := by
  simp only [List.forall_mem_cons]
  refine ⟨?_, ?_, ?_, ?_, ?_, ?_, ?_, by simp⟩ <;> exact ⟨_, fun _ => rfl⟩

theorem immediateForms_runWith (x : Nat) (imm : Int) :
    ∀ i ∈ ([.saddi x imm, .sandi x imm, .sori x imm, .sxori x imm, .ssltiu x imm, .sloop x imm] : List Instr),
      RunsWith i (useX x) := by
  simp only [List.forall_mem_cons]
  refine ⟨?_, ?_, ?_, ?_, ?_, ?_, by simp⟩ <;> exact ⟨_, fun _ => rfl⟩

theorem destinationOnlyForms_runWith (x : Nat) (imm : Int) :
    ∀ i ∈ ([.sli x imm, .scall x imm, .sempt x] : List Instr), RunsWith i (useNone x) := by
  simp only [List.forall_mem_cons]
  refine ⟨?_, ?_, ?_, by simp⟩ <;> exact ⟨_, fun _ => rfl⟩

theorem testForms_runWith (x : Nat) (imm : Int) :
    ∀ i ∈ ([.sbz x imm, .sbnz x imm, .sblz x imm, .sbgez x imm, .sjr x, .swfull x] : List Instr),
      RunsWith i (useTest x) := by
  simp only [List.forall_mem_cons]
  refine ⟨?_, ?_, ?_, ?_, ?_, ?_, by simp⟩ <;> exact ⟨_, fun _ => rfl⟩

theorem shiftForms_runWith (x : Nat) (imm : Int) :
    ∀ i ∈ ([.sshli x imm, .sshri x imm, .ssrai x imm] : List Instr), RunsWith i (useShift x imm) := by
  simp only [List.forall_mem_cons]
  refine ⟨?_, ?_, ?_, by simp⟩ <;> exact ⟨_, fun _ => rfl⟩

theorem sfet_runsWith (x y : Nat) : RunsWith (.sfet x y) (useSfet x y) := ⟨_, fun _ => rfl⟩

theorem pairForms_runWith (x y : Nat) :
    ∀ i ∈ pairForms x y, ∃ r, RunsWith i { useXY64 x y with reads := r } := by
  simp only [pairForms, List.forall_mem_cons]
  refine ⟨?_, ?_, ?_, ?_, ?_, ?_, ?_, by simp⟩ <;> exact ⟨_, _, fun _ => rfl⟩

theorem pairImmediateForms_runWith (x : Nat) (imm : Int) :
    ∀ i ∈ ([.sli64 x imm, .saddi64 x imm] : List Instr), ∃ r, RunsWith i { useX64 x with reads := r } := by
  simp only [List.forall_mem_cons]
  refine ⟨?_, ?_, by simp⟩ <;> exact ⟨_, _, fun _ => rfl⟩

theorem useXY_writesOne (x y : Nat) : (useXY x y).WritesOne x := by constructor <;> simp [useXY]
theorem useY_writesOne (x y : Nat) : (useY x y).WritesOne x := by constructor <;> simp [useY]
theorem useX_writesOne (x : Nat) : (useX x).WritesOne x := by constructor <;> simp [useX]
theorem useNone_writesOne (x : Nat) : (useNone x).WritesOne x := by constructor <;> simp [useNone]
theorem useSfet_writesOne (x y : Nat) : (useSfet x y).WritesOne x := by constructor <;> simp [useSfet]

/-- The forms that write sX and read or test sY. -/
theorem writesXreadsY_use (x y : Nat) :
    ∀ i ∈ writesXreadsY x y ++ [.sjrL x y], ∃ u, RunsWith i u ∧ u.WritesOne x ∧ u.sub4 = false ∧
      u.names = [x, y] ∧ y ∈ u.reads ∧ ∀ r ∈ u.reads, r = x ∨ r = y := by
  intro i hi
  rw [writesXreadsY, List.append_assoc, List.mem_append] at hi
  rcases hi with hi | hi
  · exact ⟨_, twoRegisterForms_runWith x y i hi, useXY_writesOne x y, rfl, rfl, by simp [useXY], by simp [useXY]⟩
  · exact ⟨_, unaryForms_runWith x y i hi, useY_writesOne x y, rfl, rfl, by simp [useY], by simp [useY]⟩

/-- The forms of one destination. -/
theorem oneDestination_use (x y : Nat) (imm : Int) :
    ∀ i ∈ writesXreadsY x y ++ writesX x imm ++ [.sfet x y, .sempt x, .scall x imm, .sloop x imm, .sjrL x y],
      ∃ u, RunsWith i u ∧ u.WritesOne x ∧ (i ≠ .sfet x x → u.sub4 = false) := by
  have plain : ∀ {i : Instr} {u : ScalarUse}, RunsWith i u → u.WritesOne x → u.sub4 = false →
      ∃ u, RunsWith i u ∧ u.WritesOne x ∧ (i ≠ .sfet x x → u.sub4 = false) :=
    fun hr hw h4 => ⟨_, hr, hw, fun _ => h4⟩
  intro i hi
  simp only [writesX, List.mem_append, List.mem_cons, List.not_mem_nil, or_false] at hi
  rcases hi with (hi | rfl | rfl | rfl | rfl | rfl | rfl) | rfl | rfl | rfl | rfl | rfl
  · obtain ⟨u, hr, hw, h4, -⟩ := writesXreadsY_use x y i (List.mem_append_left _ hi)
    exact plain hr hw h4
  · exact plain (destinationOnlyForms_runWith x imm _ (by simp)) (useNone_writesOne x) rfl
  · exact plain (immediateForms_runWith x imm _ (by simp)) (useX_writesOne x) rfl
  · exact plain (immediateForms_runWith x imm _ (by simp)) (useX_writesOne x) rfl
  · exact plain (immediateForms_runWith x imm _ (by simp)) (useX_writesOne x) rfl
  · exact plain (immediateForms_runWith x imm _ (by simp)) (useX_writesOne x) rfl
  · exact plain (immediateForms_runWith x imm _ (by simp)) (useX_writesOne x) rfl
  · exact ⟨_, sfet_runsWith x y, useSfet_writesOne x y, useSfet_sub4⟩
  · exact plain (destinationOnlyForms_runWith x imm _ (by simp)) (useNone_writesOne x) rfl
  · exact plain (destinationOnlyForms_runWith x imm _ (by simp)) (useNone_writesOne x) rfl
  · exact plain (immediateForms_runWith x imm _ (by simp)) (useX_writesOne x) rfl
  · exact plain (unaryForms_runWith x y _ (by simp)) (useY_writesOne x y) rfl

/-- The use of a form on the pair at X, which may be odd, and on others. -/
structure ScalarUse.WritesPair (u : ScalarUse) (x y : Nat) : Prop where
  sub0 : u.sub0 = false
  sub1 : u.sub1 = false
  sub4 : u.sub4 = false
  sub2 : u.sub2 = false
  dests : u.dests = [x]
  even : (x, 2) ∈ u.aligned
  named : ∀ r ∈ u.names, r ∈ [x, x + 1, y, y + 1]

theorem regRange_two (x : Nat) : regRange x 2 = [x, x + 1] := by simp [regRange, List.range_succ]

theorem useXY64_writesPair (x y : Nat) (r : List Nat) : { useXY64 x y with reads := r }.WritesPair x y := by
  constructor <;> simp [useXY64, regRange_two]

theorem useX64_writesPair (x y : Nat) (r : List Nat) : { useX64 x with reads := r }.WritesPair x y := by
  constructor <;> simp +contextual [useX64, regRange_two, or_imp]

theorem pairDestination_use (x y : Nat) (imm : Int) :
    ∀ i ∈ pairForms x y ++ [.sli64 x imm, .saddi64 x imm], ∃ u, RunsWith i u ∧ u.WritesPair x y := by
  intro i hi
  rcases List.mem_append.1 hi with hi | hi
  · obtain ⟨r, hr⟩ := pairForms_runWith x y i hi
    exact ⟨_, hr, useXY64_writesPair x y r⟩
  · obtain ⟨r, hr⟩ := pairImmediateForms_runWith x imm i hi
    exact ⟨_, hr, useX64_writesPair x y r⟩

/-! ## The obligation -/

namespace ScalarUse
variable {u : ScalarUse} {ns x y : Nat}

theorem WritesOne.dests_high (hu : u.WritesOne x) (hx : 64 ≤ x) : ∀ m ∈ u.dests, 64 ≤ m := by
  simpa [hu.dests] using hx

theorem WritesOne.legal (hu : u.WritesOne x) (h4 : u.sub4 = false) (hx : 64 ≤ x)
    (hn : ∀ r ∈ u.names, nameable ns r = true) : u.illegal ns = none :=
  illegal_none hu.sub0 hu.sub1 h4 hu.sub2 (hu.dests_high hx) hn (by simp [hu.aligned])

theorem WritesPair.illegal_odd (hu : u.WritesPair x y) (hx : 64 ≤ x)
    (hn : ∀ r ∈ [x, x + 1, y, y + 1], nameable ns r = true) {z : Nat} (hz : (z, 2) ∈ u.aligned) (ho : z % 2 = 1) :
    u.illegal ns = some 3 :=
  ScalarUse.illegal_odd hu.sub0 hu.sub1 hu.sub4 hu.sub2 (by simpa [hu.dests] using hx) (fun r hr => hn r (hu.named r hr)) hz
    (by simp [ho])

/-- Registers with broken parity are waited for no longer than full ones (R430). -/
theorem ready_of_present {s : Shuttle} (hr : ∀ r ∈ u.reads, (s.sreg r).present = true)
    (hw : ∀ r ∈ u.writes, (s.sreg r).isPending = false) : u.ready s = true := by
  rw [ready, List.all_eq_true.2 hr, List.all_eq_true.2 fun r h => by simp [hw r h], Bool.and_self]

end ScalarUse

theorem RegCell.present_bad : RegCell.present .bad = true := rfl

/-- The form reads sX, and of other registers at most sY; it has no destination but sX. -/
structure ScalarUse.ReadsX (u : ScalarUse) (x y : Nat) : Prop where
  reads : x ∈ u.reads
  others : ∀ r ∈ u.reads, r = x ∨ r = y
  writes : ∀ r ∈ u.writes, r = x
  legal : ∀ ns, 64 ≤ x → nameable ns x = true → nameable ns y = true → u.illegal ns = none

theorem readsX_use (x y : Nat) (imm : Int) :
    ∀ i ∈ twoRegisterForms x y ++ [.saddi x imm, .sandi x imm, .sori x imm, .sxori x imm, .ssltiu x imm, .sloop x imm,
      .sbz x imm, .sbnz x imm, .sblz x imm, .sbgez x imm, .sjr x, .swfull x], ∃ u, RunsWith i u ∧ u.ReadsX x y := by
  intro i hi
  have split : i ∈ twoRegisterForms x y ∨
      i ∈ ([.saddi x imm, .sandi x imm, .sori x imm, .sxori x imm, .ssltiu x imm, .sloop x imm] : List Instr) ∨
      i ∈ ([.sbz x imm, .sbnz x imm, .sblz x imm, .sbgez x imm, .sjr x, .swfull x] : List Instr) := by
    rcases List.mem_append.1 hi with hi | hi
    · exact .inl hi
    · exact .inr (List.mem_append.1 hi)
  rcases split with hi | hi | hi
  · exact ⟨_, twoRegisterForms_runWith x y i hi, by simp [useXY], by simp [useXY], by simp [useXY],
      fun ns hx nx ny => (useXY_writesOne x y).legal rfl hx (by simp [useXY, nx, ny])⟩
  · exact ⟨_, immediateForms_runWith x imm i hi, by simp [useX], by simp [useX], by simp [useX],
      fun ns hx nx ny => (useX_writesOne x).legal rfl hx (by simp [useX, nx])⟩
  · exact ⟨_, testForms_runWith x imm i hi, by simp [useTest], by simp [useTest], by simp [useTest],
      fun ns hx nx ny => ScalarUse.illegal_none rfl rfl rfl rfl (by simp [useTest]) (by simp [useTest, nx]) (by simp [useTest])⟩

/-- The forms that write sX and do not read it. -/
theorem writesNotReads_use (x y : Nat) (imm : Int) :
    ∀ i ∈ ([.sli x imm, .scall x imm, .sfet x y, .sempt x] : List Instr), i ≠ .sfet x x →
      ∃ u, RunsWith i u ∧ u.WritesOne x ∧ u.sub4 = false ∧ ∀ r ∈ u.names, r = x ∨ r = y := by
  intro i hi hne
  simp only [List.mem_cons, List.not_mem_nil, or_false] at hi
  have dest : ∀ i ∈ ([.sli x imm, .scall x imm, .sempt x] : List Instr),
      ∃ u, RunsWith i u ∧ u.WritesOne x ∧ u.sub4 = false ∧ ∀ r ∈ u.names, r = x ∨ r = y := fun i hi =>
    ⟨_, destinationOnlyForms_runWith x imm i hi, useNone_writesOne x, rfl, by simp [useNone]⟩
  rcases hi with rfl | rfl | rfl | rfl
  · exact dest _ (by simp)
  · exact dest _ (by simp)
  · exact ⟨_, sfet_runsWith x y, useSfet_writesOne x y, useSfet_sub4 hne, by simp [useSfet]⟩
  · exact dest _ (by simp)

/-- Settles O13: what a form uses decides which check it fails, whether it waits and whether it consumes poison. -/
theorem illegalAndWaitingForms : Obligations.IllegalAndWaitingForms := by
  refine ⟨fun s is sh env x y imm h => ⟨?_, ?_, ?_, ?_, ?_, ?_, ?_⟩, fun s is sh env x y imm h hx nx ny => ⟨?_, ?_, ?_⟩⟩
  · intro i hi
    obtain ⟨u, hr, hu, h4⟩ := oneDestination_use x y imm i hi
    exact ⟨fun hx => hr.endsTeam h (ScalarUse.illegal_low hu.sub0 hu.sub1 (by simp [hu.dests]) hx),
      fun hx hn hne => hr.endsTeam h (ScalarUse.illegal_unnamed hu.sub0 hu.sub1 (h4 hne) (hu.dests_high hx) hu.named hn)⟩
  · intro i hi hx hn hne
    have unnamed : ∀ {u}, RunsWith i u → u.WritesOne x → u.sub4 = false → y ∈ u.names → EndsTeam i s is sh 2 :=
      fun hr hu h4 hy => hr.endsTeam h (ScalarUse.illegal_unnamed hu.sub0 hu.sub1 h4 (hu.dests_high hx) hy hn)
    by_cases hf : i = .sfet x y
    · subst hf
      exact unnamed (sfet_runsWith x y) (useSfet_writesOne x y) (useSfet_sub4 hne) (by simp [useSfet])
    · obtain ⟨u, hr, hu, h4, hnames, -⟩ := writesXreadsY_use x y i (by simpa [hf] using hi)
      exact unnamed hr hu h4 (by simp [hnames])
  · intro i hi hn
    exact (testForms_runWith x imm i hi).endsTeam h
      (ScalarUse.illegal_unnamed rfl rfl rfl (by simp [useTest]) (by simp [useTest]) hn)
  · exact (sfet_runsWith x x).endsTeam h (ScalarUse.illegal_sub4 rfl rfl (by simp [useSfet]))
  · intro i hi
    obtain ⟨u, hr, hu⟩ := pairDestination_use x y imm i hi
    exact ⟨fun hx => hr.endsTeam h (ScalarUse.illegal_low hu.sub0 hu.sub1 (by simp [hu.dests]) hx),
      fun hx ho hn => hr.endsTeam h (hu.illegal_odd hx hn hu.even ho)⟩
  · intro i hi hx ho hn
    obtain ⟨r, hr⟩ := pairForms_runWith x y i hi
    exact hr.endsTeam h ((useXY64_writesPair x y r).illegal_odd hx hn (by simp [useXY64]) ho)
  · intro i hi
    have hr := shiftForms_runWith x imm i hi
    refine ⟨fun ho => hr.endsTeam h (ScalarUse.illegal_sub1 rfl ?_), fun h0 h1 hx => hr.endsTeam h ?_,
      fun h0 h1 hx hn => hr.endsTeam h ?_⟩
    · simp only [useShift, Bool.not_eq_true', Bool.and_eq_false_iff, decide_eq_false_iff_not]
      omega
    · exact ScalarUse.illegal_low (n := x) rfl (by simp [useShift, h0, h1]) (by simp [useShift, useX]) hx
    · exact ScalarUse.illegal_unnamed (n := x) rfl (by simp [useShift, h0, h1]) rfl (by simpa [useShift, useX] using hx)
        (by simp [useShift, useX]) hn
  · intro i hi
    obtain ⟨u, hr, hu, h4, hnames, hy, hreads⟩ := writesXreadsY_use x y i hi
    have legal := hu.legal (ns := env.nest.ns) h4 hx (by simp [hnames, nx, ny])
    refine ⟨fun hp => hr.waits h legal (ScalarUse.not_ready_of_read hy hp),
      fun hp => hr.waits h legal (ScalarUse.not_ready_of_write (by simp [hu.writes]) hp),
      fun hp hb => hr.endsByPoison h legal (ScalarUse.ready_of_present ?_ ?_) (ScalarUse.broken_of_read hy hb)⟩
    · intro r h
      rcases hreads r h with rfl | rfl
      · exact hp
      · simp [hb, RegCell.present_bad]
    · simpa [hu.writes] using RegCell.not_pending_of_present hp
  · intro i hi
    obtain ⟨u, hr, hu⟩ := readsX_use x y imm i hi
    have legal := hu.legal env.nest.ns hx nx ny
    refine ⟨fun hp => hr.waits h legal (ScalarUse.not_ready_of_read hu.reads hp),
      fun hp hb => hr.endsByPoison h legal (ScalarUse.ready_of_present ?_ ?_) (ScalarUse.broken_of_read hu.reads hb)⟩
    · intro r h
      rcases hu.others r h with rfl | rfl
      · simp [hb, RegCell.present_bad]
      · exact hp
    · intro r h
      simp [hu.writes r h, hb, RegCell.isPending]
  · intro i hi hne hp
    obtain ⟨u, hr, hu, h4, hnames⟩ := writesNotReads_use x y imm i hi hne
    refine hr.waits h (hu.legal h4 hx fun r h => ?_) (ScalarUse.not_ready_of_write (by simp [hu.writes]) hp)
    rcases hnames r h with rfl | rfl
    · exact nx
    · exact ny

end Sys2Proof.Machine
end

section
/-!
PROOF. `strap` and `strap.ret`: the entry to a handler and the return from it.
-/
namespace Sys2Proof.Machine

/-! ## The entry to a handler -/

/-- The entry to a handler changes the scalar registers, where the stream goes on, what the trap keeps, and what accesses have
lost; nothing else. -/
theorem Shuttle.enterHandler_frame (s : Shuttle) (t : TrapInfo) (off : Nat) (susp : Suspended) :
    { s.enterHandler t off susp with
      sregs := s.sregs, pc := s.pc, branchFrom := s.branchFrom, handler := s.handler, suspended := s.suspended,
      traps := s.traps, accs := s.accs } = s := by
  have h := (s.takeOver 1008 16).putWords_frame 1008 (trapWords t (s.traps + 1))
  exact congrArg (fun z : Shuttle => { z with
      pc := s.pc, branchFrom := s.branchFrom, handler := s.handler, suspended := s.suspended, traps := s.traps, accs := s.accs }) h

theorem Shuttle.putWords_accs (s : Shuttle) (n : Nat) (ws : List Nat) : (s.putWords n ws).accs = s.accs :=
  (congrArg Shuttle.accs (s.putWords_frame n ws) :)

theorem Shuttle.enterHandler_accs (s : Shuttle) (t : TrapInfo) (off : Nat) (susp : Suspended) :
    ((s.enterHandler t off susp).accs.map fun a => { a with lost := [] }) = s.accs.map fun a => { a with lost := [] } := by
  rw [Shuttle.enterHandler, Shuttle.putWords_accs, Shuttle.takeOver, List.map_map]
  refine List.map_congr_left fun a _ => ?_
  dsimp only [Function.comp_apply]
  split <;> rfl

theorem Shuttle.sreg_enterHandler_record (s : Shuttle) (t : TrapInfo) (off : Nat) (susp : Suspended) {k : Nat} (hk : k < 16) :
    (s.enterHandler t off susp).sreg (1008 + k) = fullOf ((trapWords t (s.traps + 1)).getD k 0) := by
  rw [Shuttle.sreg_enterHandler, if_pos (by omega), Nat.add_sub_cancel_left]

/-- A double trap ends the team under cause 0x16. -/
theorem trap_double (d : Dev) (s : Shuttle) (has : Bool) (off : Nat) (t : TrapInfo) (susp : Suspended) (h : t.cause ≤ 5)
    (hh : s.handler = true) :
    d.trap s has off t susp =
      d.terminate s 1 0x16 0 0 (trapWords { t with cause := 0x16, sub := 0 } (s.traps + 1)) [] 0 := by
  simp [Dev.trap, h, hh]

/-- A cause of the handler in a nest with none ends the team. -/
theorem trap_without_handler (d : Dev) (s : Shuttle) (off : Nat) (t : TrapInfo) (susp : Suspended) (hh : s.handler = false) :
    d.trap s false off t susp = d.terminate s 1 t.cause t.sub 0 (trapWords t (s.traps + 1)) [] 0 := by
  simp [Dev.trap, hh]

/-! ## The return -/

theorem returnFromTrap_pc (s : Shuttle) : s.returnFromTrap.pc = s.sval 1010 := by
  unfold Shuttle.returnFromTrap
  split <;> rfl

/-- The return ends the handler, and leaves the registers, predicates, FLAGS, FMT, the lane queue and the count of traps. -/
theorem returnFromTrap_frame (s : Shuttle) :
    let h := s.returnFromTrap
    h.handler = false ∧ h.suspended = .none ∧ h.sregs = s.sregs ∧ h.vregs = s.vregs ∧ h.preds = s.preds ∧
      h.flags = s.flags ∧ h.fmt = s.fmt ∧ h.blocks = s.blocks ∧ h.running = s.running ∧ h.traps = s.traps := by
  unfold Shuttle.returnFromTrap
  split <;> exact ⟨rfl, rfl, rfl, rfl, rfl, rfl, rfl, rfl, rfl, rfl⟩

theorem remerge_single (s : Shuttle) (lcode : List Nat) {e : Entry} (h : s.frontier = [e]) (hb : e.beats ≠ []) :
    (s.remerge lcode).frontier = [e] := by
  have : e.beats.isEmpty = false := by simpa using hb
  simp [Shuttle.remerge, h, joinFrontier, this]

theorem returnFromTrap_frontier_scalar {s : Shuttle} (h : s.suspended = .scalar) :
    s.returnFromTrap.frontier = s.frontier := by
  simp [Shuttle.returnFromTrap, h]

/-- The entry that a lane trap suspended goes on at s1011, or one word on. -/
theorem returnFromTrap_frontier_lane {s : Shuttle} {pc : Nat} {e : Entry} {skip : Bool}
    (h : s.suspended = .lane pc e.beats skip) (hf : s.frontier = [e]) (hb : e.beats ≠ []) (hpc : e.pc = pc) :
    ∃ e', s.returnFromTrap.frontier = [e'] ∧ e'.pc = s.sval 1011 + (if skip then 1 else 0) ∧ e'.beats = e.beats ∧
      e'.status = .ready := by
  have hany : (e.beats.any fun b => e.beats.contains b) = true := by
    obtain ⟨b, hm⟩ := List.exists_mem_of_ne_nil _ hb
    exact List.any_eq_true.2 ⟨b, hm, by simpa using hm⟩
  simp only [Shuttle.returnFromTrap, h, hf, List.map_cons, List.map_nil, hpc, hany]
  by_cases he : s.sval 1011 + (if skip then 1 else 0) = pc
  · exact ⟨_, rfl, by simp [he], by simp [he], by simp [he]⟩
  · exact ⟨_, rfl, by simp [he], by simp [he], by simp [he]⟩

/-! ## The obligation -/

section
variable {s : State} {is : Issue} {sh : Shuttle} {env : Env}

/-- What `strap` reports. -/
def strapTrap (is : Issue) (sh : Shuttle) (code : Int) : TrapInfo :=
  { scalarTrap is sh 1 0 with resume := is.next, code := low 32 code }

/-- The words of its record. -/
theorem trapWords_strap (is : Issue) (sh : Shuttle) (code : Int) (n : Nat) :
    trapWords (strapTrap is sh code) n =
      [1, 0, is.next, 0xFFFFFFFF, 0, 0, is.words.getD 0 0, is.words.getD 1 0, is.words.getD 2 0, 0, low 32 code, sh.fmt,
        sh.blocks.length, 0, 0, n % 2 ^ 32] := by
  simp [trapWords, strapTrap, scalarTrap]

theorem exec_strap (h : s.AtIssue is sh env) (code : Int) :
    exec (.strap code) s =
      .next { s with dev := s.dev.trap sh env.nest.hasTrap env.nest.trapOff (strapTrap is sh code) .scalar } := by
  change execStrap code s = _
  rw [execStrap, onIssue_eq h]
  rfl

/-- What `strap.ret` uses. -/
def strapRetUse (is : Issue) (sh : Shuttle) : ScalarUse :=
  { sub0 := !sh.handler, sub1 := is.words.length > 1, reads := [1010, 1011] }

theorem exec_strapRet (h : s.AtIssue is sh env) :
    exec .strapRet s = .next (s.withDev (scalarGo (strapRetUse is sh) is sh env s.dev
      (s.dev.setShuttle (sh.returnFromTrap.remerge env.bolt.lcode)))) := by
  change execStrapRet s = _
  rw [execStrapRet, onIssue_eq h]
  rfl

theorem strapRetUse_legal {w : Nat} (ns : Nat) (hw : is.words = [w]) (hh : sh.handler = true) :
    (strapRetUse is sh).illegal ns = none :=
  ScalarUse.illegal_none (by simp [strapRetUse, hh]) (by simp [strapRetUse, hw]) rfl rfl (fun _ hm => nomatch hm)
    (fun _ hm => nomatch hm) (fun _ hm => nomatch hm)

theorem strap_enters (h : s.AtIssue is sh env) (code : Int) (ht : env.nest.hasTrap = true) (hh : sh.handler = false) :
    EndsAs (.strap code) s (sh.enterHandler (strapTrap is sh code) env.nest.trapOff .scalar) := by
  rw [EndsAs, exec_strap h, ht, trap_enters _ _ _ _ _ (by simp [strapTrap, scalarTrap]) hh]
  rfl

end

/-- Settles O17: `strap` enters the handler with the record that `strapTrap` gives, and `strap.ret` is the return of R37. -/
theorem softwareTrapAndReturn : Obligations.SoftwareTrapAndReturn := by
  refine ⟨fun s is sh env code h => ⟨fun ht hh => ⟨_, strap_enters h code ht hh, ?_⟩, fun hh => ?_, fun ht hh => ?_⟩,
    fun s is sh env w a b h hw => ⟨fun hh => ?_, fun hh ha hb => ?_, fun hh he => ?_⟩⟩
  · refine ⟨rfl, rfl, rfl, rfl, ?_⟩
    have record := fun k hk =>
      sh.sreg_enterHandler_record (strapTrap is sh code) env.nest.trapOff .scalar (k := k) hk
    simp only [trapWords_strap] at record
    refine ⟨record 0 (by decide), record 1 (by decide), record 2 (by decide), record 3 (by decide), record 4 (by decide),
      record 5 (by decide), record 6 (by decide), record 7 (by decide), record 8 (by decide), record 9 (by decide),
      (record 10 (by decide)).trans (congrArg RegCell.full (ofNat_low code)), record 11 (by decide), record 12 (by decide),
      record 13 (by decide), record 14 (by decide),
      (record 15 (by decide)).trans (congrArg RegCell.full (BitVec.eq_of_toNat_eq (by simp))),
      fun n hn => (Shuttle.sreg_enterHandler _ _ _ _ n).trans (if_neg (by omega)),
      Shuttle.enterHandler_frame _ _ _ _, Shuttle.enterHandler_accs _ _ _ _⟩
  · exact ⟨_, by rw [exec_strap h, trap_double _ _ _ _ _ _ (Nat.le_of_ble_eq_true rfl) hh]⟩
  · exact ⟨_, by rw [exec_strap h, ht, trap_without_handler _ _ _ _ _ hh]; rfl⟩
  · rw [EndsTeam, exec_strapRet h, scalarGo_illegal (ScalarUse.illegal_sub0 (by simp [strapRetUse, hh])),
      scalarTrapOf_illegal]
  · have hr := ScalarUse.ready_of_full (u := strapRetUse is sh) (s := sh)
      (by simp [strapRetUse, ha, hb, RegCell.isFull]) (fun _ hm => nomatch hm)
    obtain ⟨hand, susp, sregs, vregs, preds, flags, fmt, blocks, running, traps⟩ := returnFromTrap_frame sh
    refine ⟨sh.returnFromTrap.remerge env.bolt.lcode, ?_, ?_, hand, susp, sregs, vregs, preds, flags, fmt, blocks, running,
      traps, ?_⟩
    · rw [EndsAs, exec_strapRet h, scalarGo_done (strapRetUse_legal _ hw hh) hr.1 hr.2]
      rfl
    · rw [show (sh.returnFromTrap.remerge env.bolt.lcode).pc = sh.returnFromTrap.pc from rfl, returnFromTrap_pc]
      simp [Shuttle.sval, ha, RegCell.val]
    · refine fun e pc skip hf he => ⟨fun hs => ?_, fun hs hpc => ?_⟩
      · exact remerge_single _ _ (by rw [returnFromTrap_frontier_scalar hs, hf]) he
      · obtain ⟨e', hf', hpc', hb', hst'⟩ := returnFromTrap_frontier_lane hs hf he hpc
        rw [remerge_single _ _ hf' (by rwa [hb'])]
        have hv : sh.sval 1011 = b.toNat := by simp [Shuttle.sval, hb, RegCell.val]
        simp only [List.map_cons, List.map_nil, hpc', hb', hst', hv]
        split <;> rfl
  · have hr : (strapRetUse is sh).ready sh = false := by
      rcases he with he | he
      · exact ScalarUse.not_ready_of_read (n := 1010) (by simp [strapRetUse]) he
      · exact ScalarUse.not_ready_of_read (n := 1011) (by simp [strapRetUse]) he
    rw [Waits, exec_strapRet h, scalarGo_waits (strapRetUse_legal _ hw hh) hr]

end Sys2Proof.Machine
end

section
/-!
PROOF. `lrun`, `lsync` and `sshare`: the lane queue as the scalar stream sees it.
-/
namespace Sys2Proof.Machine

/-! ## Ranges of registers -/

theorem mem_regRange {n k r : Nat} : r ∈ regRange n k ↔ n ≤ r ∧ r < n + k := by
  simp only [regRange, List.mem_map, List.mem_range]
  exact ⟨fun ⟨i, hi, e⟩ => by omega, fun h => ⟨r - n, by omega, by omega⟩⟩

theorem Shuttle.sreg_markS (s : Shuttle) (n : Nat) (c : RegCell) (k r : Nat) :
    (s.markS n c k).sreg r = if n ≤ r ∧ r < n + k then c else s.sreg r := by
  induction k generalizing s n with
  | zero => rw [if_neg (by omega)]; rfl
  | succ k ih =>
    rw [Shuttle.markS, ih, Shuttle.sreg_setSreg]
    rw [← ite_or]
    exact if_congr (by omega) rfl rfl

/-- Marking registers changes the scalar registers only. -/
theorem Shuttle.markS_frame (s : Shuttle) (n : Nat) (c : RegCell) (k : Nat) :
    s.markS n c k = { s with sregs := (s.markS n c k).sregs } := by
  induction k generalizing s n with
  | zero => rfl
  | succ k ih =>
    rw [Shuttle.markS, ih]
    rfl

theorem RegCell.fullOf_val {c : RegCell} (h : c.isFull = true) : fullOf c.val = c := by
  cases c with
  | full v => exact fullOf_toNat v
  | _ => cases h

/-! ## Blocks -/

theorem startBlock_running {s : Shuttle} (h : s.running = true) : s.startBlock = s := by
  simp [Shuttle.startBlock, h]

theorem startBlock_idle {s : Shuttle} {b : Block} {bs : List Block} (h : s.running = false) (hb : s.blocks = b :: bs) :
    s.startBlock = { s with running := true, frontier := [Entry.start b.entry b.beats b.fmt] } := by
  simp [Shuttle.startBlock, h, hb]

/-- Starting a block changes the running block's entries only. -/
theorem startBlock_frame (s : Shuttle) :
    s.startBlock = { s with running := s.startBlock.running, frontier := s.startBlock.frontier } := by
  unfold Shuttle.startBlock
  split <;> rfl

/-! ## `lrun` -/

section
variable {s : State} {is : Issue} {sh : Shuttle} {env : Env}

/-- The block that `lrun` appends (R21, R122, R176). -/
def lrunBlock (s : State) (sh : Shuttle) (env : Env) (x y n entry : Nat) : Block :=
  { id := s.dev.nextId, entry := entry, args := (regRange y 8).map fun r => BitVec.ofNat 32 (sh.sval r), fmt := sh.fmt,
    seed := sh.seed, outBase := x, outN := n, written := [], seq := sh.seq,
    beats := sh.threads env.launch.levels env.team.num sh.seq }

/-- The shuttle with a block behind its lane queue, and that block's output window empty. -/
def Shuttle.queueBlock (sh : Shuttle) (is : Issue) (b : Block) : Shuttle :=
  let sh' := (sh.markS b.outBase .pending b.outN).advance is
  { sh' with blocks := sh'.blocks ++ [b] }

/-- The same, with the block running when it is first. -/
def Shuttle.appendBlock (sh : Shuttle) (is : Issue) (b : Block) : Shuttle := (sh.queueBlock is b).startBlock

theorem queueBlock_eq (sh : Shuttle) (is : Issue) (b : Block) :
    sh.queueBlock is b = { sh with
      sregs := (sh.markS b.outBase .pending b.outN).sregs, pc := is.next, branchFrom := none, blocks := sh.blocks ++ [b] } := by
  rw [Shuttle.queueBlock, Shuttle.markS_frame]
  rfl

theorem exec_lrun (h : s.AtIssue is sh env) (x y n entry : Nat) :
    exec (.lrun x y n entry) s = .next (s.withDev (scalarGo (lrunUse sh.handler env.bolt.lcode.length x y n entry) is sh env s.dev
      (if sh.blocks.length ≥ 8 then s.dev
       else { s.dev with nextId := s.dev.nextId + 1 }.setShuttle (sh.appendBlock is (lrunBlock s sh env x y n entry))))) := by
  change execLrun x y n entry s = _
  rw [execLrun, onIssue_eq h]
  rfl

theorem lrunUse_legal {ns len x y n entry : Nat} (hn : n ≤ 8) (he : entry < len) (h0 : n = 0 → x = 0)
    (hx : n ≠ 0 → 64 ≤ x ∧ x + n ≤ 1008) (hw : ∀ r, x ≤ r → r < x + n → nameable ns r = true)
    (hr : ∀ r, y ≤ r → r < y + 8 → nameable ns r = true) : (lrunUse false len x y n entry).illegal ns = none := by
  refine ScalarUse.illegal_none ?_ ?_ ?_ ?_ (fun _ hm => nomatch hm) ?_ (fun _ hm => nomatch hm)
  · simp [lrunUse]; omega
  · by_cases hz : n = 0 <;> simp [lrunUse, hz, h0]
  · by_cases hz : n = 0
    · simp [lrunUse, hz]
    · simp [lrunUse, hz, hx hz]
  · by_cases hz : n = 0
    · simp [lrunUse, hz]
    · simp [lrunUse, hz, hx hz]
  · intro r hm
    rcases List.mem_append.1 hm with hm | hm
    · exact hr r (mem_regRange.1 hm).1 (mem_regRange.1 hm).2
    · exact hw r (mem_regRange.1 hm).1 (mem_regRange.1 hm).2

/-- Appending a block leaves all but the queue, the output window, where the stream goes on and the running block. -/
theorem appendBlock_frame (sh : Shuttle) (is : Issue) (b : Block) :
    sh.appendBlock is b = { sh with
      sregs := (sh.markS b.outBase .pending b.outN).sregs, pc := is.next, branchFrom := none, blocks := sh.blocks ++ [b],
      running := (sh.appendBlock is b).running, frontier := (sh.appendBlock is b).frontier } := by
  have h := startBlock_frame (sh.queueBlock is b)
  rw [← Shuttle.appendBlock] at h
  rw [h, queueBlock_eq]

theorem appendBlock_running {sh : Shuttle} (is : Issue) (b : Block) (h : sh.running = true) :
    (sh.appendBlock is b).running = true ∧ (sh.appendBlock is b).frontier = sh.frontier := by
  have hq : (sh.queueBlock is b).running = true := by rw [queueBlock_eq]; exact h
  rw [Shuttle.appendBlock, startBlock_running hq, queueBlock_eq]
  exact ⟨h, rfl⟩

theorem appendBlock_idle {sh : Shuttle} (is : Issue) (b : Block) (h : sh.running = false) (hb : sh.blocks = []) :
    (sh.appendBlock is b).running = true ∧ (sh.appendBlock is b).frontier = [Entry.start b.entry b.beats b.fmt] := by
  have hq : (sh.queueBlock is b).running = false := by rw [queueBlock_eq]; exact h
  rw [Shuttle.appendBlock, startBlock_idle (b := b) (bs := []) hq (by simp [queueBlock_eq, hb])]
  exact ⟨rfl, rfl⟩

end

/-- Settles O19: an accepted `lrun` appends the block of that moment, and waits while eight are queued. -/
theorem laneBlockLaunch : Obligations.LaneBlockLaunch := by
  refine fun s is sh env x y n entry h => ⟨fun hh => ?_, fun hh hn he h0 hx hw hr => ?_⟩
  · rw [EndsTeam, exec_lrun h, scalarGo_illegal (ScalarUse.illegal_sub0 (by simp [lrunUse, hh])), scalarTrapOf_illegal]
  have legal := lrunUse_legal (ns := env.nest.ns) hn he h0 hx (fun r h1 h2 => (hw r h1 h2).2.1) (fun r h1 h2 => (hr r h1 h2).1)
  have ready := ScalarUse.ready_of_full (u := lrunUse false env.bolt.lcode.length x y n entry) (s := sh)
    (fun r hm => (hr r (mem_regRange.1 hm).1 (mem_regRange.1 hm).2).2)
    (fun r hm => (hw r (mem_regRange.1 hm).1 (mem_regRange.1 hm).2).2.2)
  rw [Waits, exec_lrun h, hh, scalarGo_done legal ready.1 ready.2]
  refine ⟨fun hl => by rw [if_pos hl], fun hl => ?_⟩
  refine ⟨sh.appendBlock is (lrunBlock s sh env x y n entry), lrunBlock s sh env x y n entry, by rw [if_neg (by omega)], ?_⟩
  have frame := appendBlock_frame sh is (lrunBlock s sh env x y n entry)
  refine ⟨(congrArg Shuttle.blocks frame :), (congrArg Shuttle.pc frame :), (congrArg Shuttle.vregs frame :),
    (congrArg Shuttle.fmt frame :), (congrArg Shuttle.seed frame :), rfl, rfl, rfl, rfl, rfl, rfl, rfl, rfl, rfl, fun r => ?_,
    appendBlock_running is _, appendBlock_idle is _⟩
  rw [Shuttle.sreg, (congrArg Shuttle.sregs frame :)]
  exact sh.sreg_markS x .pending n r

/-! ## `lsync` and `sshare` -/

section
variable {s : State} {is : Issue} {sh : Shuttle} {env : Env}

theorem drained_iff (sh : Shuttle) :
    sh.drained = true ↔ sh.blocks = [] ∧ ∀ a ∈ sh.accs, a.beat ≠ none → a.performed = true := by
  simp only [Shuttle.drained, Shuttle.lanePerformed, Bool.and_eq_true, List.isEmpty_iff, List.all_eq_true, Bool.or_eq_true,
    Option.isNone_iff_eq_none, or_iff_not_imp_left, ne_eq]

theorem exec_lsync (h : s.AtIssue is sh env) :
    exec .lsync s = .next (s.withDev (scalarGo { sub0 := sh.handler } is sh env s.dev
      (if sh.drained then s.dev.setShuttle (sh.advance is) else s.dev))) := by
  change execLsync s = _
  rw [execLsync, onIssue_eq h]

theorem exec_lsync_outside_handler (h : s.AtIssue is sh env) (hh : sh.handler = false) :
    exec .lsync s = .next (s.withDev (if sh.drained then s.dev.setShuttle (sh.advance is) else s.dev)) := by
  rw [exec_lsync h, hh, scalarGo_done rfl rfl rfl]

/-- What `sshare` uses (R24, R123). -/
def sshareUse (handler : Bool) (x y f : Nat) : ScalarUse :=
  { sub0 := handler, sub4 := decide (x + f > 63), names := regRange y (f + 1), reads := regRange y (f + 1),
    writes := regRange x (f + 1) }

/-- The shuttle after an `sshare`. -/
def Shuttle.shared (sh : Shuttle) (is : Issue) (fence x y f : Nat) : Shuttle :=
  { (sh.copyRegs x y (f + 1)).advance is with laneFence := fence }

theorem exec_sshare (h : s.AtIssue is sh env) (x y f : Nat) :
    exec (.sshare x y f) s = .next (s.withDev (scalarGo (sshareUse sh.handler x y f) is sh env s.dev
      (if sh.blocks.isEmpty then s.dev.setShuttle (sh.shared is s.dev.nextId x y f) else s.dev))) := by
  change execSshare x y f s = _
  rw [execSshare, onIssue_eq h]
  rfl

theorem Shuttle.sreg_copyRegs (sh : Shuttle) (x y k r : Nat) (hf : ∀ j, y ≤ j → j < y + k → (sh.sreg j).isFull = true) :
    (sh.copyRegs x y k).sreg r = if x ≤ r ∧ r < x + k then sh.sreg (y + (r - x)) else sh.sreg r := by
  have hl : ((regRange y k).map sh.sval).length = k := by simp [regRange]
  rw [Shuttle.copyRegs, Shuttle.sreg_putWords, hl]
  split
  · next hr =>
    have hk : r - x < k := by omega
    have hv : ((regRange y k).map sh.sval).getD (r - x) 0 = (sh.sreg (y + (r - x))).val := by
      simp [regRange, hk, Shuttle.sval]
    rw [hv, RegCell.fullOf_val (hf _ (by omega) (by omega))]
  · rfl

end

/-- Settles O20: `lsync` waits for the drained queue, and `sshare` for the empty one before it copies. -/
theorem laneQueueWaits : Obligations.LaneQueueWaits := by
  refine fun s is sh env x y f h => ⟨fun hh => ⟨?_, ?_⟩, fun hh => ⟨fun hb ha => ?_, fun hb => ?_, fun a ha hb hp => ?_,
    fun hx => ?_, fun hx hr hw => ?_⟩⟩
  · rw [EndsTeam, exec_lsync h, scalarGo_illegal (ScalarUse.illegal_sub0 hh), scalarTrapOf_illegal]
  · rw [EndsTeam, exec_sshare h, scalarGo_illegal (ScalarUse.illegal_sub0 (by simpa [sshareUse] using hh)),
      scalarTrapOf_illegal]
  · rw [EndsAs, exec_lsync_outside_handler h hh, if_pos ((drained_iff sh).2 ⟨hb, ha⟩)]
    rfl
  · rw [Waits, exec_lsync_outside_handler h hh, if_neg fun hd => hb ((drained_iff sh).1 hd).1]
  · rw [Waits, exec_lsync_outside_handler h hh, if_neg fun hd => by simp [((drained_iff sh).1 hd).2 a ha hb] at hp]
  · rw [EndsTeam, exec_sshare h, scalarGo_illegal (ScalarUse.illegal_sub4 (by simpa [sshareUse] using hh) rfl
      (by simpa [sshareUse] using hx)), scalarTrapOf_illegal]
  have legal : (sshareUse false x y f).illegal env.nest.ns = none :=
    ScalarUse.illegal_none rfl rfl (by simpa [sshareUse] using hx) rfl (fun _ hm => nomatch hm)
      (fun r hm => (hr r (mem_regRange.1 hm).1 (mem_regRange.1 hm).2).1) (fun _ hm => nomatch hm)
  have ready := ScalarUse.ready_of_full (u := sshareUse false x y f) (s := sh)
    (fun r hm => (hr r (mem_regRange.1 hm).1 (mem_regRange.1 hm).2).2)
    (fun r hm => hw r (mem_regRange.1 hm).1 (by have := (mem_regRange.1 hm).2; omega))
  have run : exec (.sshare x y f) s = .next (s.withDev
      (if sh.blocks.isEmpty then s.dev.setShuttle (sh.shared is s.dev.nextId x y f) else s.dev)) := by
    rw [exec_sshare h, hh, scalarGo_done legal ready.1 ready.2]
  refine ⟨fun hb => by rw [Waits, run, if_neg (by simpa using hb)], fun hb => ⟨sh.shared is s.dev.nextId x y f, ?_, rfl, ?_, ?_⟩⟩
  · rw [EndsAs, run, if_pos (by simp [hb])]
    rfl
  · intro r
    refine (sh.sreg_copyRegs x y (f + 1) r fun j h1 h2 => (hr j h1 h2).2).trans ?_
    simp only [← Nat.add_assoc, Nat.lt_succ_iff]
  · exact congrArg (fun z : Shuttle => { z with pc := sh.pc, branchFrom := sh.branchFrom, laneFence := sh.laneFence })
      (sh.putWords_frame x _)

end Sys2Proof.Machine
end

section
/-!
PROOF. What a generic address reaches (R31, R32), and the loads of the scalar stream (R111, R112, R115).
-/
namespace Sys2Proof.Machine

/-! ## What an address reaches, by its top byte -/

section
variable {fn a n : Nat} {t : Team}

theorem reach_misaligned (h : a % n ≠ 0) : reach fn t a n = .bad := if_pos (by simpa using h)

/-- The cases of an aligned address. -/
theorem reach_aligned (h : a % n = 0) :
    reach fn t a n =
      if a / 2 ^ 56 = 0 then .virt (a % 2 ^ 56)
      else if a / 2 ^ 56 = 0xFE then
        if 2 ^ 23 ≤ a % 2 ^ 56 then .bad else
          match t.bank (a % 2 ^ 56 / 2 ^ 19) with
          | some ⟨_, _, none, _, _⟩ => .window (scratchLoc t.id (a % 2 ^ 56 / 2 ^ 19) (a % 2 ^ 56 % 2 ^ 19))
          | _ => .bad
      else if a / 2 ^ 56 = 0xFD then
        if 2 ^ 23 ≤ a % 2 ^ 56 ∨ a % 2 ^ 56 % 2 ^ 19 ≠ 0 then .bad else
          match t.bank (a % 2 ^ 56 / 2 ^ 19) with
          | some ⟨_, _, some (b, _), _, _⟩ => if b = n then .fifo (a % 2 ^ 56 / 2 ^ 19) else .bad
          | _ => .bad
      else if a / 2 ^ 56 = 0xFC then (if t.inCopies (a % 2 ^ 56) n then .window (teamLoc fn t (a % 2 ^ 56)) else .bad)
      else .bad := by
  rw [reach, if_neg (by simpa using h)]
  simp only [beq_iff_eq, bne_iff_ne, ge_iff_le, Bool.or_eq_true, decide_eq_true_eq] <;> rfl

/-- A scratch address: a byte of a bank in SCRATCH mode. -/
theorem reach_scratch (h : a % n = 0) (ht : a / 2 ^ 56 = 0xFE) (hr : a % 2 ^ 56 < 2 ^ 23) {b : BankEntry}
    (hb : t.bank (a % 2 ^ 56 / 2 ^ 19) = some b) :
    reach fn t a n =
      if b.fifo = none then .window (scratchLoc t.id (a % 2 ^ 56 / 2 ^ 19) (a % 2 ^ 56 % 2 ^ 19)) else .bad := by
  rw [reach_aligned h, if_neg (by omega), if_pos ht, if_neg (by omega), hb]
  obtain ⟨e, k, fifo, sh, sl⟩ := b
  cases fifo <;> rfl

/-- A slot address: a slot of a bank in FIFO mode, with the slot's size. -/
theorem reach_slot (h : a % n = 0) (ht : a / 2 ^ 56 = 0xFD) (hr : a % 2 ^ 56 < 2 ^ 23) (ha : a % 2 ^ 56 % 2 ^ 19 = 0)
    {b : BankEntry} (hb : t.bank (a % 2 ^ 56 / 2 ^ 19) = some b) :
    reach fn t a n =
      match b.fifo with
      | some (size, _) => if size = n then .fifo (a % 2 ^ 56 / 2 ^ 19) else .bad
      | none => .bad := by
  rw [reach_aligned h, if_neg (by omega), if_neg (by omega), if_pos ht, if_neg (by omega), hb]
  obtain ⟨e, k, fifo, sh, sl⟩ := b
  cases fifo <;> rfl

theorem reach_outside_banks (h : a % n = 0) (ht : a / 2 ^ 56 = 0xFE ∨ a / 2 ^ 56 = 0xFD)
    (hb : 2 ^ 23 ≤ a % 2 ^ 56 ∨ t.bank (a % 2 ^ 56 / 2 ^ 19) = none) : reach fn t a n = .bad := by
  rw [reach_aligned h, if_neg (by omega)]
  rcases ht with ht | ht
  · rw [if_pos ht]
    split
    · rfl
    · next hr => rw [hb.resolve_left hr]
  · rw [if_neg (by omega), if_pos ht]
    split
    · rfl
    · next hr => rw [hb.resolve_left fun h => hr (.inl h)]

theorem reach_inside_slot (h : a % n = 0) (ht : a / 2 ^ 56 = 0xFD) (ha : a % 2 ^ 56 % 2 ^ 19 ≠ 0) :
    reach fn t a n = .bad := by
  rw [reach_aligned h, if_neg (by omega), if_neg (by omega), if_pos ht, if_pos (.inr ha)]

theorem reach_teamState (h : a % n = 0) (ht : a / 2 ^ 56 = 0xFC) :
    reach fn t a n = if t.inCopies (a % 2 ^ 56) n then .window (teamLoc fn t (a % 2 ^ 56)) else .bad := by
  rw [reach_aligned h, if_neg (by omega), if_neg (by omega), if_neg (by omega), if_pos ht]

theorem reach_nothing (h : a % n = 0) (ht : a / 2 ^ 56 ∉ [0, 0xFC, 0xFD, 0xFE]) : reach fn t a n = .bad := by
  simp only [List.mem_cons, List.not_mem_nil, or_false, not_or] at ht
  rw [reach_aligned h, if_neg ht.1, if_neg ht.2.2.2, if_neg ht.2.2.1, if_neg ht.2.1]

theorem inCopies_iff (t : Team) (off n : Nat) :
    t.inCopies off n = true ↔ ∃ c ∈ t.copies, c.entry = none ∧ c.offset ≤ off ∧ off + n ≤ c.offset + c.size := by
  simp [Team.inCopies, and_assoc]

end

/-- What an address reaches, as the manual lists it. -/
theorem reach_cases (fn : Nat) (t : Team) (a n : Nat) :
    let rest := a % 2 ^ 56
    let top := a / 2 ^ 56
    let entry := rest / 2 ^ 19
    let bad := reach fn t a n = .bad
    let held := ∃ c ∈ t.copies, c.entry = none ∧ c.offset ≤ rest ∧ rest + n ≤ c.offset + c.size
    (a % n ≠ 0 → bad) ∧
    (a % n = 0 →
      (top = 0 → reach fn t a n = .virt rest) ∧
      (top = 0xFE ∨ top = 0xFD → 2 ^ 23 ≤ rest ∨ t.bank entry = none → bad) ∧
      (top = 0xFD → rest % 2 ^ 19 ≠ 0 → bad) ∧
      (∀ b, rest < 2 ^ 23 → t.bank entry = some b →
        (top = 0xFE →
          (b.fifo = none → ∃ l, reach fn t a n = .window l ∧ l.key = scratchKey t.id entry (rest % 2 ^ 19) ∧
            l.space = spaceScratch) ∧
          (b.fifo ≠ none → bad)) ∧
        (top = 0xFD → rest % 2 ^ 19 = 0 →
          (∀ size m, b.fifo = some (size, m) → reach fn t a n = if size = n then .fifo entry else .bad) ∧
          (b.fifo = none → bad))) ∧
      (top = 0xFC →
        (held → ∃ l, reach fn t a n = .window l ∧ l.key = reservedKey fn (t.stateBase + rest) ∧ l.space = spaceTeam) ∧
        (¬ held → bad)) ∧
      (top ∉ [0, 0xFC, 0xFD, 0xFE] → bad)) := by
  refine ⟨reach_misaligned, fun h => ⟨fun ht => ?_, reach_outside_banks h, reach_inside_slot h, fun b hr hb => ⟨fun ht => ?_,
    fun ht ha => ?_⟩, fun ht => ?_, reach_nothing h⟩⟩
  · rw [reach_aligned h, if_pos ht]
  · rw [reach_scratch h ht hr hb]
    exact ⟨fun hf => ⟨_, if_pos hf, rfl, rfl⟩, fun hf => if_neg hf⟩
  · rw [reach_slot h ht hr ha hb]
    exact ⟨fun size m hf => by rw [hf], fun hf => by rw [hf]⟩
  · rw [reach_teamState h ht, ← inCopies_iff]
    exact ⟨fun hc => ⟨_, if_pos hc, rfl, rfl⟩, fun hc => if_neg hc⟩

/-! ## Accesses of the scalar stream -/

section
variable {s : State} {is : Issue} {sh : Shuttle} {env : Env}

/-- An address trap ends the team. -/
theorem addressTrap_eq (d : Dev) (is : Issue) (sh : Shuttle) (env : Env) (a : Nat) :
    d.addressTrap is sh env a =
      d.terminate sh 1 0x14 0 0 (trapWords { scalarTrap is sh 0x14 0 with addr := a } (sh.traps + 1)) [] 0 :=
  trap_terminating _ _ _ _ _ _ (by simp [scalarTrap])

/-- An access as it issues: numbered, in a state, and with its instruction. -/
def Access.issued (acc : Access) (is : Issue) (id fmt : Nat) (st : AccStatus) : Access :=
  { acc with id := id, word := id, status := st, origin := is.origin fmt }

/-- The shuttle with an access under way, numbered and in a state. -/
def Shuttle.issueAccess (sh : Shuttle) (is : Issue) (id : Nat) (acc : Access) (st : AccStatus) (exposes : Bool) : Shuttle :=
  { sh with
    accs := sh.accs ++ [acc.issued is id sh.fmt st]
    exposed := sh.exposed || exposes }

/-- The state of an access that issues, by what its address reaches. -/
def Reach.status : Reach → AccStatus
  | .window l => .home l
  | .fifo e => .fifo e
  | _ => .walk

theorem scalarAccess_bad {acc : Access} {atomic : Bool} {after : Shuttle → Shuttle}
    (h : reach env.launch.fn env.team acc.va acc.size = .bad) :
    s.dev.scalarAccess is sh env acc atomic after = s.dev.addressTrap is sh env acc.va := by
  simp [Dev.scalarAccess, h]

theorem scalarAccess_plain {acc : Access} {after : Shuttle → Shuttle}
    (h : reach env.launch.fn env.team acc.va acc.size ≠ .bad) :
    ∃ exposes, s.dev.scalarAccess is sh env acc false after = { s.dev with nextId := s.dev.nextId + 1 }.setShuttle
      (after (sh.issueAccess is s.dev.nextId acc (reach env.launch.fn env.team acc.va acc.size).status exposes)) := by
  rw [Dev.scalarAccess]
  cases hr : reach env.launch.fn env.team acc.va acc.size with
  | bad => exact absurd hr h
  | virt v => exact ⟨false, rfl⟩
  | window l => exact ⟨false, rfl⟩
  | fifo e => exact ⟨true, rfl⟩

/-! ## Loads -/

theorem scalarAddr_eq {y : Nat} {off : Int} {lo hi : Word} (hlo : sh.sreg y = .full lo) (hhi : sh.sreg (y + 1) = .full hi) :
    sh.scalarAddr y off = wordAddress lo hi off := by
  have hp : sh.pair y = (hi ++ lo : DWord).toNat := by
    simp only [Shuttle.pair, Shuttle.svals, Shuttle.sval, hlo, hhi, RegCell.val, BitVec.toNat_append]
    rw [← Nat.shiftLeft_add_eq_or_of_lt lo.isLt, Nat.shiftLeft_eq]
    omega
  rw [Shuttle.scalarAddr, hp, wordAddress, BitVec.toNat_add, BitVec.toNat_ofInt, low]
  omega

theorem loadUse_legal {ns k x y : Nat} (hx : x % k = 0) (hy : y % 2 = 0)
    (hw : ∀ r, x ≤ r → r < x + k → 64 ≤ r ∧ nameable ns r = true) (n0 : nameable ns y = true) (n1 : nameable ns (y + 1) = true) :
    (loadUse k x y).illegal ns = none := by
  refine ScalarUse.illegal_none rfl rfl rfl rfl (fun r hm => ?_) (fun r hm => ?_) (fun p hm => ?_)
  · exact (hw r (mem_regRange.1 hm).1 (mem_regRange.1 hm).2).1
  · rcases List.mem_append.1 hm with hm | hm
    · rw [regRange_two] at hm
      simp only [List.mem_cons, List.not_mem_nil, or_false] at hm
      rcases hm with rfl | rfl
      · exact n0
      · exact n1
    · exact (hw r (mem_regRange.1 hm).1 (mem_regRange.1 hm).2).2
  · rcases List.mem_cons.1 hm with rfl | hm
    · exact hy
    · unfold alignedRegs at hm
      split at hm
      · rw [List.mem_singleton.1 hm]
        exact hx
      · cases hm

theorem loadUse_ready {k x y : Nat} {lo hi : Word} (hlo : sh.sreg y = .full lo) (hhi : sh.sreg (y + 1) = .full hi)
    (hw : ∀ r, x ≤ r → r < x + k → (sh.sreg r).isPending = false) :
    (loadUse k x y).ready sh = true ∧ (loadUse k x y).broken sh = false := by
  refine ScalarUse.ready_of_full (fun r hm => ?_) fun r hm => hw r (mem_regRange.1 hm).1 (mem_regRange.1 hm).2
  simp only [loadUse, regRange_two, List.mem_cons, List.not_mem_nil, or_false] at hm
  rcases hm with rfl | rfl
  · simp [hlo, RegCell.isFull]
  · simp [hhi, RegCell.isFull]

/-- A load that may issue. -/
theorem scalarLoad_issues (h : s.AtIssue is sh env) {k x y : Nat} {off : Int} {lo hi : Word} (hy : y % 2 = 0)
    (hlo : Reads env sh y lo) (hhi : Reads env sh (y + 1) hi) (hx : x % k = 0) (hw : WritableAll env sh x k) :
    scalarLoad k x y off s = .next (s.withDev (s.dev.scalarAccess is sh env
      (newScalarAccess .load (wordAddress lo hi off) (4 * k) 0 0 (.sregs x) []) false
        fun s => (s.markS x .pending k).advance is)) := by
  have legal := loadUse_legal (ns := env.nest.ns) hx hy (fun r h1 h2 => ⟨(hw r h1 h2).1, (hw r h1 h2).2.1⟩) hlo.1 hhi.1
  have ready := loadUse_ready hlo.2 hhi.2 fun r h1 h2 => (hw r h1 h2).2.2
  rw [scalarLoad, onIssue_eq h, scalarGo_done legal ready.1 ready.2, scalarAddr_eq hlo.2 hhi.2]

/-- The three loads are one operation at three sizes. -/
theorem exec_loads (x y : Nat) (off : Int) (s : State) :
    ∀ i ∈ [(Instr.sld x y off, 1), (.sld64 x y off, 2), (.sld128 x y off, 4)], exec i.1 s = scalarLoad i.2 x y off s := by
  simp only [List.forall_mem_cons]
  exact ⟨rfl, rfl, rfl, fun _ hm => nomatch hm⟩

end

/-- Settles O27: what an address reaches by its top byte, and a load by what its address reaches. -/
theorem scalarLoads : Obligations.ScalarLoads := by
  refine ⟨reach_cases, fun s is sh env x y off lo hi h hy hlo hhi i hi' hx hw => ?_⟩
  have run := (exec_loads x y off s i hi').trans (scalarLoad_issues h hy hlo hhi hx hw)
  refine ⟨fun hb => ⟨_, by rw [run, scalarAccess_bad hb, addressTrap_eq]⟩, fun hb => ?_⟩
  let a := newScalarAccess .load (wordAddress lo hi off) (4 * i.2) 0 0 (.sregs x) []
  obtain ⟨exposes, he⟩ := scalarAccess_plain (s := s) (is := is) (sh := sh) (env := env) (acc := a)
    (after := fun s => (s.markS x .pending i.2).advance is) hb
  refine ⟨_, a.issued is s.dev.nextId sh.fmt (reach env.launch.fn env.team a.va a.size).status, by rw [run, he], rfl, ?_, rfl,
    rfl, rfl, rfl, rfl, rfl, fun va hr => congrArg Reach.status hr, fun l hr => congrArg Reach.status hr,
    fun e hr => congrArg Reach.status hr, fun r => ?_, ?_⟩
  · rw [Shuttle.markS_frame]
    rfl
  · exact Shuttle.sreg_markS _ x .pending i.2 r
  · rw [Shuttle.markS_frame]
    rfl

end Sys2Proof.Machine
end

section
/-!
PROOF. One step: the turn that comes next, and what a stream fetches.
-/
namespace Sys2Proof.Machine

/-! ## Fetching -/

/-- A word that takes a second one decodes to nothing without it, and that is check 1. -/
theorem decodeScalar_short {w : Nat} (h : twoWords (opOf w) = true ∨ opOf w = 0x7F) :
    ∃ x, decodeScalar w none = .error x ∧ x.sub = 0 := by
  have h : opOf w ∈ [0x18, 0x40, 0x46, 0x47, 0x48, 0x50, 0x52, 0x54, 0x57, 0x58, 0x59, 0x5B, 0x5C, 0x5D, 0x5E, 0x7F] := by
    simpa [twoWords, or_assoc] using h
  simp only [List.mem_cons, List.not_mem_nil, or_false] at h
  rcases h with h | h | h | h | h | h | h | h | h | h | h | h | h | h | h | h <;>
    simp only [decodeScalar, h, withNext] <;>
    (try split) <;> exact ⟨_, rfl, rfl⟩

theorem scalarSub_eq (sh : Shuttle) (w : Nat) (x : DecodeError) :
    scalarSub sh w x =
      if (sh.handler = true ∧ handlerIllegal (opOf w) = true) ∨ (opOf w = 0x70 ∧ xOf w = 1 ∧ sh.handler = false) then 0
      else if x = .reserved then 1 else 0 := by
  have hx : x.sub = if x = .reserved then 1 else 0 := by cases x <;> rfl
  rw [scalarSub, hx]
  simp only [Bool.and_eq_true, beq_iff_eq, Bool.not_eq_true', and_assoc]
  by_cases h1 : sh.handler = true ∧ handlerIllegal (opOf w) = true
  · rw [if_pos h1, if_pos (.inl h1)]
  · by_cases h2 : opOf w = 0x70 ∧ xOf w = 1 ∧ sh.handler = false
    · rw [if_neg h1, if_pos h2, if_pos (.inr h2)]
    · rw [if_neg h1, if_neg h2, if_neg (not_or.2 ⟨h1, h2⟩)]

/-- The words at issue of a scalar instruction of one word, one with a second word, and a prefixed one. -/
def fetchWords (w : Nat) (nxt : Option Nat) : List Nat :=
  match nxt with
  | some v => if opOf w = 0x7F then [v, w] else if twoWords (opOf w) then [w, v] else [w]
  | none => [w]

/-- The instruction at issue that a scalar stream fetches at a word. -/
def scalarIssue (sh : Shuttle) (w : Nat) (nxt : Option Nat) : Issue :=
  { sh := sh.id, lane := false, first := sh.pc,
    pc := if nxt.isSome ∧ opOf w = 0x7F then sh.pc + 1 else sh.pc,
    next := if nxt.isSome ∧ (opOf w = 0x7F ∨ twoWords (opOf w) = true) then sh.pc + 2 else sh.pc + 1,
    words := fetchWords w nxt }

/-- A fetch inside the section. -/
theorem fetchScalar_word {sh : Shuttle} {scode : List Nat} {w : Nat} (h : scode[sh.pc]? = some w) :
    fetchScalar sh scode = (scalarIssue sh w scode[sh.pc + 1]?,
      match decodeScalar w scode[sh.pc + 1]? with
      | .ok i => i
      | .error x => .unassignedOpcode (scalarSub sh w x)) := by
  cases hn : scode[sh.pc + 1]? with
  | none =>
    simp only [fetchScalar, h, hn]
    cases decodeScalar w none <;> rfl
  | some v =>
    simp only [fetchScalar, h, hn]
    by_cases h7 : opOf w = 0x7F
    · simp only [h7, beq_self_eq_true, if_true]
      cases decodeScalar w (some v) <;> simp [scalarIssue, fetchWords, h7]
    · by_cases h2 : twoWords (opOf w) = true
      · simp only [beq_iff_eq, h7, h2, if_true, if_false]
        cases decodeScalar w (some v) <;> simp [scalarIssue, fetchWords, h7, h2]
      · simp only [beq_iff_eq, h7, h2, if_false]
        cases decodeScalar w (some v) <;> simp [scalarIssue, fetchWords, h7, h2]

/-- A fetch beyond the section shows the branch that led there. -/
theorem fetchScalar_beyond {sh : Shuttle} {scode : List Nat} (h : scode[sh.pc]? = none) :
    ∃ is : Issue, is.sh = sh.id ∧ is.lane = false ∧ fetchScalar sh scode = (is, .unassignedOpcode 0) ∧
      (sh.branchFrom = none → is.first = sh.pc ∧ is.words = []) ∧
      ∀ off w, sh.branchFrom = some (off, w) →
        is.first = off ∧ is.words = if w < 2 ^ 32 then [w] else [w % 2 ^ 32, w / 2 ^ 32] := by
  cases hb : sh.branchFrom with
  | none => exact ⟨_, rfl, rfl, by simp only [fetchScalar, h, hb]; rfl, fun _ => ⟨rfl, rfl⟩, fun _ _ e => (nomatch e)⟩
  | some p =>
    refine ⟨_, rfl, rfl, by simp only [fetchScalar, h, hb]; rfl, fun e => (nomatch e), fun off w e => ?_⟩
    obtain rfl := Option.some.inj e
    refine ⟨rfl, ?_⟩
    by_cases hw : w < 2 ^ 32
    · rw [if_pos (by simpa using hw), if_pos hw, Nat.mod_eq_of_lt hw]
    · rw [if_neg (by simpa using hw), if_neg hw]

theorem fetchLane_eq (sh : Shuttle) (e : Entry) (lcode : List Nat) :
    fetchLane sh e lcode =
      ({ sh := sh.id, lane := true, first := e.pc, pc := e.pc, next := e.pc + 1,
         words := match lcode[e.pc]? with
          | none => []
          | some w => laneParts w },
        match lcode[e.pc]? with
        | none => .unassignedOpcode 0
        | some w => match decodeLane w with
          | .ok i => i
          | .error x => .unassignedOpcode x.sub) := by
  cases h : lcode[e.pc]? with
  | none => simp only [fetchLane, h]
  | some w =>
    simp only [fetchLane, h]
    cases decodeLane w <;> rfl

/-! ## Turns -/

section
variable {s : State} {rest : List Turn}

theorem step_of_agenda {t : Turn} (h : s.agenda = t :: rest) : step s = stepTurn t { s.ticked with agenda := rest } := by
  have : s.ticked.agenda = t :: rest := h
  simp only [step, State.nextTurn, this]

/-- While the device runs, no turn is lost. -/
theorem halts_of_up (hu : s.up = true) (t : Turn) : ({ s.ticked with agenda := rest } : State).halts t = false := by
  have hu' : ({ s.ticked with agenda := rest } : State).up = true := hu
  simp only [State.halts, hu', Bool.not_true, Bool.false_and]

theorem stepTurn_halted {t : Turn} (h : s.halts t = true) : stepTurn t s = .next s := if_pos h

theorem step_of_scalar {sh : Shuttle} {env : Env} (hu : s.up = true) (ha : s.agenda = .scalar sh.id :: rest)
    (hi : s.dev.issuer sh.id = some (sh, env)) :
    let f := fetchScalar sh env.bolt.scode
    step s = endIssue (exec f.2 (({ s.ticked with agenda := rest } : State).issuing f.1)) := by
  have hi' : ({ s.ticked with agenda := rest } : State).dev.issuer sh.id = some (sh, env) := hi
  rw [step_of_agenda ha, stepTurn, halts_of_up hu, if_neg (by simp)]
  simp only [stepStream, Dev.fetchTurn, hi']
  rfl

theorem step_of_lane {sh : Shuttle} {env : Env} {e : Entry} (hu : s.up = true) (ha : s.agenda = .lane sh.id :: rest)
    (hi : s.dev.issuer sh.id = some (sh, env)) (hr : sh.running = true) (hs : sh.laneSuspended = false)
    (he : sh.current = some e) :
    let f := fetchLane sh e env.bolt.lcode
    step s = endIssue (exec f.2 (({ s.ticked with agenda := rest } : State).issuing f.1)) := by
  have hi' : ({ s.ticked with agenda := rest } : State).dev.issuer sh.id = some (sh, env) := hi
  rw [step_of_agenda ha, stepTurn, halts_of_up hu, if_neg (by simp)]
  simp only [stepStream, Dev.fetchTurn, hi', hr, hs, he]
  rfl

end

/-! ## The choice among turns -/

/-- The older of two streams, the first among equals. -/
def olderTurn (age : Turn → Nat) (acc : Option Turn) (t : Turn) : Option Turn :=
  match acc with
  | none => some t
  | some a => if age t > age a then some t else some a

theorem aged_eq (s : State) (ts : List Turn) :
    s.aged ts = (ts.filter fun t => decide (s.ageOf t ≥ 256)).foldl (olderTurn s.ageOf) none := rfl

/-- The oldest of some streams and of one chosen before them. -/
theorem foldl_olderTurn (age : Turn → Nat) (ts : List Turn) (a : Turn) :
    ∃ t, ts.foldl (olderTurn age) (some a) = some t ∧ (t = a ∨ t ∈ ts) ∧ age a ≤ age t ∧ ∀ x ∈ ts, age x ≤ age t := by
  induction ts generalizing a with
  | nil => exact ⟨a, rfl, .inl rfl, le_rfl, fun _ hm => nomatch hm⟩
  | cons x ts ih =>
    rw [List.foldl_cons, olderTurn]
    split
    · next h =>
      obtain ⟨t, e, hm, ha, hall⟩ := ih x
      exact ⟨t, e, .inr (hm.elim (fun h => h ▸ List.mem_cons_self) (List.mem_cons_of_mem _)), by omega,
        List.forall_mem_cons.2 ⟨ha, hall⟩⟩
    · next h =>
      obtain ⟨t, e, hm, ha, hall⟩ := ih a
      exact ⟨t, e, hm.imp_right (List.mem_cons_of_mem _), ha, List.forall_mem_cons.2 ⟨by omega, hall⟩⟩

/-- The stream that an issue opportunity goes to is one of those listed, and no aged one is older. -/
theorem aged_spec (s : State) (ts : List Turn) (t0 : Turn) (h0 : t0 ∈ ts) :
    (s.aged ts).getD t0 ∈ ts ∧ ∀ x ∈ ts, 256 ≤ s.ageOf x → s.ageOf x ≤ s.ageOf ((s.aged ts).getD t0) := by
  rw [aged_eq]
  cases hf : ts.filter fun t => decide (s.ageOf t ≥ 256) with
  | nil => exact ⟨h0, fun x hx h => absurd (List.filter_eq_nil_iff.1 hf x hx) (by simpa using h)⟩
  | cons a as =>
    obtain ⟨t, e, hm, ha, hall⟩ := foldl_olderTurn s.ageOf as a
    have mem : t ∈ ts.filter fun t => decide (s.ageOf t ≥ 256) := by
      rw [hf]
      exact List.mem_cons.2 hm
    rw [List.foldl_cons, olderTurn, e]
    refine ⟨(List.mem_filter.1 mem).1, fun x hx h => ?_⟩
    have hx' : x ∈ ts.filter fun t => decide (s.ageOf t ≥ 256) := List.mem_filter.2 ⟨hx, by simpa using h⟩
    rw [hf] at hx'
    rcases List.mem_cons.1 hx' with rfl | hx'
    · exact ha
    · exact hall x hx'

/-- A stream that the opportunity passes by grows older by one. -/
theorem ageOf_passed {s : State} {ages : List (Turn × Nat)} {xs : List Turn}
    {x : Turn} (hages : ∀ a ∈ ages, a.1 ≠ x) (hx : x ∈ xs) :
    ({ s with ages := ages ++ xs.map fun x => (x, s.ageOf x + 1) } : State).ageOf x = s.ageOf x + 1 := by
  have h1 : ages.find? (fun a => a.1 == x) = none := List.find?_eq_none.2 fun a ha => by simpa using hages a ha
  have h2 : (xs.map fun x => (x, s.ageOf x + 1)).find? (fun a => a.1 == x) = some (x, s.ageOf x + 1) := by
    rw [List.find?_map]
    have : xs.find? ((fun a : Turn × Nat => a.1 == x) ∘ fun x => (x, s.ageOf x + 1)) = some x := by
      induction xs with
      | nil => cases hx
      | cons y ys ih =>
        by_cases hy : y = x
        · simp [hy]
        · rw [List.find?_cons_of_neg (by simpa using hy)]
          exact ih ((List.mem_cons.1 hx).resolve_left (Ne.symm hy))
    rw [this]
    rfl
  simp only [State.ageOf, List.find?_append, h1, Option.none_or] at h2 ⊢
  rw [h2]
  rfl

/-- The turn that an issue opportunity goes to, and the ages after it. -/
theorem issueTurn_spec (s : State) (ts : List Turn) (t0 : Turn) (h0 : t0 ∈ ts) :
    ∃ t ∈ ts, ∃ ages, s.issueTurn ts t0 = (t, { s with ages := ages }) ∧
      ∀ x ∈ ts, x ≠ t → s.dev.issuePart x ≠ none → s.dev.issuePart x = s.dev.issuePart t →
        (256 ≤ s.ageOf x → s.ageOf x ≤ s.ageOf t) ∧ ({ s with ages := ages } : State).ageOf x = s.ageOf x + 1 := by
  cases hp : s.dev.issuePart t0 with
  | none => exact ⟨t0, h0, s.ages, by rw [State.issueTurn, hp], fun x _ _ hx he => absurd (he.trans hp) hx⟩
  | some p =>
    have h0' : t0 ∈ ts.filter fun x => s.dev.issuePart x == some p := List.mem_filter.2 ⟨h0, by simp [hp]⟩
    obtain ⟨hm, old⟩ := aged_spec s _ t0 h0'
    obtain ⟨hts, hpart⟩ := List.mem_filter.1 hm
    refine ⟨_, hts, _, by rw [State.issueTurn, hp], fun x hx hne _ he => ?_⟩
    have hxp : s.dev.issuePart x = some p := he.trans (by simpa using hpart)
    have hx' : x ∈ ts.filter fun x => s.dev.issuePart x == some p := List.mem_filter.2 ⟨hx, by simp [hxp]⟩
    refine ⟨old x hx', ageOf_passed (fun a ha e => ?_) (List.mem_filter.2 ⟨hx', by simpa using hne⟩)⟩
    have := (List.mem_filter.1 ha).2
    simp [e, hxp] at this

section
variable {s : State} {rest : List Turn}

theorem step_of_no_turns (ha : s.agenda = []) (ht : s.ticked.turns = []) : step s = .next s.ticked := by
  have ha' : s.ticked.agenda = [] := ha
  simp only [step, State.nextTurn, ha', ht]
  rfl

theorem step_of_turns (ha : s.agenda = []) (ht : s.ticked.turns ≠ []) :
    ∃ t0 ∈ s.ticked.turns, step s = stepTurn (s.ticked.issueTurn s.ticked.turns t0).1 (s.ticked.issueTurn s.ticked.turns t0).2 := by
  have ha' : s.ticked.agenda = [] := ha
  have hl : Config.pick s.ticked.dev.tick % s.ticked.turns.length < s.ticked.turns.length :=
    Nat.mod_lt _ (List.length_pos_of_ne_nil ht)
  refine ⟨_, List.getElem_mem hl, ?_⟩
  have he : s.ticked.turns.isEmpty = false := by simpa using ht
  simp only [step, State.nextTurn, ha', he, List.getElem?_eq_getElem hl]
  rfl

end

theorem DecodeError.sub_eq (x : DecodeError) : x.sub = if x = .reserved then 1 else 0 := by cases x <;> rfl

/-- Settles O3: the head of the agenda is the turn; a stream's turn executes what it fetches; and with nothing decided the turn is
the one that the issue opportunity goes to. -/
theorem stepRunsDecoded : Obligations.StepRunsDecoded := by
  refine fun s rest sh env i => ⟨fun w hu ha hi hw hd => ?_, fun hu ha hi => ⟨fun hw => ?_, fun w hw => ⟨fun h2 hn => ?_,
    fun x hx => ?_⟩⟩, fun e hu ha hi hr hs he => ⟨fun hw => ?_, fun w x hw hx => ?_⟩, fun w e hu ha hi hr hs he hw hd => ?_,
    fun hu ha hs => ?_, fun x hu ha => ?_, fun t hu ha hd => ?_, step_of_no_turns, fun ha ht => ?_⟩
  · have run := step_of_scalar hu ha hi
    simp only [fetchScalar_word hw, hd] at run
    refine ⟨fun h => ?_, fun v hv => ⟨fun h => ?_, fun h => ?_⟩⟩
    · rw [run]
      cases env.bolt.scode[sh.pc + 1]? <;> simp [scalarIssue, fetchWords, h]
    · rw [run, hv]
      simp [scalarIssue, fetchWords, h]
    · have h7 : opOf w ≠ 0x7F := fun e => by rw [e] at h; exact absurd h (by decide)
      rw [run, hv]
      simp [scalarIssue, fetchWords, h, h7]
  · obtain ⟨is, his, hl, hf, hnone, hsome⟩ := fetchScalar_beyond hw
    have run := step_of_scalar hu ha hi
    simp only [hf] at run
    exact ⟨fun hb => ⟨is, his, hl, (hnone hb).1, (hnone hb).2, run⟩,
      fun off w hb => ⟨is, his, hl, (hsome off w hb).1, (hsome off w hb).2, run⟩⟩
  · obtain ⟨x, hx, hsub⟩ := decodeScalar_short h2
    have run := step_of_scalar hu ha hi
    have hz : scalarSub sh w x = 0 := by rw [scalarSub, hsub, ite_self, ite_self]
    simp only [fetchScalar_word hw, hn, hx, hz] at run
    exact ⟨_, rfl, rfl, rfl, rfl, run⟩
  · have run := step_of_scalar hu ha hi
    simp only [fetchScalar_word hw, hx, scalarSub_eq] at run
    exact ⟨_, rfl, rfl, rfl, rfl, run⟩
  · have run := step_of_lane hu ha hi hr hs he
    simp only [fetchLane_eq, hw] at run
    exact run
  · have run := step_of_lane hu ha hi hr hs he
    simp only [fetchLane_eq, hw, hx, DecodeError.sub_eq] at run
    exact run
  · have run := step_of_lane hu ha hi hr hs he
    simp only [fetchLane_eq, hw, hd] at run
    exact run
  · have hh : ({ s.ticked with agenda := rest } : State).halts (.event i) = false := by
      rcases hu with hu | hu
      · exact halts_of_up hu _
      · simp only [State.halts, hu, Bool.and_false]
    rw [step_of_agenda ha, stepTurn, hh]
    simp only [hs]
    rfl
  · rw [step_of_agenda ha, stepTurn, halts_of_up hu]
    rfl
  · have hh : ({ s.ticked with agenda := rest } : State).halts t = true := by
      simp only [State.halts, show ({ s.ticked with agenda := rest } : State).up = false from hu]
      cases t with
      | event j => exact hd j rfl
      | _ => rfl
    rw [step_of_agenda ha, stepTurn_halted hh]
  · obtain ⟨t0, h0, run⟩ := step_of_turns ha ht
    obtain ⟨t, hm, ages, ht, spec⟩ := issueTurn_spec s.ticked _ t0 h0
    rw [ht] at run
    exact ⟨t, hm, ages, run, spec⟩

end Sys2Proof.Machine
end

section
/-!
PROOF. Refutations of claims about lane words. Each rests on a state of one shuttle with one thread, in which the claim asks for
more than the rules do.
-/
namespace Sys2Proof.Machine

/-! ## A state of one shuttle -/

/-- The only lane block of the shuttle: it starts at word 0 with one thread. -/
def soloBlock : Block :=
  { id := 1, entry := 0, args := [], fmt := 0, seed := 0, outBase := 64, outN := 0, written := [], seq := [], beats := [0] }

def soloEntry : Entry := Entry.start 0 [0] 0

/-- A shuttle of stage 0 whose only thread is at word 0; no predicate but p7 is true. -/
def soloShuttle : Shuttle :=
  { id := 1, team := 1, stage := 0, num := 0, spawned := false, nthreads := 1, core := 0, part := 0, lane := 0, slot := 0,
    live := true, stopped := false, pc := 0, branchFrom := none, fmt := 0, seed := 0, sregs := [], vregs := [], preds := [],
    flags := [], counts := [], blocks := [soloBlock], running := true, frontier := [soloEntry], handler := false,
    suspended := .none, traps := 0, laneFence := 0, accs := [], regions := [], seq := [], splits := [], arrived := none,
    txns := [], record := none, exposed := false, sscw := [], waiter := false }

/-- A resident team, with the order of its last dispatch. -/
def soloTeam (order : Nat) : Team :=
  { id := 1, launch := 1, fn := 0, num := 0, cluster := 0, cores := [0], resident := true, started := true, dying := false,
    pausing := none, image := none, banks := [], handles := [], copies := [], queues := [], streams := [], arrivals := [],
    stateBase := 0, stateSize := 0, order := order }

def soloLaunch : Launch :=
  { id := 1, fn := 0, part := 0, ctx := 0, source := .child, rootQueue := 0, desc := 0, exts := [], args := 0, cnt := 0,
    inc := 0, pin := 0, dep := 0, prio := 0, depth := 0, prog := none, depFault := false, runNo := 0, runLeft := 0,
    phase := .placing, levels := [], runExts := [], runPin := 0, runArgs := 0, nextTeam := 0, terminated := none }

/-- A bolt of one nest of two stages that declares 8 vector registers. -/
def soloBolt : Bolt :=
  { addr := 0, nnest := 1, nestBase := 0, nest := [0, 1, 0, 0, 8, 0, 0, 0], scode := [], lcode := [], size := 0 }

/-- The shuttle with a lane word at issue, among some teams. -/
def soloState (teams : List Team) (sh : Shuttle) : State :=
  { State.reset with
    dev :=
      { Dev.reset with
        issue := some { sh := 1, lane := true, first := 0, pc := 0, next := 1, words := [] }
        shuttles := [sh], teams := teams, launches := [soloLaunch], funcs := [(0, { bolts := [soloBolt] })] } }

def soloIssue : Issue := { sh := 1, lane := true, first := 0, pc := 0, next := 1, words := [] }

def soloEnv : Env := { team := soloTeam 0, launch := soloLaunch, bolt := soloBolt, nest := soloBolt.nestOf 0 }

/-- Two teams with one number, of which the first is the shuttle's. -/
def twinState : State := soloState [soloTeam 0, soloTeam 1] soloShuttle

/-- A word that names queue 0 of the next stage as D, under a guard that is false in the thread. -/
def unguardedPush (t : Nat) : LaneWord :=
  { d := 784, a := 788, b := 788, c := 788, pg := 0, u := false, blk := false, e := 0, t := t, x := 0 }

/-- A word whose threads all fail its guard leaves the teams as they are, so that no device with one team in the place of both
can be the one that it leaves. -/
theorem twinState_not_delivered {r : LaneRun} {e : Entry} {blk : Block} {v : Nat → Nat} {d : Dev} {h : Shuttle} {t : State}
    {i : Instr} (hq : isQ r.w.d = true) (hex : exec i twinState = .next t) (ht : t.dev.teams = twinState.dev.teams)
    (hd : exec i twinState = .next (twinState.withDev (d.setShuttle h)))
    (hr : r.Delivers twinState soloShuttle soloEnv blk e v d h) : False := by
  obtain ⟨-, -, -, -, -, -, hteam⟩ := hr
  obtain ⟨u, rfl, hu, -⟩ := hteam hq
  have hid : u.id = 1 := congrArg Team.id hu
  have hdev : t.dev.teams = (twinState.dev.setTeam u).teams := by
    rw [hex] at hd
    exact congrArg (fun s : State => s.dev.teams) (Host.Outcome.next.inj hd)
  have htwo : (twinState.dev.setTeam u).teams = [u, u] := by
    simp [Dev.setTeam, twinState, soloState, soloTeam, hid]
  have hsame : [soloTeam 0, soloTeam 1] = [u, u] := ht.symm.trans (hdev.trans htwo)
  have : soloTeam 0 = soloTeam 1 := by
    injection hsame with h0 h1
    injection h1 with h1 _
    exact h0.trans h1.symm
  exact absurd this (by decide)

/-- The run of a push that no thread makes. -/
def unguardedRun (opc : Nat) (row : LaneRow) (t : Nat) : LaneRun :=
  { opc := opc, row := row, w := unguardedPush t, set := [0], path := [], raw := [] }

theorem unguardedRun_takes (opc : Nat) (row : LaneRow) (t : Nat) :
    (unguardedRun opc row t).ex soloShuttle = [] ∧
      (unguardedRun opc row t).Takes soloShuttle soloEnv soloBlock soloEntry := by
  have hex : (unguardedRun opc row t).ex soloShuttle = [] := rfl
  refine ⟨hex, ?_, fun h => absurd h Bool.false_ne_true, fun _ => ⟨List.nodup_singleton 0, fun b hb => ?_⟩⟩
  · simp [LaneRun.dstPending, hex]
  · rw [hex] at hb
    exact nomatch hb

/-- Refutes O42: D of a word that no thread executes names a queue, and the device holds two teams with one number. Nothing
changes, while the claim asks for a device in which one team stands in the place of both. -/
theorem not_laneArithmetic : ¬ Obligations.LaneArithmetic := by
  unfold Obligations.LaneArithmetic
  intro hall
  let r := unguardedRun 0x020 (LaneRow.mk [15, 6, 7] .whole false .vec 0 false) 15
  obtain ⟨hnone, htakes⟩ := unguardedRun_takes 0x020 (LaneRow.mk [15, 6, 7] .whole false .vec 0 false) 15
  have hword : twinState.AtWord soloIssue soloShuttle soloEnv soloBlock soloEntry (.movi r.w) r := by
    refine ⟨⟨rfl, rfl, rfl⟩, rfl, rfl, rfl, rfl, rfl, rfl, rfl, rfl, ?_, ?_⟩ <;> decide
  have hreads : r.Reads soloShuttle soloBlock := by
    refine ⟨?_, ?_, ?_⟩ <;> decide
  obtain ⟨d, h, hd, hdel, -⟩ := hall _ _ _ _ _ _ _ r opMovi hword rfl hreads htakes
  exact twinState_not_delivered (by rfl) (t := _) (by rfl) (by rfl) hd hdel

/-- Refutes O46: the same of `lidx`. -/
theorem not_laneQueries : ¬ Obligations.LaneQueries := by
  unfold Obligations.LaneQueries
  intro hall
  let r := unguardedRun 0x0F4 (ctlRow .level .vec 0 false) 0
  obtain ⟨hnone, htakes⟩ := unguardedRun_takes 0x0F4 (ctlRow .level .vec 0 false) 0
  have hword : twinState.AtWord soloIssue soloShuttle soloEnv soloBlock soloEntry (.lidx r.w) r := by
    refine ⟨⟨rfl, rfl, rfl⟩, rfl, rfl, rfl, rfl, rfl, rfl, rfl, rfl, ?_, ?_⟩ <;> decide
  have hreads : r.Reads soloShuttle soloBlock := by
    refine ⟨?_, ?_, ?_⟩ <;> decide
  obtain ⟨d, h, hd, hdel, -⟩ := (hall _ _ _ _ _ _ _ r hword hreads).1 rfl htakes
  exact twinState_not_delivered (by rfl) (t := _) (by rfl) (by rfl) hd hdel

/-- An `lcall` of a type of two registers, which R97 does not list. -/
def pairCall : LaneWord :=
  { d := 0, a := 788, b := 788, c := 788, pg := 7, u := false, blk := false, e := 0, t := 6, x := 0 }

/-- The shuttle with v1 of its thread full of 1. -/
def secondFull : Shuttle := { soloShuttle with vregs := [(1, .full 1)] }

/-- Refutes O45: the claim takes D of `lcall` to have the registers of the word's type, and no hypothesis of it says that the type
is one that `lcall` takes (T 0). With T 6 the word writes v0 alone, and the claim asks that v1 hold the upper half. -/
theorem not_laneControl : ¬ Obligations.LaneControl := by
  unfold Obligations.LaneControl
  intro hall
  let s := soloState [soloTeam 0] secondFull
  let r : LaneRun :=
    { opc := 0x0F2, row := ctlRow .offset (.vecOnly true false) 0 true, w := pairCall, set := [0], path := [], raw := [] }
  have hword : s.AtWord soloIssue secondFull soloEnv soloBlock soloEntry (.lcall r.w) r := by
    refine ⟨⟨rfl, rfl, rfl⟩, rfl, rfl, rfl, rfl, rfl, rfl, rfl, rfl, ?_, ?_⟩ <;> decide
  have hreads : r.Reads secondFull soloBlock := by
    refine ⟨?_, ?_, ?_⟩ <;> decide
  have hwrites : r.Writes secondFull := by
    refine ⟨?_, ?_, ?_⟩ <;> decide
  obtain ⟨-, -, -, -, -, hcall, -⟩ := hall s _ _ _ _ _ _ r hword hreads hwrites
  obtain ⟨h, hend, hfill, -, hframe⟩ := hcall rfl (by decide)
  have hid : h.id = 1 := congrArg Shuttle.id hframe
  obtain ⟨t, hex, hcells⟩ : ∃ t, exec (.lcall r.w) s = .next t ∧ t.dev.shuttles.map (·.vreg 0 1) = [.full 1] :=
    ⟨_, rfl, by decide⟩
  have hset : t.dev.shuttles = [h] := by
    have ht : t = s.setShuttle h := Host.Outcome.next.inj (hex.symm.trans hend)
    have hone : (s.setShuttle h).dev.shuttles = [h] := by
      simp [s, State.setShuttle, Dev.setShuttle, putShuttle, soloState, secondFull, soloShuttle, hid]
    rw [ht, hone]
  have hkept : h.vreg 0 1 = .full 1 := by simpa [hset] using hcells
  have hzero : h.vreg 0 1 = .full 0 := (hfill 0 1 (by decide)).trans (by decide)
  exact absurd (hkept.symm.trans hzero) (by decide)

end Sys2Proof.Machine
end

section
/-!
PROOF. A refutation of the claim about accesses: a store that reaches past the last partition's range.
-/
namespace Sys2Proof.Machine

/-- The first address above the partitions' ranges, which is the first of its line. -/
def partitionsEnd : Nat := 0x100000000000 + 0x10000000000 * 12

/-- The last byte of the last partition's range. -/
def lastLoc : Loc := { key := partitionsEnd - 1, keyid := 0, hctx := 0, space := 0, ro := false }

/-- A store of two bytes at the last byte of the last partition. -/
def edgeStore : Access :=
  { id := 5, word := 5, beat := none, kind := .store, va := 0, size := 2, data := 0, ord := 0, dst := .none, covers := [],
    block := 0, status := .home lastLoc }

def edgeShuttle : Shuttle := { soloShuttle with accs := [edgeStore] }

/-- The function's slot 0 holds no key, and the line above the partitions was written under one that a tenant loaded. -/
def edgeState : State :=
  let s := soloState [soloTeam 0] edgeShuttle
  { s with
    dev := { s.dev with
      funcs := [(0, { bolts := [soloBolt], keys := [(0, .raw)] })], keyTags := [(partitionsEnd / 128, .loaded 0)] } }

/-- Refutes O50: every line that a store touches is brought under the store's key, and so is the line above the last partition's
range when the store reaches into it. Bytes there are read with no key, and the second byte of that line, which the store does not
write, turns from 0 into a byte of the tenant key's ciphertext of zeros. -/
theorem not_accessEvents : ¬ Obligations.AccessEvents := by
  unfold Obligations.AccessEvents
  intro hall
  have hat : edgeState.AtAccess edgeShuttle soloEnv edgeStore := ⟨rfl, rfl, rfl, rfl, rfl⟩
  obtain ⟨-, -, -, hwalk, -⟩ := hall edgeState edgeShuttle soloEnv edgeStore hat
  obtain ⟨hhome, -⟩ := hwalk rfl (by decide)
  obtain ⟨-, -, hperform⟩ := hhome lastLoc rfl (by decide)
  obtain ⟨hstore, -⟩ := hperform (by decide) (by decide)
  obtain ⟨-, -, hkeeps, -⟩ := hstore rfl
  have hbyte := hkeeps (partitionsEnd + 1) (.inr (by decide))
  revert hbyte
  decide +kernel

end Sys2Proof.Machine
end

section
/-!
PROOF. How a lane word at issue executes: what it runs, the three ends of a word, its sources, and the registers that its threads
write.
-/
namespace Sys2Proof.Machine

variable {s : State} {is : Issue} {sh : Shuttle} {env : Env} {blk : Block} {e : Entry} {i : Instr} {r : LaneRun}

/-! ## The word at issue -/

/-- The check of `lshb` alone: its handle lies in the shared table. -/
def shareCheck (opc : Nat) (w : LaneWord) (env : Env) : Bool :=
  opc == 0x0F5 && decide (w.x % 65536 ≥ env.nest.shared.length)

/-- The words of the integer, float and conversion classes compute a value. -/
theorem exec_arith {opc : Nat} {w : LaneWord} {f : LaneArg → Nat × Nat} (hof : laneOf i = some (opc, w))
    (hf : laneFn opc = some f) : exec i s = laneArith opc w f s := by
  cases i <;> cases hof <;> cases hf <;> rfl

/-- Every lane word but `lend` is fetched alike. -/
theorem exec_lane {opc : Nat} {w : LaneWord} (hof : laneOf i = some (opc, w)) (hend : opc ≠ 0x0F3) :
    ∃ sub1 run, (∀ env, sub1 env = shareCheck opc w env) ∧ exec i s = laneFetched opc w sub1 run s := by
  cases hf : laneFn opc with
  | some f =>
    rw [exec_arith hof hf, laneArith, laneValue, laneWord]
    refine ⟨_, _, fun env => ?_, rfl⟩
    have : opc ≠ 0x0F5 := by rintro rfl; cases hf
    simp [shareCheck, this]
  | none =>
    cases i <;> cases hof <;> cases hf
    case none.lend.refl.refl => exact absurd rfl hend
    all_goals
      rw [exec]
      simp only [execLd, execSt, execAtom, execRed, execPf, execCln, execTbeg, execTend, execTabt, execTsts, execBra, execBrr,
        execLcall, execLidx, execLshb, execLvote, execXissue, execLfmt, execRdflg, execClrflg, execLnop, execLtrap, execAccrd,
        execAccwr, execBperm, laneValue, laneWord]
      refine ⟨_, _, fun _ => ?_, rfl⟩
      rfl

theorem laneFetched_runs {opc : Nat} {w : LaneWord} {row : LaneRow} {sub1 : Env → Bool}
    {run : LaneCtx → LaneRun → Dev → Shuttle → Entry → LaneStep} (hat : s.AtIssue is sh env) (hblk : sh.block = some blk)
    (hcur : sh.current = some e) (hrow : laneRow opc = some row) (h1 : sub1 env = false)
    (hill : laneIllegal opc row w env.nest.nv env.nest.tiles (sh.inq env.nest) (sh.outq env.nest) = none) :
    laneFetched opc w sub1 run s =
      .next (s.withDev (finishWord ⟨is, env, blk, e⟩
        (run ⟨is, env, blk, e⟩ ⟨opc, row, w, e.beats, [], is.words⟩ s.dev sh e))) := by
  rw [laneFetched, onIssue_eq hat]
  simp [hblk, hcur, hrow, h1, hill]

theorem laneFetched_illegal {opc : Nat} {w : LaneWord} {row : LaneRow} {sub1 : Env → Bool} {x : Nat × Nat}
    {run : LaneCtx → LaneRun → Dev → Shuttle → Entry → LaneStep} (hat : s.AtIssue is sh env) (hblk : sh.block = some blk)
    (hcur : sh.current = some e) (hrow : laneRow opc = some row) (h1 : sub1 env = false)
    (hill : laneIllegal opc row w env.nest.nv env.nest.tiles (sh.inq env.nest) (sh.outq env.nest) = some x) :
    laneFetched opc w sub1 run s =
      .next (s.withDev (finishWord ⟨is, env, blk, e⟩
        { d := s.dev, s := sh, e := e, out := [],
          fin := .trapped { cause := 0x10, sub := x.1, threads := e.beats, operand := x.2, words := is.words } })) := by
  rw [laneFetched, onIssue_eq hat]
  simp [hblk, hcur, hrow, h1, hill]

/-- A word at issue that passes its checks runs. -/
theorem laneWord_runs (hw : s.AtWord is sh env blk e i r) (run : LaneCtx → LaneRun → Dev → Shuttle → Entry → LaneStep) :
    laneWord r.opc r.w run s =
      .next (s.withDev (finishWord ⟨is, env, blk, e⟩ (run ⟨is, env, blk, e⟩ r s.dev sh e))) := by
  obtain ⟨hat, hblk, hcur, -, -, hrow, hset, hpath, hraw, -, hill⟩ := hw
  obtain ⟨opc, row, w, set, path, raw⟩ := r
  subst hset hpath hraw
  exact laneFetched_runs hat hblk hcur hrow rfl hill

theorem Entry.fresh_iff (e : Entry) :
    e.fresh = true ↔ e.done = [] ∧ e.left = [] ∧ e.popped = [] ∧ e.pushed = [] ∧ e.xfaults = [] ∧ e.held = [] := by
  simp [Entry.fresh, and_assoc]

theorem Shuttle.id_of_atIssue (h : s.AtIssue is sh env) : sh.id = is.sh := by simpa using List.find?_some h.2.1

theorem Dev.team_of_env {d : Dev} (h : d.env sh = some env) : d.team sh.team = some env.team := by
  unfold Dev.env at h
  split at h
  · cases h
  · next t ht =>
    unfold Dev.envOfTeam at h
    split at h
    · cases h
    · split at h
      · cases h
      · cases h
        exact ht

theorem Dev.team_id {d : Dev} {id : Nat} {t : Team} (h : d.team id = some t) : t.id = id := by simpa using List.find?_some h

/-! ## The ends of a word -/

@[simp] theorem staying_nil (beats : List Nat) : staying beats [] = beats := by simp [staying]

theorem Entry.keep_self {e : Entry} {beats : List Nat} (hd : e.done = []) (hl : e.left = []) (hq : e.pushed = [])
    (hx : e.xfaults = []) (hh : e.held = []) (hp : ∀ p ∈ e.popped, p.1 ∈ beats) (hb : e.beats = beats) : e.keep beats = e := by
  obtain ⟨pc, bs, fmt, status, done, left, popped, pushed, xfaults, held⟩ := e
  subst hd hl hq hx hh hb
  have : popped.filter (fun p => bs.contains p.1) = popped := List.filter_eq_self.2 fun p hm => by simpa using hp p hm
  simp only [Entry.keep, this, List.filter_nil]

/-- A word that is done moves its entry on. -/
theorem finishWord_moved (c : LaneCtx) (d : Dev) (h : Shuttle) (e' : Entry) :
    finishWord c { d := d, s := h, e := e', out := [], fin := .moved } =
      d.setShuttle { h with frontier := h.goesOn c.env c.cur } := by
  simp [finishWord, stayAt, nextFrontier]

/-- A word that waits keeps its progress at its entry. -/
theorem finishWord_waits (c : LaneCtx) (d : Dev) (h : Shuttle) (e' : Entry) :
    finishWord c { d := d, s := h, e := e', out := [], fin := .waiting } =
      d.setShuttle { h with frontier := h.goesTo c.env c.cur [e'.keep c.cur.beats] } := by
  simp [finishWord, stayAt, nextFrontier]

/-- Threads in no attempt lose none. -/
theorem rejectAttempts_none {d : Dev} {h : Shuttle} {fn : Nat} {threads : List Nat}
    (ht : ∀ b ∈ threads, h.attempt b = none) : d.rejectAttempts h fn threads = (d, h, []) := by
  unfold Dev.rejectAttempts
  induction threads with
  | nil => rfl
  | cons b bs ih =>
    rw [List.foldl_cons, ht b List.mem_cons_self]
    exact ih fun b' hb => ht b' (List.mem_cons_of_mem b hb)

/-- The shuttle that a trap of a word leaves: its entry is suspended. -/
def Shuttle.suspendedBy (h : Shuttle) (c : LaneCtx) (e' : Entry) (t : LaneTrap) : Shuttle :=
  { h with frontier := h.goesTo c.env c.cur [(e'.keep c.cur.beats).suspended t] }

theorem finishWord_trapped (c : LaneCtx) (d : Dev) (h : Shuttle) (e' : Entry) (t : LaneTrap)
    (ht : ∀ b ∈ t.threads, h.attempt b = none) :
    finishWord c { d := d, s := h, e := e', out := [], fin := .trapped t } =
      (d.setShuttle (h.suspendedBy c e' t)).trap (h.suspendedBy c e' t) c.env.nest.hasTrap c.env.nest.trapOff
        (laneTrapInfo (h.suspendedBy c e' t) (e'.keep c.cur.beats) t)
        (.lane (e'.keep c.cur.beats).pc (e'.keep c.cur.beats).beats t.skip) := by
  simp [finishWord, rejectAttempts_none ht, nextFrontier, Shuttle.suspendedBy]

/-- A trap of a cause from 6 on ends the team. -/
theorem finishWord_endsTeam (c : LaneCtx) (d : Dev) (h : Shuttle) (e' : Entry) (t : LaneTrap)
    (ht : ∀ b ∈ t.threads, h.attempt b = none) (hc : 5 < t.cause) :
    ∃ words, finishWord c { d := d, s := h, e := e', out := [], fin := .trapped t } =
      (d.setShuttle (h.suspendedBy c e' t)).terminate (h.suspendedBy c e' t) 1 t.cause t.sub 0 words [] 0 :=
  ⟨_, (finishWord_trapped c d h e' t ht).trans (trap_terminating _ _ _ _ _ _ hc)⟩

theorem endsTeamAt_of_trapped {c : LaneCtx} {h : Shuttle} {e' : Entry} {t : LaneTrap}
    (hex : exec i s = .next (s.withDev (finishWord c { d := s.dev, s := h, e := e', out := [], fin := .trapped t })))
    (ht : ∀ b ∈ t.threads, h.attempt b = none) (hc : 5 < t.cause) (hid : h.id = sh.id) (hteam : h.team = sh.team)
    (hv : h.vregs = sh.vregs) (hsr : h.sregs = sh.sregs) : EndsTeamAt i s sh t.cause t.sub := by
  obtain ⟨words, hfin⟩ := finishWord_endsTeam c s.dev h e' t ht hc
  exact ⟨h.suspendedBy c e' t, words, hid, hteam, hv, hsr, by rw [hex, hfin]⟩

theorem Shuttle.putWords_vregs (h : Shuttle) (n : Nat) (ws : List Nat) : (h.putWords n ws).vregs = h.vregs :=
  (congrArg Shuttle.vregs (h.putWords_frame n ws) :)

theorem Shuttle.putWords_id (h : Shuttle) (n : Nat) (ws : List Nat) : (h.putWords n ws).id = h.id :=
  (congrArg Shuttle.id (h.putWords_frame n ws) :)

theorem enterHandler_vregs (h : Shuttle) (t : TrapInfo) (off : Nat) (susp : Suspended) :
    (h.enterHandler t off susp).vregs = h.vregs := by
  rw [Shuttle.enterHandler]
  generalize trapWords t (h.traps + 1) = ws
  exact (h.takeOver 1008 16).putWords_vregs 1008 ws

theorem enterHandler_id (h : Shuttle) (t : TrapInfo) (off : Nat) (susp : Suspended) :
    (h.enterHandler t off susp).id = h.id := by
  rw [Shuttle.enterHandler]
  generalize trapWords t (h.traps + 1) = ws
  exact (h.takeOver 1008 16).putWords_id 1008 ws

/-- The shuttle in its handler, by a trap of a word. -/
def Shuttle.trappedBy (h : Shuttle) (c : LaneCtx) (e' : Entry) (t : LaneTrap) : Shuttle :=
  (h.suspendedBy c e' t).enterHandler (laneTrapInfo (h.suspendedBy c e' t) (e'.keep c.cur.beats) t) c.env.nest.trapOff
    (.lane (e'.keep c.cur.beats).pc (e'.keep c.cur.beats).beats t.skip)

/-- A trap of a cause up to 5 enters the handler of the nest. -/
theorem finishWord_entersHandler (c : LaneCtx) (d : Dev) (h : Shuttle) (e' : Entry) (t : LaneTrap)
    (ht : ∀ b ∈ t.threads, h.attempt b = none) (hc : t.cause ≤ 5) (htrap : c.env.nest.hasTrap = true)
    (hh : h.handler = false) :
    finishWord c { d := d, s := h, e := e', out := [], fin := .trapped t } =
      (d.setShuttle (h.suspendedBy c e' t)).setShuttle (h.trappedBy c e' t) := by
  rw [finishWord_trapped c d h e' t ht, htrap]
  exact trap_enters _ _ _ _ _ hc hh

/-- Register k of the trap record of a word. -/
theorem Shuttle.sreg_trappedBy (h : Shuttle) (c : LaneCtx) (e' : Entry) (t : LaneTrap) {k : Nat} (hk : k < 16) :
    (h.trappedBy c e' t).sreg (1008 + k) =
      fullOf ((trapWords (laneTrapInfo h (e'.keep c.cur.beats) t) (h.traps + 1)).getD k 0) :=
  Shuttle.sreg_enterHandler_record _ _ _ _ hk

theorem entersHandler_of_trapped {e' : Entry} {t : LaneTrap} (hat : s.AtIssue is sh env) (hpc : e'.pc = e.pc)
    (hex : exec i s =
      .next (s.withDev (finishWord ⟨is, env, blk, e⟩ { d := s.dev, s := sh, e := e', out := [], fin := .trapped t })))
    (ht : ∀ b ∈ t.threads, sh.attempt b = none) (hc : t.cause ≤ 5) (htrap : env.nest.hasTrap = true)
    (hh : sh.handler = false) :
    EntersHandler i s sh env e t.cause t.sub t.threads (sh.trappedBy ⟨is, env, blk, e⟩ e' t) := by
  have hfin := finishWord_entersHandler ⟨is, env, blk, e⟩ s.dev sh e' t ht hc htrap hh
  have hfind : s.dev.shuttle sh.id = some sh := by rw [Shuttle.id_of_atIssue hat]; exact hat.2.1
  have hfind' : (s.dev.setShuttle (sh.suspendedBy ⟨is, env, blk, e⟩ e' t)).shuttle sh.id =
      some (sh.suspendedBy ⟨is, env, blk, e⟩ e' t) := Dev.shuttle_setShuttle hfind rfl
  have hid : (sh.trappedBy ⟨is, env, blk, e⟩ e' t).id = sh.id :=
    enterHandler_id _ _ _ _
  have hmsg : ∀ k v, k < 16 → (trapWords (laneTrapInfo sh (e'.keep e.beats) t) (sh.traps + 1)).getD k 0 = v →
      (sh.trappedBy ⟨is, env, blk, e⟩ e' t).sreg (1008 + k) = fullOf v := fun k v hk hv => by
    rw [sh.sreg_trappedBy _ _ _ hk, hv]
  rw [hfin] at hex
  refine ⟨⟨_, hex, Dev.shuttle_setShuttle hfind' hid, rfl, rfl⟩, ?_, ?_, ?_, ?_, ?_, ?_, ?_, ?_, ?_⟩
  · rfl
  · rfl
  · rfl
  · exact enterHandler_vregs _ _ _ _
  · exact hmsg 0 _ (by decide) rfl
  · exact hmsg 1 _ (by decide) rfl
  · exact hmsg 2 _ (by decide) rfl
  · rw [← hpc]
    exact hmsg 3 _ (by decide) rfl
  · exact fun n hn => (Shuttle.sreg_enterHandler _ _ _ _ _).trans (if_neg (by omega))

end Sys2Proof.Machine
end

section
/-!
PROOF. Words that compute a value: their sources, their pops, and what they leave in the registers of their threads.
-/
namespace Sys2Proof.Machine

variable {c : LaneCtx} {r : LaneRun} {s : Shuttle} {blk : Block} {e : Entry} {d : Dev}

/-! ## Sources -/

theorem starved_eq_false {ev : List Nat} {srcs : List (Nat × Nat × Nat)} :
    r.starved s blk ev srcs = false ↔ ∀ b ∈ ev, ∀ x ∈ srcs, s.srcEmpty blk b x.2.1 x.2.2 = false := by
  simp [LaneRun.starved]

/-- No empty register under an E bit is no full/empty fault. -/
theorem emptyFault_none {ev : List Nat} {srcs : List (Nat × Nat × Nat)}
    (h : ∀ b ∈ ev, ∀ x ∈ srcs, eBit r.w x.1 x.2.1 = true → s.srcEmpty blk b x.2.1 x.2.2 = false) :
    r.emptyFault s blk ev srcs = none := by
  have : (srcs.find? fun x => ev.any fun b => eBit r.w x.1 x.2.1 && s.srcEmpty blk b x.2.1 x.2.2) = none := by
    refine List.find?_eq_none.2 fun x hx hany => ?_
    obtain ⟨b, hb, hhit⟩ := List.any_eq_true.1 hany
    simp [h b hb x hx (by simp_all)] at hhit
  simp only [LaneRun.emptyFault, this]

theorem sourcesReady_none {ev : List Nat} {srcs : List (Nat × Nat × Nat)} (hs : r.starved s blk ev srcs = false)
    (hb : r.badFault s blk ev srcs = none) : r.sourcesReady s blk ev srcs = none := by
  have he := emptyFault_none (r := r) (s := s) (blk := blk) fun b hm x hx _ => starved_eq_false.1 hs b hm x hx
  simp [LaneRun.sourcesReady, he, hs, hb]

theorem sourcesReady_waits {ev : List Nat} {srcs : List (Nat × Nat × Nat)} (hs : r.starved s blk ev srcs = true)
    (h : ∀ b ∈ ev, ∀ x ∈ srcs, eBit r.w x.1 x.2.1 = true → s.srcEmpty blk b x.2.1 x.2.2 = false) :
    r.sourcesReady s blk ev srcs = some .waiting := by
  simp [LaneRun.sourcesReady, emptyFault_none h, hs]

/-- An entry with nothing popped, pushed or brought evaluates its threads from the first. -/
theorem ev_of_nothing_begun (hp : e.popped = []) (hh : e.held = []) (hq : e.pushed = []) (ex : List Nat) :
    r.ev e ex = r.evaluates ex := by
  have hb : r.begun e = [] := by simp [LaneRun.begun, hp, hh, hq]
  have hf : ex.filter ([] : List Nat).contains = [] := List.filter_eq_nil_iff.2 fun _ _ => by simp
  simp [LaneRun.ev, LaneRun.evaluates, hb, hf]

theorem evaluates_subset {ex : List Nat} {b : Nat} (h : b ∈ r.evaluates ex) : b ∈ ex := by
  unfold LaneRun.evaluates at h
  split at h
  · exact List.mem_of_mem_take h
  · exact h

theorem ex_subset_set {b : Nat} (h : b ∈ r.ex s) : b ∈ r.set := (List.mem_filter.1 h).1

theorem operands_of_none_held (hh : e.held = []) (b : Nat) :
    r.operands s blk e b =
      { beat := b, a := r.source s blk e b 0, b := r.source s blk e b 1, c := r.source s blk e b 2,
        e := if r.casD then s.srcVal blk b r.w.d (laneShape r.opc r.row r.w).d else 0 } := by
  simp [LaneRun.operands, Entry.heldFor, hh]

/-! ## Pops -/

theorem popAll_nil (s : Shuttle) (bs : List Nat) (d : Dev) (e : Entry) : popAll c [] s bs d e = (d, e, true) := by
  induction bs with
  | nil => rfl
  | cons b bs ih => simpa [popAll, popFor] using ih

/-- Pops add to what their entry has popped, for the threads that pop, and change nothing else of it. -/
theorem popFor_entry (s : Shuttle) (b : Nat) (qs : List Nat) (d : Dev) (e : Entry) :
    ∃ ps : List (Nat × Nat), (popFor c s b qs d e).2.1 = { e with popped := e.popped ++ ps } ∧ ∀ p ∈ ps, p.1 = b := by
  induction qs generalizing d e with
  | nil => exact ⟨[], by simp [popFor], fun _ hm => nomatch hm⟩
  | cons q qs ih =>
    unfold popFor
    split
    · exact ⟨[], by simp, fun _ hm => nomatch hm⟩
    · split
      · exact ⟨[], by simp, fun _ hm => nomatch hm⟩
      · next v vs _ =>
        obtain ⟨ps, hps, hall⟩ := ih _ { e with popped := e.popped ++ [(b, v.toNat)] }
        refine ⟨(b, v.toNat) :: ps, by rw [hps]; simp, fun p hp => ?_⟩
        rcases List.mem_cons.1 hp with rfl | hp
        · rfl
        · exact hall p hp

theorem popAll_entry (pops : List Nat) (s : Shuttle) (bs : List Nat) (d : Dev) (e : Entry) :
    ∃ ps : List (Nat × Nat), (popAll c pops s bs d e).2.1 = { e with popped := e.popped ++ ps } ∧ ∀ p ∈ ps, p.1 ∈ bs := by
  induction bs generalizing d e with
  | nil => exact ⟨[], by simp [popAll], fun _ hm => nomatch hm⟩
  | cons b bs ih =>
    obtain ⟨ps, hps, hall⟩ := popFor_entry (c := c) s b (pops.drop (e.popped.filter fun p => p.1 == b).length) d e
    unfold popAll
    split
    · next d' e' heq =>
      rw [heq] at hps
      exact ⟨ps, hps, fun p hp => by rw [hall p hp]; exact List.mem_cons_self⟩
    · next d' e' heq =>
      rw [heq] at hps
      obtain ⟨qs, hqs, hall'⟩ := ih d' e'
      refine ⟨ps ++ qs, ?_, fun p hp => ?_⟩
      · rw [hqs]
        dsimp only at hps
        rw [hps]
        simp
      · rcases List.mem_append.1 hp with hp | hp
        · rw [hall p hp]; exact List.mem_cons_self
        · exact List.mem_cons_of_mem b (hall' p hp)

/-! ## Registers that threads write -/

/-- Writes of k registers of a thread. -/
theorem Shuttle.vreg_putV (s : Shuttle) (b d v k : Nat) (hd : d + k ≤ 1024) (b' n : Nat) (hn : n < 1024) :
    (s.putV b d v k).vreg b' n = if b' = b ∧ d ≤ n ∧ n < d + k then fullOf (v / 2 ^ (32 * (n - d))) else s.vreg b' n := by
  induction k generalizing s d v with
  | zero => rw [if_neg (by omega)]; rfl
  | succ k ih =>
    rw [Shuttle.putV, ih _ _ _ (by omega), Shuttle.vreg_setVreg]
    have hkey : vkey b' n = vkey b d ↔ b' = b ∧ n = d :=
      ⟨fun h => vkey_inj hn (by omega) h, fun ⟨hb, hd⟩ => by rw [hb, hd]⟩
    simp only [hkey]
    by_cases h1 : b' = b ∧ d + 1 ≤ n ∧ n < d + 1 + k
    · rw [if_pos h1, if_pos ⟨h1.1, by omega, by omega⟩, Nat.div_div_eq_div_mul, ← Nat.pow_add]
      congr 3
      omega
    · rw [if_neg h1]
      by_cases h2 : b' = b ∧ n = d
      · rw [if_pos h2, if_pos ⟨h2.1, by omega, by omega⟩, h2.2, Nat.sub_self, Nat.mul_zero, Nat.pow_zero, Nat.div_one]
      · rw [if_neg h2, if_neg (by omega)]

/-- Marks on k registers of a thread. -/
theorem Shuttle.vreg_markV (s : Shuttle) (b d : Nat) (x : RegCell) (k : Nat) (hd : d + k ≤ 1024) (b' n : Nat) (hn : n < 1024) :
    (s.markV b d x k).vreg b' n = if b' = b ∧ d ≤ n ∧ n < d + k then x else s.vreg b' n := by
  induction k generalizing s d with
  | zero => rw [if_neg (by omega)]; rfl
  | succ k ih =>
    rw [Shuttle.markV, ih _ _ (by omega), Shuttle.vreg_setVreg]
    have hkey : vkey b' n = vkey b d ↔ b' = b ∧ n = d :=
      ⟨fun h => vkey_inj hn (by omega) h, fun ⟨hb, hd⟩ => by rw [hb, hd]⟩
    simp only [hkey]
    by_cases h1 : b' = b ∧ d + 1 ≤ n ∧ n < d + 1 + k
    · rw [if_pos h1, if_pos ⟨h1.1, by omega, by omega⟩]
    · rw [if_neg h1]
      by_cases h2 : b' = b ∧ n = d
      · rw [if_pos h2, if_pos ⟨h2.1, by omega, by omega⟩]
      · rw [if_neg h2, if_neg (by omega)]

/-- Every word writes at most four registers of a thread. -/
theorem laneShape_d_le (opc : Nat) (row : LaneRow) (w : LaneWord) : (laneShape opc row w).d ≤ 4 := by
  have ht : typeRegs w.t ≤ 2 := by unfold typeRegs; split <;> omega
  have hs : sizeRegs w.t ≤ 4 := by unfold sizeRegs; split_ifs <;> omega
  have hite : ∀ (p : Prop) [Decidable p] (x y : LaneShape), x.d ≤ 4 → y.d ≤ 4 → (if p then x else y).d ≤ 4 :=
    fun p _ x y hx hy => by split <;> assumption
  unfold laneShape
  repeat' apply hite
  all_goals
    dsimp only
    try split
  all_goals omega

theorem d_add_shape_le (h : isV r.w.d = true) : r.w.d + (laneShape r.opc r.row r.w).d ≤ 1024 := by
  have := laneShape_d_le r.opc r.row r.w
  have : r.w.d < 768 := by simpa [isV] using h
  omega

/-- What no step of a fold changes, the fold does not change. -/
theorem foldl_keeps {α β γ : Type} (f : β → α → β) (g : β → γ) (h : ∀ b a, g (f b a) = g b) (l : List α) (b : β) :
    g (l.foldl f b) = g b := by
  induction l generalizing b with
  | nil => rfl
  | cons a l ih => rw [List.foldl_cons, ih, h]

/-- The registers of several threads, each with its own value. -/
theorem Shuttle.vreg_foldl_putV (s : Shuttle) (bs : List Nat) (v : Nat → Nat) (d k : Nat) (hd : d + k ≤ 1024) (b n : Nat)
    (hn : n < 1024) :
    ((bs.map fun b => (b, v b)).foldl (fun s p => s.putV p.1 d p.2 k) s).vreg b n =
      if b ∈ bs ∧ d ≤ n ∧ n < d + k then fullOf (v b / 2 ^ (32 * (n - d))) else s.vreg b n := by
  induction bs generalizing s with
  | nil => simp
  | cons x bs ih =>
    rw [List.map_cons, List.foldl_cons, ih, Shuttle.vreg_putV _ _ _ _ _ hd _ _ hn]
    by_cases h : d ≤ n ∧ n < d + k
    · by_cases hx : b = x
      · subst hx
        simp [h]
      · simp [h, hx]
    · simp [h]

/-! ## Results -/

/-- The shuttle but for the registers of its threads and what exposes it. -/
def Shuttle.besideThreads (z : Shuttle) : Shuttle :=
  { z with vregs := [], preds := [], flags := [], counts := [], exposed := false }

theorem Shuttle.putV_besideThreads (s : Shuttle) (b n v k : Nat) : (s.putV b n v k).besideThreads = s.besideThreads := by
  induction k generalizing s n v with
  | zero => rfl
  | succ k ih => exact ih _ _ _

theorem Shuttle.putV_preds (s : Shuttle) (b n v k : Nat) : (s.putV b n v k).preds = s.preds := by
  induction k generalizing s n v with
  | zero => rfl
  | succ k ih => exact ih _ _ _

theorem Shuttle.raiseFlags_besideThreads (s : Shuttle) (b v : Nat) : (s.raiseFlags b v).besideThreads = s.besideThreads := by
  unfold Shuttle.raiseFlags
  split <;> rfl

theorem Shuttle.raiseFlags_regs (s : Shuttle) (b v : Nat) :
    (s.raiseFlags b v).vregs = s.vregs ∧ (s.raiseFlags b v).preds = s.preds := by
  unfold Shuttle.raiseFlags
  split <;> exact ⟨rfl, rfl⟩

theorem Shuttle.setPred_besideThreads (s : Shuttle) (b n : Nat) (v : Bool) :
    (s.setPred b n v).besideThreads = s.besideThreads := by
  unfold Shuttle.setPred
  split <;> rfl

theorem write_besideThreads (s : Shuttle) (res : List (Nat × Nat)) : (r.write s res).besideThreads = s.besideThreads := by
  have hput := foldl_keeps (fun (s : Shuttle) (p : Nat × Nat) => s.putV p.1 r.w.d p.2 (laneShape r.opc r.row r.w).d)
    Shuttle.besideThreads (fun _ _ => Shuttle.putV_besideThreads _ _ _ _ _) res s
  have hpred := foldl_keeps (fun (s : Shuttle) (p : Nat × Nat) => s.setPred p.1 r.w.d (p.2 % 2 == 1))
    Shuttle.besideThreads (fun _ _ => Shuttle.setPred_besideThreads _ _ _ _) res s
  unfold LaneRun.write
  split
  · exact hpred
  · rfl
  · rfl
  · split
    · exact hput
    · rfl

theorem drawn_besideThreads (s : Shuttle) (ex : List Nat) : (r.drawn s ex).besideThreads = s.besideThreads := by
  unfold LaneRun.drawn
  split
  · exact foldl_keeps (fun (s : Shuttle) b => s.setCount b (s.count b + 1)) Shuttle.besideThreads (fun _ _ => rfl) ex s
  · rfl

theorem drawn_regs (s : Shuttle) (ex : List Nat) : (r.drawn s ex).vregs = s.vregs ∧ (r.drawn s ex).preds = s.preds := by
  unfold LaneRun.drawn
  split
  · exact ⟨foldl_keeps (fun (s : Shuttle) b => s.setCount b (s.count b + 1)) Shuttle.vregs (fun _ _ => rfl) ex s,
      foldl_keeps (fun (s : Shuttle) b => s.setCount b (s.count b + 1)) Shuttle.preds (fun _ _ => rfl) ex s⟩
  · exact ⟨rfl, rfl⟩

/-- The shuttle once the results of a word, each with its flags, stand in the registers of its threads. -/
def LaneRun.settled (r : LaneRun) (s : Shuttle) (ex : List Nat) (vals : List (Nat × Nat × Nat)) : Shuttle :=
  r.drawn
    { vals.foldl (fun s p => s.raiseFlags p.1 p.2.2) (r.write s (vals.map fun p => (p.1, p.2.1))) with
      exposed := (vals.foldl (fun s p => s.raiseFlags p.1 p.2.2) (r.write s (vals.map fun p => (p.1, p.2.1)))).exposed ||
        r.usesQueue } ex

theorem settled_besideThreads (s : Shuttle) (ex : List Nat) (vals : List (Nat × Nat × Nat)) :
    (r.settled s ex vals).besideThreads = s.besideThreads := by
  rw [LaneRun.settled, drawn_besideThreads, ← write_besideThreads (r := r) s (vals.map fun p => (p.1, p.2.1))]
  exact foldl_keeps (fun (s : Shuttle) (p : Nat × Nat × Nat) => s.raiseFlags p.1 p.2.2) Shuttle.besideThreads
    (fun _ _ => Shuttle.raiseFlags_besideThreads _ _ _) vals _

theorem settled_regs (s : Shuttle) (ex : List Nat) (vals : List (Nat × Nat × Nat)) :
    (r.settled s ex vals).vregs = (r.write s (vals.map fun p => (p.1, p.2.1))).vregs ∧
      (r.settled s ex vals).preds = (r.write s (vals.map fun p => (p.1, p.2.1))).preds := by
  rw [LaneRun.settled, (drawn_regs _ _).1, (drawn_regs _ _).2]
  exact ⟨foldl_keeps _ Shuttle.vregs (fun _ _ => (Shuttle.raiseFlags_regs _ _ _).1) vals _,
    foldl_keeps _ Shuttle.preds (fun _ _ => (Shuttle.raiseFlags_regs _ _ _).2) vals _⟩

/-- A word with a vector destination writes no predicate, and no vector register unless D is one. -/
theorem write_vec (hdst : r.row.dst = .vec) (s : Shuttle) (res : List (Nat × Nat)) :
    (r.write s res).preds = s.preds ∧ (isV r.w.d = false → r.write s res = s) := by
  unfold LaneRun.write
  rw [hdst]
  dsimp only
  split
  · next hv => exact ⟨foldl_keeps _ Shuttle.preds (fun _ _ => Shuttle.putV_preds _ _ _ _ _) res s, fun h => by simp [h] at hv⟩
  · exact ⟨rfl, fun _ => rfl⟩

theorem settled_preds (hdst : r.row.dst = .vec) (s : Shuttle) (ex : List Nat) (vals : List (Nat × Nat × Nat)) :
    (r.settled s ex vals).preds = s.preds := (settled_regs s ex vals).2.trans (write_vec hdst s _).1

/-- The results of threads stand in their D, and every other register is as it was. -/
theorem settled_fills {h : Shuttle} (hdst : r.row.dst = .vec) (s : Shuttle) (v : Nat → Nat × Nat)
    (hv : h.vregs = (r.settled s (r.ex s) ((r.ex s).map fun b => (b, v b))).vregs) : r.Fills s h fun b => (v b).1 := by
  intro b n hn
  have hreg : h.vreg b n = (r.write s ((r.ex s).map fun b => (b, (v b).1))).vreg b n := by
    rw [Shuttle.vreg, hv, (settled_regs _ _ _).1, List.map_map]
    rfl
  rw [hreg]
  by_cases hisV : isV r.w.d = true
  · have hw : r.write s ((r.ex s).map fun b => (b, (v b).1)) =
        ((r.ex s).map fun b => (b, (v b).1)).foldl (fun s p => s.putV p.1 r.w.d p.2 (laneShape r.opc r.row r.w).d) s := by
      rw [LaneRun.write, hdst]
      exact if_pos hisV
    rw [hw, Shuttle.vreg_foldl_putV _ _ _ _ _ (d_add_shape_le hisV) _ _ hn]
    simp [hisV, fullOf]
  · rw [(write_vec hdst s _).2 (by simpa using hisV), if_neg (by simp [hisV])]

/-- With U every executing thread takes the first one's result. -/
theorem spread_evaluates (ex : List Nat) (v : Nat → Nat × Nat) :
    spread ex r.w.u ((r.evaluates ex).map fun b => (b, v b)) = ex.map fun b => (b, v (if r.w.u then ex.headD b else b)) := by
  unfold spread LaneRun.evaluates
  cases r.w.u with
  | false => simp
  | true =>
    cases ex with
    | nil => rfl
    | cons x xs => simp

/-! ## A value word -/

/-- A value word whose sources are full and whose destination is free computes. -/
theorem valueWord_goes {f : WordFn} {d' : Dev} {e' : Entry} (hex : r.ex s ≠ [])
    (hready : r.sourcesReady s c.blk (r.ev e (r.ex s)) r.ownSrcs = none) (hbusy : f.busy d s (r.ex s) = false)
    (hout : r.outputFault c.blk (r.ex s) = none) (hdst : r.dstPending s (r.ex s) = false)
    (hpop : popAll c r.pops s (r.ev e (r.ex s)) d e = (d', e', true)) :
    valueWord c r f d s e =
      finishValue c r f d' s e' (r.ex s) ((r.ev e (r.ex s)).map (r.operands s c.blk e')) := by
  simp [valueWord, hex, hready, hbusy, hout, hdst, hpop]

theorem valueWord_none {f : WordFn} (hex : r.ex s = []) :
    valueWord c r f d s e = { d := d, s := s, e := e, out := [], fin := .moved } := by
  simp [valueWord, hex]

theorem pushes_none (hq : isQ r.w.d = false) (res : List (Nat × Nat)) : r.pushes res = [] := by simp [LaneRun.pushes, hq]

/-- An arithmetic word whose D is no queue and no output register ends with its results in its threads' registers. -/
theorem finishValue_arith {g : LaneArg → Nat × Nat} {fmt : Nat} {ex : List Nat} {ops : List Operands}
    (hq : isQ r.w.d = false) (ho : isO r.w.d = false) :
    finishValue c r (arithFn c r g fmt) d s e ex ops =
      { d := d, e := e, out := [], fin := .moved
        s := r.settled s ex (spread ex r.w.u (ops.map fun o => (o.beat, (arithFn c r g fmt).val d s ex ops o))) } := by
  unfold finishValue
  rw [show (arithFn c r g fmt).check d s ex ops = none from rfl]
  dsimp only
  rw [pushes_none hq, pushesLeft, pushAll]
  cases spread ex r.w.u (ops.map fun o => (o.beat, (arithFn c r g fmt).val d s ex ops o)) with
  | nil => rfl
  | cons v vs =>
    simp only [List.map_cons, ho]
    rfl

end Sys2Proof.Machine
end

section
/-!
PROOF. Checks of lane words, empty sources, pops, output registers and the issue register.
-/
namespace Sys2Proof.Machine

variable {s : State} {is : Issue} {sh : Shuttle} {env : Env} {blk : Block} {e : Entry} {i : Instr} {r : LaneRun}
  {f : LaneArg → Nat × Nat}

/-! ## Illegal words -/

theorem unassigned_endsTeam (hat : s.AtIssue is sh env) (sub : Nat) (hl : is.lane = false) :
    EndsTeam (.unassignedOpcode sub) s is sh sub := by
  change execUnassignedOpcode sub s = _
  rw [execUnassignedOpcode, onIssue_eq hat, ← scalarTrapOf_illegal _ _ _ env]
  simp [hl]

theorem unassigned_endsTeamAt (hat : s.AtIssue is sh env) (sub : Nat) (hl : is.lane = true) (hblk : sh.block = some blk)
    (hcur : sh.current = some e) (hno : ∀ b ∈ e.beats, sh.attempt b = none) :
    EndsTeamAt (.unassignedOpcode sub) s sh 0x10 sub := by
  refine endsTeamAt_of_trapped (c := ⟨is, env, blk, e⟩) (h := sh) (e' := e)
    (t := { cause := 0x10, sub := sub, threads := e.beats, words := is.words }) ?_ hno (by simp) rfl rfl rfl rfl
  change execUnassignedOpcode sub s = _
  rw [execUnassignedOpcode, onIssue_eq hat]
  simp [hl, hblk, hcur]

theorem exec_lend_illegal {w : LaneWord} {row : LaneRow} {x : Nat × Nat} (hat : s.AtIssue is sh env)
    (hblk : sh.block = some blk) (hcur : sh.current = some e) (hrow : laneRow 0x0F3 = some row)
    (hill : laneIllegal 0x0F3 row w env.nest.nv env.nest.tiles (sh.inq env.nest) (sh.outq env.nest) = some x) :
    exec (.lend w) s =
      .next (s.withDev (finishWord ⟨is, env, blk, e⟩
        { d := s.dev, s := sh, e := e, out := [],
          fin := .trapped { cause := 0x10, sub := x.1, threads := e.beats, operand := x.2, words := is.words } })) := by
  change execLend w s = _
  rw [execLend, onIssue_eq hat]
  simp only [hblk, hcur, hrow, hill]

/-- A word that a nest makes illegal ends the team. -/
theorem illegal_endsTeamAt {w : LaneWord} {opc : Nat} {row : LaneRow} {x : Nat × Nat} (hat : s.AtIssue is sh env)
    (hof : laneOf i = some (opc, w)) (hrow : laneRow opc = some row) (hblk : sh.block = some blk)
    (hcur : sh.current = some e) (hshare : opc = 0x0F5 → w.x % 65536 < env.nest.shared.length)
    (hno : ∀ b ∈ e.beats, sh.attempt b = none)
    (hill : laneIllegal opc row w env.nest.nv env.nest.tiles (sh.inq env.nest) (sh.outq env.nest) = some x) :
    EndsTeamAt i s sh 0x10 x.1 := by
  refine endsTeamAt_of_trapped (c := ⟨is, env, blk, e⟩) (h := sh) (e' := e)
    (t := { cause := 0x10, sub := x.1, threads := e.beats, operand := x.2, words := is.words }) ?_ hno (by simp) rfl rfl rfl rfl
  by_cases hend : opc = 0x0F3
  · subst hend
    have : i = .lend w := by cases i <;> cases hof; rfl
    rw [this]
    exact exec_lend_illegal hat hblk hcur hrow hill
  · obtain ⟨sub1, run, hsub1, hexec⟩ := exec_lane (s := s) hof hend
    have h1 : sub1 env = false := by
      rw [hsub1, shareCheck]
      by_cases h5 : opc = 0x0F5
      · simp [h5, hshare h5]
      · simp [h5]
    rw [hexec]
    exact laneFetched_illegal hat hblk hcur hrow h1 hill

/-! ## Arithmetic words -/

theorem arith_runs (hw : s.AtWord is sh env blk e i r) (hf : laneFn r.opc = some f) :
    exec i s = .next (s.withDev (finishWord ⟨is, env, blk, e⟩
      (valueWord ⟨is, env, blk, e⟩ r (arithFn ⟨is, env, blk, e⟩ r f e.fmt) s.dev sh e))) := by
  have hof : laneOf i = some (r.opc, r.w) := hw.2.2.2.2.1
  rw [exec_arith hof hf, laneArith, laneValue]
  exact laneWord_runs hw _

theorem ownSrcs_of_laneFn (hf : laneFn r.opc = some f) : r.ownSrcs = r.srcs := by
  have : r.opc ≠ 0x120 := by
    intro h
    rw [h] at hf
    cases hf
  simp [LaneRun.ownSrcs, this]

theorem outputFault_none (ho : isO r.w.d = false) (ex : List Nat) : r.outputFault blk ex = none := by
  simp [LaneRun.outputFault, LaneRun.outputs, ho]

/-- What an arithmetic word computes in a thread. -/
theorem arithFn_val {c : LaneCtx} {e' : Entry} (hh : e'.held = []) (hfmt : e'.fmt = c.cur.fmt) (d : Dev) (ex : List Nat)
    (ops : List Operands) (b : Nat) :
    (arithFn c r f c.cur.fmt).val d sh ex ops (r.operands sh c.blk e' b) = f (r.arg d sh c.env c.blk e' b) := by
  rw [operands_of_none_held hh, LaneRun.arg, hfmt]
  rfl

theorem valueWord_stops {c : LaneCtx} {g : WordFn} {d : Dev} {fin : LaneFin} (hex : r.ex sh ≠ [])
    (h : r.sourcesReady sh c.blk (r.ev e (r.ex sh)) r.ownSrcs = some fin) :
    valueWord c r g d sh e = { d := d, s := sh, e := e, out := [], fin := fin } := by
  simp [valueWord, hex, h]

theorem fills_congr {h : Shuttle} {v v' : Nat → Nat} (hv : ∀ b ∈ r.ex sh, v b = v' b) (hf : r.Fills sh h v) :
    r.Fills sh h v' := by
  intro b n hn
  rw [hf b n hn]
  refine if_congr Iff.rfl rfl rfl |>.trans ?_
  split
  · next hb => rw [hv b hb.1]
  · rfl

/-- An arithmetic word whose D is no output register and no queue, once it has popped its values: the results stand in D of its
threads, and beside their registers the shuttle is as it was. -/
theorem valueWord_arith {d d' : Dev} {e' : Entry} (hfresh : e.fresh = true) (hf : laneFn r.opc = some f)
    (hs : r.starved sh blk (r.evaluates (r.ex sh)) r.srcs = false)
    (hb : r.badFault sh blk (r.evaluates (r.ex sh)) r.srcs = none) (hw : r.Writes sh)
    (hpop : popAll ⟨is, env, blk, e⟩ r.pops sh (r.evaluates (r.ex sh)) d e = (d', e', true)) :
    ∃ h : Shuttle, valueWord ⟨is, env, blk, e⟩ r (arithFn ⟨is, env, blk, e⟩ r f e.fmt) d sh e =
        { d := d', s := h, e := e', out := [], fin := .moved } ∧
      h.besideThreads = sh.besideThreads ∧
      (r.row.dst = .vec → h.preds = sh.preds ∧ r.Fills sh h fun b => (f (r.arg d' sh env blk e' (r.giver sh b))).1) := by
  obtain ⟨-, -, hp, hq, -, hh⟩ := (Entry.fresh_iff e).1 hfresh
  obtain ⟨ho, hnq, hdst⟩ := hw
  have hev : r.ev e (r.ex sh) = r.evaluates (r.ex sh) := ev_of_nothing_begun hp hh hq _
  obtain ⟨ps, he', -⟩ := popAll_entry (c := ⟨is, env, blk, e⟩) r.pops sh (r.evaluates (r.ex sh)) d e
  rw [hpop] at he'
  have hh' : e'.held = [] := by rw [show e' = _ from he']; exact hh
  have hfmt : e'.fmt = e.fmt := by rw [show e' = _ from he']
  by_cases hex : r.ex sh = []
  · rw [hex, show r.evaluates [] = [] from by simp [LaneRun.evaluates], popAll] at hpop
    cases hpop
    refine ⟨sh, valueWord_none hex, rfl, fun _ => ⟨rfl, fun b n _ => ?_⟩⟩
    rw [if_neg (by simp [hex])]
  · let v := fun b => f (r.arg d' sh env blk e' b)
    have hgo := valueWord_goes (c := ⟨is, env, blk, e⟩) (f := arithFn ⟨is, env, blk, e⟩ r f e.fmt) hex
      (by rw [hev, ownSrcs_of_laneFn hf]; exact sourcesReady_none hs hb) rfl (outputFault_none ho _) hdst (by rw [hev]; exact hpop)
    rw [finishValue_arith hnq ho, hev, List.map_map] at hgo
    have hvals : (r.evaluates (r.ex sh)).map ((fun o => (o.beat, (arithFn ⟨is, env, blk, e⟩ r f e.fmt).val d' sh (r.ex sh)
        ((r.evaluates (r.ex sh)).map (r.operands sh blk e')) o)) ∘ r.operands sh blk e') =
        (r.evaluates (r.ex sh)).map fun b => (b, v b) := by
      refine List.map_congr_left fun b _ => ?_
      rw [Function.comp_apply, arithFn_val (c := ⟨is, env, blk, e⟩) hh' hfmt, operands_of_none_held hh']
    rw [hvals, spread_evaluates] at hgo
    exact ⟨_, hgo, settled_besideThreads _ _ _, fun hvec => ⟨settled_preds hvec _ _ _,
      settled_fills hvec sh (fun b => v (if r.w.u then (r.ex sh).headD b else b)) rfl⟩⟩

/-! ## Empty sources -/

theorem ex_of_evaluates {b : Nat} (h : b ∈ r.evaluates (r.ex sh)) : r.ex sh ≠ [] :=
  List.ne_nil_of_mem (evaluates_subset h)

theorem goesTo_single (hfr : sh.frontier = [e]) {e' : Entry} (hb : e'.beats ≠ []) : sh.goesTo env e [e'] = [e'] := by
  have : e'.beats.isEmpty = false := by simpa using hb
  simp [Shuttle.goesTo, hfr, dropEntry, joinFrontier, this]

/-- A word with an empty source under no E bit waits. -/
theorem arith_waits (hw : s.AtWord is sh env blk e i r) (hf : laneFn r.opc = some f)
    (he : ∀ b ∈ r.evaluates (r.ex sh), ∀ x ∈ r.srcs, eBit r.w x.1 x.2.1 = true → sh.srcEmpty blk b x.2.1 x.2.2 = false)
    (hs : r.starved sh blk (r.evaluates (r.ex sh)) r.srcs = true) (hfr : sh.frontier = [e]) (hbs : e.beats ≠ []) :
    EndsAs i s sh := by
  have hfresh : e.fresh = true := hw.2.2.2.1
  obtain ⟨hd, hl, hp, hq, hx, hh⟩ := (Entry.fresh_iff e).1 hfresh
  obtain ⟨b, hb, -⟩ := List.any_eq_true.1 hs
  have hstop : r.sourcesReady sh blk (r.ev e (r.ex sh)) r.ownSrcs = some .waiting := by
    rw [ev_of_nothing_begun hp hh hq, ownSrcs_of_laneFn hf]
    exact sourcesReady_waits hs he
  have hkeep : e.keep e.beats = e := Entry.keep_self hd hl hq hx hh (by simp [hp]) rfl
  rw [EndsAs, arith_runs hw hf, valueWord_stops (ex_of_evaluates hb) hstop, finishWord_waits]
  dsimp only
  rw [hkeep, goesTo_single hfr hbs, ← hfr]
  rfl

/-- The full/empty fault of a word whose source A is empty in a thread under its E bit names A. -/
theorem emptyFault_A {ev : List Nat} {b : Nat} (hb : b ∈ ev) (hbit : eBit r.w 0 r.w.a = true)
    (hempty : sh.srcEmpty blk b r.w.a (laneShape r.opc r.row r.w).a = true) :
    ∃ t, r.emptyFault sh blk ev r.srcs = some t ∧ t.cause = 3 ∧ t.sub = 0 ∧ t.operand = r.w.a ∧ b ∈ t.threads ∧
      ∀ x ∈ t.threads, x ∈ ev := by
  have hfind : (r.srcs.find? fun x => ev.any fun b => eBit r.w x.1 x.2.1 && sh.srcEmpty blk b x.2.1 x.2.2) =
      some (0, r.w.a, (laneShape r.opc r.row r.w).a) :=
    List.find?_cons_of_pos (List.any_eq_true.2 ⟨b, hb, by simp [hbit, hempty]⟩)
  refine ⟨_, by rw [LaneRun.emptyFault, hfind], rfl, rfl, rfl, ?_, fun x hx => (List.mem_filter.1 hx).1⟩
  exact List.mem_filter.2 ⟨hb, List.any_eq_true.2 ⟨_, List.mem_cons_self, by simp [hbit, hempty]⟩⟩

/-- A source under its E bit that is empty in a thread enters the handler. -/
theorem arith_faults (hw : s.AtWord is sh env blk e i r) (hf : laneFn r.opc = some f) {b : Nat}
    (hb : b ∈ r.evaluates (r.ex sh)) (hbit : eBit r.w 0 r.w.a = true)
    (hempty : sh.srcEmpty blk b r.w.a (laneShape r.opc r.row r.w).a = true) (hno : ∀ b ∈ e.beats, sh.attempt b = none)
    (htrap : env.nest.hasTrap = true) (hh : sh.handler = false) :
    ∃ h threads, EntersHandler i s sh env e 3 0 threads h ∧ b ∈ threads ∧ h.sreg 1017 = .full (BitVec.ofNat 32 r.w.a) := by
  have hfresh : e.fresh = true := hw.2.2.2.1
  have hset : r.set = e.beats := hw.2.2.2.2.2.2.1
  obtain ⟨-, -, hp, hq, -, hheld⟩ := (Entry.fresh_iff e).1 hfresh
  obtain ⟨t, ht, hcause, hsub, hoperand, hmem, hsubset⟩ := emptyFault_A (sh := sh) (blk := blk) hb hbit hempty
  have hstop : r.sourcesReady sh blk (r.ev e (r.ex sh)) r.ownSrcs = some (.trapped t) := by
    rw [ev_of_nothing_begun hp hheld hq, ownSrcs_of_laneFn hf, LaneRun.sourcesReady, ht]
  have hthreads : ∀ x ∈ t.threads, sh.attempt x = none := fun x hx =>
    hno x (hset ▸ ex_subset_set (evaluates_subset (hsubset x hx)))
  have henter := entersHandler_of_trapped (e' := e) (t := t) hw.1 rfl
    ((arith_runs hw hf).trans (by rw [valueWord_stops (ex_of_evaluates hb) hstop])) hthreads (by omega) htrap hh
  refine ⟨_, t.threads, hcause ▸ hsub ▸ henter, hmem, ?_⟩
  rw [show 1017 = 1008 + 9 from rfl, Shuttle.sreg_trappedBy _ _ _ _ (by decide), ← hoperand]
  rfl

/-! ## Pops -/

/-- A source of no registers has the same value whatever has been popped. -/
theorem source_of_no_register {k n : Nat} {c : Nat} (h : r.srcs[k]? = some (n, c, 0)) (e e' : Entry) (b : Nat) :
    r.source sh blk e b k = r.source sh blk e' b k := by
  simp [LaneRun.source, h, joinWords]

/-- The pop of one thread that finds its queue filled. -/
theorem popAll_one {c : LaneCtx} {d : Dev} {t : Team} {b q : Nat} {x : Word} {xs : List Word} (hp : e.popped = [])
    (hteam : d.team sh.team = some t) (hv : t.queueVals sh.stage (c.coord sh b) q = x :: xs) :
    popAll c [q] sh [b] d e =
      ((d.setTeam (t.setQueue sh.stage (c.coord sh b) q xs)).acquire t.cluster, { e with popped := [(b, x.toNat)] }, true) := by
  simp [popAll, popFor, hp, hteam, hv]

/-- A queue holds what was put in it. -/
theorem queueVals_setQueue (t : Team) (stage : Nat) (co : List Nat) (q : Nat) (v : List Word) :
    (t.setQueue stage co q v).queueVals stage co q = v := by
  unfold Team.setQueue Team.queueVals
  cases v with
  | nil =>
    have : ((t.queues.filter fun x => !(x.stage == stage && x.coord == co && x.q == q)).find? fun x =>
        x.stage == stage && x.coord == co && x.q == q) = none :=
      List.find?_eq_none.2 fun x hx => by simpa only [Bool.not_eq_true, Bool.not_eq_true'] using (List.mem_filter.1 hx).2
    simp only [List.isEmpty_nil, if_true, this]
  | cons y ys => simp

/-- A team put in its place is found there. -/
theorem Dev.team_setTeam {d : Dev} {id : Nat} {t u : Team} (h : d.team id = some t) (hid : u.id = id) :
    (d.setTeam u).team id = some u := by
  unfold Dev.team Dev.setTeam at *
  dsimp only
  generalize d.teams = l at h
  induction l with
  | nil => simp at h
  | cons x l ih =>
    by_cases hx : x.id = id
    · simp [hx, hid]
    · rw [List.find?_cons_of_neg (by simpa using hx)] at h
      rw [List.map_cons, if_neg (by simpa [hid] using hx), List.find?_cons_of_neg (by simpa using hx)]
      exact ih h

/-- The goals of an arithmetic word that ends: its entry goes on, and the results stand in its threads' registers. -/
theorem arith_moves (hw : s.AtWord is sh env blk e i r) (hf : laneFn r.opc = some f)
    (hs : r.starved sh blk (r.evaluates (r.ex sh)) r.srcs = false)
    (hb : r.badFault sh blk (r.evaluates (r.ex sh)) r.srcs = none) (hwr : r.Writes sh) {d' : Dev} {e' : Entry}
    (hpop : popAll ⟨is, env, blk, e⟩ r.pops sh (r.evaluates (r.ex sh)) s.dev e = (d', e', true)) :
    ∃ h : Shuttle, exec i s = .next (s.withDev (d'.setShuttle h)) ∧ h.id = sh.id ∧ h.frontier = sh.goesOn env e ∧
      (r.row.dst = .vec → r.Fills sh h fun b => (f (r.arg d' sh env blk e' (r.giver sh b))).1) := by
  obtain ⟨h, hval, hbeside, hvec⟩ := valueWord_arith hw.2.2.2.1 hf hs hb hwr hpop
  exact ⟨{ h with frontier := h.goesOn env e }, by rw [arith_runs hw hf, hval, finishWord_moved],
    (congrArg Shuttle.id hbeside :), (congrArg (fun z => z.goesOn env e) hbeside :), fun hd => (hvec hd).2⟩

/-- A word that has popped a part of its values keeps them while it waits. -/
theorem arith_keepsPops (hw : s.AtWord is sh env blk e i r) (hf : laneFn r.opc = some f)
    (hs : r.starved sh blk (r.evaluates (r.ex sh)) r.srcs = false)
    (hb : r.badFault sh blk (r.evaluates (r.ex sh)) r.srcs = none) (hwr : r.Writes sh) {d' : Dev} {e' : Entry}
    (hpop : popAll ⟨is, env, blk, e⟩ r.pops sh (r.evaluates (r.ex sh)) s.dev e = (d', e', false)) :
    ∃ h : Shuttle, exec i s = .next (s.withDev (d'.setShuttle h)) ∧ h.vregs = sh.vregs ∧
      (sh.frontier = [e] → e.beats ≠ [] → h.frontier = [e']) := by
  have hfresh : e.fresh = true := hw.2.2.2.1
  have hset : r.set = e.beats := hw.2.2.2.2.2.2.1
  obtain ⟨hd, hl, hp, hq, hx, hh⟩ := (Entry.fresh_iff e).1 hfresh
  obtain ⟨ho, hnq, hdst⟩ := hwr
  have hev : r.ev e (r.ex sh) = r.evaluates (r.ex sh) := ev_of_nothing_begun hp hh hq _
  have hex : r.ex sh ≠ [] := by
    intro hnil
    rw [hnil, show r.evaluates [] = [] from by simp [LaneRun.evaluates], popAll] at hpop
    cases hpop
  obtain ⟨ps, he', hps⟩ := popAll_entry (c := ⟨is, env, blk, e⟩) r.pops sh (r.evaluates (r.ex sh)) s.dev e
  rw [hpop] at he'
  have he' : e' = { e with popped := e.popped ++ ps } := he'
  have hkeep : e'.keep e.beats = e' := by
    subst he'
    refine Entry.keep_self hd hl hq hx hh (fun p hm => ?_) rfl
    rw [hp, List.nil_append] at hm
    exact hset ▸ ex_subset_set (evaluates_subset (hps p hm))
  have hval : valueWord ⟨is, env, blk, e⟩ r (arithFn ⟨is, env, blk, e⟩ r f e.fmt) s.dev sh e =
      { d := d', s := { sh with exposed := sh.exposed || r.usesQueue }, e := e', out := [], fin := .waiting } := by
    have hbusy : (arithFn ⟨is, env, blk, e⟩ r f e.fmt).busy s.dev sh (r.ex sh) = false := rfl
    simp [valueWord, hex, hev, ownSrcs_of_laneFn hf, sourcesReady_none hs hb, outputFault_none ho, hdst, hpop, hbusy]
  refine ⟨{ sh with exposed := sh.exposed || r.usesQueue, frontier := sh.goesTo env e [e'] }, ?_, rfl, fun hfr hbs => ?_⟩
  · rw [arith_runs hw hf, hval, finishWord_waits]
    dsimp only
    rw [hkeep]
  exact goesTo_single hfr (by rw [he']; exact hbs)

/-- The shape of a word with source A alone, in one register, and that a queue. -/
theorem pops_of_queue {q : Nat} (ha : r.w.a = 784 + q) (hq : q < 4) (h1 : (laneShape r.opc r.row r.w).a = 1)
    (h2 : (laneShape r.opc r.row r.w).b = 0) (h3 : (laneShape r.opc r.row r.w).c = 0) : r.pops = [q] := by
  have hisQ : isQ (784 + q) = true := by simp [isQ]; omega
  simp [LaneRun.pops, popsOf, LaneRun.srcs, srcPops, h1, h2, h3, hisQ, ha]

/-- A popped value is what source A is read as. -/
theorem arg_of_popped {q b : Nat} {x : Word} {d d' : Dev} (ha : r.w.a = 784 + q) (hq : q < 4)
    (h1 : (laneShape r.opc r.row r.w).a = 1) (h2 : (laneShape r.opc r.row r.w).b = 0)
    (h3 : (laneShape r.opc r.row r.w).c = 0) (hd : d'.tw2m = d.tw2m) :
    r.arg d' sh env blk { e with popped := [(b, x.toNat)] } b = { r.arg d sh env blk e b with a := x.toNat } := by
  have hnX : isX r.w.a = false := by simp [isX, ha]; omega
  have hisQ : isQ r.w.a = true := by simp [isQ, ha]; omega
  have hA : r.source sh blk { e with popped := [(b, x.toNat)] } b 0 = x.toNat := by
    simp [LaneRun.source, LaneRun.srcs, hnX, hisQ, h1, Entry.poppedBy, joinWords]
  have hB := source_of_no_register (r := r) (sh := sh) (blk := blk) (k := 1) (n := 1) (c := r.w.b)
    (by simp [LaneRun.srcs, h2]) { e with popped := [(b, x.toNat)] } e b
  have hC := source_of_no_register (r := r) (sh := sh) (blk := blk) (k := 2) (n := 2) (c := r.w.c)
    (by simp [LaneRun.srcs, h3]) { e with popped := [(b, x.toNat)] } e b
  simp only [LaneRun.arg, hA, hB, hC, Dev.tw2Map, hd]

/-- A queue operand is never empty and never broken: the word waits at its pop. -/
theorem queue_readable {q : Nat} (ha : r.w.a = 784 + q) (hq : q < 4) (h2 : (laneShape r.opc r.row r.w).b = 0)
    (h3 : (laneShape r.opc r.row r.w).c = 0) (h1 : (laneShape r.opc r.row r.w).a = 1) (ev : List Nat) :
    r.starved sh blk ev r.srcs = false ∧ r.badFault sh blk ev r.srcs = none := by
  have hcell : ∀ b, sh.cell blk b r.w.a = blankReg := fun b => by
    have hV : isV r.w.a = false := by simp [isV, ha]; omega
    have hA : isA r.w.a = false := by simp [isA, ha]; omega
    have hS : isS r.w.a = false := by simp [isS, ha]; omega
    simp [Shuttle.cell, hV, hA, hS]
  constructor
  · simp [LaneRun.starved, LaneRun.srcs, h1, h2, h3, Shuttle.srcEmpty, hcell, blankReg, RegCell.present, RegCell.isFull]
  · simp [LaneRun.badFault, LaneRun.srcs, h1, h2, h3, Shuttle.srcBad, hcell, blankReg, RegCell.isBad]

/-- The pop of a single thread's queue operand. -/
theorem arith_pops (hw : s.AtWord is sh env blk e i r) (hf : laneFn r.opc = some f) {b q : Nat} {x : Word} {xs : List Word}
    (hex : r.ex sh = [b]) (ha : r.w.a = 784 + q) (hq : q < 4) (h1 : (laneShape r.opc r.row r.w).a = 1)
    (h2 : (laneShape r.opc r.row r.w).b = 0) (h3 : (laneShape r.opc r.row r.w).c = 0) (hV : isV r.w.d = true)
    (hdst : r.dstPending sh (r.ex sh) = false)
    (hv : env.team.queueVals sh.stage (sh.coord env.launch.levels env.team.num blk.seq b) q = x :: xs) :
    ∃ t h u, exec i s = .next t ∧ t.dev.shuttle is.sh = some h ∧ t.dev.team env.team.id = some u ∧
      t.dev.l1 = s.dev.l1.filter (fun z => z.cluster != env.team.cluster) ∧
      u.queueVals sh.stage (sh.coord env.launch.levels env.team.num blk.seq b) q = xs ∧ h.frontier = sh.goesOn env e ∧
      (r.row.dst = .vec → r.Fills sh h fun b => (f { r.arg s.dev sh env blk e b with a := x.toNat }).1) := by
  obtain ⟨-, hfind, henv⟩ := hw.1
  have hteam : s.dev.team sh.team = some env.team := Dev.team_of_env henv
  have hid : sh.id = is.sh := Shuttle.id_of_atIssue hw.1
  have hp : e.popped = [] := ((Entry.fresh_iff e).1 hw.2.2.2.1).2.2.1
  have heval : r.evaluates (r.ex sh) = [b] := by rw [hex, LaneRun.evaluates]; simp
  have hlow : r.w.d < 768 := by simpa [isV] using hV
  have hwr : r.Writes sh := ⟨by simp [isO]; omega, by simp [isQ]; omega, hdst⟩
  obtain ⟨hs, hb⟩ := queue_readable (sh := sh) (blk := blk) ha hq h2 h3 h1 (r.evaluates (r.ex sh))
  have hpop := popAll_one (c := ⟨is, env, blk, e⟩) hp hteam hv
  rw [← pops_of_queue ha hq h1 h2 h3, ← heval] at hpop
  obtain ⟨h, hexec, hsh, hfr, hvec⟩ := arith_moves hw hf hs hb hwr hpop
  refine ⟨_, h, env.team.setQueue sh.stage (sh.coord env.launch.levels env.team.num blk.seq b) q xs, hexec,
    Dev.shuttle_setShuttle hfind hsh, ?_, rfl, queueVals_setQueue _ _ _ _ _, hfr, fun hd => ?_⟩
  · exact Dev.team_setTeam (Dev.team_id hteam ▸ hteam) rfl
  · refine fills_congr (fun b' hb' => ?_) (hvec hd)
    have hb' : b' = b := by simpa [hex] using hb'
    have hgiver : r.giver sh b = b := by rw [LaneRun.giver, hex]; split <;> rfl
    rw [hb', hgiver]
    exact congrArg (fun z => (f z).1) (arg_of_popped ha hq h1 h2 h3 rfl)

/-! ## Output registers -/

/-- An arithmetic word whose D is an output register fills it with the first thread's result. -/
theorem finishValue_output {c : LaneCtx} {g : LaneArg → Nat × Nat} {fmt : Nat} {d : Dev} {ex : List Nat}
    {ops : List Operands} {p : Nat × Nat × Nat} {ps : List (Nat × Nat × Nat)} (ho : isO r.w.d = true)
    (hvals : spread ex r.w.u (ops.map fun o => (o.beat, (arithFn c r g fmt).val d sh ex ops o)) = p :: ps) :
    finishValue c r (arithFn c r g fmt) d sh e ex ops =
      { d := (fillOutput c r d (r.settled sh ex (p :: ps)) p.2.1).1, e := e, out := [], fin := .moved
        s := (fillOutput c r d (r.settled sh ex (p :: ps)) p.2.1).2 } := by
  have hq : isQ r.w.d = false := by simp only [isO, isQ, Bool.and_eq_true, decide_eq_true_eq] at *; simp; omega
  unfold finishValue
  rw [show (arithFn c r g fmt).check d sh ex ops = none from rfl]
  dsimp only
  rw [hvals, pushes_none hq, pushesLeft, pushAll]
  simp only [List.map_cons, ho]
  rfl

/-- The value that an output register takes: the first thread's. -/
abbrev LaneRun.firstResult (r : LaneRun) (f : LaneArg → Nat × Nat) (d : Dev) (sh : Shuttle) (env : Env) (blk : Block)
    (e : Entry) : Nat := (f (r.arg d sh env blk e ((r.ex sh).headD 0))).1

/-- What a word leaves whose D is an output register that the block may write. -/
theorem valueWord_output (hfresh : e.fresh = true) (hreads : r.Reads sh blk) {d : Dev}
    (hex : r.ex sh ≠ []) (hdst : r.row.dst = .vec) (hu : r.w.u = true) (ho : isO r.w.d = true)
    (hfree : r.outputFault blk (r.ex sh) = none) :
    ∃ z : Shuttle, z.besideThreads = sh.besideThreads ∧ z.vregs = sh.vregs ∧
      valueWord ⟨is, env, blk, e⟩ r (arithFn ⟨is, env, blk, e⟩ r f e.fmt) d sh e =
        { d := (fillOutput ⟨is, env, blk, e⟩ r d z (r.firstResult f d sh env blk e)).1, e := e, out := [], fin := .moved
          s := (fillOutput ⟨is, env, blk, e⟩ r d z (r.firstResult f d sh env blk e)).2 } := by
  obtain ⟨hpops, hs, hb⟩ := hreads
  obtain ⟨-, -, hp, hq, -, hh⟩ := (Entry.fresh_iff e).1 hfresh
  have hev : r.ev e (r.ex sh) = r.evaluates (r.ex sh) := ev_of_nothing_begun hp hh hq _
  have hnV : isV r.w.d = false := by simp only [isO, isV, Bool.and_eq_true, decide_eq_true_eq] at *; simp; omega
  obtain ⟨x, xs, hcons⟩ := List.exists_cons_of_ne_nil hex
  have heval : r.evaluates (r.ex sh) = [x] := by rw [LaneRun.evaluates, hu, hcons]; rfl
  have hgo := valueWord_goes (c := ⟨is, env, blk, e⟩) (d := d) (f := arithFn ⟨is, env, blk, e⟩ r f e.fmt) hex
    (by rw [hev]; exact sourcesReady_none hs hb) rfl hfree (by simp [LaneRun.dstPending, hnV])
    (by rw [hpops, popAll_nil])
  rw [hev, heval] at hgo
  have hvals : spread (r.ex sh) r.w.u (([x].map (r.operands sh blk e)).map fun o => (o.beat,
        (arithFn ⟨is, env, blk, e⟩ r f e.fmt).val d sh (r.ex sh) ([x].map (r.operands sh blk e)) o)) =
      (x, f (r.arg d sh env blk e x)) :: xs.map fun b => (b, f (r.arg d sh env blk e x)) := by
    rw [hu, hcons, List.map_singleton, List.map_singleton, arithFn_val (c := ⟨is, env, blk, e⟩) hh rfl]
    rfl
  rw [finishValue_output ho hvals] at hgo
  have hfirst : (r.ex sh).headD 0 = x := by rw [hcons]; rfl
  rw [LaneRun.firstResult, hfirst]
  refine ⟨r.settled sh (r.ex sh) ((x, f (r.arg d sh env blk e x)) :: xs.map fun b => (b, f (r.arg d sh env blk e x))),
    settled_besideThreads _ _ _, ?_, hgo⟩
  rw [(settled_regs _ _ _).1, (write_vec hdst _ _).2 hnV]

theorem outputs_one {k : Nat} (hd : r.w.d = 776 + k) (hk : k < 8) (h1 : (laneShape r.opc r.row r.w).d = 1) :
    r.outputs = [k] := by
  have ho : isO (776 + k) = true := by simp [isO]; omega
  simp [LaneRun.outputs, hd, ho, h1]

/-- The output of one register, which no access of the block holds up, is written at once. -/
theorem fillOutput_performed {c : LaneCtx} {d : Dev} {z : Shuttle} {k v : Nat} (hd : r.w.d = 776 + k) (hk : k < 8)
    (h1 : (laneShape r.opc r.row r.w).d = 1) (hp : z.blockPerformed c.blk.id = true)
    (hpend : z.sreg (c.blk.outBase + k) = .pending) :
    fillOutput c r d z v = (d, (z.markWritten c.blk.id [k]).setSreg (c.blk.outBase + k) (fullOf v)) := by
  have hp' : (z.markWritten c.blk.id [k]).blockPerformed c.blk.id = true := hp
  have hpend' : (z.markWritten c.blk.id [k]).sreg (c.blk.outBase + k) = .pending := hpend
  simp [fillOutput, outputs_one hd hk h1, hp', h1, hd, Shuttle.fillS, hpend', fillCell, RegCell.isPending]

/-- Behind an access of the block that is still to be performed the value waits as an access of its own. -/
theorem fillOutput_behind {c : LaneCtx} {d : Dev} {z : Shuttle} {k v : Nat} (hd : r.w.d = 776 + k) (hk : k < 8)
    (h1 : (laneShape r.opc r.row r.w).d = 1) (hp : z.blockPerformed c.blk.id = false) :
    ∃ a : Access, a.id = d.nextId ∧ a.block = c.blk.id ∧ a.dst = .sregs (c.blk.outBase + k) ∧ a.status = .arrived v ∧
      fillOutput c r d z v =
        ({ d with nextId := d.nextId + 1 }, { z.markWritten c.blk.id [k] with accs := z.accs ++ [a] }) := by
  have hp' : (z.markWritten c.blk.id [k]).blockPerformed c.blk.id = false := hp
  refine ⟨{ id := d.nextId, word := d.nextId, beat := some 0, kind := .load, va := 0, size := 4, data := 0, ord := 0,
            dst := .sregs (c.blk.outBase + k), covers := [], block := c.blk.id, status := .arrived v }, rfl, rfl, rfl, rfl, ?_⟩
  simp [fillOutput, outputs_one hd hk h1, hp', h1, hd]
  rfl

theorem outputFault_of_free {k : Nat} (hd : r.w.d = 776 + k) (hk : k < 8) (h1 : (laneShape r.opc r.row r.w).d = 1)
    (hout : k < blk.outN) (hnew : k ∉ blk.written) (ex : List Nat) : r.outputFault blk ex = none := by
  simp [LaneRun.outputFault, outputs_one hd hk h1, hnew]
  omega

/-- An output register of the window, not written before, takes the first thread's value at once. -/
theorem arith_output (hw : s.AtWord is sh env blk e i r) (hf : laneFn r.opc = some f) (hreads : r.Reads sh blk)
    (hex : r.ex sh ≠ []) (hdst : r.row.dst = .vec) {k : Nat} (hd : r.w.d = 776 + k) (hk : k < 8) (hu : r.w.u = true)
    (h1 : (laneShape r.opc r.row r.w).d = 1) (hout : k < blk.outN) (hnew : k ∉ blk.written)
    (hp : sh.blockPerformed blk.id = true) (hpend : sh.sreg (blk.outBase + k) = .pending) :
    ∃ h, EndsAs i s h ∧ h.frontier = sh.goesOn env e ∧ h.vregs = sh.vregs ∧
      h.sreg (blk.outBase + k) = .full (BitVec.ofNat 32 (r.firstResult f s.dev sh env blk e)) ∧
      (∀ n, n ≠ blk.outBase + k → h.sreg n = sh.sreg n) ∧ ∀ z ∈ h.blocks, z.id = blk.id → k ∈ z.written := by
  obtain ⟨z, hbeside, hvregs, hval⟩ := valueWord_output (is := is) (env := env) (d := s.dev) hw.2.2.2.1 hreads hex hdst hu
    (by simp [isO, hd]; omega) (outputFault_of_free hd hk h1 hout hnew _)
  have haccs : z.accs = sh.accs := (congrArg Shuttle.accs hbeside :)
  have hsregs : z.sregs = sh.sregs := (congrArg Shuttle.sregs hbeside :)
  have hfr : z.frontier = sh.frontier := (congrArg Shuttle.frontier hbeside :)
  have hfill := fillOutput_performed (c := ⟨is, env, blk, e⟩) (d := s.dev) (z := z) (v := r.firstResult f s.dev sh env blk e) hd hk
    h1 (by rw [Shuttle.blockPerformed, haccs]; exact hp) (by rw [Shuttle.sreg, hsregs]; exact hpend)
  rw [hfill] at hval
  let h := (z.markWritten blk.id [k]).setSreg (blk.outBase + k) (fullOf (r.firstResult f s.dev sh env blk e))
  have hsreg : ∀ n, h.sreg n = if n = blk.outBase + k then fullOf (r.firstResult f s.dev sh env blk e) else sh.sreg n :=
    fun n => by
      rw [Shuttle.sreg_setSreg]
      exact if_congr Iff.rfl rfl (by rw [Shuttle.sreg, Shuttle.sreg, ← hsregs]; rfl)
  refine ⟨{ h with frontier := h.goesOn env e }, ?_, ?_, hvregs, ?_, fun n hn => ?_, fun b hb hid => ?_⟩
  · rw [EndsAs, arith_runs hw hf, hval, finishWord_moved]
    rfl
  · exact congrArg (fun fr => { sh with frontier := fr }.goesOn env e) hfr
  · exact (hsreg _).trans (if_pos rfl)
  · exact (hsreg n).trans (if_neg hn)
  · obtain ⟨b', -, rfl⟩ := List.mem_map.1 (show b ∈ z.blocks.map _ from hb)
    by_cases hb' : (b'.id == blk.id) = true
    · rw [if_pos hb']
      simp
    · rw [if_neg hb'] at hid
      exact absurd (beq_iff_eq.2 hid) hb'

/-- Behind the block's earlier accesses the value waits. -/
theorem arith_output_behind (hw : s.AtWord is sh env blk e i r) (hf : laneFn r.opc = some f) (hreads : r.Reads sh blk)
    (hex : r.ex sh ≠ []) (hdst : r.row.dst = .vec) {k : Nat} (hd : r.w.d = 776 + k) (hk : k < 8) (hu : r.w.u = true)
    (h1 : (laneShape r.opc r.row r.w).d = 1) (hout : k < blk.outN) (hnew : k ∉ blk.written)
    (hp : sh.blockPerformed blk.id = false) :
    ∃ (h : Shuttle) (z : Access),
      exec i s = .next (s.withDev ({ s.dev with nextId := s.dev.nextId + 1 }.setShuttle h)) ∧
      h.frontier = sh.goesOn env e ∧ h.sregs = sh.sregs ∧ h.accs = sh.accs ++ [z] ∧ z.id = s.dev.nextId ∧
      z.block = blk.id ∧ z.dst = .sregs (blk.outBase + k) ∧ z.status = .arrived (r.firstResult f s.dev sh env blk e) := by
  obtain ⟨z, hbeside, hvregs, hval⟩ := valueWord_output (is := is) (env := env) (d := s.dev) hw.2.2.2.1 hreads hex hdst hu
    (by simp [isO, hd]; omega) (outputFault_of_free hd hk h1 hout hnew _)
  have haccs : z.accs = sh.accs := (congrArg Shuttle.accs hbeside :)
  obtain ⟨a, hid, hblock, hadst, hstatus, hfill⟩ := fillOutput_behind (c := ⟨is, env, blk, e⟩) (d := s.dev) (z := z)
    (v := r.firstResult f s.dev sh env blk e) hd hk h1 (by rw [Shuttle.blockPerformed, haccs]; exact hp)
  rw [hfill] at hval
  let h : Shuttle := { z.markWritten blk.id [k] with accs := z.accs ++ [a] }
  refine ⟨{ h with frontier := h.goesOn env e }, a, ?_, (congrArg (fun z => z.goesOn env e) hbeside :),
    (congrArg Shuttle.sregs hbeside :), congrArg (· ++ [a]) haccs, hid, hblock, hadst, hstatus⟩
  rw [arith_runs hw hf, hval, finishWord_moved]

/-- An output register beyond the window, or written before, ends the team. -/
theorem arith_output_fault (hw : s.AtWord is sh env blk e i r) (hf : laneFn r.opc = some f) (hreads : r.Reads sh blk)
    (hex : r.ex sh ≠ []) {k : Nat} (hd : r.w.d = 776 + k) (hk : k < 8) (h1 : (laneShape r.opc r.row r.w).d = 1)
    (hbad : blk.outN ≤ k ∨ k ∈ blk.written) (hno : ∀ b ∈ e.beats, sh.attempt b = none) : EndsTeamAt i s sh 0x11 0 := by
  obtain ⟨hpops, hs, hb⟩ := hreads
  have hset : r.set = e.beats := hw.2.2.2.2.2.2.1
  obtain ⟨-, -, hp, hq, -, hh⟩ := (Entry.fresh_iff e).1 hw.2.2.2.1
  have hfault : r.outputFault blk (r.ex sh) =
      some { cause := 0x11, sub := 0, threads := r.ex sh, operand := r.w.d, words := r.raw } := by
    rw [LaneRun.outputFault, outputs_one hd hk h1]
    exact if_pos (by simpa using hbad)
  have hbusy : (arithFn ⟨is, env, blk, e⟩ r f e.fmt).busy s.dev sh (r.ex sh) = false := rfl
  refine endsTeamAt_of_trapped (c := ⟨is, env, blk, e⟩) (h := sh) (e' := e)
    (t := { cause := 0x11, sub := 0, threads := r.ex sh, operand := r.w.d, words := r.raw }) ?_
    (fun b hb => hno b (hset ▸ ex_subset_set hb)) (by simp) rfl rfl rfl rfl
  rw [arith_runs hw hf]
  simp [valueWord, hex, ev_of_nothing_begun hp hh hq, sourcesReady_none hs hb, hbusy, hfault]

/-! ## The issue register -/

/-- Threads that hold one word form one group. -/
theorem groupBy_const (bs : List Nat) (v : Nat) (h : bs ≠ []) : groupBy (bs.map fun b => (b, v)) = [(v, bs)] := by
  induction bs with
  | nil => exact absurd rfl h
  | cons b bs ih =>
    rw [List.map_cons, groupBy]
    by_cases hbs : bs = []
    · subst hbs
      rfl
    · rw [ih hbs]
      simp

/-- A word that passes its checks has a D that may stand. -/
theorem dstAllowed_of_legal {opc : Nat} {row : LaneRow} {w : LaneWord} {nv tiles : Nat} {inq outq : Nat → Bool}
    (hill : laneIllegal opc row w nv tiles inq outq = none) : dstAllowed opc row w = true := by
  by_contra hd
  have hd : dstAllowed opc row w = false := by simpa using hd
  unfold laneIllegal at hill
  dsimp only at hill
  split at hill
  · cases hill
  · rw [hd] at hill
    cases hill

/-- D of the quiet form is a predicate. -/
theorem quiet_dst {w : LaneWord} {row : LaneRow} {nv tiles : Nat} {inq outq : Nat → Bool} (hrow : laneRow 0x0F7 = some row)
    (hill : laneIllegal 0x0F7 row w nv tiles inq outq = none) (hx : w.x % 2 = 1) : w.d < 8 := by
  cases hrow
  simpa [dstAllowed, ctlRow, hx] using dstAllowed_of_legal hill

/-- A predicate written in several threads. -/
theorem Shuttle.pred_foldl_setPred (s : Shuttle) (bs : List Nat) {p : Nat} (hp : p < 8) (v : Bool) (b n : Nat) (hn : n < 8) :
    (bs.foldl (fun s b => s.setPred b p v) s).pred b n = if b ∈ bs ∧ n = p ∧ n ≠ 7 then v else s.pred b n := by
  induction bs generalizing s with
  | nil => simp
  | cons x bs ih =>
    rw [List.foldl_cons, ih]
    have hset : (s.setPred x p v).pred b n = if b = x ∧ n = p ∧ n ≠ 7 then v else s.pred b n := by
      unfold Shuttle.setPred Shuttle.pred
      by_cases h7 : p = 7
      · rw [if_pos (by simpa using h7), if_neg (by omega)]
      · rw [if_neg (by simpa using h7)]
        dsimp only
        rw [getK_putK]
        by_cases hkey : b = x ∧ n = p
        · obtain ⟨rfl, rfl⟩ := hkey
          cases v <;> simp [h7]
        · rw [if_neg (by omega), if_neg (fun h => hkey ⟨h.1, h.2.1⟩)]
    rw [hset]
    by_cases hb : b ∈ bs <;> by_cases hx : b = x <;> simp [hb, hx] <;> grind

/-- What a word of `xissue` reports in the threads of its quiet form. -/
theorem reportQuiet_one (s : Shuttle) (b : Nat) (fault : Bool) (w : LaneWord) :
    reportQuiet s b fault [quietOf w] = if w.x % 2 = 1 then s.setPred b w.d fault else s := by
  unfold quietOf
  by_cases hx : w.x % 2 = 1
  · simp [hx, reportQuiet]
  · simp [hx, reportQuiet]

/-- The predicates after the report to several threads; their other registers are as they were. -/
theorem reportQuiet_all (s : Shuttle) (bs : List Nat) (fault : Bool) {w : LaneWord} (hd : w.x % 2 = 1 → w.d < 8) :
    let z := bs.foldl (fun s b => reportQuiet s b fault [quietOf w]) s
    z.besideThreads = s.besideThreads ∧ z.vregs = s.vregs ∧
      ∀ b n, n < 8 → z.pred b n = if w.x % 2 = 1 ∧ b ∈ bs ∧ n = w.d ∧ n ≠ 7 then fault else s.pred b n := by
  intro z
  by_cases hx : w.x % 2 = 1
  · have hz : z = bs.foldl (fun s b => s.setPred b w.d fault) s := by
      simp only [z, reportQuiet_one, if_pos hx]
    refine ⟨?_, ?_, fun b n hn => ?_⟩
    · rw [hz]
      exact foldl_keeps (fun (s : Shuttle) b => s.setPred b w.d fault) Shuttle.besideThreads
        (fun _ _ => Shuttle.setPred_besideThreads _ _ _ _) bs s
    · rw [hz]
      refine foldl_keeps (fun (s : Shuttle) b => s.setPred b w.d fault) Shuttle.vregs (fun s b => ?_) bs s
      unfold Shuttle.setPred
      split <;> rfl
    · rw [hz, Shuttle.pred_foldl_setPred s bs (hd hx) fault b n hn]
      simp [hx]
  · have hz : z = s := by
      simp only [z, reportQuiet_one, if_neg hx]
      exact foldl_keeps (fun (s : Shuttle) (_ : Nat) => s) id (fun _ _ => rfl) bs s
    rw [hz]
    exact ⟨rfl, rfl, fun b n _ => by simp [hx]⟩

/-- An `xissue` whose threads hold one word, in full registers, offers them to it as a group. -/
theorem xissueWord_one {c : LaneCtx} {d : Dev} {word : Nat} (hfresh : e.fresh = true) (hex : r.ex sh ≠ [])
    (hword : ∀ b ∈ r.ex sh, sh.heldWord b r.w.a = word ∧ ∀ k, k < 3 → (sh.vreg b (r.w.a + k)).isFull = true) :
    let x := xGroup1 c [quietOf r.w] { d := d, s := sh, e := e, out := [], stop := none } (word, r.ex sh)
    xissueWord c r d sh e =
      { d := x.d, s := x.s, e := x.e, out := x.out
        fin := match x.stop with
          | some f => f
          | none => match illegalWordTrap x.e with
            | some t => .trapped t
            | none => .moved } := by
  intro x
  obtain ⟨hd, hl, -, -, hxf, hh⟩ := (Entry.fresh_iff e).1 hfresh
  have hpending : ({ d := d, s := sh, e := e, out := [], stop := none } : XState).pendingOf (r.ex sh) = r.ex sh := by
    simp [XState.pendingOf, hd, hl, hxf]
  have hfull : ∀ b ∈ r.ex sh, ∀ k, k < 3 →
      (sh.vreg b (r.w.a + k)).present = true ∧ (sh.vreg b (r.w.a + k)).isBad = false := fun b hb k hk =>
    ⟨RegCell.present_of_full ((hword b hb).2 k hk), RegCell.not_bad_of_full ((hword b hb).2 k hk)⟩
  have hshort : (r.ex sh).filter (xStarved sh e 1 r.w.a) = [] := by
    refine List.filter_eq_nil_iff.2 fun b hb => ?_
    intro h
    obtain ⟨k, hk, hp⟩ := List.any_eq_true.1 (Bool.and_eq_true_iff.1 h).2
    simp [(hfull b hb k (List.mem_range.1 hk)).1] at hp
  have hbad : ((r.ex sh).any (xBad sh e 1 r.w.a)) = false := by
    refine List.any_eq_false.2 fun b hb => ?_
    intro h
    obtain ⟨k, hk, hp⟩ := List.any_eq_true.1 (Bool.and_eq_true_iff.1 h).2
    simp [(hfull b hb k (List.mem_range.1 hk)).2] at hp
  have hgroups : xGroups sh e 1 r.w.a (r.ex sh) = [(word, r.ex sh)] := by
    rw [xGroups, ← groupBy_const (r.ex sh) word hex]
    refine congrArg groupBy (List.map_congr_left fun b hb => ?_)
    simp [xWord, hh, (hword b hb).1]
  unfold xissueWord
  dsimp only
  rw [hpending, hshort, hbad, hgroups]
  rfl

/-- `xissue` runs, and D of its quiet form is a predicate. -/
theorem xissue_runs {w : LaneWord} (hw : s.AtWord is sh env blk e (.xissue w) r) :
    r.w = w ∧ (w.x % 2 = 1 → w.d < 8) ∧ exec (.xissue w) s =
      .next (s.withDev (finishWord ⟨is, env, blk, e⟩ (xissueWord ⟨is, env, blk, e⟩ r s.dev sh e))) := by
  have hrun := laneWord_runs hw xissueWord
  obtain ⟨-, -, -, -, hof, hrow, -, -, -, -, hill⟩ := hw
  obtain ⟨hopc, hwd⟩ : 0x0F7 = r.opc ∧ w = r.w := Prod.mk.inj (Option.some.inj hof)
  rw [← hopc] at hrow
  rw [← hopc, ← hwd] at hrun hill
  exact ⟨hwd.symm, quiet_dst hrow hill, hrun⟩

/-- A word that may be issued has no U. -/
theorem xCheck_u {c : LaneCtx} {z : Shuttle} {depth word : Nat} {row : LaneRow} (hrow : laneRow (opcOf word) = some row)
    (h : xCheck c z depth word = none) : (laneFieldsOf word).u = false := by
  unfold xCheck at h
  dsimp only at h
  rw [hrow] at h
  dsimp only at h
  split at h
  · cases h
  · split at h
    · cases h
    · split at h
      · cases h
      · next hp =>
        cases hu : (laneFieldsOf word).u
        · rfl
        · exact absurd (show (!xPermitted _ _ _) = true by simp [xPermitted, hu]) hp

/-- The word that a group of threads holds. -/
def heldRun (row : LaneRow) (set : List Nat) (word : Nat) : LaneRun :=
  { opc := opcOf word, row := row, w := laneFieldsOf word, set := set, path := [word], raw := laneParts word }

/-- The threads that hold an arithmetic word execute it as if it were fetched. -/
theorem xGroup1_arith {d : Dev} {word : Nat} {row : LaneRow} {bs : List Nat} {qs : List Quiet} (hfresh : e.fresh = true)
    (hx : xCheck ⟨is, env, blk, e⟩ sh 1 word = none) (hrow : laneRow (opcOf word) = some row)
    (hf : laneFn (opcOf word) = some f) (hdst : row.dst = .vec) (hreads : (heldRun row bs word).Reads sh blk)
    (hw : (heldRun row bs word).Writes sh) :
    ∃ (z : Shuttle) (e' : Entry),
      xGroup1 ⟨is, env, blk, e⟩ qs { d := d, s := sh, e := e, out := [], stop := none } (word, bs) =
        { d := d, s := bs.foldl (fun s b => reportQuiet s b false qs) z, e := e', out := [], stop := none } ∧
      e'.xfaults = [] ∧ z.besideThreads = sh.besideThreads ∧ z.preds = sh.preds ∧
      (heldRun row bs word).Fills sh z fun b => (f ((heldRun row bs word).arg d sh env blk e b)).1 := by
  obtain ⟨-, -, -, -, hxf, -⟩ := (Entry.fresh_iff e).1 hfresh
  obtain ⟨hpops, hs, hb⟩ := hreads
  have hf' : laneFn (heldRun row bs word).opc = some f := hf
  rw [ownSrcs_of_laneFn hf'] at hs hb
  obtain ⟨z, hval, hbeside, hvec⟩ := valueWord_arith (is := is) (env := env) (d := d) hfresh hf' hs hb hw
    (by rw [hpops]; exact popAll_nil _ _ _ _)
  obtain ⟨hpreds, hfills⟩ := hvec hdst
  have hnot : (opcOf word == 0x0F7) = false := by
    refine beq_false_of_ne fun h => ?_
    rw [h] at hf
    cases hf
  have hinner : innerWord ⟨is, env, blk, e⟩ (heldRun row bs word) d sh e =
      { d := d, s := z, e := e, out := [], fin := .moved } := by
    rw [innerWord, hf']
    exact hval
  refine ⟨z, (({ d := d, s := z, e := e, out := [], stop := none } : XState).completed bs qs).e, ?_, hxf, hbeside, hpreds,
    fills_congr (fun b _ => ?_) hfills⟩
  · rw [xGroup1]
    simp only [Option.isSome_none, hx, hnot, xExecute, hrow]
    rw [show ({ opc := opcOf word, row := row, w := laneFieldsOf word, set := bs, path := [word], raw := laneParts word } : LaneRun) =
      heldRun row bs word from rfl, hinner]
    dsimp only
    rw [staying_nil]
    rfl
  · rw [LaneRun.giver, if_neg (by simp [heldRun, xCheck_u hrow hx])]

/-- What `xissue` does with an arithmetic word that all its threads hold. -/
theorem xissue_executes {w : LaneWord} {word : Nat} {row : LaneRow} (hw : s.AtWord is sh env blk e (.xissue w) r)
    (hex : r.ex sh ≠ [])
    (hword : ∀ b ∈ r.ex sh, sh.heldWord b w.a = word ∧ ∀ k, k < 3 → (sh.vreg b (w.a + k)).isFull = true)
    (hx : xCheck ⟨is, env, blk, e⟩ sh 1 word = none) (hrow : laneRow (opcOf word) = some row)
    (hf : laneFn (opcOf word) = some f) (hdst : row.dst = .vec) (hreads : (heldRun row (r.ex sh) word).Reads sh blk)
    (hwr : (heldRun row (r.ex sh) word).Writes sh) :
    ∃ h : Shuttle, EndsAs (.xissue w) s h ∧ h.frontier = sh.goesOn env e ∧
      (heldRun row (r.ex sh) word).Fills sh h (fun b => (f ((heldRun row (r.ex sh) word).arg s.dev sh env blk e b)).1) ∧
      h.sregs = sh.sregs ∧
      ∀ b n, n < 8 → h.pred b n = if w.x % 2 = 1 ∧ b ∈ r.ex sh ∧ n = w.d ∧ n ≠ 7 then false else sh.pred b n := by
  obtain ⟨hwd, hd, hrun⟩ := xissue_runs hw
  have hfresh := hw.2.2.2.1
  obtain ⟨z, e', hgroup, hxf, hbeside, hpreds, hfills⟩ := xGroup1_arith (d := s.dev) (qs := [quietOf w]) hfresh hx hrow hf hdst
    hreads hwr
  obtain ⟨hbeside', hvregs, hpred⟩ := reportQuiet_all z (r.ex sh) false hd
  have hone := xissueWord_one (c := ⟨is, env, blk, e⟩) (d := s.dev) hfresh hex (hwd ▸ hword)
  rw [hwd, hgroup] at hone
  simp only [illegalWordTrap, hxf] at hone
  let h := (r.ex sh).foldl (fun s b => reportQuiet s b false [quietOf w]) z
  have hall : h.besideThreads = sh.besideThreads := hbeside'.trans hbeside
  refine ⟨{ h with frontier := h.goesOn env e }, ?_, ?_, fun b n hn => ?_, ?_, fun b n hn => ?_⟩
  · rw [EndsAs, hrun, hone]
    exact congrArg (fun d => Host.Outcome.next (s.withDev d)) (finishWord_moved _ _ _ _)
  · exact (congrArg (fun z => z.goesOn env e) hall :)
  · refine Eq.trans ?_ (hfills b n hn)
    rw [Shuttle.vreg, Shuttle.vreg, ← hvregs]
  · exact (congrArg Shuttle.sregs hall :)
  · refine (hpred b n hn).trans (if_congr Iff.rfl rfl ?_)
    rw [Shuttle.pred, Shuttle.pred, hpreds]

/-- An illegal word under the quiet form is reported in the form's predicate. -/
theorem xissue_reports {w : LaneWord} {word sub : Nat} (hw : s.AtWord is sh env blk e (.xissue w) r) (hex : r.ex sh ≠ [])
    (hword : ∀ b ∈ r.ex sh, sh.heldWord b w.a = word ∧ ∀ k, k < 3 → (sh.vreg b (w.a + k)).isFull = true)
    (hx : xCheck ⟨is, env, blk, e⟩ sh 1 word = some sub) (hq : w.x % 2 = 1) :
    ∃ h : Shuttle, EndsAs (.xissue w) s h ∧ h.frontier = sh.goesOn env e ∧ h.vregs = sh.vregs ∧
      ∀ b n, n < 8 → h.pred b n = if b ∈ r.ex sh ∧ n = w.d ∧ n ≠ 7 then true else sh.pred b n := by
  obtain ⟨hwd, hd, hrun⟩ := xissue_runs hw
  have hfresh := hw.2.2.2.1
  obtain ⟨-, -, -, -, hxf, -⟩ := (Entry.fresh_iff e).1 hfresh
  obtain ⟨hbeside, hvregs, hpred⟩ := reportQuiet_all sh (r.ex sh) true hd
  have hone := xissueWord_one (c := ⟨is, env, blk, e⟩) (d := s.dev) hfresh hex (hwd ▸ hword)
  have hsome : [quietOf w].any Option.isSome = true := by simp [quietOf, hq]
  rw [hwd] at hone
  simp only [xGroup1, Option.isSome_none, hx, XState.faulted, hsome, if_true, illegalWordTrap, hxf] at hone
  let h := (r.ex sh).foldl (fun s b => reportQuiet s b true [quietOf w]) sh
  refine ⟨{ h with frontier := h.goesOn env e }, ?_, ?_, hvregs, fun b n hn => ?_⟩
  · rw [EndsAs, hrun, hone]
    exact congrArg (fun d => Host.Outcome.next (s.withDev d)) (finishWord_moved _ _ _ _)
  · exact (congrArg (fun z => z.goesOn env e) hbeside :)
  · refine (hpred b n hn).trans (if_congr ?_ rfl rfl)
    simp [hq]

/-- An illegal word under no quiet form traps with cause 4, once its threads' words are done. -/
theorem xissue_traps {w : LaneWord} {word sub : Nat} (hw : s.AtWord is sh env blk e (.xissue w) r) (hex : r.ex sh ≠ [])
    (hword : ∀ b ∈ r.ex sh, sh.heldWord b w.a = word ∧ ∀ k, k < 3 → (sh.vreg b (w.a + k)).isFull = true)
    (hx : xCheck ⟨is, env, blk, e⟩ sh 1 word = some sub) (hq : w.x % 2 = 0) (hno : ∀ b ∈ e.beats, sh.attempt b = none)
    (htrap : env.nest.hasTrap = true) (hh : sh.handler = false) :
    ∃ h, EntersHandler (.xissue w) s sh env e 4 sub (r.ex sh) h ∧
      h.sreg 1014 = .full (BitVec.ofNat 32 word) ∧ h.suspended = .lane e.pc e.beats true := by
  obtain ⟨hwd, -, hrun⟩ := xissue_runs hw
  have hfresh := hw.2.2.2.1
  have hset : r.set = e.beats := hw.2.2.2.2.2.2.1
  obtain ⟨hd, hl, hp, hpu, hxf, hheld⟩ := (Entry.fresh_iff e).1 hfresh
  have hone := xissueWord_one (c := ⟨is, env, blk, e⟩) (d := s.dev) hfresh hex (hwd ▸ hword)
  have hsome : [quietOf w].any Option.isSome = false := by simp [quietOf, hq]
  obtain ⟨b, bs, hbs⟩ := List.exists_cons_of_ne_nil hex
  rw [hwd] at hone
  let e' : Entry := { e with xfaults := (r.ex sh).map fun b => { beat := b, sub := sub, depth := 1, word := word } }
  obtain ⟨t, ht, hc, hsub, hthreads, hwords, hskip⟩ : ∃ t, illegalWordTrap e' = some t ∧ t.cause = 4 ∧ t.sub = sub ∧
      t.threads = r.ex sh ∧ t.words = laneParts word ∧ t.skip = true := by
    refine ⟨_, by rw [illegalWordTrap, show e'.xfaults = _ :: _ from by simp only [e', hbs, List.map_cons]; rfl], rfl, rfl, ?_, rfl, rfl⟩
    simp [hbs, Function.comp_def]
  have hlast : xissueWord ⟨is, env, blk, e⟩ r s.dev sh e = { d := s.dev, s := sh, e := e', out := [], fin := .trapped t } := by
    have hgroup : xGroup1 ⟨is, env, blk, e⟩ [quietOf w] { d := s.dev, s := sh, e := e, out := [], stop := none } (word, r.ex sh) =
        { d := s.dev, s := sh, e := e', out := [], stop := none } := by
      simp [xGroup1, hx, XState.faulted, hsome, hxf, e']
    rw [hone, hgroup]
    dsimp only
    rw [ht]
  rw [hlast] at hrun
  have henters := entersHandler_of_trapped hw.1 (show e'.pc = e.pc from rfl) hrun
    (fun b hb => hno b (hset ▸ ex_subset_set (hthreads ▸ hb))) (by omega) htrap hh
  rw [hc, hsub, hthreads] at henters
  refine ⟨_, henters, ?_, ?_⟩
  · refine (sh.sreg_trappedBy _ _ _ (k := 6) (by decide)).trans ?_
    change fullOf (t.words.getD 0 0) = _
    rw [hwords]
    exact congrArg RegCell.full (BitVec.eq_of_toNat_eq (by simp [laneParts]))
  · exact congrArg (Suspended.lane e.pc e.beats) hskip

/-- Settles O49, from how an arithmetic word pops, reads and writes, and how `xissue` offers a held word to its threads. -/
theorem laneChecksAndIssue : Obligations.LaneChecksAndIssue := by
  unfold Obligations.LaneChecksAndIssue
  intro s is sh env blk e hat
  refine ⟨fun sub => unassigned_endsTeam hat sub, fun sub hl hblk hcur hno => unassigned_endsTeamAt hat sub hl hblk hcur hno, ?_, ?_, ?_⟩
  · intro i w opc row x hof hrow hblk hcur hshare hno hill
    exact illegal_endsTeamAt hat hof hrow hblk hcur hshare hno hill
  · intro i r f hw hf ex
    refine ⟨arith_waits hw hf, fun b hb hbit hempty hno htrap hh => arith_faults hw hf hb hbit hempty hno htrap hh, ?_, ?_, ?_⟩
    · intro b q x xs hex ha hq h1 h2 h3 hd hpend hvals
      exact arith_pops hw hf hex ha hq h1 h2 h3 hd hpend hvals
    · intro d e' all hpop hs hb hwr
      cases all
      case true =>
        obtain ⟨h, hexec, -, hfr, hfills⟩ := arith_moves hw hf hs hb hwr hpop
        exact ⟨h, hexec, fun _ => ⟨hfr, hfills⟩, nofun⟩
      case false =>
        obtain ⟨h, hexec, hvregs, hfr⟩ := arith_keepsPops hw hf hs hb hwr hpop
        exact ⟨h, hexec, nofun, fun _ => ⟨hvregs, hfr⟩⟩
    · intro k hreads hex hdst hd hk hu h1
      refine ⟨fun hout hnew hp hpend => arith_output hw hf hreads hex hdst hd hk hu h1 hout hnew hp hpend,
        fun hout hnew hp => arith_output_behind hw hf hreads hex hdst hd hk hu h1 hout hnew hp,
        fun hbad hno => arith_output_fault hw hf hreads hex hd hk h1 hbad hno⟩
  · intro w r word hw hex hword c
    refine ⟨fun row f hx hrow hf hdst => xissue_executes hw hex hword hx hrow hf hdst, fun sub hx =>
      ⟨fun hq => xissue_reports hw hex hword hx hq, fun hq hno htrap hh => xissue_traps hw hex hword hx hq hno htrap hh⟩⟩

end Sys2Proof.Machine
end

section
/-!
PROOF. O47: what the lane memory words issue, the addresses that end the team, and the two words that act on the caches alone.
-/
namespace Sys2Proof.Machine

variable {s : State} {is : Issue} {sh : Shuttle} {env : Env} {blk : Block} {e : Entry} {i : Instr} {r : LaneRun}

/-! ## The word -/

theorem mem_runs (hw : s.AtWord is sh env blk e i r)
    (hi : i = .ld r.w ∨ i = .st r.w ∨ i = .atom r.w ∨ i = .red r.w) :
    exec i s = .next (s.withDev (finishWord ⟨is, env, blk, e⟩ (memWord ⟨is, env, blk, e⟩ r s.dev sh e))) := by
  have hrun := laneWord_runs hw memWord
  have hof := hw.2.2.2.2.1
  obtain rfl | rfl | rfl | rfl := hi <;>
    · rw [← (Prod.mk.inj (Option.some.inj hof)).1] at hrun
      exact hrun

theorem team_of_atWord (hw : s.AtWord is sh env blk e i r) : s.dev.team sh.team = some env.team := by
  obtain ⟨⟨-, -, henv⟩, -⟩ := hw
  exact Dev.team_of_env henv

/-- The OPC of each memory word. -/
theorem mem_opc (hw : s.AtWord is sh env blk e i r)
    (hi : i = .ld r.w ∨ i = .st r.w ∨ i = .atom r.w ∨ i = .red r.w) :
    (i = .ld r.w ↔ r.opc = 0x0A0) ∧ (i = .st r.w ↔ r.opc = 0x0A1) ∧ (i = .atom r.w ↔ r.opc = 0x0A2) ∧
      (i = .red r.w ↔ r.opc = 0x0A3) := by
  have hof := hw.2.2.2.2.1
  obtain rfl | rfl | rfl | rfl := hi <;>
    simp [← (Prod.mk.inj (Option.some.inj hof)).1]

theorem abortEach_none {d : Dev} {z : Shuttle} {fn code : Nat} {beats : List Nat} (h : ∀ b ∈ beats, z.attempt b = none) :
    abortEach d z fn code beats = (d, z, []) := by
  unfold abortEach
  induction beats with
  | nil => rfl
  | cons b bs ih =>
    rw [List.foldl_cons, h b List.mem_cons_self]
    exact ih fun b' hb => h b' (List.mem_cons_of_mem b hb)

theorem disallowed_subset {c : LaneCtx} {d : Dev} {ex : List Nat} {b : Nat} (h : b ∈ r.disallowed c d sh e ex) : b ∈ ex := by
  unfold LaneRun.disallowed at h
  split at h
  · exact h
  · exact (List.mem_filter.1 h).1

theorem reading_of_none_held (hh : e.held = []) (ev : List Nat) : r.reading e ev = ev := by
  simp [LaneRun.reading, Entry.heldFor, hh]

theorem popsOf_take (h : r.pops = []) (k : Nat) : popsOf (r.srcs.take k) = [] := by
  rw [LaneRun.pops, popsOf, List.flatMap_eq_nil_iff] at h
  exact List.flatMap_eq_nil_iff.2 fun x hx => h x (List.mem_of_mem_take hx)

theorem memRequests_eq (hteam : s.dev.team sh.team = some env.team) :
    memRequests ⟨is, env, blk, e⟩ r (r.ex sh) ((r.evaluates (r.ex sh)).map (r.operands sh blk e)) s.dev sh =
      r.requests sh env blk e := by
  rw [memRequests, LaneRun.requests, List.map_map, hteam]
  refine List.map_congr_left fun b _ => ?_
  have hbeat : (r.operands sh blk e b).beat = b := by
    unfold LaneRun.operands
    split <;> rfl
  simp only [Function.comp_apply, hbeat]
  rfl

/-- What a memory word reads before the check of its addresses: all its sources, or those of the address (R294). -/
def LaneRun.early (r : LaneRun) : List (Nat × Nat × Nat) := if isAtomic r.opc then r.srcs.take 2 else r.srcs

/-- What it reads after it. -/
def LaneRun.late (r : LaneRun) : List (Nat × Nat × Nat) := if isAtomic r.opc then r.srcs.drop 2 ++ r.casSrcs else []

theorem popsOf_early (h : r.pops = []) : popsOf r.early = [] := by
  unfold LaneRun.early
  split
  · exact popsOf_take h 2
  · exact h

section
variable (hfresh : e.fresh = true) (hpops : r.pops = []) (hteam : s.dev.team sh.team = some env.team) (hex : r.ex sh ≠ [])
  (hno : ∀ b ∈ r.ex sh, sh.attempt b = none) (hout : r.outputFault blk (r.ex sh) = none)
  (hearly : r.sourcesReady sh blk (r.evaluates (r.ex sh)) r.early = none)
include hfresh hpops hteam hex hno hout hearly

/-- An address that reaches nothing traps before an atomic reads C. -/
theorem memWord_bad {t : LaneTrap} (hbad : badAddress r (r.requests sh env blk e) = some t) (hl : r.late ≠ []) :
    memWord ⟨is, env, blk, e⟩ r s.dev sh e = { d := s.dev, s := sh, e := e, out := [], fin := .trapped t } := by
  obtain ⟨-, -, hp, hq, -, hh⟩ := (Entry.fresh_iff e).1 hfresh
  have hl' : r.late.isEmpty = false := by simpa using hl
  have hex' : (r.ex sh).isEmpty = false := by simpa using hex
  unfold memWord
  simp only [abortEach_none (fun b hb => hno b (disallowed_subset hb)), staying_nil, ev_of_nothing_begun hp hh hq,
    reading_of_none_held hh]
  rw [show (if isAtomic r.opc then (r.srcs.take 2, r.srcs.drop 2 ++ r.casSrcs) else (r.srcs, [])) = (r.early, r.late) from by
    unfold LaneRun.early LaneRun.late; split <;> rfl]
  simp only [hex', hearly, hout, hl', popsOf_early hpops, popAll_nil, memRequests_eq hteam, hbad, Bool.and_false,
    Bool.false_eq_true, if_false]

/-- A word whose sources are all full takes its accesses. -/
theorem memWord_accesses (hlate : r.sourcesReady sh blk (r.evaluates (r.ex sh)) r.late = none)
    (hdst : r.dstPending sh (r.ex sh) = false) (hbad : r.late ≠ [] → badAddress r (r.requests sh env blk e) = none) :
    memWord ⟨is, env, blk, e⟩ r s.dev sh e =
      runAccesses ⟨is, env, blk, e⟩ r (r.ex sh) ((r.evaluates (r.ex sh)).map (r.operands sh blk e)) s.dev sh e [] := by
  obtain ⟨-, -, hp, hq, -, hh⟩ := (Entry.fresh_iff e).1 hfresh
  have hex' : (r.ex sh).isEmpty = false := by simpa using hex
  have hcheck : (if r.late.isEmpty then none else badAddress r (r.requests sh env blk e)) = none := by
    split
    · rfl
    · next h => exact hbad (by simpa using h)
  unfold memWord
  simp only [abortEach_none (fun b hb => hno b (disallowed_subset hb)), staying_nil, ev_of_nothing_begun hp hh hq,
    reading_of_none_held hh]
  rw [show (if isAtomic r.opc then (r.srcs.take 2, r.srcs.drop 2 ++ r.casSrcs) else (r.srcs, [])) = (r.early, r.late) from by
    unfold LaneRun.early LaneRun.late; split <;> rfl]
  simp only [hex', hearly, hout, hdst, hlate, hpops, popsOf_early hpops, popAll_nil, memRequests_eq hteam, hcheck, Bool.false_and,
    Bool.false_eq_true, if_false]
end

/-! ## The accesses -/

theorem requests_subset {q : MemReq} (hq : q ∈ r.requests sh env blk e) : q.o.beat ∈ r.ex sh ∧ ∀ b ∈ q.covers, b ∈ r.ex sh := by
  obtain ⟨b, hb, rfl⟩ := List.mem_map.1 hq
  have hex := evaluates_subset hb
  refine ⟨?_, fun b' hb' => ?_⟩
  · have : (r.operands sh blk e b).beat = b := by
      unfold LaneRun.operands
      split <;> rfl
    exact (show (r.operands sh blk e b).beat ∈ r.ex sh by rw [this]; exact hex)
  · dsimp only at hb'
    split at hb'
    · exact hb'
    · exact List.mem_singleton.1 hb' ▸ hex

/-- The requests of a word stand for all its threads. -/
theorem mem_covers_iff (b : Nat) : (∃ q ∈ r.requests sh env blk e, b ∈ q.covers) ↔ b ∈ r.ex sh := by
  refine ⟨fun ⟨q, hq, hb⟩ => (requests_subset hq).2 b hb, fun hb => ?_⟩
  by_cases hu : r.w.u = true
  · obtain ⟨x, xs, hx⟩ := List.exists_cons_of_ne_nil (List.ne_nil_of_mem hb)
    refine ⟨_, List.mem_map.2 ⟨x, by simp [LaneRun.evaluates, hu, hx], rfl⟩, ?_⟩
    simpa [hu] using hb
  · refine ⟨_, List.mem_map.2 ⟨b, by simp [LaneRun.evaluates, hu, hb], rfl⟩, ?_⟩
    simp [hu]

/-- An address that reaches nothing is found. -/
theorem badAddress_some {q : MemReq} {reqs : List MemReq} (hq : q ∈ reqs) (hbad : q.reach = .bad) :
    ∃ t, badAddress r reqs = some t ∧ t.cause = 0x14 ∧ t.sub = 0 ∧ ∀ b ∈ t.threads, ∃ q ∈ reqs, b ∈ q.covers := by
  have hmem : q ∈ reqs.filter fun q => q.reach == .bad := List.mem_filter.2 ⟨hq, by simp [hbad]⟩
  obtain ⟨x, xs, hx⟩ := List.exists_cons_of_ne_nil (List.ne_nil_of_mem hmem)
  refine ⟨_, by rw [badAddress, hx], rfl, rfl, fun b hb => ?_⟩
  obtain ⟨y, hy, hby⟩ := List.mem_flatMap.1 hb
  exact ⟨y, (List.mem_filter.1 (hx ▸ hy)).1, hby⟩

theorem badAddress_none {reqs : List MemReq} (h : ∀ q ∈ reqs, q.reach ≠ .bad) : badAddress r reqs = none := by
  rw [badAddress, List.filter_eq_nil_iff.2 fun q hq => by simpa using h q hq]

/-- The accesses of threads in no attempt go on to their translation, or trap at an address that reaches nothing. -/
theorem runAccesses_eq (hteam : s.dev.team sh.team = some env.team) (hno : ∀ b ∈ r.ex sh, sh.attempt b = none) :
    runAccesses ⟨is, env, blk, e⟩ r (r.ex sh) ((r.evaluates (r.ex sh)).map (r.operands sh blk e)) s.dev sh e [] =
      match badAddress r (r.requests sh env blk e) with
      | some t => { d := s.dev, s := sh, e := e, out := [], fin := .trapped t }
      | none =>
        let (d, met) := meetAll ⟨is, env, blk, e⟩ r (r.requests sh env blk e) s.dev
        match met.filter fun p => p.2 == .fatal with
        | p :: ps =>
          { d := d, s := sh, e := e, out := []
            fin := .trapped
              { cause := 0x15, sub := 0, threads := (p :: ps).flatMap (·.1.covers), addr := p.1.a, words := r.raw } }
        | [] =>
          if !met.all (txnMayAct ⟨is, env, blk, e⟩ r d sh) then { d := d, s := sh, e := e, out := [], fin := .waiting }
          else
            let word := d.nextId
            let s := if isO r.w.d && r.opc != 0x0A1 && met.all (fun p => match p.2 with | .fault _ => false | _ => true)
              then sh.markWritten blk.id r.outputs else sh
            let (d, s, out) := met.foldl (fun acc p => takeAccess ⟨is, env, blk, e⟩ r word acc.1 acc.2.1 acc.2.2 p) (d, s, [])
            { d := d, s := { s with exposed := s.exposed || r.usesQueue || isAtomic r.opc }, e := e, out := out,
              fin := .moved } := by
  have hin : ∀ q ∈ r.requests sh env blk e, sh.inTxn q.o.beat = false := fun q hq => by
    rw [Shuttle.inTxn, hno _ (requests_subset hq).1]
    rfl
  have hwin : ((r.requests sh env blk e).filter fun q => sh.inTxn q.o.beat && [0xFC, 0xFD, 0xFE].contains (q.a / 2 ^ 56)) = [] :=
    List.filter_eq_nil_iff.2 fun q hq => by simp [hin q hq]
  unfold runAccesses
  simp only [memRequests_eq hteam, hwin, List.map_nil, abortEach_none (fun b (hb : b ∈ []) => absurd hb List.not_mem_nil),
    List.any_nil, Bool.not_false, List.filter_true, List.append_nil] <;>
    rfl

/-- The access that a word issues for a request, with its number. -/
def issuedAccess (c : LaneCtx) (r : LaneRun) (word id : Nat) (p : MemReq × MemGo) : Access :=
  { id := id, word := word, beat := some p.1.o.beat, kind := memKind r.opc r.w p.1.o, va := p.1.a, size := memSize r.opc r.w
    data := memData r.opc r.w p.1.o, ord := memOrd r.w, dst := memDst c r p.1.covers, covers := p.1.covers, block := c.blk.id
    status := match p.2 with
      | .fifo k => .fifo k
      | .home l => .home l
      | _ => .walk
    origin := { off := c.cur.pc, words := r.raw, fmt := c.cur.fmt } }

/-- What the accesses of a word leave of a shuttle beside its vector registers, the accesses themselves and its exposure. -/
def Shuttle.besideAccesses (z : Shuttle) : Shuttle := { z with vregs := [], accs := [], exposed := false }

/-- A request that goes to a location or to a FIFO. -/
def MemGo.issues (g : MemGo) : Prop := (∃ l, g = .home l) ∨ ∃ k, g = .fifo k

/-! ## D of the threads made empty -/

theorem Shuttle.markV_frame (z : Shuttle) (b n : Nat) (x : RegCell) (k : Nat) :
    { z.markV b n x k with vregs := [] } = { z with vregs := [] } := by
  induction k generalizing z n with
  | zero => rfl
  | succ k ih => exact ih _ _

theorem emptyD_frame (z : Shuttle) (bs : List Nat) (x : RegCell) :
    { r.emptyD z bs x with vregs := [] } = { z with vregs := [] } := by
  unfold LaneRun.emptyD
  split
  · exact foldl_keeps (fun (z : Shuttle) b => z.markV b r.w.d x (laneShape r.opc r.row r.w).d)
      (fun z => ({ z with vregs := [] } : Shuttle)) (fun _ _ => Shuttle.markV_frame _ _ _ _ _) bs z
  · rfl

theorem Shuttle.vreg_foldl_markV (z : Shuttle) (bs : List Nat) (x : RegCell) (d k : Nat) (hd : d + k ≤ 1024) (b n : Nat)
    (hn : n < 1024) :
    (bs.foldl (fun z b => z.markV b d x k) z).vreg b n = if b ∈ bs ∧ d ≤ n ∧ n < d + k then x else z.vreg b n := by
  induction bs generalizing z with
  | nil => simp
  | cons y bs ih =>
    rw [List.foldl_cons, ih, Shuttle.vreg_markV _ _ _ _ _ hd _ _ hn]
    by_cases h : d ≤ n ∧ n < d + k
    · by_cases hy : b = y <;> simp [h, hy]
    · simp [h]

/-- Whether a memory word has a register of its threads as the destination of what it reads. -/
abbrev LaneRun.loadsV (r : LaneRun) : Prop := (r.opc = 0x0A0 ∨ r.opc = 0x0A2) ∧ isV r.w.d = true

theorem emptyD_vreg (z : Shuttle) (bs : List Nat) (x : RegCell) (b n : Nat) (hn : n < 1024) :
    (r.emptyD z bs x).vreg b n =
      if r.loadsV ∧ b ∈ bs ∧ r.w.d ≤ n ∧ n < r.w.d + (laneShape r.opc r.row r.w).d then x else z.vreg b n := by
  unfold LaneRun.emptyD
  split
  · next h =>
    simp only [Bool.and_eq_true, Bool.or_eq_true, beq_iff_eq] at h
    rw [Shuttle.vreg_foldl_markV _ _ _ _ _ (d_add_shape_le h.1) _ _ hn]
    exact if_congr (by simp [LaneRun.loadsV, h]) rfl rfl
  · next h =>
    simp only [Bool.and_eq_true, Bool.or_eq_true, beq_iff_eq] at h
    rw [if_neg fun hx => h ⟨hx.1.2, hx.1.1⟩]

/-! ## The accesses taken -/

/-- One request takes effect: its access is issued, and D of its threads is empty. -/
theorem takeAccess_issues {c : LaneCtx} {word : Nat} {d : Dev} {z : Shuttle} {out : List Entry} {p : MemReq × MemGo}
    (hp : p.2.issues) (hno : z.attempt p.1.o.beat = none) :
    ∃ y : Shuttle, takeAccess c r word d z out p = ({ d with nextId := d.nextId + 1 }, y, out) ∧
      y.accs = z.accs ++ [issuedAccess c r word d.nextId p] ∧
      (∀ b n, n < 1024 → y.vreg b n =
        if r.loadsV ∧ b ∈ p.1.covers ∧ r.w.d ≤ n ∧ n < r.w.d + (laneShape r.opc r.row r.w).d then .pending else z.vreg b n) ∧
      y.besideAccesses = z.besideAccesses := by
  obtain ⟨q, g⟩ := p
  obtain ⟨l, hg⟩ | ⟨k, hg⟩ := hp
  case inl =>
    dsimp only at hg
    subst hg
    have hframe := emptyD_frame (r := r) z q.covers .pending
    refine ⟨(issueAccess c r word q (.home l) d (r.emptyD z q.covers .pending)).2, ?_, ?_,
      fun b n hn => emptyD_vreg z q.covers .pending b n hn, ?_⟩
    · simp only [takeAccess, hno]
      rfl
    · exact congrArg (· ++ [issuedAccess c r word d.nextId (q, .home l)]) (congrArg Shuttle.accs hframe :)
    · exact (congrArg Shuttle.besideAccesses hframe :)
  case inr =>
    dsimp only at hg
    subst hg
    have hframe := emptyD_frame (r := r) { z with exposed := true } q.covers .pending
    refine ⟨(issueAccess c r word q (.fifo k) d (r.emptyD { z with exposed := true } q.covers .pending)).2, ?_, ?_,
      fun b n hn => emptyD_vreg { z with exposed := true } q.covers .pending b n hn, ?_⟩
    · simp only [takeAccess]
      rfl
    · exact congrArg (· ++ [issuedAccess c r word d.nextId (q, .fifo k)]) (congrArg Shuttle.accs hframe :)
    · exact (congrArg Shuttle.besideAccesses hframe :)

theorem takeAccess_all {c : LaneCtx} {word : Nat} (met : List (MemReq × MemGo)) (d : Dev) (z : Shuttle) (out : List Entry)
    (hp : ∀ p ∈ met, p.2.issues ∧ z.attempt p.1.o.beat = none) :
    ∃ y : Shuttle,
      met.foldl (fun acc p => takeAccess c r word acc.1 acc.2.1 acc.2.2 p) (d, z, out) =
        ({ d with nextId := d.nextId + met.length }, y, out) ∧
      y.accs = z.accs ++ (met.zipIdx d.nextId).map (fun x => issuedAccess c r word x.2 x.1) ∧
      (∀ b n, n < 1024 → y.vreg b n =
        if r.loadsV ∧ (∃ p ∈ met, b ∈ p.1.covers) ∧ r.w.d ≤ n ∧ n < r.w.d + (laneShape r.opc r.row r.w).d then .pending
        else z.vreg b n) ∧
      y.besideAccesses = z.besideAccesses := by
  induction met generalizing d z with
  | nil => exact ⟨z, rfl, by simp, fun b n _ => by simp, rfl⟩
  | cons p ps ih =>
    obtain ⟨hgo, hno⟩ := hp p List.mem_cons_self
    obtain ⟨y, htake, haccs, hvreg, hbeside⟩ := takeAccess_issues (c := c) (word := word) (d := d) (out := out) hgo hno
    have hatt : ∀ b, y.attempt b = z.attempt b := fun b => (congrArg (fun z => z.attempt b) hbeside :)
    obtain ⟨y', hfold, haccs', hvreg', hbeside'⟩ := ih { d with nextId := d.nextId + 1 } y
      fun p' hp' => ⟨(hp p' (List.mem_cons_of_mem p hp')).1, (hatt _).trans (hp p' (List.mem_cons_of_mem p hp')).2⟩
    refine ⟨y', ?_, ?_, fun b n hn => ?_, hbeside'.trans hbeside⟩
    · rw [List.foldl_cons, htake, hfold, List.length_cons, Nat.add_comm ps.length, ← Nat.add_assoc]
    · rw [haccs', haccs, List.append_assoc]
      rfl
    · rw [hvreg' b n hn, hvreg b n hn]
      rw [← ite_or]
      refine if_congr ?_ rfl rfl
      rw [List.exists_mem_cons_iff]
      clear ih hfold hvreg' hvreg
      grind

theorem meetAll_requests (c : LaneCtx) (qs : List MemReq) (d : Dev) : (meetAll c r qs d).2.map (·.1) = qs := by
  induction qs generalizing d with
  | nil => rfl
  | cons q qs ih => exact congrArg (q :: ·) (ih _)

theorem mem_met {c : LaneCtx} {qs : List MemReq} {d d' : Dev} {met : List (MemReq × MemGo)} (h : meetAll c r qs d = (d', met))
    {q : MemReq} : (∃ p ∈ met, p.1 = q) ↔ q ∈ qs := by
  have hmap := meetAll_requests (r := r) c qs d
  rw [h] at hmap
  rw [← hmap, List.mem_map]

/-! ## The sources -/

/-- Sources among others that can all be read. -/
theorem sourcesReady_subset {ev : List Nat} {xs ys : List (Nat × Nat × Nat)} (hs : r.starved sh blk ev xs = false)
    (hb : r.badFault sh blk ev xs = none) (h : ys ⊆ xs) : r.sourcesReady sh blk ev ys = none := by
  refine sourcesReady_none (starved_eq_false.2 fun b hb' y hy => starved_eq_false.1 hs b hb' y (h hy)) ?_
  unfold LaneRun.badFault at hb ⊢
  dsimp only at hb ⊢
  split at hb
  · cases hb
  · next hany =>
    refine if_neg fun hys => hany ?_
    obtain ⟨b, hb', hy⟩ := List.any_eq_true.1 hys
    obtain ⟨y, hy, hbad⟩ := List.any_eq_true.1 hy
    exact List.any_eq_true.2 ⟨b, hb', List.any_eq_true.2 ⟨y, h hy, hbad⟩⟩

theorem early_subset : r.early ⊆ r.srcs ++ r.casSrcs := by
  unfold LaneRun.early
  split
  · exact fun x hx => List.mem_append_left _ (List.mem_of_mem_take hx)
  · exact fun x hx => List.mem_append_left _ hx

theorem late_subset : r.late ⊆ r.srcs ++ r.casSrcs := by
  unfold LaneRun.late
  split
  · intro x hx
    obtain hx | hx := List.mem_append.1 hx
    · exact List.mem_append_left _ (List.mem_of_mem_drop hx)
    · exact List.mem_append_right _ hx
  · exact fun x hx => absurd hx List.not_mem_nil

theorem late_ne_nil_iff : r.late ≠ [] ↔ isAtomic r.opc = true := by
  unfold LaneRun.late
  split
  · next h => simp [LaneRun.srcs, h]
  · next h => simp [h]

/-! ## The end of the word -/

/-- An address that reaches nothing ends the team. -/
theorem mem_endsTeam (hw : s.AtWord is sh env blk e i r) (hi : i = .ld r.w ∨ i = .st r.w ∨ i = .atom r.w ∨ i = .red r.w)
    (hpops : r.pops = []) (hno : ∀ b ∈ r.ex sh, sh.attempt b = none) (hout : r.outputFault blk (r.ex sh) = none)
    (hearly : r.sourcesReady sh blk (r.evaluates (r.ex sh)) r.early = none)
    (hdst : isAtomic r.opc = true ∨ r.dstPending sh (r.ex sh) = false) {q : MemReq} (hq : q ∈ r.requests sh env blk e)
    (hbad : q.reach = .bad) : EndsTeamAt i s sh 0x14 0 := by
  have hteam := team_of_atWord hw
  have hex : r.ex sh ≠ [] := List.ne_nil_of_mem (requests_subset hq).1
  obtain ⟨t, ht, hcause, hsub, hthreads⟩ := badAddress_some (r := r) hq hbad
  have hword : memWord ⟨is, env, blk, e⟩ r s.dev sh e = { d := s.dev, s := sh, e := e, out := [], fin := .trapped t } := by
    by_cases hl : r.late = []
    · have hat : isAtomic r.opc = false := by
        by_contra h
        exact late_ne_nil_iff.2 (by simpa using h) hl
      have hlate : r.sourcesReady sh blk (r.evaluates (r.ex sh)) r.late = none := by
        rw [hl]
        exact sourcesReady_none (starved_eq_false.2 fun b _ y hy => absurd hy List.not_mem_nil) (by simp [LaneRun.badFault])
      rw [memWord_accesses hw.2.2.2.1 hpops hteam hex hno hout hearly hlate (hdst.resolve_left (by simp [hat]))
        fun h => absurd hl h, runAccesses_eq hteam hno, ht]
    · exact memWord_bad hw.2.2.2.1 hpops hteam hex hno hout hearly ht hl
  have := endsTeamAt_of_trapped (c := ⟨is, env, blk, e⟩) (h := sh) (e' := e) (t := t)
    ((mem_runs hw hi).trans (by rw [hword]))
    (fun b hb => by
      obtain ⟨q', hq', hb'⟩ := hthreads b hb
      exact hno b ((requests_subset hq').2 b hb')) (by omega) rfl rfl rfl rfl
  rwa [hcause, hsub] at this

theorem Shuttle.markWritten_nil (z : Shuttle) (id : Nat) : z.markWritten id [] = z := by
  simp [Shuttle.markWritten]

/-- The shuttle whose block has taken the output register of a word. -/
theorem mem_outputs (hst : r.opc = 0x0A1 → r.outputs = []) :
    (if isO r.w.d && r.opc != 0x0A1 then sh.markWritten blk.id r.outputs else sh) =
      if isO r.w.d = true then sh.markWritten blk.id r.outputs else sh := by
  by_cases ho : isO r.w.d = true
  · by_cases h : r.opc = 0x0A1
    · simp [ho, h, hst h, Shuttle.markWritten_nil]
    · simp [ho, h]
  · simp [ho]

theorem outputs_of_store (h : r.opc = 0x0A1) : r.outputs = [] := by
  simp [LaneRun.outputs, laneShape, h]

theorem MemGo.issues_not_fatal {g : MemGo} (h : g.issues) : (g == .fatal) = false := by
  obtain ⟨l, rfl⟩ | ⟨k, rfl⟩ := h <;> rfl

/-- A word whose accesses all go to a location or a FIFO issues them. -/
theorem memWord_issues (hw : s.AtWord is sh env blk e i r)
    (hpops : r.pops = []) (hno : ∀ b ∈ r.ex sh, sh.attempt b = none) (hout : r.outputFault blk (r.ex sh) = none)
    (hearly : r.sourcesReady sh blk (r.evaluates (r.ex sh)) r.early = none)
    (hlate : r.sourcesReady sh blk (r.evaluates (r.ex sh)) r.late = none) (hdst : r.dstPending sh (r.ex sh) = false)
    {d : Dev} {met : List (MemReq × MemGo)} (hgood : ∀ q ∈ r.requests sh env blk e, q.reach ≠ .bad)
    (hmeet : meetAll ⟨is, env, blk, e⟩ r (r.requests sh env blk e) s.dev = (d, met)) (hgo : ∀ p ∈ met, p.2.issues) :
    ∃ y : Shuttle,
      memWord ⟨is, env, blk, e⟩ r s.dev sh e =
        { d := { d with nextId := d.nextId + met.length }, s := y, e := e, out := [], fin := .moved } ∧
      y.accs = sh.accs ++ (met.zipIdx d.nextId).map (fun x => issuedAccess ⟨is, env, blk, e⟩ r d.nextId x.2 x.1) ∧
      (∀ b n, n < 1024 → y.vreg b n =
        if r.loadsV ∧ b ∈ r.ex sh ∧ r.w.d ≤ n ∧ n < r.w.d + (laneShape r.opc r.row r.w).d then .pending else sh.vreg b n) ∧
      y.besideAccesses =
        (if isO r.w.d = true ∧ r.ex sh ≠ [] then sh.markWritten blk.id r.outputs else sh).besideAccesses := by
  have hteam := team_of_atWord hw
  have hfresh : e.fresh = true := hw.2.2.2.1
  have hcovers : ∀ b, (∃ p ∈ met, b ∈ p.1.covers) ↔ b ∈ r.ex sh := fun b => by
    rw [← mem_covers_iff (env := env) (blk := blk) (e := e) b]
    refine ⟨fun ⟨p, hp, hb⟩ => ⟨p.1, (mem_met hmeet).1 ⟨p, hp, rfl⟩, hb⟩, fun ⟨q, hq, hb⟩ => ?_⟩
    obtain ⟨p, hp, rfl⟩ := (mem_met hmeet).2 hq
    exact ⟨p, hp, hb⟩
  have hatt : ∀ p ∈ met, sh.attempt p.1.o.beat = none := fun p hp =>
    hno _ (requests_subset ((mem_met hmeet).1 ⟨p, hp, rfl⟩)).1
  by_cases hex : r.ex sh = []
  · have hmet : met = [] := List.eq_nil_iff_forall_not_mem.2 fun p hp => by
      have := (requests_subset ((mem_met hmeet).1 ⟨p, hp, rfl⟩)).1
      rw [hex] at this
      exact List.not_mem_nil this
    have hreq : r.requests sh env blk e = [] := List.eq_nil_iff_forall_not_mem.2 fun q hq => by
      have := (requests_subset hq).1
      rw [hex] at this
      exact List.not_mem_nil this
    rw [hreq] at hmeet
    cases hmeet
    refine ⟨sh, ?_, by simp, fun b n _ => by simp [hex], by simp [hex]⟩
    unfold memWord
    simp only [abortEach_none (fun b hb => hno b (disallowed_subset hb))]
    simp only [hex, staying_nil]
    rfl
  · have hbad := badAddress_none (r := r) hgood
    have hfatal : (met.filter fun p => p.2 == .fatal) = [] :=
      List.filter_eq_nil_iff.2 fun p hp => by simp [MemGo.issues_not_fatal (hgo p hp)]
    have hact : met.all (txnMayAct ⟨is, env, blk, e⟩ r d sh) = true := List.all_eq_true.2 fun p hp => by
      have hin : sh.inTxn p.1.o.beat = false := by rw [Shuttle.inTxn, hatt p hp]; rfl
      unfold txnMayAct
      rw [hin]
      split
      · simp_all
      · rfl
    have hall : met.all (fun p => match p.2 with | .fault _ => false | _ => true) = true := List.all_eq_true.2 fun p hp => by
      obtain ⟨l, h⟩ | ⟨k, h⟩ := hgo p hp <;> rw [h]
    let z := if isO r.w.d && r.opc != 0x0A1 then sh.markWritten blk.id r.outputs else sh
    have hz : z = if isO r.w.d = true ∧ r.ex sh ≠ [] then sh.markWritten blk.id r.outputs else sh := by
      rw [show z = _ from mem_outputs outputs_of_store]
      simp [hex]
    have hatt' : ∀ b, z.attempt b = sh.attempt b := fun b => by
      simp only [z]
      split <;> rfl
    have hvreg' : ∀ b n, z.vreg b n = sh.vreg b n := fun b n => by
      simp only [z]
      split <;> rfl
    have haccs' : z.accs = sh.accs := by
      simp only [z]
      split <;> rfl
    obtain ⟨y, hfold, haccs, hvreg, hbeside⟩ := takeAccess_all (c := ⟨is, env, blk, e⟩) (r := r) (word := d.nextId) met d z []
      fun p hp => ⟨hgo p hp, (hatt' _).trans (hatt p hp)⟩
    refine ⟨{ y with exposed := y.exposed || r.usesQueue || isAtomic r.opc }, ?_, haccs' ▸ haccs, fun b n hn => ?_, ?_⟩
    · rw [memWord_accesses hfresh hpops hteam hex hno hout hearly hlate hdst fun _ => hbad, runAccesses_eq hteam hno, hbad]
      simp only [hmeet, hfatal, hact, hall, Bool.and_true, Bool.not_true, Bool.false_eq_true, if_false]
      rw [show (if isO r.w.d && r.opc != 0x0A1 then sh.markWritten blk.id r.outputs else sh) = z from rfl, hfold]
    · refine (hvreg b n hn).trans ?_
      rw [hvreg']
      exact if_congr (and_congr_right fun _ => and_congr_left fun _ => hcovers b) rfl rfl
    · rw [← hz, ← hbeside]
      rfl

/-- The access of request k stands behind those that the shuttle had. -/
theorem getElem_issued {c : LaneCtx} {y : Shuttle} {accs : List Access} {word n : Nat} {met : List (MemReq × MemGo)}
    (h : y.accs = accs ++ (met.zipIdx n).map (fun x => issuedAccess c r word x.2 x.1)) {k : Nat} {p : MemReq × MemGo}
    (hk : met[k]? = some p) : y.accs[accs.length + k]? = some (issuedAccess c r word (n + k) p) := by
  rw [h, List.getElem?_append_right (by omega), Nat.add_sub_cancel_left, List.getElem?_map, List.getElem?_zipIdx, hk]
  rfl

/-- Where the value of an access goes, by its word. -/
theorem memDst_eq (hw : s.AtWord is sh env blk e i r) (hi : i = .ld r.w ∨ i = .st r.w ∨ i = .atom r.w ∨ i = .red r.w)
    (bs : List Nat) : memDst ⟨is, env, blk, e⟩ r bs =
      if (i = .ld r.w ∨ i = .atom r.w) ∧ isV r.w.d = true then .vregs bs r.w.d
      else if (i = .ld r.w ∨ i = .atom r.w) ∧ isO r.w.d = true then .sregs (blk.outBase + (r.w.d - 776))
      else .none := by
  obtain ⟨hld, hst, hatom, hred⟩ := mem_opc hw hi
  have hloads : (r.opc == 0x0A1 || r.opc == 0x0A3) = true ↔ ¬(i = .ld r.w ∨ i = .atom r.w) := by
    rw [hld, hatom, Bool.or_eq_true, beq_iff_eq, beq_iff_eq]
    obtain h | h | h | h := hi
    · rw [hld.1 h]; decide
    · rw [hst.1 h]; decide
    · rw [hatom.1 h]; decide
    · rw [hred.1 h]; decide
  unfold memDst
  by_cases hl : i = .ld r.w ∨ i = .atom r.w
  · rw [if_neg fun h => hloads.1 h hl]
    simp [hl]
  · rw [if_pos (hloads.2 hl)]
    simp [hl]

/-- The kind of an access, by its word. -/
theorem memKind_eq (hw : s.AtWord is sh env blk e i r) (hi : i = .ld r.w ∨ i = .st r.w ∨ i = .atom r.w ∨ i = .red r.w)
    (o : Operands) :
    (i = .ld r.w → memKind r.opc r.w o = .load) ∧ (i = .st r.w → memKind r.opc r.w o = .store) ∧
      (i = .atom r.w → memKind r.opc r.w o = .atom (xAop r.w.x) r.w.t o.e) ∧
      (i = .red r.w → memKind r.opc r.w o = .red (xAop r.w.x) r.w.t) := by
  obtain ⟨hld, hst, hatom, hred⟩ := mem_opc hw hi
  refine ⟨fun h => ?_, fun h => ?_, fun h => ?_, fun h => ?_⟩
  · rw [hld.1 h]; rfl
  · rw [hst.1 h]; rfl
  · rw [hatom.1 h]; rfl
  · rw [hred.1 h]; rfl

/-- The accesses that a memory word issues, and what it leaves of its shuttle. -/
theorem mem_accesses (hw : s.AtWord is sh env blk e i r) (hi : i = .ld r.w ∨ i = .st r.w ∨ i = .atom r.w ∨ i = .red r.w)
    (hpops : r.pops = []) (hno : ∀ b ∈ r.ex sh, sh.attempt b = none) (hout : r.outputFault blk (r.ex sh) = none)
    (hs : r.starved sh blk (r.evaluates (r.ex sh)) (r.srcs ++ r.casSrcs) = false)
    (hb : r.badFault sh blk (r.evaluates (r.ex sh)) (r.srcs ++ r.casSrcs) = none) (hdst : r.dstPending sh (r.ex sh) = false)
    {d : Dev} {met : List (MemReq × MemGo)} (hgood : ∀ q ∈ r.requests sh env blk e, q.reach ≠ .bad)
    (hmeet : meetAll ⟨is, env, blk, e⟩ r (r.requests sh env blk e) s.dev = (d, met)) (hgo : ∀ p ∈ met, p.2.issues) :
    ∃ h : Shuttle,
      exec i s = .next (s.withDev ({ d with nextId := d.nextId + met.length }.setShuttle h)) ∧
        h.frontier = sh.goesOn env e ∧
        h.accs = sh.accs ++ (met.zipIdx d.nextId).map (fun x => issuedAccess ⟨is, env, blk, e⟩ r d.nextId x.2 x.1) ∧
        (∀ b n, n < 1024 → h.vreg b n =
          if (i = .ld r.w ∨ i = .atom r.w) ∧ b ∈ r.ex sh ∧ isV r.w.d = true ∧ r.w.d ≤ n ∧
              n < r.w.d + (laneShape r.opc r.row r.w).d then .pending
          else sh.vreg b n) ∧
        h.blocks = (if isO r.w.d = true ∧ r.ex sh ≠ [] then (sh.markWritten blk.id r.outputs).blocks else sh.blocks) ∧
        { h with vregs := sh.vregs, frontier := sh.frontier, accs := sh.accs, exposed := sh.exposed,
                 blocks := sh.blocks } = sh := by
  obtain ⟨hld, -, hatom, -⟩ := mem_opc hw hi
  obtain ⟨y, hword, haccs, hvreg, hbeside⟩ := memWord_issues hw hpops hno hout (sourcesReady_subset hs hb early_subset)
    (sourcesReady_subset hs hb late_subset) hdst hgood hmeet hgo
  refine ⟨{ y with frontier := y.goesOn env e }, ?_, ?_, haccs, fun b n hn => ?_, ?_, ?_⟩
  · rw [mem_runs hw hi, hword, finishWord_moved]
  · refine (congrArg (fun z => z.goesOn env e) hbeside :).trans ?_
    split <;> rfl
  · refine (hvreg b n hn).trans (if_congr ?_ rfl rfl)
    rw [LaneRun.loadsV, hld, hatom, and_assoc]
    exact and_congr_right fun _ => and_left_comm
  · refine (congrArg Shuttle.blocks hbeside :).trans ?_
    split <;> rfl
  · refine (congrArg (fun z => ({ z with vregs := sh.vregs, frontier := sh.frontier, accs := sh.accs, exposed := sh.exposed,
                                         blocks := sh.blocks } : Shuttle)) hbeside :).trans ?_
    split <;> rfl

/-! ## The address -/

/-- An integer cut to 64 bits, as a machine word. -/
theorem low_eq (x : Int) : low 64 x = (BitVec.ofInt 64 x).toNat := by
  simp [low, BitVec.toNat_ofInt]

theorem memAddress_eq (opc : Nat) (w : LaneWord) (o : Operands) :
    memAddress opc w o =
      (BitVec.ofNat 64 o.a + BitVec.ofNat 64 (o.b * 2 ^ xScale w.x) + BitVec.ofInt 64 (memOffset opc w)).toNat := by
  rw [memAddress, low_eq, BitVec.ofInt_add, BitVec.ofInt_add, BitVec.ofInt_natCast, BitVec.ofInt_natCast]

/-- The operands of a request of a fresh entry are the sources of its thread. -/
theorem requests_operands (hfresh : e.fresh = true) {q : MemReq} (hq : q ∈ r.requests sh env blk e) :
    q.a = memAddress r.opc r.w q.o ∧ q.o.a = r.source sh blk e q.o.beat 0 ∧ q.o.b = r.source sh blk e q.o.beat 1 ∧
      q.o.c = r.source sh blk e q.o.beat 2 := by
  obtain ⟨-, -, -, -, -, hh⟩ := (Entry.fresh_iff e).1 hfresh
  obtain ⟨b, -, rfl⟩ := List.mem_map.1 hq
  rw [operands_of_none_held hh]
  exact ⟨rfl, rfl, rfl, rfl⟩

/-! ## Prefetch and clean -/

/-- The device but for its caches. -/
def Dev.besideCaches (d : Dev) : Dev := { d with tlb := [], l1 := [] }

theorem translate_besideCaches (d : Dev) (fn ctx va : Nat) (x y : Bool) :
    (d.translate fn ctx va x y).1.besideCaches = d.besideCaches := by
  unfold Dev.translate
  dsimp only
  split
  · rfl
  · split <;> rfl

theorem loadValue_besideCaches (d : Dev) (fn cluster : Nat) (l : Loc) (n : Nat) (atHome : Bool) :
    (d.loadValue fn cluster l n atHome).1.besideCaches = d.besideCaches := by
  unfold Dev.loadValue
  split
  · rfl
  · split <;> rfl

theorem prefetchLine_besideCaches (d : Dev) (fn cluster : Nat) (l : Loc) :
    (d.prefetchLine fn cluster l).besideCaches = d.besideCaches :=
  foldl_keeps (fun (d : Dev) k => (d.loadValue fn cluster { l with key := l.key / 128 * 128 + 16 * k } 16 true).1)
    Dev.besideCaches (fun _ _ => loadValue_besideCaches _ _ _ _ _ _) _ d

theorem cacheWord_besideCaches (clean : Bool) (c : LaneCtx) (d : Dev) (z : Shuttle) (a : Nat) :
    (cacheWord clean c d z a).besideCaches = d.besideCaches := by
  have htr := translate_besideCaches d c.env.launch.fn c.env.launch.ctx a false false
  unfold cacheWord
  dsimp only
  split
  · rfl
  · split
    · next d' l _ _ _ heq =>
      rw [heq] at htr
      split
      · exact htr
      · split
        · exact (prefetchLine_besideCaches _ _ _ _).trans htr
        · exact htr
    · rfl

/-- What the word does to the device. -/
def cacheAll (clean : Bool) (c : LaneCtx) (r : LaneRun) (z : Shuttle) (ops : List Operands) (d : Dev) : Dev :=
  ops.foldl (fun d o => cacheWord clean c d z (memAddress r.opc r.w o)) d

theorem cacheAll_besideCaches (clean : Bool) (c : LaneCtx) (z : Shuttle) (ops : List Operands) (d : Dev) :
    (cacheAll clean c r z ops d).besideCaches = d.besideCaches :=
  foldl_keeps (fun d (o : Operands) => cacheWord clean c d z (memAddress r.opc r.w o)) Dev.besideCaches
    (fun _ _ => cacheWord_besideCaches _ _ _ _ _) ops d

theorem cacheAll_far {clean : Bool} {c : LaneCtx} {z : Shuttle} {ops : List Operands} (d : Dev)
    (h : ∀ o ∈ ops, 2 ^ 56 ≤ memAddress r.opc r.w o) : cacheAll clean c r z ops d = d := by
  unfold cacheAll
  induction ops with
  | nil => rfl
  | cons o ops ih =>
    rw [List.foldl_cons, show cacheWord clean c d z (memAddress r.opc r.w o) = d from if_pos (h o List.mem_cons_self)]
    exact ih fun o' ho => h o' (List.mem_cons_of_mem o ho)

theorem usesQueue_eq_false (hq : isQ r.w.d = false) (hpops : r.pops = []) : r.usesQueue = false := by
  rw [LaneRun.usesQueue, hq, Bool.false_or]
  refine List.any_eq_false.2 fun x hx h => ?_
  have hpop := List.flatMap_eq_nil_iff.1 (show r.srcs.flatMap (fun x => srcPops x.2.1 x.2.2) = [] from hpops) x hx
  simp only [Bool.and_eq_true, bne_iff_ne] at h
  rw [srcPops, if_pos h.2] at hpop
  simp [h.1] at hpop

/-- Results without a flag raise none. -/
theorem foldl_raiseFlags_zero (z : Shuttle) (bs : List Nat) :
    (bs.map fun b => (b, ((0, 0) : Nat × Nat))).foldl (fun s p => s.raiseFlags p.1 p.2.2) z = z := by
  induction bs with
  | nil => rfl
  | cons b bs ih => exact ih

/-- The end of a word that acts on the caches alone. -/
theorem finishValue_cache {clean : Bool} {c : LaneCtx} {d : Dev} {z : Shuttle} {ex : List Nat} {e' : Entry}
    (hd : r.w.d = 788) (hdst : r.row.dst = .none) (hsr : selectsSR r.row r.w = false) (huses : r.usesQueue = false) :
    finishValue c r (cacheFn clean c r) d z e ex ((r.evaluates ex).map (r.operands z c.blk e')) =
      { d := cacheAll clean c r z ((r.evaluates ex).map (r.operands z c.blk e')) d, s := z, e := e, out := [], fin := .moved } := by
  have hq : isQ r.w.d = false := by rw [hd]; rfl
  have ho : isO r.w.d = false := by rw [hd]; rfl
  have hbeat : ∀ b, (r.operands z c.blk e' b).beat = b := fun b => by
    unfold LaneRun.operands
    split <;> rfl
  have hvals : spread ex r.w.u (((r.evaluates ex).map (r.operands z c.blk e')).map fun o => (o.beat, ((0, 0) : Nat × Nat))) =
      ex.map fun b => (b, ((0, 0) : Nat × Nat)) := by
    rw [List.map_map, ← spread_evaluates (r := r) ex fun _ => (0, 0)]
    exact congrArg (spread ex r.w.u) (List.map_congr_left fun b _ => by rw [Function.comp_apply, hbeat])
  have hwrite : ∀ res, r.write z res = z := fun res => by rw [LaneRun.write, hdst]
  have hdrawn : ∀ y, r.drawn y ex = y := fun y => by rw [LaneRun.drawn, hsr]; rfl
  unfold finishValue
  simp only [cacheFn, hvals, pushes_none hq, pushesLeft, pushAll, hwrite, foldl_raiseFlags_zero, hdrawn, huses, Bool.or_false, ho,
    Bool.false_eq_true, if_false, if_true]
  cases ex <;> rfl

/-- The words that act on the caches alone have no destination. -/
theorem cache_row (hw : s.AtWord is sh env blk e i r) (hi : i = .pf r.w ∨ i = .cln r.w) :
    (r.opc = 0x0A4 ∨ r.opc = 0x0A5) ∧ r.w.d = 788 ∧ r.row.dst = .none ∧ selectsSR r.row r.w = false := by
  obtain ⟨-, -, -, -, hof, hrow, -, -, -, -, hill⟩ := hw
  have hopc : r.opc = 0x0A4 ∨ r.opc = 0x0A5 := by
    obtain rfl | rfl := hi
    · exact .inl (Prod.mk.inj (Option.some.inj hof)).1.symm
    · exact .inr (Prod.mk.inj (Option.some.inj hof)).1.symm
  have hrow' : r.row.dst = .none ∧ selectsSR r.row r.w = false := by
    obtain h | h := hopc <;>
      · rw [h] at hrow
        rw [← Option.some.inj hrow]
        exact ⟨rfl, rfl⟩
  have hdst := dstAllowed_of_legal hill
  rw [dstAllowed, hrow'.1] at hdst
  exact ⟨hopc, by simpa [isZ] using hdst, hrow'⟩

theorem cache_runs (hw : s.AtWord is sh env blk e i r) (hi : i = .pf r.w ∨ i = .cln r.w) :
    ∃ clean, exec i s = .next (s.withDev (finishWord ⟨is, env, blk, e⟩
      (valueWord ⟨is, env, blk, e⟩ r (cacheFn clean ⟨is, env, blk, e⟩ r) s.dev sh e))) := by
  have hof := hw.2.2.2.2.1
  obtain rfl | rfl := hi
  · refine ⟨false, ?_⟩
    have hrun := laneWord_runs hw fun c r d s e => valueWord c r (cacheFn false c r) d s e
    rw [← (Prod.mk.inj (Option.some.inj hof)).1] at hrun
    exact hrun
  · refine ⟨true, ?_⟩
    have hrun := laneWord_runs hw fun c r d s e => valueWord c r (cacheFn true c r) d s e
    rw [← (Prod.mk.inj (Option.some.inj hof)).1] at hrun
    exact hrun

/-- `pf` and `cln` change the caches alone, and go on. -/
theorem cache_ends (hw : s.AtWord is sh env blk e i r) (hi : i = .pf r.w ∨ i = .cln r.w) (hpops : r.pops = [])
    (hs : r.starved sh blk (r.evaluates (r.ex sh)) r.srcs = false)
    (hb : r.badFault sh blk (r.evaluates (r.ex sh)) r.srcs = none) :
    ∃ d : Dev, exec i s = .next (s.withDev (d.setShuttle { sh with frontier := sh.goesOn env e })) ∧
      d.besideCaches = s.dev.besideCaches ∧
      ((∀ q ∈ r.requests sh env blk e, 2 ^ 56 ≤ q.a) → d = s.dev) := by
  obtain ⟨hopc, hd, hdst, hsr⟩ := cache_row hw hi
  obtain ⟨clean, hrun⟩ := cache_runs hw hi
  have hfresh : e.fresh = true := hw.2.2.2.1
  obtain ⟨-, -, hp, hq, -, hh⟩ := (Entry.fresh_iff e).1 hfresh
  have huses : r.usesQueue = false := usesQueue_eq_false (by rw [hd]; rfl) hpops
  have hown : r.ownSrcs = r.srcs := List.filter_eq_self.2 fun x _ => by
    obtain h | h := hopc <;> simp [h]
  by_cases hex : r.ex sh = []
  · exact ⟨s.dev, by rw [hrun, valueWord_none hex, finishWord_moved], rfl, fun _ => rfl⟩
  · let ops := (r.evaluates (r.ex sh)).map (r.operands sh blk e)
    have hev : r.ev e (r.ex sh) = r.evaluates (r.ex sh) := ev_of_nothing_begun hp hh hq _
    have hval := valueWord_goes (c := ⟨is, env, blk, e⟩) (f := cacheFn clean ⟨is, env, blk, e⟩ r) (d := s.dev) hex
      (by rw [hown, hev]; exact sourcesReady_none hs hb) rfl (outputFault_none (by rw [hd]; rfl) _)
      (by simp [LaneRun.dstPending, hd, isV]) (by rw [hpops]; exact popAll_nil _ _ _ _)
    rw [hev, finishValue_cache (c := ⟨is, env, blk, e⟩) hd hdst hsr huses] at hval
    refine ⟨cacheAll clean ⟨is, env, blk, e⟩ r sh ops s.dev, ?_, cacheAll_besideCaches _ _ _ _ _, fun hfar => ?_⟩
    · rw [hrun, hval, finishWord_moved]
    · refine cacheAll_far _ fun o ho => ?_
      obtain ⟨b, hb', rfl⟩ := List.mem_map.1 ho
      exact hfar _ (List.mem_map.2 ⟨b, hb', rfl⟩)

/-- Settles O47, from what a memory word issues for its threads. -/
theorem laneMemory : Obligations.LaneMemory := by
  unfold Obligations.LaneMemory
  intro s is sh env blk e i r hw hpops w ex c reqs readable ends
  have hfresh : e.fresh = true := hw.2.2.2.1
  refine ⟨fun hno hout => ⟨fun hi ⟨hs, hb⟩ q hq hbad => ?_, fun hi ⟨hs, hb⟩ hdst q hq hbad => ?_, ?_⟩, fun q hq => ?_, ?_⟩
  · have hi' : i = .ld w ∨ i = .st w ∨ i = .atom w ∨ i = .red w := .inr (.inr hi)
    obtain ⟨-, -, hatom, hred⟩ := mem_opc hw hi'
    have hat : isAtomic r.opc = true := by
      obtain h | h := hi
      · rw [hatom.1 h]; rfl
      · rw [hred.1 h]; rfl
    refine mem_endsTeam hw hi' hpops hno hout ?_ (.inl hat) hq hbad
    rw [LaneRun.early, if_pos hat]
    exact sourcesReady_none hs hb
  · have hi' : i = .ld w ∨ i = .st w ∨ i = .atom w ∨ i = .red w := hi.elim .inl fun h => .inr (.inl h)
    obtain ⟨hld, hst, -, -⟩ := mem_opc hw hi'
    have hat : isAtomic r.opc = false := by
      obtain h | h := hi
      · rw [hld.1 h]; rfl
      · rw [hst.1 h]; rfl
    refine mem_endsTeam hw hi' hpops hno hout ?_ (.inr hdst) hq hbad
    rw [LaneRun.early, if_neg (by simp [hat])]
    exact sourcesReady_none hs hb
  · intro hi ⟨hs, hb⟩ hdst d met hgood hmeet hgo
    obtain ⟨h, hexec, hfr, haccs, hvreg, hblocks, hframe⟩ := mem_accesses hw hi hpops hno hout hs hb hdst hgood hmeet hgo
    refine ⟨h, hexec, hfr, by simp [haccs], fun k p hk => ?_, hvreg, hblocks, hframe⟩
    obtain ⟨hld, hst, hatom, hred⟩ := memKind_eq hw hi p.1.o
    have hraw : r.raw = is.words := hw.2.2.2.2.2.2.2.2.1
    refine ⟨_, getElem_issued haccs hk, rfl, rfl, rfl, rfl, rfl, rfl, rfl, rfl, rfl, hraw, rfl, fun l hl => ?_, fun l hl => ?_, hld,
      hst, hatom, hred, memDst_eq hw hi _⟩
    · simp only [issuedAccess, hl]
    · simp only [issuedAccess, hl]
  · obtain ⟨ha, hoa, hob, hoc⟩ := requests_operands hfresh hq
    exact ⟨ha.trans (memAddress_eq _ _ _), hoa, hob, hoc⟩
  · intro hi ⟨hs, hb⟩
    obtain ⟨d, hexec, hbeside, hfar⟩ := cache_ends hw hi hpops hs hb
    have hid := Shuttle.id_of_atIssue hw.1
    have hfind : d.shuttle is.sh = some sh := (congrArg (fun d => d.shuttle is.sh) hbeside :).trans hw.1.2.1
    refine ⟨_, hexec, ?_, (congrArg Dev.mem hbeside :), ?_, fun h => by rw [hfar h]⟩
    · rw [← hid] at hfind ⊢
      exact Dev.shuttle_setShuttle hfind rfl
    · exact (congrArg (fun d => ({ d with shuttles := s.dev.shuttles, tlb := s.dev.tlb, l1 := s.dev.l1 } : Dev)) hbeside :)

end Sys2Proof.Machine
end

section
/-!
PROOF. O56, its parts that place no team: units of time and budgets, the slices of a partition, and the save and the discard of a
team.
-/
namespace Sys2Proof.Machine

variable {s : State}

/-! ## Budgets -/

theorem capOf_eq (v : Nat) : capOf v = max 1 (min 8 v) := by
  simp only [capOf, beq_iff_eq]
  split
  · omega
  · split <;> omega

theorem budgetUnitCharge_waits {fn : Nat} (h : s.dev.usesUnits fn = false) : Waits (.budgetUnitCharge fn) s := by
  rw [Waits, exec, execBudgetUnitCharge, h]
  rfl

theorem chargeUnit_func (d : Dev) (fn : Nat) :
    (d.chargeUnit fn).func fn = { d.func fn with
      bused := ((d.func fn).bused + 1) % 2 ^ 64
      bbal := if (d.func fn).bref = 0xFFFFFFFF then (d.func fn).bbal else (d.func fn).bbal - 1 } := by
  have hset : ∀ v, (d.setFunc fn v).func fn = v := fun v => by simp
  unfold Dev.chargeUnit
  simp only [beq_iff_eq]
  split
  · exact hset _
  · exact hset _

theorem bcmdRefill_eq {fn : Nat} (h : s.Serves fn) : exec (.bcmdRefill fn) s = .next (s.withDev (s.dev.refill fn)) := by
  obtain ⟨hup, hpresent⟩ := h
  rw [exec, execBcmdRefill, onDev, onUp, if_pos hup, if_pos hpresent]

/-! ## Slices -/

theorem part_of_running {d : Dev} {part fn : Nat} (h : (d.part part).running = some fn) : d.wakePartition part = d := by
  simp [Dev.wakePartition, h]

/-- A discard begins in every team with the number. -/
theorem beginDiscard_teams (d : Dev) (id : Nat) :
    ∀ u ∈ (d.beginDiscard id).teams, u.pausing = some .discard ∨ u ∈ d.teams ∧ u.id ≠ id := by
  intro u hu
  unfold Dev.beginDiscard at hu
  split at hu
  · next hnone =>
    exact .inr ⟨hu, fun hid => by simpa [hid] using List.find?_eq_none.1 hnone u hu⟩
  · next t ht =>
    obtain ⟨x, hx, rfl⟩ := List.mem_map.1 (show u ∈ d.teams.map _ from hu)
    have hid := Dev.team_id ht
    by_cases h : (x.id == t.id) = true
    · exact .inl (by rw [if_pos h])
    · rw [if_neg h]
      exact .inr ⟨hx, by rw [← hid]; simpa using h⟩

theorem beginDiscard_parts (d : Dev) (id : Nat) : (d.beginDiscard id).parts = d.parts := by
  unfold Dev.beginDiscard
  split <;> rfl

theorem beginDiscards_teams (ts : List Team) (d : Dev) :
    ∀ u ∈ (ts.foldl (fun d t => d.beginDiscard t.id) d).teams,
      u.pausing = some .discard ∨ u ∈ d.teams ∧ ∀ t ∈ ts, u.id ≠ t.id := by
  induction ts generalizing d with
  | nil => exact fun u hu => .inr ⟨hu, fun t ht => absurd ht List.not_mem_nil⟩
  | cons t ts ih =>
    intro u hu
    obtain h | ⟨hmem, hids⟩ := ih (d.beginDiscard t.id) u hu
    · exact .inl h
    · obtain h | ⟨hmem, hid⟩ := beginDiscard_teams d t.id u hmem
      · exact .inl h
      · exact .inr ⟨hmem, List.forall_mem_cons.2 ⟨hid, hids⟩⟩

/-- The end of a slice begins the discard of each resident team of the function. -/
theorem endSlice_teams {d : Dev} {part fn : Nat} (hp : partOf fn = part) :
    ∀ u ∈ (d.endSlice part fn).teams, u.fn = fn → u.resident = true → u.dying = false → u.pausing = some .discard := by
  intro u hu hfn hres hdying
  refine (beginDiscards_teams _ _ u hu).resolve_right fun ⟨hmem, hids⟩ => hids u ?_ rfl
  simp only [Dev.residentIn, List.mem_filter]
  exact ⟨⟨hmem, by simp [hfn, hp, hres]⟩, by simp [hfn, hdying]⟩

theorem endSlice_part (d : Dev) (part fn : Nat) : (d.endSlice part fn).part part = { d.part part with switching := true } := by
  have hparts : (d.endSlice part fn).parts = (d.setPart part { d.part part with switching := true }).parts :=
    foldl_keeps (fun (d : Dev) (t : Team) => d.beginDiscard t.id) Dev.parts (fun _ _ => beginDiscard_parts _ _)
      (((d.setPart part { d.part part with switching := true }).residentIn part).filter fun t => t.fn == fn && !t.dying) _
  rw [Dev.part, hparts]
  exact (Dev.part_setPart d part _ part).trans (if_pos rfl)

theorem getK_filter {α : Type} (d : α) (m : List (Nat × α)) (p : Nat × α → Bool) (k : Nat) (h : ∀ v, p (k, v) = false) :
    getK d (m.filter p) k = d := by
  induction m with
  | nil => rfl
  | cons x m ih =>
    obtain ⟨k', v⟩ := x
    by_cases hp : p (k', v) = true
    · have hk : k' ≠ k := by
        rintro rfl
        simp [h] at hp
      rw [List.filter_cons_of_pos hp, getK, if_neg (by simpa using hk), ih]
    · rw [List.filter_cons_of_neg hp, ih]

/-- The cores of a cleared partition have their TW2 maps reset. -/
theorem clearPartition_tw2 (d : Dev) (part : Nat) {core k : Nat} (hc : core / 4 ∈ d.clustersOf part) (hk : k < 8) :
    (d.clearPartition part).tw2Map core k = 0x00423C30 := by
  refine getK_filter _ _ _ _ fun v => ?_
  have : (core * 8 + k) / 8 = core := by omega
  simpa [this, Config.coresPerCluster] using hc

/-! ## Save -/

theorem interruptTxns_none {d : Dev} {team : Nat} (h : ∀ z ∈ d.shuttlesOf team, z.txns = []) : d.interruptTxns team = d := by
  unfold Dev.interruptTxns
  have hkeep : ∀ (l : List Shuttle), (∀ z ∈ l, z.txns = []) →
      l.foldl (fun d s => (s.txns.filter fun t => t.active).foldl (fun d t => d.abortAway s.id t.beat txnInterrupt) d) d = d := by
    intro l hl
    induction l with
    | nil => rfl
    | cons z l ih =>
      rw [List.foldl_cons, hl z List.mem_cons_self]
      exact ih fun y hy => hl y (List.mem_cons_of_mem z hy)
  exact hkeep _ h

/-! ## What goes with a shuttle's attempts -/

/-- The device but for what the end of attempts changes. -/
def Dev.besideTxns (d : Dev) : Dev := { d with funcs := [], serialRegs := [], logWait := [] }

theorem releaseTxn_besideTxns (d : Dev) (fn sh beat : Nat) : (d.releaseTxn fn sh beat).besideTxns = d.besideTxns := by
  unfold Dev.releaseTxn
  dsimp only
  split <;> rfl

theorem dropTxns_besideTxns (d : Dev) (fn : Nat) (z : Shuttle) : (d.dropTxns fn z).besideTxns = d.besideTxns := by
  have h := foldl_keeps (fun (d : Dev) (t : Txn) => d.releaseTxn fn z.id t.beat) Dev.besideTxns
    (fun _ _ => releaseTxn_besideTxns _ _ _ _) z.txns d
  unfold Dev.dropTxns
  dsimp only
  split
  · exact h
  · exact h

theorem dropAllTxns_besideTxns (d : Dev) (fn : Nat) (zs : List Shuttle) :
    (zs.foldl (fun d z => d.dropTxns fn z) d).besideTxns = d.besideTxns :=
  foldl_keeps (fun (d : Dev) z => d.dropTxns fn z) Dev.besideTxns (fun _ _ => dropTxns_besideTxns _ _ _) zs d

theorem readByte_eraseRange (m : Memory) {lo n a : Nat} (hlo : lo ≤ a) (hhi : a < lo + n) : readByte (eraseRange m lo n) a = 0 :=
  getK_filter _ _ _ _ fun v => by simp [hlo, hhi]

/-! ## The events -/

/-- The claim about the slices of a partition. -/
theorem sliceEnd_running {part fn : Nat} (hrun : (s.dev.part part).running = some fn) :
    ((s.dev.part part).switching = false → s.dev.sliceOver part fn = false → Waits (.sliceEnd part) s) ∧
    ((s.dev.part part).switching = false → s.dev.sliceOver part fn = true → partOf fn = part →
      ∃ v, exec (.sliceEnd part) s = .next v ∧ v.dev.part part = { s.dev.part part with switching := true } ∧
        ∀ u ∈ v.dev.teams, u.fn = fn → u.resident = true → u.dying = false → u.pausing = some .discard) ∧
    ((s.dev.part part).switching = true → s.dev.residentIn part ≠ [] → Waits (.sliceEnd part) s) ∧
    ((s.dev.part part).switching = true → s.dev.residentIn part = [] →
      ∃ v, exec (.sliceEnd part) s = .next v ∧
        v.dev.part part = { s.dev.part part with
            running := s.dev.nextFunction part fn, used := 0, switching := false
            last := some ((s.dev.nextFunction part fn).getD fn) } ∧
        (∀ c ∈ v.dev.l1, c.cluster ∉ s.dev.clustersOf part) ∧ v.dev.mem = s.dev.mem ∧
        ∀ core k, core / 4 ∈ s.dev.clustersOf part → k < 8 → v.dev.tw2Map core k = 0x00423C30) := by
  refine ⟨fun hsw hover => ?_, fun hsw hover hp => ⟨s.withDev (s.dev.endSlice part fn), ?_, endSlice_part _ _ _, endSlice_teams hp⟩,
    fun hsw hres => ?_, fun hsw hres => ?_⟩
  · simp [Waits, exec, execSliceEnd, hrun, hsw, hover]
  · simp [exec, execSliceEnd, hrun, hsw, hover]
  · simp [Waits, exec, execSliceEnd, hrun, hsw, hres]
  · have hexec : exec (.sliceEnd part) s = .next (s.withDev ((s.dev.clearPartition part).setPart part { s.dev.part part with
        running := s.dev.nextFunction part fn, used := 0, switching := false
        last := some ((s.dev.nextFunction part fn).getD fn) })) := by
      simp only [exec, execSliceEnd, hrun, hsw, hres]
      rfl
    refine ⟨_, hexec, ?_, fun c hc => ?_, rfl, fun core k hc hk => clearPartition_tw2 s.dev part hc hk⟩
    · exact (Dev.part_setPart _ part _ part).trans (if_pos rfl)
    · simpa using (List.mem_filter.1 (show c ∈ s.dev.l1.filter _ from hc)).2

/-- The claim about a save. -/
theorem teamSave_saves {team : Nat} {t : Team} (ht : s.dev.team team = some t) (hp : t.pausing = some .save)
    (hd : t.dying = false) (hr : t.resident = true) (hx : ∀ z ∈ s.dev.shuttlesOf team, z.txns = []) :
    exec (.teamSave team) s = .next (s.withDev (if s.dev.saveReady t then
      s.dev.setTeam { t with resident := false, pausing := none, image := some .saved, tw2 := s.dev.teamMaps t } else s.dev)) := by
  simp only [exec, execTeamSave, ht, hp, hd, hr, interruptTxns_none hx]
  cases s.dev.saveReady t <;> rfl

/-- The shuttles of a team whose discard is done, and its bytes. -/
theorem finishDiscard_leaves (d : Dev) {team : Nat} {t : Team} (ht : d.team team = some t) :
    (d.finishDiscard t).team team = some { t with
      resident := false, pausing := none, image := some .discarded, banks := [], handles := [], copies := []
      queues := [], streams := [], arrivals := [], stateBase := 0, stateSize := 0 } ∧
    (∀ h ∈ (d.finishDiscard t).shuttles, h.team = team → h.spawned = false ∧
      ∃ z ∈ d.shuttles, z.id = h.id ∧ h.record = z.record ∧ h.live = z.live ∧ h.sregs = []) ∧
    ∀ a, teamKey team ≤ a → a < teamKey team + 2 ^ 32 → readByte (d.finishDiscard t).mem a = 0 := by
  have hid := Dev.team_id ht
  have hdrop := dropAllTxns_besideTxns d t.fn (d.shuttlesOf t.id)
  have hshs : ((d.shuttlesOf t.id).foldl (fun d z => d.dropTxns t.fn z) d).shuttles = d.shuttles := (congrArg Dev.shuttles hdrop :)
  refine ⟨Dev.team_setTeam (t := t) ?_ hid, fun h hh hteam => ?_, fun a hlo hhi => ?_⟩
  · exact (congrArg (fun d => d.team team) hdrop :).trans ht
  · obtain ⟨z, hz, rfl⟩ := List.mem_map.1 (show h ∈ List.map _ _ from hh)
    obtain ⟨hz, hkeep⟩ := List.mem_filter.1 hz
    rw [hshs] at hz
    by_cases hzt : z.team = t.id
    · rw [if_pos (by simpa using hzt)]
      exact ⟨rfl, z, hz, rfl, rfl, rfl, rfl⟩
    · rw [if_neg (by simpa using hzt)] at hteam
      exact absurd (hteam.trans hid.symm) hzt
  · refine readByte_eraseRange _ (lo := teamKey t.id) ?_ ?_
    · rw [hid]; exact hlo
    · rw [hid]; exact hhi

/-- The claim about a discard. -/
theorem teamDiscard_discards {team : Nat} {t : Team} {env : Env} (ht : s.dev.team team = some t)
    (hp : t.pausing = some .discard) (hd : t.dying = false) (hr : t.resident = true) (henv : s.dev.envOfTeam t = some env)
    (hstop : ∀ z ∈ s.dev.shuttlesOf team, z.live = true → z.stopped = true ∧ z.exposed = false ∧ z.spawned = false)
    (hchain : s.dev.chainOpen team = false) :
    exec (.teamDiscard team) s =
      .next (s.withDev (if s.dev.discardBusy t then s.dev else s.dev.finishDiscard t)) := by
  have hall : (s.dev.shuttlesOf team).all (fun x => !x.live || x.discardStopped) = true := List.all_eq_true.2 fun z hz => by
    cases hl : z.live with
    | false => rfl
    | true =>
      obtain ⟨h1, h2, h3⟩ := hstop z hz hl
      simp [Shuttle.discardStopped, h1, h2, h3]
  simp only [exec, execTeamDiscard, ht, hp, hd, hr, henv, hall, hchain]
  rfl

end Sys2Proof.Machine
end

section
/-!
PROOF. O56, the end of a stopped team: its attempts, the engine work that nothing can end, and what is left when it is gone.
-/
namespace Sys2Proof.Machine

variable {s : State} {d : Dev} {team : Nat} {t : Team}

/-! ## Attempts -/

theorem Dev.func_setFunc_self (d : Dev) (fn : Nat) (f : Func) : (d.setFunc fn f).func fn = f := by simp

theorem releaseTxn_serial (d : Dev) (fn sh beat : Nat) :
    ((d.releaseTxn fn sh beat).func fn).serial =
      if (d.func fn).serial = some (sh, beat) then none else (d.func fn).serial := by
  unfold Dev.releaseTxn
  by_cases h : (d.func fn).serial = some (sh, beat)
  · rw [if_pos h]
    simp only [h, beq_self_eq_true, if_true]
    exact congrArg Func.serial (Dev.func_setFunc_self d fn _)
  · rw [if_neg h]
    simp only [beq_iff_eq, h, if_false]
    rfl

/-- The serial token of a function after the attempts of a shuttle have ended is free, or is that of none of them. -/
theorem releases_serial (fn sh : Nat) (txns : List Txn) (d : Dev) :
    let d' := txns.foldl (fun d x => d.releaseTxn fn sh x.beat) d
    (d'.func fn).serial = none ∨
      (d'.func fn).serial = (d.func fn).serial ∧ ∀ x ∈ txns, (d.func fn).serial ≠ some (sh, x.beat) := by
  induction txns generalizing d with
  | nil => exact .inr ⟨rfl, fun x hx => absurd hx List.not_mem_nil⟩
  | cons x xs ih =>
    have hrel := releaseTxn_serial d fn sh x.beat
    obtain h | ⟨h, hxs⟩ := ih (d.releaseTxn fn sh x.beat)
    · exact .inl h
    · by_cases hx : (d.func fn).serial = some (sh, x.beat)
      · rw [if_pos hx] at hrel
        exact .inl (h.trans hrel)
      · rw [if_neg hx] at hrel
        rw [hrel] at hxs h
        exact .inr ⟨h, List.forall_mem_cons.2 ⟨hx, hxs⟩⟩

theorem dropTxns_serial (d : Dev) (fn : Nat) (z : Shuttle) :
    ((d.dropTxns fn z).func fn).serial = none ∨
      ((d.dropTxns fn z).func fn).serial = (d.func fn).serial ∧ ∀ x ∈ z.txns, (d.func fn).serial ≠ some (z.id, x.beat) := by
  have hkeep : ((d.dropTxns fn z).func fn).serial =
      ((z.txns.foldl (fun d x => d.releaseTxn fn z.id x.beat) d).func fn).serial := by
    unfold Dev.dropTxns
    dsimp only
    split
    · rw [Dev.func_setFunc_self]
    · rfl
  rw [hkeep]
  exact releases_serial fn z.id z.txns d

theorem dropAllTxns_serial (fn : Nat) (zs : List Shuttle) (d : Dev) :
    let d' := zs.foldl (fun d z => d.dropTxns fn z) d
    (d'.func fn).serial = none ∨
      (d'.func fn).serial = (d.func fn).serial ∧ ∀ z ∈ zs, ∀ x ∈ z.txns, (d.func fn).serial ≠ some (z.id, x.beat) := by
  induction zs generalizing d with
  | nil => exact .inr ⟨rfl, fun z hz => absurd hz List.not_mem_nil⟩
  | cons z zs ih =>
    obtain h | ⟨h, hzs⟩ := ih (d.dropTxns fn z)
    · exact .inl h
    · obtain h' | ⟨h', hz⟩ := dropTxns_serial d fn z
      · exact .inl (h.trans h')
      · rw [h'] at hzs h
        exact .inr ⟨h, List.forall_mem_cons.2 ⟨hz, hzs⟩⟩

/-- Once the attempts of a team are dropped, none of them holds the serial token. -/
theorem dropTeamTxns_serial (d : Dev) (t : Team) :
    ∀ z ∈ d.shuttlesOf t.id, ∀ x ∈ z.txns, ((d.dropTeamTxns t).func t.fn).serial ≠ some (z.id, x.beat) := by
  intro z hz x hx
  obtain h | ⟨h, hne⟩ := dropAllTxns_serial t.fn (d.shuttlesOf t.id) d
  · exact fun hs => by
      rw [show ((d.dropTeamTxns t).func t.fn).serial = none from h] at hs
      cases hs
  · exact fun hs => hne z hz x hx (h.symm.trans hs)

theorem dropTeamTxns_frame (d : Dev) (t : Team) :
    { d.dropTeamTxns t with shuttles := [] }.besideTxns = { d with shuttles := [] }.besideTxns :=
  (congrArg (fun d => ({ d with shuttles := [] } : Dev)) (dropAllTxns_besideTxns d t.fn (d.shuttlesOf t.id)) :)

theorem dropTeamTxns_txns (d : Dev) (t : Team) : ∀ h ∈ (d.dropTeamTxns t).shuttles, h.team = t.id → h.txns = [] := by
  intro h hh hteam
  obtain ⟨z, -, rfl⟩ := List.mem_map.1 (show h ∈ List.map _ _ from hh)
  by_cases hz : z.team = t.id
  · rw [if_pos (by simpa using hz)]
  · rw [if_neg (by simpa using hz)] at hteam
    exact absurd hteam hz

/-! ## Engine work -/

/-- The device but for its engine work. -/
def Dev.besideEngines (d : Dev) : Dev := { d with granules := [], cmds := [], matOps := [] }

theorem mem_dropCmds {cs : List CopyCmd} {d : Dev} {c : CopyCmd} :
    c ∈ (cs.foldl (fun d c => d.dropCmd c) d).cmds ↔ c ∈ d.cmds ∧ ∀ x ∈ cs, c.id ≠ x.id := by
  induction cs generalizing d with
  | nil => simp
  | cons x xs ih =>
    rw [List.foldl_cons, ih, List.forall_mem_cons, ← and_assoc]
    refine and_congr_left fun _ => (List.mem_filter (as := d.cmds)).trans (and_congr_right fun _ => by simp)

theorem dropCmds_matOps (cs : List CopyCmd) (d : Dev) : (cs.foldl (fun d c => d.dropCmd c) d).matOps = d.matOps :=
  foldl_keeps (fun (d : Dev) c => d.dropCmd c) Dev.matOps (fun _ _ => rfl) cs d

theorem mem_dropMats {os : List MatOp} {d : Dev} {o : MatOp} :
    o ∈ (os.foldl (fun d o => d.dropMat o) d).matOps ↔ o ∈ d.matOps ∧ ∀ x ∈ os, o.id ≠ x.id := by
  induction os generalizing d with
  | nil => simp
  | cons x xs ih =>
    rw [List.foldl_cons, ih, List.forall_mem_cons, ← and_assoc]
    refine and_congr_left fun _ => (List.mem_filter (as := d.matOps)).trans (and_congr_right fun _ => by simp)

theorem dropMats_cmds (os : List MatOp) (d : Dev) : (os.foldl (fun d o => d.dropMat o) d).cmds = d.cmds :=
  foldl_keeps (fun (d : Dev) o => d.dropMat o) Dev.cmds (fun _ _ => rfl) os d

theorem dropStuck_besideEngines (d : Dev) (t : Team) : (d.dropStuck t).besideEngines = d.besideEngines := by
  have hcmds : ∀ cs d, (List.foldl (fun (d : Dev) c => d.dropCmd c) d cs).besideEngines = d.besideEngines := fun cs d =>
    foldl_keeps (fun (d : Dev) c => d.dropCmd c) Dev.besideEngines (fun _ _ => rfl) cs d
  have hmats : ∀ os d, (List.foldl (fun (d : Dev) o => d.dropMat o) d os).besideEngines = d.besideEngines := fun os d =>
    foldl_keeps (fun (d : Dev) o => d.dropMat o) Dev.besideEngines (fun _ _ => rfl) os d
  unfold Dev.dropStuck
  dsimp only
  split
  · exact hcmds _ _
  · split
    · rfl
    · rw [hmats, hcmds]

/-- Engine work of a team is under way. -/
def Dev.busyFor (d : Dev) (team : Nat) : Prop := (∃ c ∈ d.cmds, c.ofTeam team = true) ∨ ∃ o ∈ d.matOps, o.team = team

/-- Engine work of a team gets further. -/
def Dev.movesFor (d : Dev) (t : Team) : Prop :=
  (∃ c ∈ d.cmds, c.ofTeam t.id = true ∧ d.copyMoves t c = true) ∨ ∃ o ∈ d.matOps, o.team = t.id ∧ d.opMoves t o = true

theorem busyFor_iff (d : Dev) (team : Nat) :
    (d.cmds.any (fun c => c.ofTeam team) || d.matOps.any (fun o => o.team == team)) = true ↔ d.busyFor team := by
  simp [Dev.busyFor]

theorem movesFor_iff (d : Dev) (t : Team) :
    ((d.cmds.filter fun c => c.ofTeam t.id).any (d.copyMoves t) || (d.matOps.filter fun o => o.team == t.id).any (d.opMoves t)) =
      true ↔ d.movesFor t := by
  simp [Dev.movesFor]

/-- While engine work of a team gets further, or when there is none, none is dropped. -/
theorem dropStuck_of_moves (hi : t.image ≠ some .discarded) (h : d.movesFor t ∨ ¬ d.busyFor t.id) : d.dropStuck t = d := by
  unfold Dev.dropStuck
  dsimp only
  rw [if_neg (by simpa using hi)]
  split
  · rfl
  · next hm =>
    have hidle := h.resolve_left fun hmv => hm ((movesFor_iff d t).2 hmv)
    have hc : (d.cmds.filter fun c => c.ofTeam t.id) = [] := List.filter_eq_nil_iff.2 fun c hc ht => hidle (.inl ⟨c, hc, ht⟩)
    have ho : (d.matOps.filter fun o => o.team == t.id) = [] :=
      List.filter_eq_nil_iff.2 fun o ho ht => hidle (.inr ⟨o, ho, by simpa using ht⟩)
    rw [hc, ho]
    rfl

/-- Once nothing of a team gets further, all its engine work is dropped. -/
theorem dropStuck_ends (hi : t.image ≠ some .discarded) (h : ¬ d.movesFor t) : ¬ (d.dropStuck t).busyFor t.id := by
  unfold Dev.dropStuck
  dsimp only
  rw [if_neg (by simpa using hi), if_neg fun hm => h ((movesFor_iff d t).1 hm)]
  rintro (⟨c, hc, hteam⟩ | ⟨o, ho, hteam⟩)
  · rw [dropMats_cmds, mem_dropCmds] at hc
    exact hc.2 c (List.mem_filter.2 ⟨hc.1, hteam⟩) rfl
  · rw [mem_dropMats, dropCmds_matOps] at ho
    exact ho.2 o (List.mem_filter.2 ⟨ho.1, by simpa using hteam⟩) rfl

/-- Of a team whose storage went with a discard the copies that use it are dropped. -/
theorem dropStuck_discarded (hi : t.image = some .discarded) :
    (d.dropStuck t).matOps = d.matOps ∧
      ∀ c, c ∈ (d.dropStuck t).cmds → c ∈ d.cmds ∧ (c.ofTeam t.id = true → c.usesStorage = false) := by
  unfold Dev.dropStuck
  dsimp only
  rw [if_pos (by simpa using hi)]
  refine ⟨dropCmds_matOps _ _, fun c hc => ?_⟩
  rw [mem_dropCmds] at hc
  refine ⟨hc.1, fun hteam => ?_⟩
  by_contra huse
  exact hc.2 c (List.mem_filter.2 ⟨List.mem_filter.2 ⟨hc.1, hteam⟩, by simpa using huse⟩) rfl

/-! ## The end of the team -/

theorem poisonTiles_frame (d : Dev) (team : Nat) :
    { d.poisonTiles team with chains := [], granules := [], tiles := [] } = { d with chains := [], granules := [], tiles := [] } := rfl

/-- What is left when a team has ended. -/
theorem endTeam_leaves (d : Dev) (t : Team) :
    ((d.poisonTiles t.id).endTeam t).teams = d.teams.filter (fun x => x.id != t.id) ∧
    (∀ h ∈ ((d.poisonTiles t.id).endTeam t).shuttles, h.team ≠ t.id) ∧
    ((d.poisonTiles t.id).endTeam t).launches = d.launches ∧
    ∀ a, teamKey t.id ≤ a → a < teamKey t.id + 2 ^ 32 → readByte ((d.poisonTiles t.id).endTeam t).mem a = 0 := by
  have hdrop := dropAllTxns_besideTxns (d.poisonTiles t.id) t.fn ((d.poisonTiles t.id).shuttlesOf t.id)
  refine ⟨?_, fun h hh => ?_, ?_, fun a hlo hhi => readByte_eraseRange _ hlo hhi⟩
  · exact congrArg (List.filter fun x => x.id != t.id) (congrArg Dev.teams hdrop :)
  · simpa using (List.mem_filter.1 (show h ∈ List.filter _ _ from hh)).2
  · exact (congrArg Dev.launches hdrop :)

theorem completeLaunch_launches (d : Dev) (l : Launch) (result detail : Nat) :
    ∀ x ∈ (d.completeLaunch l result detail).launches, x.id ≠ l.id := by
  intro x hx
  unfold Dev.completeLaunch at hx
  simpa using (List.mem_filter.1 (show x ∈ List.filter _ _ from hx)).2

/-- A stopped team ends, once its engine work has, and with the last team of its launch the launch completes. -/
theorem teamTermination_ends (ht : s.dev.team team = some t) (hd : t.dying = true) {l : Launch}
    (hl : s.dev.launch t.launch = some l) (hidle : ¬ ((s.dev.dropTeamTxns t).dropStuck t).busyFor team) :
    let d0 := (s.dev.dropTeamTxns t).dropStuck t
    let u := (d0.poisonTiles team).endTeam t
    exec (.teamTermination team) s = .next (s.withDev (
      if d0.launchHeld l then d0
      else if u.teams.any (fun x => x.launch == l.id) then u
      else (u.dropChains l.id).completeLaunch l (if l.checked then 4 else 7) (if l.checked then 0 else l.terminated.getD 0))) := by
  intro d0 u
  have hl0 : d0.launch t.launch = some l := by
    have h0 : d0.launches = s.dev.launches := (congrArg Dev.launches (dropStuck_besideEngines (s.dev.dropTeamTxns t) t) :).trans
      (congrArg Dev.launches (dropTeamTxns_frame s.dev t) :)
    rw [Dev.launch, h0]
    exact hl
  have hany : (d0.cmds.any (fun c => c.ofTeam team) || d0.matOps.any (fun o => o.team == team)) = false := by
    by_contra h
    exact hidle ((busyFor_iff _ _).1 (Bool.not_eq_false _ ▸ h))
  rw [exec, execTeamTermination, ht]
  simp only [hd, Bool.not_true, Bool.false_eq_true, if_false]
  rw [show (s.dev.dropTeamTxns t).dropStuck t = d0 from rfl, hany, hl0]
  rfl

end Sys2Proof.Machine
end

section
/-!
PROOF. O56, the dispatch of a partition: which team it turns to, a new team in its start state, and a team that comes back.
-/
namespace Sys2Proof.Machine

variable {s : State} {d : Dev} {part fn : Nat}

/-! ## What a dispatch turns to -/

theorem teamDispatch_runs (hrun : (s.dev.part part).running = some fn) (hsw : (s.dev.part part).switching = false) :
    exec (.teamDispatch part) s = .next (s.withDev (s.dev.dispatchFor fn)) := by
  rw [exec, execTeamDispatch, part_of_running hrun]
  simp only [hrun, hsw]
  rfl

theorem dispatchFor_none (hb : d.headBack fn = none) (hl : d.headLaunch fn = none) : d.dispatchFor fn = d := by
  simp [Dev.dispatchFor, hb, hl]

/-- A launch of higher priority than any team out of residence comes first. -/
theorem dispatchFor_new {l : Launch} (hl : d.headLaunch fn = some l)
    (hb : ∀ t, d.headBack fn = some t → d.teamPrio t < l.prio) : d.dispatchFor fn = d.dispatchNew l := by
  unfold Dev.dispatchFor
  rw [hl]
  cases h : d.headBack fn with
  | none => rfl
  | some t => exact if_pos (hb t h)

/-- A team out of residence comes before launches of its priority. -/
theorem dispatchFor_back {t : Team} (hb : d.headBack fn = some t)
    (hl : ∀ l, d.headLaunch fn = some l → l.prio ≤ d.teamPrio t) : ∃ behind, d.dispatchFor fn = d.dispatchBack t behind := by
  unfold Dev.dispatchFor
  rw [hb]
  cases h : d.headLaunch fn with
  | none => exact ⟨none, rfl⟩
  | some l => exact ⟨some l, if_neg (by have := hl l h; omega)⟩

theorem dispatchBack_fits {t : Team} {env : Env} {pl : TeamPlace} (henv : d.envOfTeam t = some env)
    (hfit : d.fitTeam t.fn (d.needBack t env) = some pl) (behind : Option Launch) :
    d.dispatchBack t behind = d.placeBack t env pl := by
  simp [Dev.dispatchBack, henv, hfit]

theorem dispatchNew_unmapped {l : Launch} (h : l.phase ≠ .placing) : d.dispatchNew l = d := by
  simp [Dev.dispatchNew, Dev.newPlace, h]

/-- While L2BM is zero no new team is placed. -/
theorem dispatchNew_closed {l : Launch} (h : (d.func l.fn).l2bm = 0) : d.dispatchNew l = d := by
  have hfit : ∀ need, d.fitTeam l.fn need = none := fun need => by simp [Dev.fitTeam, h]
  unfold Dev.dispatchNew Dev.newPlace
  by_cases hp : l.phase = .placing
  · cases (d.func l.fn).boltAt l.desc <;> simp [hp, hfit, h]
  · simp [hp]

theorem dispatchNew_fits {l : Launch} {b : Bolt} {pl : TeamPlace} (hp : l.phase = .placing)
    (hb : (d.func l.fn).boltAt l.desc = some b) (hfit : d.fitTeam l.fn (l.needNew b (b.nestOf l.desc)) = some pl) :
    d.dispatchNew l = d.placeNew l (b.nestOf l.desc) pl := by
  simp [Dev.dispatchNew, Dev.newPlace, hp, hb, hfit]

/-- A team that waits is saved for the next team of a launch that fits nowhere. -/
theorem dispatchNew_saves {l : Launch} {n : Nest} {w : Team} (hplace : d.newPlace l = some (n, none))
    (hm : (d.func l.fn).l2bm ≠ 0) (hw : d.waitingVictim l.fn = some w) :
    d.dispatchNew l = d.setTeam { w with pausing := some .save, yieldTo := some (l.id, l.nextTeam) } := by
  simp [Dev.dispatchNew, hplace, hm, Dev.makeRoomFor, hw, Dev.saveFor]

/-! ## The team that is saved -/

theorem mem_of_firstVictim {ts : List Team} {w : Team} (h : d.firstVictim ts = some w) : w ∈ ts := by
  unfold Dev.firstVictim at h
  have hfold : ∀ (ts : List Team) (acc : Option Team),
      ts.foldl (fun acc t => match acc with
        | none => some t
        | some a =>
          if d.teamPrio t < d.teamPrio a || (d.teamPrio t == d.teamPrio a && t.order > a.order) then some t else some a) acc =
        some w → acc = some w ∨ w ∈ ts := by
    intro ts
    induction ts with
    | nil => exact fun acc h => .inl h
    | cons t ts ih =>
      intro acc h
      obtain h | h := ih _ h
      · cases acc with
        | none => exact .inr (Option.some.inj h ▸ List.mem_cons_self)
        | some a =>
          dsimp only at h
          split at h
          · exact .inr (Option.some.inj h ▸ List.mem_cons_self)
          · exact .inl h
      · exact .inr (List.mem_cons_of_mem t h)
  exact (hfold ts none h).resolve_left nofun

/-- A team that R399 saves waits with all its shuttles. -/
theorem waitingVictim_waits {w : Team} (h : d.waitingVictim fn = some w) :
    w ∈ d.teams ∧ w.fn = fn ∧ w.resident = true ∧ w.dying = false ∧ d.chainOpen w.id = false ∧
      ∀ env, d.envOfTeam w = some env → ∀ z ∈ d.shuttlesOf w.id, z.live = true → d.shuttleWaits w env z = true := by
  obtain ⟨hvictim, hwait⟩ := List.mem_filter.1 (mem_of_firstVictim h)
  have hmine : w ∈ d.teams.filter fun t => t.fn == fn && t.resident && !t.dying := by
    unfold Dev.victims at hvictim
    dsimp only at hvictim
    split at hvictim
    · exact absurd hvictim List.not_mem_nil
    · exact hvictim
  obtain ⟨hmem, hw⟩ := List.mem_filter.1 hmine
  simp only [Dev.waitingTeam, Bool.and_eq_true, Bool.not_eq_true'] at hw hwait
  obtain ⟨⟨hfn, hres⟩, hdying⟩ := hw
  obtain ⟨⟨-, hchain⟩, hall⟩ := hwait
  refine ⟨hmem, by simpa using hfn, hres, hdying, hchain, fun env henv z hz hlive => ?_⟩
  rw [Dev.allWaiting, henv] at hall
  have := List.all_eq_true.1 (Bool.and_eq_true_iff.1 hall).2 z hz
  simpa [hlive] using this

/-! ## The streams of a team -/

/-- A team but for its streams. -/
def Team.bare (t : Team) : Team := { t with streams := [] }

theorem Dev.team_setTeam_other {u : Team} {id : Nat} (h : u.id ≠ id) : (d.setTeam u).team id = d.team id := by
  unfold Dev.team Dev.setTeam
  dsimp only
  generalize d.teams = l
  induction l with
  | nil => rfl
  | cons x l ih =>
    by_cases hx : x.id = u.id
    · rw [List.map_cons, if_pos (by simpa using hx), List.find?_cons_of_neg (by simpa using h),
        List.find?_cons_of_neg (by simpa [hx] using h), ih]
    · rw [List.map_cons, if_neg (by simpa using hx), List.find?_cons, List.find?_cons, ih]

/-- The device but for its teams and what the start of their streams changes. -/
def Dev.besideTeams (d : Dev) : Dev := { d with teams := [], l1 := [], nextId := 0 }

theorem addStream_besideTeams (d : Dev) (team : Nat) (f : Nat → Stream) : (d.addStream team f).besideTeams = d.besideTeams := by
  unfold Dev.addStream
  split
  · rfl
  · dsimp only
    split <;> rfl

theorem addStream_team (d : Dev) (team : Nat) (f : Nat → Stream) (id : Nat) :
    ((d.addStream team f).team id).map Team.bare = (d.team id).map Team.bare := by
  unfold Dev.addStream
  split
  · rfl
  · next t ht =>
    dsimp only
    split
    · rfl
    · have hid := Dev.team_id ht
      by_cases h : t.id = id
      · have ht' : d.team id = some t := h ▸ hid ▸ ht
        exact (congrArg (Option.map Team.bare) (Dev.team_setTeam (d := { d with nextId := d.nextId + 1 })
          (u := { t with streams := t.streams ++ [f d.nextId] }) ht' h)).trans (congrArg (Option.map Team.bare) ht').symm
      · exact congrArg (Option.map Team.bare) (Dev.team_setTeam_other (d := { d with nextId := d.nextId + 1 })
          (u := { t with streams := t.streams ++ [f d.nextId] }) h)

theorem startStreams_keeps {α : Type} (g : Dev → α) (hg : ∀ d team f, g (d.addStream team f) = g d) (d : Dev) (sh : Nat)
    (env : Env) : g (d.startStreams sh env) = g d := by
  unfold Dev.startStreams
  split
  · rfl
  · split
    · rfl
    · next z _ _ =>
      exact foldl_keeps (fun d (a : AccessDecl) => (z.threads env.launch.levels env.team.num z.seq).foldl
          (fun d b => d.addStream z.team fun id =>
            sliceStream env.launch z a id b (z.coord env.launch.levels env.team.num z.seq b)) d) g
        (fun d a => foldl_keeps (fun d b => d.addStream z.team fun id =>
          sliceStream env.launch z a id b (z.coord env.launch.levels env.team.num z.seq b)) g (fun _ _ => hg _ _ _) _ d) _ d

theorem startTeam_keeps {α : Type} (g : Dev → α) (hg : ∀ d team f, g (d.addStream team f) = g d)
    (hacq : ∀ d c, g (d.acquire c) = g d) (d : Dev) (team : Nat) : g (d.startTeam team) = g d := by
  unfold Dev.startTeam
  split
  · rfl
  · split
    · rfl
    · next env _ =>
      exact (foldl_keeps (fun (d : Dev) (z : Shuttle) => d.startStreams z.id env) g
        (fun _ _ => startStreams_keeps g hg _ _ _) _ _).trans (hacq _ _)

theorem startTeam_besideTeams (d : Dev) (team : Nat) : (d.startTeam team).besideTeams = d.besideTeams :=
  startTeam_keeps Dev.besideTeams addStream_besideTeams (fun _ _ => rfl) d team

theorem startTeam_team (d : Dev) (team id : Nat) : ((d.startTeam team).team id).map Team.bare = (d.team id).map Team.bare :=
  startTeam_keeps (fun d => (d.team id).map Team.bare) (fun d team f => addStream_team d team f id) (fun _ _ => rfl) d team

/-- A team whose streams have started is otherwise as it was. -/
theorem startTeam_found {team id : Nat} {t : Team} (h : d.team id = some t) :
    ∃ u, (d.startTeam team).team id = some u ∧ u.bare = t.bare := by
  have hbare := startTeam_team d team id
  rw [h] at hbare
  cases hu : (d.startTeam team).team id with
  | none => rw [hu] at hbare; cases hbare
  | some u =>
    rw [hu] at hbare
    exact ⟨u, rfl, Option.some.inj hbare⟩

/-! ## A new team -/

/-- The device but for its memory and its copies. -/
def Dev.besideMemory (d : Dev) : Dev := { d with mem := [], poison := [], keyTags := [], l1 := [] }

theorem rekeyLine_besideMemory (d : Dev) (k : Key) (l : Nat) : (d.rekeyLine k l).besideMemory = d.besideMemory := rfl

theorem homeWrite_besideMemory (d : Dev) (k : Option Key) (key : Nat) (bs : List Byte) :
    (d.homeWrite k key bs).besideMemory = d.besideMemory := by
  have hunder : (d.writeUnder k key bs).besideMemory = d.besideMemory := by
    unfold Dev.writeUnder
    cases k with
    | none => rfl
    | some k => exact foldl_keeps (fun (d : Dev) l => d.rekeyLine k l) Dev.besideMemory (fun _ _ => rekeyLine_besideMemory _ _ _) _ d
  exact hunder

theorem blankState_besideMemory (d : Dev) (fn : Nat) (p : TeamPlace) : (d.blankState fn p).besideMemory = d.besideMemory := by
  unfold Dev.blankState
  split
  · rfl
  · unfold Dev.writeReserved
    split
    · exact homeWrite_besideMemory _ _ _ _
    · rfl

theorem val_fullOf (v : Nat) : (fullOf v).val = v % 2 ^ 32 := by simp [fullOf, RegCell.val]

/-- A created shuttle at its seat is in its start state (R30). -/
theorem start_state (id team stage num lanes args : Nat) (n : Nest) (x : Seat) :
    let h := (Shuttle.start id team stage num lanes n args).seated x
    h.pair 0 = args % 2 ^ 64 ∧ h.sval 2 = stage % 2 ^ 32 ∧ (∀ k, 3 ≤ k → h.sreg k = .full 0) ∧
      ∀ b k, h.vreg b k = .full 0 ∧ (k ≠ 7 → h.pred b k = false) ∧ h.flag b = 0 ∧ h.count b = 0 := by
  intro h
  have hsreg : ∀ k, h.sreg k = if k = 2 then fullOf stage else if k = 1 then fullOf (args / 2 ^ 32)
      else if k = 0 then fullOf args else .full 0 := fun k => by
    show (((({ Shuttle.fresh id team with
      stage := stage, num := num, nthreads := lanes, pc := n.entries.getD stage 0, seed := n.seed } : Shuttle).setSreg 0
        (fullOf args)).setSreg 1 (fullOf (args / 2 ^ 32))).setSreg 2 (fullOf stage)).sreg k = _
    rw [Shuttle.sreg_setSreg, Shuttle.sreg_setSreg, Shuttle.sreg_setSreg]
    rfl
  refine ⟨?_, ?_, fun k hk => ?_, fun b k => ⟨rfl, fun hk => ?_, rfl, rfl⟩⟩
  · have h0 : h.sval 0 = args % 2 ^ 32 := by rw [Shuttle.sval, hsreg]; exact val_fullOf _
    have h1 : h.sval 1 = args / 2 ^ 32 % 2 ^ 32 := by rw [Shuttle.sval, hsreg]; exact val_fullOf _
    simp only [Shuttle.pair, Shuttle.svals, h0, h1]
    omega
  · rw [Shuttle.sval, hsreg]
    exact val_fullOf _
  · rw [hsreg, if_neg (by omega), if_neg (by omega), if_neg (by omega)]
  · rw [Shuttle.pred, beq_false_of_ne hk]
    rfl

/-- The team that a launch places next. -/
def Dev.newTeam (d : Dev) (l : Launch) (n : Nest) (p : TeamPlace) : Team :=
  { id := d.nextId, launch := l.id, fn := l.fn, num := l.nextTeam, cluster := p.cluster, cores := p.cores, resident := true
    started := true, dying := false, pausing := none, image := none, banks := (freshBanks n l.levels l.nextTeam p).1
    handles := [], copies := (freshBanks n l.levels l.nextTeam p).2, queues := [], streams := [], arrivals := []
    stateBase := p.stateBase, stateSize := p.stateSize, order := d.nextId }

/-- Its shuttle at a seat. -/
def Dev.newShuttle (d : Dev) (l : Launch) (n : Nest) (x : Seat) : Shuttle :=
  (Shuttle.start (d.nextId + 1 + x.key) d.nextId ((l.shuttlesIn n l.nextTeam).getD x.key (0, 0)).1
    ((l.shuttlesIn n l.nextTeam).getD x.key (0, 0)).2 (laneCount l.levels) n l.runArgs).seated x

/-- The device that holds them, before the streams of the team start. -/
def Dev.withNew (d : Dev) (l : Launch) (n : Nest) (p : TeamPlace) : Dev :=
  ({ d.blankState l.fn p with
      nextId := d.nextId + 1 + (l.shuttlesIn n l.nextTeam).length
      teams := (d.blankState l.fn p).teams ++ [d.newTeam l n p]
      shuttles := (d.blankState l.fn p).shuttles ++ p.seats.map (d.newShuttle l n) } : Dev).setLaunch l.placedOne

theorem placeNew_eq (d : Dev) (l : Launch) (n : Nest) (p : TeamPlace) :
    d.placeNew l n p = (d.withNew l n p).startTeam d.nextId := rfl

theorem withNew_team {l : Launch} {n : Nest} {p : TeamPlace} (hfree : d.team d.nextId = none) :
    (d.withNew l n p).team d.nextId = some (d.newTeam l n p) := by
  have hteams : (d.blankState l.fn p).teams = d.teams := (congrArg Dev.teams (blankState_besideMemory d l.fn p) :)
  show ((d.blankState l.fn p).teams ++ [d.newTeam l n p]).find? _ = _
  rw [hteams, List.find?_append, show d.teams.find? (fun x => x.id == d.nextId) = none from hfree]
  simp [Dev.newTeam]

/-- The banks of a team that starts afresh are those of its place. -/
theorem freshBanks_bank (n : Nest) (lv : List LevelMap) (team : Nat) (p : TeamPlace) :
    (freshBanks n lv team p).1.map (fun e => e.bank) = p.banks := by
  simp only [freshBanks, List.map_map]
  exact List.map_snd_zip (by simp)

theorem placeNew_team (l : Launch) (n : Nest) (p : TeamPlace) (hfree : d.team d.nextId = none) :
    ∃ u, (d.placeNew l n p).team d.nextId = some u ∧ u.launch = l.id ∧ u.fn = l.fn ∧ u.num = l.nextTeam ∧
      u.cluster = p.cluster ∧ u.cores = p.cores ∧ u.resident = true ∧ u.banks.map (fun e => e.bank) = p.banks := by
  obtain ⟨u, hu, hbare⟩ := startTeam_found (team := d.nextId) (withNew_team (l := l) (n := n) (p := p) hfree)
  refine ⟨u, hu, (congrArg Team.launch hbare :), (congrArg Team.fn hbare :), (congrArg Team.num hbare :),
    (congrArg Team.cluster hbare :), (congrArg Team.cores hbare :), (congrArg Team.resident hbare :), ?_⟩
  rw [show u.banks = (freshBanks n l.levels l.nextTeam p).1 from (congrArg Team.banks hbare :)]
  exact freshBanks_bank _ _ _ _

theorem placeNew_shuttle (d : Dev) (l : Launch) (n : Nest) {p : TeamPlace} {x : Seat} (hx : x ∈ p.seats) :
    d.newShuttle l n x ∈ (d.placeNew l n p).shuttles := by
  have hshs : (d.placeNew l n p).shuttles = (d.withNew l n p).shuttles :=
    (congrArg Dev.shuttles (startTeam_besideTeams (d.withNew l n p) d.nextId) :)
  rw [hshs]
  exact List.mem_append_right _ (List.mem_map_of_mem hx)

/-! ## A team that comes back -/

/-- The team at its place. -/
def Team.backAt (t : Team) (d : Dev) (env : Env) (p : TeamPlace) : Team :=
  { t with
    cluster := p.cluster, cores := p.cores, resident := true, pausing := none, image := none
    banks := if t.image == some .saved then (t.banks.zip p.banks).map fun x => { x.1 with bank := x.2 }
      else (freshBanks env.nest env.launch.levels t.num p).1
    copies := if t.image == some .saved then t.copies else (freshBanks env.nest env.launch.levels t.num p).2
    stateBase := if t.image == some .saved then t.stateBase else p.stateBase
    stateSize := if t.image == some .saved then t.stateSize else p.stateSize
    order := d.nextId, yieldTo := none, tw2 := [] }

/-- A shuttle of it at its seat. -/
def Shuttle.backAt (z : Shuttle) (saved : Bool) (env : Env) (p : TeamPlace) : Shuttle :=
  match p.seats.find? fun x => x.key == z.id with
  | some x => (if saved then z else z.restart env.nest env.launch.runArgs).seated x
  | none => z

/-- The device that holds them. -/
def Dev.withBack (d d0 : Dev) (t : Team) (env : Env) (p : TeamPlace) : Dev :=
  { ({ d0 with nextId := d0.nextId + 1 } : Dev).setTeam (t.backAt d env p) with
    shuttles := d0.shuttles.map fun z => z.backAt (t.image == some .saved) env p }

theorem placeBack_saved {t : Team} (h : t.image = some .saved) (env : Env) (p : TeamPlace) :
    d.placeBack t env p = (d.withBack (d.putMaps t p.cores) t env p).acquire p.cluster := by
  have hs : (t.image == some .saved) = true := by simp [h]
  unfold Dev.placeBack
  simp only [hs, if_true]
  simp only [Dev.withBack, Team.backAt, hs, if_true]
  rfl

theorem placeBack_discarded {t : Team} (h : t.image ≠ some .saved) (env : Env) (p : TeamPlace) :
    d.placeBack t env p = (d.withBack (d.blankState t.fn p) t env p).startTeam t.id := by
  have hs : (t.image == some .saved) = false := by simpa using h
  unfold Dev.placeBack
  simp only [hs]
  simp only [Dev.withBack, Team.backAt, hs]
  rfl

/-- The device but for its TW2 maps. -/
def Dev.besideMaps (d : Dev) : Dev := { d with tw2m := [] }

theorem putMaps_besideMaps (d : Dev) (t : Team) (cores : List Nat) : (d.putMaps t cores).besideMaps = d.besideMaps :=
  foldl_keeps (fun (d : Dev) (c : Nat × Nat) =>
      (List.range 8).foldl (fun d i => d.setTw2 [c.2] i (getK tw2Reset t.tw2 (c.1 * 8 + i))) d) Dev.besideMaps
    (fun d c => foldl_keeps (fun (d : Dev) i => d.setTw2 [c.2] i (getK tw2Reset t.tw2 (c.1 * 8 + i))) Dev.besideMaps
      (fun _ _ => rfl) _ d) _ d

theorem withBack_team {d0 : Dev} {t : Team} (h0 : d0.teams = d.teams) (ht : d.team t.id = some t) (env : Env) (p : TeamPlace) :
    (d.withBack d0 t env p).team t.id = some (t.backAt d env p) := by
  refine Dev.team_setTeam (d := { d0 with nextId := d0.nextId + 1 }) (u := t.backAt d env p) (t := t) ?_ rfl
  show d0.teams.find? _ = _
  rw [h0]
  exact ht

/-- A team that comes back is resident at its place. -/
theorem placeBack_team {t : Team} (ht : d.team t.id = some t) (env : Env) (p : TeamPlace) :
    ∃ u, (d.placeBack t env p).team t.id = some u ∧ u.resident = true ∧ u.image = none ∧ u.pausing = none ∧
      u.cluster = p.cluster ∧ u.cores = p.cores := by
  by_cases hs : t.image = some .saved
  · rw [placeBack_saved hs]
    exact ⟨t.backAt d env p, withBack_team (congrArg Dev.teams (putMaps_besideMaps d t p.cores) :) ht env p,
      rfl, rfl, rfl, rfl, rfl⟩
  · rw [placeBack_discarded hs]
    obtain ⟨u, hu, hbare⟩ := startTeam_found (team := t.id)
      (withBack_team (d := d) (d0 := d.blankState t.fn p) (congrArg Dev.teams (blankState_besideMemory d t.fn p) :) ht env p)
    exact ⟨u, hu, (congrArg Team.resident hbare :), (congrArg Team.image hbare :), (congrArg Team.pausing hbare :),
      (congrArg Team.cluster hbare :), (congrArg Team.cores hbare :)⟩

/-- A saved team comes back as it was. -/
theorem placeBack_as_saved {t : Team} (hs : t.image = some .saved) (env : Env) (p : TeamPlace) :
    (d.placeBack t env p).mem = d.mem ∧ ∀ h ∈ (d.placeBack t env p).shuttles, ∃ z ∈ d.shuttles, z.id = h.id ∧
      { h with core := z.core, part := z.part, lane := z.lane, slot := z.slot } = z := by
  have hmaps := putMaps_besideMaps d t p.cores
  rw [placeBack_saved hs]
  refine ⟨(congrArg Dev.mem hmaps :), fun h hh => ?_⟩
  obtain ⟨z, hz, rfl⟩ := List.mem_map.1 (show h ∈ (d.putMaps t p.cores).shuttles.map _ from hh)
  rw [show (d.putMaps t p.cores).shuttles = d.shuttles from (congrArg Dev.shuttles hmaps :)] at hz
  refine ⟨z, hz, ?_⟩
  rw [hs]
  unfold Shuttle.backAt
  split <;> exact ⟨rfl, rfl⟩

/-- A discarded shuttle comes back in its start state with its record (R425). -/
theorem restart_record {z : Shuttle} {r : RegionRecord} (hr : z.record = some r) (n : Nest) (args : Nat) :
    let h := z.restart n args
    h.id = z.id ∧ h.record = some r ∧ h.pc = r.resume ∧ h.fmt = r.fmt ∧ h.seed = r.seed ∧ h.seq = r.seq ∧
      h.regions = r.regions ∧ h.flags = r.flags ∧ h.counts = r.counts ∧
      ∀ c, r.creg = some c → c ≠ 0x3FF → h.sreg c = .full (BitVec.ofNat 32 r.cval) := by
  intro h
  have hh : h = z.restart n args := rfl
  unfold Shuttle.restart at hh
  simp only [hr] at hh
  cases hc : r.creg with
  | none =>
    simp only [hc] at hh
    rw [hh]
    exact ⟨rfl, rfl, rfl, rfl, rfl, rfl, rfl, rfl, rfl, nofun⟩
  | some c =>
    simp only [hc] at hh
    by_cases hno : c = noCreg
    · rw [if_pos (by simpa using hno)] at hh
      rw [hh]
      exact ⟨rfl, rfl, rfl, rfl, rfl, rfl, rfl, rfl, rfl, fun c' hc' hne => absurd (Option.some.inj hc' ▸ hno) hne⟩
    · rw [if_neg (by simpa using hno)] at hh
      rw [hh]
      refine ⟨rfl, rfl, rfl, rfl, rfl, rfl, rfl, rfl, rfl, fun c' hc' _ => ?_⟩
      rw [← Option.some.inj hc']
      exact (Shuttle.sreg_setSreg _ c (fullOf r.cval) c).trans (if_pos rfl)

/-- The shuttles of a discarded team come back from their records. -/
theorem placeBack_from_records {t : Team} (hs : t.image = some .discarded) (env : Env) (p : TeamPlace) {z : Shuttle}
    (hz : z ∈ d.shuttles) {x : Seat} {r : RegionRecord} (hx : p.seats.find? (fun x => x.key == z.id) = some x)
    (hr : z.record = some r) : ∃ h ∈ (d.placeBack t env p).shuttles, h.id = z.id ∧ h.record = some r ∧ h.pc = r.resume ∧
      h.fmt = r.fmt ∧ h.seed = r.seed ∧ h.seq = r.seq ∧ h.regions = r.regions ∧ h.flags = r.flags ∧ h.counts = r.counts ∧
      ∀ c, r.creg = some c → c ≠ 0x3FF → h.sreg c = .full (BitVec.ofNat 32 r.cval) := by
  have hs' : t.image ≠ some .saved := by rw [hs]; nofun
  have hshs : (d.placeBack t env p).shuttles = d.shuttles.map fun z => z.backAt false env p := by
    rw [placeBack_discarded hs',
      show ((d.withBack (d.blankState t.fn p) t env p).startTeam t.id).shuttles =
          (d.withBack (d.blankState t.fn p) t env p).shuttles from
        (congrArg Dev.shuttles (startTeam_besideTeams (d.withBack (d.blankState t.fn p) t env p) t.id) :),
      show (d.withBack (d.blankState t.fn p) t env p).shuttles =
        (d.blankState t.fn p).shuttles.map fun z => z.backAt (t.image == some .saved) env p from rfl,
      show (d.blankState t.fn p).shuttles = d.shuttles from (congrArg Dev.shuttles (blankState_besideMemory d t.fn p) :), hs]
    rfl
  have hback : z.backAt false env p = (z.restart env.nest env.launch.runArgs).seated x := by
    rw [Shuttle.backAt, hx]
    rfl
  exact ⟨(z.restart env.nest env.launch.runArgs).seated x, hshs ▸ List.mem_map.2 ⟨z, hz, hback⟩,
    restart_record hr env.nest env.launch.runArgs⟩

/-! ## The obligation -/

/-- The claim about the next team of a launch. -/
theorem dispatch_places (hrun : (s.dev.part part).running = some fn) (hsw : (s.dev.part part).switching = false) {l : Launch}
    (hl : s.dev.headLaunch fn = some l) (hb : ∀ t, s.dev.headBack fn = some t → s.dev.teamPrio t < l.prio) {b : Bolt}
    {pl : TeamPlace} (hp : l.phase = .placing) (hbolt : (s.dev.func l.fn).boltAt l.desc = some b)
    (hfit : s.dev.fitTeam l.fn (l.needNew b (b.nestOf l.desc)) = some pl) (hfree : s.dev.team s.dev.nextId = none) :
    ∃ t u, exec (.teamDispatch part) s = .next t ∧ t.dev.team s.dev.nextId = some u ∧ u.launch = l.id ∧ u.fn = l.fn ∧
      u.num = l.nextTeam ∧ u.cluster = pl.cluster ∧ u.cores = pl.cores ∧ u.resident = true ∧
      u.banks.map (fun e => e.bank) = pl.banks ∧
      ∀ x ∈ pl.seats, ∃ h ∈ t.dev.shuttles, h.id = s.dev.nextId + 1 + x.key ∧ h.team = s.dev.nextId ∧
        (h.stage, h.num) = (l.shuttlesIn (b.nestOf l.desc) l.nextTeam).getD x.key (0, 0) ∧
        (h.core, h.part, h.lane, h.slot) = (x.core, x.part, x.lane, x.slot) ∧ h.live = true ∧ h.handler = false ∧
        h.nthreads = laneCount l.levels ∧ h.pc = (b.nestOf l.desc).entries.getD h.stage 0 ∧
        h.seed = (b.nestOf l.desc).seed ∧ h.fmt = 0 ∧ h.blocks = [] ∧ h.pair 0 = l.runArgs % 2 ^ 64 ∧
        h.sval 2 = h.stage % 2 ^ 32 ∧ (∀ k, 3 ≤ k → h.sreg k = .full 0) ∧
        ∀ b k, h.vreg b k = .full 0 ∧ (k ≠ 7 → h.pred b k = false) ∧ h.flag b = 0 ∧ h.count b = 0 := by
  obtain ⟨u, hu, hlaunch, hfn, hnum, hcluster, hcores, hres, hbanks⟩ := placeNew_team l (b.nestOf l.desc) pl hfree
  refine ⟨s.withDev (s.dev.placeNew l (b.nestOf l.desc) pl), u, ?_, hu, hlaunch, hfn, hnum, hcluster, hcores, hres, hbanks,
    fun x hx => ⟨s.dev.newShuttle l (b.nestOf l.desc) x, placeNew_shuttle s.dev l _ hx, ?_⟩⟩
  · rw [teamDispatch_runs hrun hsw, dispatchFor_new hl hb, dispatchNew_fits hp hbolt hfit]
  · obtain ⟨hpair, hstage, hsregs, hrest⟩ := start_state (s.dev.nextId + 1 + x.key) s.dev.nextId
      ((l.shuttlesIn (b.nestOf l.desc) l.nextTeam).getD x.key (0, 0)).1
      ((l.shuttlesIn (b.nestOf l.desc) l.nextTeam).getD x.key (0, 0)).2 (laneCount l.levels) l.runArgs (b.nestOf l.desc) x
    exact ⟨rfl, rfl, rfl, rfl, rfl, rfl, rfl, rfl, rfl, rfl, rfl, hpair, hstage, hsregs, hrest⟩

/-- The claim about a stopped team. -/
theorem termination_claim {team : Nat} {t : Team} (ht : s.dev.team team = some t) (hd : t.dying = true) :
    let d1 := s.dev.dropTeamTxns t
    let d0 := d1.dropStuck t
    let busy := fun (d : Dev) => (∃ c ∈ d.cmds, c.ofTeam team = true) ∨ ∃ o ∈ d.matOps, o.team = team
    let moves := (∃ c ∈ d1.cmds, c.ofTeam team = true ∧ d1.copyMoves t c = true) ∨
      ∃ o ∈ d1.matOps, o.team = team ∧ d1.opMoves t o = true
    (t.image ≠ some .discarded → moves ∨ ¬ busy d1 → d0 = d1) ∧
    (t.image ≠ some .discarded → ¬ moves → ¬ busy d0) ∧
    (t.image = some .discarded → d0.matOps = d1.matOps ∧
      ∀ c, c ∈ d0.cmds → c ∈ d1.cmds ∧ (c.ofTeam team = true → c.usesStorage = false)) ∧
    d0.mem = s.dev.mem ∧ d0.teams = s.dev.teams ∧ d0.launches = s.dev.launches ∧
    (∀ h ∈ d0.shuttles, h.team = team → h.txns = []) ∧
    (∀ z ∈ s.dev.shuttlesOf team, ∀ x ∈ z.txns, (d0.func t.fn).serial ≠ some (z.id, x.beat)) ∧
    (busy d0 → exec (.teamTermination team) s = .next (s.withDev d0)) ∧
    (∀ l, ¬ busy d0 → s.dev.launch t.launch = some l →
      (d0.launchHeld l = true → exec (.teamTermination team) s = .next (s.withDev d0)) ∧
      (d0.launchHeld l = false →
        ∃ u : Dev, u.teams = s.dev.teams.filter (fun x => x.id != team) ∧ (∀ h ∈ u.shuttles, h.team ≠ team) ∧
          u.launches = s.dev.launches ∧ (∀ a, teamKey team ≤ a → a < teamKey team + 2 ^ 32 → readByte u.mem a = 0) ∧
          ((∃ x ∈ u.teams, x.launch = l.id) → exec (.teamTermination team) s = .next (s.withDev u)) ∧
          ((∀ x ∈ u.teams, x.launch ≠ l.id) →
            exec (.teamTermination team) s = .next (s.withDev
              (u.completeLaunch l (if l.checked then 4 else 7) (if l.checked then 0 else l.terminated.getD 0))) ∧
            ∀ x ∈ (u.completeLaunch l (if l.checked then 4 else 7)
              (if l.checked then 0 else l.terminated.getD 0)).launches, x.id ≠ l.id))) := by
  have hid := Dev.team_id ht
  subst hid
  intro d1 d0 busy moves
  have h1 := dropTeamTxns_frame s.dev t
  have h0 := dropStuck_besideEngines d1 t
  have hteams : d0.teams = s.dev.teams := (congrArg Dev.teams h0 :).trans (congrArg Dev.teams h1 :)
  have hlaunches : d0.launches = s.dev.launches := (congrArg Dev.launches h0 :).trans (congrArg Dev.launches h1 :)
  refine ⟨dropStuck_of_moves, dropStuck_ends, dropStuck_discarded, (congrArg Dev.mem h0 :).trans (congrArg Dev.mem h1 :), hteams,
    hlaunches, fun h hh hteam => ?_, fun z hz x hx => ?_, fun hbusy => ?_, fun l hidle hl => ?_⟩
  · rw [show d0.shuttles = d1.shuttles from (congrArg Dev.shuttles h0 :)] at hh
    exact dropTeamTxns_txns s.dev t h hh hteam
  · rw [show d0.func t.fn = d1.func t.fn from (congrArg (fun d => d.func t.fn) h0 :)]
    exact dropTeamTxns_serial s.dev t z hz x hx
  · rw [exec, execTeamTermination, ht]
    simp only [hd, Bool.not_true, Bool.false_eq_true, if_false]
    rw [if_pos ((busyFor_iff d0 t.id).2 hbusy)]
  · let u := (d0.poisonTiles t.id).endTeam t
    have hends : exec (.teamTermination t.id) s = .next (s.withDev (
        if d0.launchHeld l then d0
        else if u.teams.any (fun x => x.launch == l.id) then u
        else (u.dropChains l.id).completeLaunch l (if l.checked then 4 else 7) (if l.checked then 0 else l.terminated.getD 0))) :=
      teamTermination_ends ht hd hl hidle
    obtain ⟨huteams, hushs, hulaunches, hubytes⟩ := endTeam_leaves d0 t
    refine ⟨fun hheld => ?_, fun hheld => ?_⟩
    · rw [hends, if_pos hheld]
    · rw [if_neg (show ¬ d0.launchHeld l = true by simp [hheld])] at hends
      have hufilter : u.teams = s.dev.teams.filter fun x => x.id != t.id := by rw [← hteams]; exact huteams
      by_cases hany : ∃ x ∈ u.teams, x.launch = l.id
      · rw [if_pos (show (u.teams.any fun x => x.launch == l.id) = true by simpa using hany)] at hends
        exact ⟨u, hufilter, hushs, hulaunches.trans hlaunches, hubytes, fun _ => hends,
          fun hnone => absurd hany fun ⟨x, hx, hxl⟩ => hnone x hx hxl⟩
      · rw [if_neg (show ¬ (u.teams.any fun x => x.launch == l.id) = true by simpa using hany)] at hends
        exact ⟨u.dropChains l.id, hufilter, hushs, hulaunches.trans hlaunches, hubytes, fun hex => absurd hex hany,
          fun _ => ⟨hends, completeLaunch_launches _ l _ _⟩⟩

/-- Settles O56, event by event. -/
theorem teamEvents : Obligations.TeamEvents := by
  unfold Obligations.TeamEvents
  intro s part fn team p f dispatch
  refine ⟨?_, ?_, ?_, ?_, ?_, ?_, budgetUnitCharge_waits, ?_, ?_⟩
  · intro hrun hsw hb hl
    rw [Waits, teamDispatch_runs hrun hsw, dispatchFor_none hb hl]
  · intro hrun hsw l hl hb
    refine ⟨fun hphase => ?_, fun hm => ?_, fun b pl hp hbolt hfit hfree => dispatch_places hrun hsw hl hb hp hbolt hfit hfree⟩
    · rw [Waits, teamDispatch_runs hrun hsw, dispatchFor_new hl hb, dispatchNew_unmapped hphase]
    · rw [Waits, teamDispatch_runs hrun hsw, dispatchFor_new hl hb, dispatchNew_closed hm]
  · intro l n w hrun hsw hl hb hplace hm hw
    refine ⟨?_, waitingVictim_waits hw⟩
    rw [teamDispatch_runs hrun hsw, dispatchFor_new hl (by simp [hb]), dispatchNew_saves hplace hm hw]
  · intro t env pl hrun hsw hb hl ht henv hfit
    obtain ⟨behind, hback⟩ := dispatchFor_back hb hl
    obtain ⟨u, hu, hres, himage, hpausing, hcluster, hcores⟩ := placeBack_team ht env pl
    refine ⟨s.withDev (s.dev.placeBack t env pl), u, ?_, hu, hres, himage, hpausing, hcluster, hcores,
      fun hs => placeBack_as_saved hs env pl, fun hs z hz x r hx hr => placeBack_from_records hs env pl hz hx hr⟩
    rw [teamDispatch_runs hrun hsw, hback, dispatchBack_fits henv hfit]
  · intro t ht stop save discard
    refine ⟨fun hd => ?_, termination_claim ht, fun hp => ?_, fun hp => ?_, fun hp hd hr hx => ⟨fun hready => ?_, fun hready => ?_⟩,
      fun env hp hd hr henv hstop hchain => ⟨fun hbusy => ?_, fun hbusy => ?_⟩⟩
    · simp [stop, Waits, exec, execTeamTermination, ht, hd]
    · simp [save, Waits, exec, execTeamSave, ht, hp]
    · simp [discard, Waits, exec, execTeamDiscard, ht, hp]
    · rw [Waits, teamSave_saves ht hp hd hr hx, hready]
      rfl
    · rw [teamSave_saves ht hp hd hr hx, hready]
      rfl
    · rw [Waits, teamDiscard_discards ht hp hd hr henv hstop hchain, hbusy]
      rfl
    · refine ⟨s.withDev (s.dev.finishDiscard t), ?_, finishDiscard_leaves s.dev ht⟩
      rw [teamDiscard_discards ht hp hd hr henv hstop hchain, hbusy]
      rfl
  · exact fun hrun => sliceEnd_running hrun
  · intro h
    refine ⟨s.withDev (s.dev.chargeUnit fn), ?_, chargeUnit_func s.dev fn⟩
    rw [exec, execBudgetUnitCharge, h]
    rfl
  · intro hserves
    refine ⟨fun hinf => ?_, fun hlim => ?_⟩
    · rw [Waits, bcmdRefill_eq hserves, Dev.refill, if_pos (by simpa using hinf)]
    · rw [SetsFunc, bcmdRefill_eq hserves, Dev.refill, if_neg (by simpa using hlim), capOf_eq]

end Sys2Proof.Machine
end

section
/-!
PROOF. The elements of a word's result, and an exact integer put into w bits (spec/02 R41, R42, spec/06 R133, R137).
-/
namespace Sys2Proof.Machine

/-! ## An integer in w bits -/

section
variable {w : Nat} {v : Int} {g : Bool}

theorem natCast_low (w : Nat) (v : Int) : (low w v : Int) = v % 2 ^ w :=
  Int.toNat_of_nonneg (Int.emod_nonneg _ (by positivity))

theorem pow_dvd_sub_low (w : Nat) (v : Int) : (2 : Int) ^ w ∣ v - low w v := by
  rw [natCast_low]
  exact Int.dvd_self_sub_emod

/-- A pattern stands for an integer that its width can hold. -/
theorem asInt_mem (hw : 0 < w) (g : Bool) (x : Nat) : intMin w g ≤ asInt g w x ∧ asInt g w x ≤ intMax w g := by
  obtain ⟨w, rfl⟩ : ∃ n, w = n + 1 := ⟨w - 1, by omega⟩
  have hx : x % 2 ^ (w + 1) < 2 ^ (w + 1) := Nat.mod_lt _ (by positivity)
  rw [pow_succ] at hx
  have hc : ((2 ^ w : Nat) : Int) = 2 ^ w := by norm_num
  cases g
  · simp only [asInt, intMin, intMax, Bool.false_eq_true, if_false, pow_succ]
    omega
  · simp only [asInt, sext, intMin, intMax, if_true, Nat.add_sub_cancel, pow_succ]
    split <;> omega

/-- An integer that the width can hold is what its low bits stand for. -/
theorem asInt_low (hw : 0 < w) (h : intMin w g ≤ v) (h' : v ≤ intMax w g) : asInt g w (low w v) = v := by
  obtain ⟨w, rfl⟩ : ∃ n, w = n + 1 := ⟨w - 1, by omega⟩
  have hlt := Laws.low_lt_pow (w + 1) v
  have hlow := natCast_low (w + 1) v
  have hc : ((2 ^ w : Nat) : Int) = 2 ^ w := by norm_num
  rw [pow_succ] at hlow hlt
  cases g
  · simp only [intMin, intMax, Bool.false_eq_true, if_false, pow_succ] at h h'
    rw [Int.emod_eq_of_lt h (by omega)] at hlow
    simp only [asInt, Bool.false_eq_true, if_false, pow_succ, Nat.mod_eq_of_lt hlt, hlow]
  · simp only [intMin, intMax, if_true, Nat.add_sub_cancel] at h h'
    simp only [asInt, sext, if_true, Nat.add_sub_cancel, pow_succ, Nat.mod_eq_of_lt hlt]
    by_cases hv : 0 ≤ v
    · rw [Int.emod_eq_of_lt hv (by omega)] at hlow
      rw [if_pos (by omega), hlow]
    · rw [← Int.add_emod_right, Int.emod_eq_of_lt (by omega) (by omega)] at hlow
      rw [if_neg (by omega)]
      omega

@[simp] theorem asInt_mod (g : Bool) (w x : Nat) : asInt g w (x % 2 ^ w) = asInt g w x := by
  simp [asInt, sext]

theorem asInt_false (w x : Nat) : asInt false w x = (x % 2 ^ w : Nat) := rfl

theorem asInt_true (w x : Nat) : asInt true w x = sext w x := rfl

/-- A pattern is 0 exactly when it stands for 0. -/
theorem asInt_eq_zero_iff (g : Bool) (w x : Nat) : asInt g w x = 0 ↔ x % 2 ^ w = 0 := by
  have hx : x % 2 ^ w < 2 ^ w := Nat.mod_lt _ (by positivity)
  have hc : ((2 ^ w : Nat) : Int) = 2 ^ w := by norm_num
  have hp : 0 < 2 ^ (w - 1) := by positivity
  cases g <;> simp only [asInt, sext, if_true, Bool.false_eq_true, if_false]
  · omega
  · split <;> omega

theorem satInt_clamps (hw : 0 < w) (g : Bool) (v : Int) : Clamps true w g v (satInt w g v) := by
  have hle : intMin w g ≤ intMax w g := (asInt_mem hw g 0).1.trans (asInt_mem hw g 0).2
  refine ⟨?_, by simp, fun _ => ?_⟩
  · unfold satInt
    split_ifs <;> exact Laws.low_lt_pow _ _
  · change asInt g w (satInt w g v).1 = max (intMin w g) (min (intMax w g) v) ∧
      (satInt w g v).2 = if intMin w g ≤ v ∧ v ≤ intMax w g then 0 else flagSAT
    unfold satInt
    split_ifs with hi hin lo hin hin
    · omega
    · exact ⟨by rw [asInt_low hw hle le_rfl, min_eq_left (by omega), max_eq_right hle], rfl⟩
    · omega
    · exact ⟨by rw [asInt_low hw le_rfl hle, max_eq_left (by omega)], rfl⟩
    · exact ⟨by rw [asInt_low hw hin.1 hin.2, min_eq_right hin.2, max_eq_right hin.1], rfl⟩
    · omega

theorem clampInt_clamps (hw : 0 < w) (sat g : Bool) (v : Int) : Clamps sat w g v (clampInt sat w g v) := by
  cases sat
  · exact ⟨Laws.low_lt_pow _ _, fun _ => ⟨pow_dvd_sub_low w v, rfl⟩, by simp⟩
  · exact satInt_clamps hw g v

theorem Clamps.lt {sat : Bool} {r : Nat × Nat} (h : Clamps sat w g v r) : r.1 < 2 ^ w := h.1

end

/-! ## Elements -/

theorem elemOf_lt (w v k : Nat) : elemOf w v k < 2 ^ w := Nat.mod_lt _ (by positivity)

@[simp] theorem elemOf_mod (w v k : Nat) : elemOf w v k % 2 ^ w = elemOf w v k := Nat.mod_eq_of_lt (elemOf_lt w v k)

theorem elemOf_zero (w v : Nat) : elemOf w v 0 = v % 2 ^ w := by simp [elemOf]

section
variable {w n : Nat} {f : Nat → Nat × Nat}

theorem joinElems_lt (hf : ∀ k, k < n → (f k).1 < 2 ^ w) : (joinElems w f n).1 < 2 ^ (w * n) := by
  induction n with
  | zero => simp [joinElems]
  | succ n ih =>
    have hn := ih fun k hk => hf k (by omega)
    have := hf n (by omega)
    calc (joinElems w f n).1 + (f n).1 * 2 ^ (w * n) < 2 ^ (w * n) + (f n).1 * 2 ^ (w * n) := by omega
      _ = ((f n).1 + 1) * 2 ^ (w * n) := by ring
      _ ≤ 2 ^ w * 2 ^ (w * n) := Nat.mul_le_mul_right _ (by omega)
      _ = 2 ^ (w * (n + 1)) := by ring

/-- The elements stand in the result, each at its place. -/
theorem elemOf_joinElems (hf : ∀ k, k < n → (f k).1 < 2 ^ w) {k : Nat} (hk : k < n) :
    elemOf w (joinElems w f n).1 k = (f k).1 := by
  induction n with
  | zero => omega
  | succ n ih =>
    have hlt := joinElems_lt fun k (hk : k < n) => hf k (by omega)
    change ((joinElems w f n).1 + (f n).1 * 2 ^ (w * n)) / 2 ^ (w * k) % 2 ^ w = (f k).1
    obtain rfl | hkn := Nat.eq_or_lt_of_le (Nat.le_of_lt_succ hk)
    · rw [Nat.add_mul_div_right _ _ (by positivity), Nat.div_eq_of_lt hlt, Nat.zero_add, Nat.mod_eq_of_lt (hf k hk)]
    · have hsplit : 2 ^ (w * n) = 2 ^ w * 2 ^ (w * (n - k - 1)) * 2 ^ (w * k) := by
        rw [← pow_add, ← pow_add]
        congr 1
        obtain ⟨m, rfl⟩ : ∃ m, n = k + m + 1 := ⟨n - k - 1, by omega⟩
        rw [show k + m + 1 - k - 1 = m by omega]
        ring
      rw [hsplit, ← Nat.mul_assoc, Nat.add_mul_div_right _ _ (by positivity), Nat.mul_left_comm, Nat.add_mul_mod_self_left]
      exact ih (fun k hk => hf k (by omega)) hkn

theorem joinElems_flags (w : Nat) (f : Nat → Nat × Nat) (n : Nat) :
    (joinElems w f n).2 = (List.range n).foldl (fun o k => o ||| (f k).2) 0 := by
  induction n with
  | zero => rfl
  | succ n ih => rw [List.range_succ, List.foldl_append, ← ih]; rfl

variable {p : LaneArg} {opc : Nat} {P : Nat → Nat × Nat → Prop}

/-- A word that is computed element by element. -/
theorem elems_of_join (h : (laneFn opc).map (fun op => op p) = some (joinElems w f n))
    (hf : ∀ k, k < n → (f k).1 < 2 ^ w ∧ P k (f k)) : p.Elems opc w n P := by
  have hlt := fun k hk => (hf k hk).1
  refine ⟨_, fun k => (f k).2, h, joinElems_lt hlt, joinElems_flags w f n, fun k hk => ?_⟩
  rw [elemOf_joinElems hlt hk]
  exact (hf k hk).2

/-- An integer word element by element. -/
theorem elems_of_int {f : Nat → Bool → Nat → Nat → Nat → Nat × Nat}
    (h : (laneFn opc).map (fun op => op p) = some (intElems p f))
    (hf : ∀ k, let w := elemWidth p.w.t
      let r := f w (typeSigned p.w.t) (elemOf w p.a k) (elemOf w p.b k) (elemOf w p.c k)
      r.1 < 2 ^ w ∧ P k r) : p.Elems opc (elemWidth p.w.t) (elemCount p.w.t) P :=
  elems_of_join h fun k _ => hf k

theorem elemWidth_pos (t : Nat) : 0 < elemWidth t := by
  unfold elemWidth
  split_ifs <;> decide

/-- An exact integer result of each element, clamped or wrapped. -/
theorem elems_of_clamp {sat : Bool} {f : Int → Int → Int → Int}
    (h : (laneFn opc).map (fun op => op p) = some (clampElems p sat f)) :
    let w := elemWidth p.w.t
    let g := typeSigned p.w.t
    p.Elems opc w (elemCount p.w.t) fun k =>
      Clamps sat w g (f (asInt g w (elemOf w p.a k)) (asInt g w (elemOf w p.b k)) (asInt g w (elemOf w p.c k))) :=
  elems_of_int h fun _ => have hc := clampInt_clamps (elemWidth_pos _) _ _ _; ⟨hc.lt, hc⟩

end

end Sys2Proof.Machine
end

section
/-!
PROOF. O43, the integer words: what their operations do to one element (spec/02 R56 to R59, spec/06 R137 to R141).
-/
namespace Sys2Proof.Machine

/-! ## Products, shifts and quotients -/

section
variable {w : Nat}

theorem ediv_mem_iff {d lo hi x : Int} (hd : 0 < d) : (lo ≤ x / d ∧ x / d ≤ hi) ↔ lo * d ≤ x ∧ x < (hi + 1) * d := by
  rw [Int.le_ediv_iff_mul_le hd, ← Int.lt_add_one_iff (b := hi), Int.ediv_lt_iff_lt_mul hd]

/-- The high half of a product fits the width. -/
theorem mulh_mem (hw : 0 < w) (g : Bool) (a b : Nat) :
    intMin w g ≤ asInt g w a * asInt g w b / 2 ^ w ∧ asInt g w a * asInt g w b / 2 ^ w ≤ intMax w g := by
  obtain ⟨w, rfl⟩ : ∃ n, w = n + 1 := ⟨w - 1, by omega⟩
  obtain ⟨ha, ha'⟩ := asInt_mem hw g a
  obtain ⟨hb, hb'⟩ := asInt_mem hw g b
  have hp : (0 : Int) < 2 ^ w := by positivity
  rw [ediv_mem_iff (by positivity)]
  generalize asInt g (w + 1) a = x at *
  generalize asInt g (w + 1) b = y at *
  cases g
  · simp only [intMin, intMax, Bool.false_eq_true, if_false, pow_succ] at *
    exact ⟨by nlinarith, by nlinarith⟩
  · simp only [intMin, intMax, if_true, Nat.add_sub_cancel, pow_succ] at *
    have hxy : |x * y| ≤ 2 ^ w * 2 ^ w := by
      rw [abs_mul]
      exact mul_le_mul (abs_le.2 ⟨ha, by omega⟩) (abs_le.2 ⟨hb, by omega⟩) (abs_nonneg _) hp.le
    have := abs_le.1 hxy
    exact ⟨by nlinarith, by nlinarith⟩

/-- A quotient by a power of two, rounded or not, fits the width. -/
theorem shifted_mem (hw : 0 < w) (g : Bool) (a s : Nat) {r : Int} (hr : 0 ≤ r) (hr' : r < 2 ^ s) :
    intMin w g ≤ (asInt g w a + r) / 2 ^ s ∧ (asInt g w a + r) / 2 ^ s ≤ intMax w g := by
  obtain ⟨ha, ha'⟩ := asInt_mem hw g a
  have hp : (1 : Int) ≤ 2 ^ s := one_le_pow₀ (by decide)
  have h0 : intMin w g ≤ 0 := by unfold intMin; split <;> [simp; rfl]
  have h1 : 0 ≤ intMax w g := (asInt_mem hw g 0).2.trans' (by simp [asInt, sext])
  rw [ediv_mem_iff (by positivity)]
  exact ⟨by nlinarith, by nlinarith⟩

theorem sraW_value (hw : 0 < w) (a s : Nat) : asInt true w (sraW w a s) = asInt true w a / 2 ^ s := by
  have h := shifted_mem hw true a s (r := 0) le_rfl (by positivity)
  rw [Int.add_zero] at h
  exact asInt_low hw h.1 h.2

theorem roundShift_mem (g : Bool) (x s : Nat) : intMin 32 g ≤ roundShift g x s ∧ roundShift g x s ≤ intMax 32 g := by
  unfold roundShift
  split
  · exact asInt_mem (by decide) g x
  next hs =>
    have hs : s ≠ 0 := by simpa using hs
    exact shifted_mem (by decide) g x s (by positivity) (pow_lt_pow_right₀ (by decide) (by omega))

/-- A quotient truncates toward zero, and by zero it is all ones (R56). -/
theorem div_spec (g : Bool) {a b : Nat} (ha : a < 2 ^ w) (hb : b < 2 ^ w) :
    let q := if g then divW w a b else divuW w a b
    q < 2 ^ w ∧ (asInt g w b = 0 → q = 2 ^ w - 1) ∧
      (asInt g w b ≠ 0 → Clamps false w g ((asInt g w a).tdiv (asInt g w b)) (q, 0)) := by
  have h0 : asInt g w b = 0 ↔ b = 0 := by rw [asInt_eq_zero_iff, Nat.mod_eq_of_lt hb]
  have hlt : (if g then divW w a b else divuW w a b) < 2 ^ w := by
    have : 0 < 2 ^ w := by positivity
    unfold divW divuW
    split_ifs <;> [omega; exact Laws.low_lt_pow _ _; omega; exact (Nat.div_le_self a b).trans_lt ha]
  refine ⟨hlt, fun h => ?_, fun h => ⟨hlt, fun _ => ⟨?_, rfl⟩, by simp⟩⟩
  · cases g <;> simp [divW, divuW, h0.1 h]
  · have hb0 : b ≠ 0 := fun hb0 => h (h0.2 hb0)
    cases g <;> simp only [divW, divuW, beq_iff_eq, hb0, if_false, if_true, Bool.false_eq_true]
    · simp [asInt_false, Nat.mod_eq_of_lt ha, Nat.mod_eq_of_lt hb]
    · exact pow_dvd_sub_low _ _

/-- A remainder is smaller than its divisor, so that it fits. -/
theorem tmod_mem (hw : 0 < w) {b : Nat} (h : asInt true w b ≠ 0) (v : Int) :
    intMin w true ≤ v.tmod (asInt true w b) ∧ v.tmod (asInt true w b) ≤ intMax w true := by
  obtain ⟨hb, hb'⟩ := asInt_mem hw true b
  have hlt : (v.tmod (asInt true w b)).natAbs < (asInt true w b).natAbs := by
    rw [Int.natAbs_tmod]
    exact Nat.mod_lt _ (by omega)
  simp only [intMin, intMax, if_true] at *
  omega

/-- A remainder takes the sign of its dividend, and by zero it is the dividend (R56). -/
theorem rem_spec (hw : 0 < w) (g : Bool) {a b : Nat} (ha : a < 2 ^ w) (hb : b < 2 ^ w) :
    let r := if g then remW w a b else remuW a b
    r < 2 ^ w ∧ (asInt g w b = 0 → r = a) ∧ (asInt g w b ≠ 0 → asInt g w r = (asInt g w a).tmod (asInt g w b)) := by
  have h0 : asInt g w b = 0 ↔ b = 0 := by rw [asInt_eq_zero_iff, Nat.mod_eq_of_lt hb]
  have hm : a % b < 2 ^ w := (Nat.mod_le a b).trans_lt ha
  refine ⟨?_, fun h => ?_, fun h => ?_⟩
  · unfold remW remuW
    split_ifs <;> [exact ha; exact Laws.low_lt_pow _ _; exact ha; exact hm]
  · cases g <;> simp [remW, remuW, h0.1 h]
  · have hb0 : b ≠ 0 := fun hb0 => h (h0.2 hb0)
    cases g <;> simp only [remW, remuW, beq_iff_eq, hb0, if_false, if_true, Bool.false_eq_true]
    · simp only [asInt_false, Nat.mod_eq_of_lt ha, Nat.mod_eq_of_lt hb, Nat.mod_eq_of_lt hm, Int.ofNat_tmod]
    · have ht := tmod_mem hw h (asInt true w a)
      exact asInt_low hw ht.1 ht.2

end

/-! ## Bits -/

theorem bit_eq_testBit (v i : Nat) : bit v i = v.testBit i := by
  rw [Nat.testBit_eq_decide_div_mod_eq]
  rfl

theorem bit_half (a n : Nat) : bit (a / 2) n = bit a (n + 1) := by
  simp only [bit_eq_testBit, Nat.testBit_add_one]

theorem popcW_eq_countP (w a : Nat) : popcW w a = (List.range w).countP fun n => bit a n := by
  induction w generalizing a with
  | zero => rfl
  | succ w ih =>
    have h0 : (if bit a 0 then 1 else 0) = a % 2 := by
      simp only [bit, pow_zero, Nat.div_one, beq_iff_eq]
      split <;> omega
    have hs : (bit a ∘ Nat.succ) = bit (a / 2) := funext fun n => (bit_half a n).symm
    rw [popcW, ih, List.range_succ_eq_map, List.countP_cons, List.countP_map, hs, h0, Nat.add_comm]

theorem brevW_lt (w a : Nat) : brevW w a < 2 ^ w := by
  induction w generalizing a with
  | zero => exact Nat.one_pos
  | succ w ih =>
    have := ih (a / 2)
    have : a % 2 * 2 ^ w ≤ 1 * 2 ^ w := Nat.mul_le_mul_right _ (by omega)
    rw [brevW, pow_succ]
    omega

theorem bit_brevW {w n : Nat} (a : Nat) (hn : n < w) : bit (brevW w a) n = bit a (w - 1 - n) := by
  induction w generalizing a with
  | zero => omega
  | succ w ih =>
    rw [bit_eq_testBit, brevW, Nat.mul_comm, Nat.testBit_two_pow_mul_add _ (brevW_lt w _), Nat.add_sub_cancel]
    split
    next h => rw [← bit_eq_testBit, ih _ h, bit_half, show w - 1 - n + 1 = w - n by omega]
    next h =>
      obtain rfl : n = w := by omega
      rw [Nat.sub_self, ← bit_eq_testBit]
      simp [bit]

/-- What the leading zeros are: nothing stands above them, and a one below. -/
theorem clzW_bounds {w a : Nat} (ha : a < 2 ^ w) :
    clzW w a ≤ w ∧ a < 2 ^ (w - clzW w a) ∧ (clzW w a < w → 2 ^ (w - clzW w a - 1) ≤ a) := by
  unfold clzW
  split
  next h => simp [show a = 0 by simpa using h]
  next h =>
    have h : a ≠ 0 := by simpa using h
    have hlog := (Nat.log2_lt h).2 ha
    rw [show w - (w - 1 - a.log2) = a.log2 + 1 by omega]
    exact ⟨by omega, Nat.lt_log2_self, fun _ => Nat.log2_self_le h⟩

theorem boolW_eq_toNat (b : Bool) : boolW b = b.toNat := by cases b <;> rfl

theorem toNat_bit (v n : Nat) : (bit v n).toNat = v / 2 ^ n % 2 := by
  unfold bit
  rcases Nat.mod_two_eq_zero_or_one (v / 2 ^ n) with h | h <;> rw [h] <;> rfl

/-- Each bit of the result is what the table gives for the three bits at its place. -/
theorem lutBits_spec (lut a b c w : Nat) : lutBits lut a b c w < 2 ^ w ∧ ∀ n, bit (lutBits lut a b c w) n =
    (decide (n < w) && bit lut (4 * (bit a n).toNat + 2 * (bit b n).toNat + (bit c n).toNat)) := by
  simp only [toNat_bit]
  induction w with
  | zero => simp [lutBits, bit]
  | succ w ih =>
    obtain ⟨hlt, hb⟩ := ih
    generalize hx : bit lut (4 * (a / 2 ^ w % 2) + 2 * (b / 2 ^ w % 2) + c / 2 ^ w % 2) = x
    have hv : lutBits lut a b c (w + 1) = 2 ^ w * x.toNat + lutBits lut a b c w := by
      rw [lutBits, hx, Nat.add_comm]
      cases x <;> simp
    have hx1 : x.toNat ≤ 1 := Bool.toNat_le x
    refine ⟨by rw [hv, pow_succ]; nlinarith, fun n => ?_⟩
    rw [bit_eq_testBit, hv, Nat.testBit_two_pow_mul_add _ hlt, ← bit_eq_testBit, hb]
    rcases Nat.lt_trichotomy n w with hn | rfl | hn
    · simp [hn, Nat.lt_succ_of_lt hn]
    · rw [if_neg (Nat.lt_irrefl _), hx]
      cases x <;> simp
    · have hx2 : x.toNat < 2 ^ (n - w) := (Nat.lt_succ_of_le hx1).trans_le (Nat.le_self_pow (by omega) 2)
      rw [if_neg (by omega), Nat.testBit_lt_two_pow hx2]
      simp [show ¬n < w + 1 by omega]

/-! ## Bit fields -/

/-- The bits of a sign-extended value. -/
theorem testBit_low_sext (m n y i : Nat) : (low m (sext n y)).testBit i =
    (decide (i < m) && if i < n then y.testBit i else decide (0 < n) && y.testBit (n - 1)) := by
  have hsext : sext n y = (BitVec.ofNat n y).toInt := by
    rw [BitVec.toInt_eq_toNat_cond, BitVec.toNat_ofNat, sext]
    cases n with
    | zero => simp [Nat.mod_one]
    | succ n =>
      have h2 : 2 * (y % 2 ^ (n + 1)) < 2 ^ (n + 1) ↔ y % 2 ^ (n + 1) < 2 ^ n := by rw [pow_succ]; omega
      simp [h2]
  have hlow : low m (sext n y) = ((BitVec.ofNat n y).signExtend m).toNat := by
    rw [hsext, BitVec.signExtend, BitVec.toNat_ofInt, low]
    norm_num
  rw [hlow, BitVec.testBit_toNat, BitVec.getLsbD_signExtend]
  congr 1
  split
  next h => rw [BitVec.getLsbD_ofNat, decide_eq_true h, Bool.true_and]
  next h => rw [BitVec.msb_eq_getLsbD_last, BitVec.getLsbD_ofNat]; congr 1; simp

/-- Bit n of a register of 32 bits that is extended to 64. -/
theorem testBit_low_sext_word (a n : Nat) (hn : n < 64) :
    (low 64 (sext 32 a)).testBit n = if n < 32 then bit a n else bit a 31 := by
  rw [testBit_low_sext, decide_eq_true hn]
  simp [bit_eq_testBit]

theorem opBfe_flags (p : LaneArg) : (opBfe p).2 = 0 := by
  unfold opBfe
  dsimp only
  split_ifs <;> rfl

theorem opBfe_bits (p : LaneArg) (ha : p.a < 2 ^ 32) : (opBfe p).1 < 2 ^ 32 ∧ ∀ n, n < 32 →
    let sg := typeSigned p.w.t
    let pos := p.b % 32
    let len := min (p.b / 256 % 64) 32
    bit (opBfe p).1 n = if n < len then (if pos + n < 32 then bit p.a (pos + n) else sg && bit p.a 31)
      else sg && decide (0 < len) && (if pos + len ≤ 32 then bit p.a (pos + len - 1) else bit p.a 31) := by
  have hpos : p.b % 32 < 32 := Nat.mod_lt _ (by decide)
  have hlen : min (p.b / 256 % 64) 32 ≤ 32 := min_le_right _ _
  unfold opBfe fieldLen fieldPos
  generalize p.b % 32 = pos at *
  generalize min (p.b / 256 % 64) 32 = len at *
  dsimp only
  by_cases h0 : len = 0
  · subst h0
    simp [bit]
  rw [if_neg (by simpa using h0), decide_eq_true (Nat.pos_of_ne_zero h0), Bool.and_true]
  cases typeSigned p.w.t
  · have hhigh : ∀ j, 32 ≤ j → p.a.testBit j = false := fun j hj =>
      Nat.testBit_lt_two_pow (ha.trans_le (Nat.pow_le_pow_right (by decide) hj))
    refine ⟨(Nat.mod_le _ _).trans_lt ((Nat.div_le_self _ _).trans_lt ha), fun n _ => ?_⟩
    simp only [bit_eq_testBit, Nat.testBit_mod_two_pow, Nat.testBit_div_two_pow, Bool.false_eq_true, if_false,
      Bool.false_and, Nat.add_comm pos n]
    split <;> rename_i hn <;> simp only [hn, decide_true, decide_false, Bool.true_and, Bool.false_and]
    split
    · rfl
    · exact hhigh _ (by omega)
  · refine ⟨Laws.low_lt_pow _ _, fun n hn32 => ?_⟩
    have hin : ∀ m, m < len → (low 64 (sext 32 p.a) / 2 ^ pos % 2 ^ len).testBit m =
        if pos + m < 32 then bit p.a (pos + m) else bit p.a 31 := fun m hm => by
      rw [Nat.testBit_mod_two_pow, Nat.testBit_div_two_pow, decide_eq_true hm, Bool.true_and,
        testBit_low_sext_word _ _ (by omega), Nat.add_comm]
    simp only [if_true, Bool.true_and]
    rw [bit_eq_testBit, testBit_low_sext, decide_eq_true hn32, Bool.true_and, decide_eq_true (Nat.pos_of_ne_zero h0),
      Bool.true_and]
    split
    next hn => exact hin n hn
    next hn =>
      rw [hin (len - 1) (by omega), show pos + (len - 1) = pos + len - 1 by omega]
      exact if_congr (by omega) rfl rfl

/-- The mask of a field of `len` bits at `pos`. -/
def fieldMask (pos len : Nat) : Word := BitVec.ofNat 32 ((2 ^ len - 1) * 2 ^ pos)

theorem getLsbD_fieldMask (pos len : Nat) {n : Nat} (hn : n < 32) :
    (fieldMask pos len).getLsbD n = decide (pos ≤ n ∧ n < pos + len) := by
  simp only [fieldMask, BitVec.getLsbD_ofNat, Nat.testBit_mul_two_pow, Nat.testBit_two_pow_sub_one, decide_eq_true hn,
    Bool.true_and, ← Bool.decide_and]
  congr 1
  ext
  omega

/-- The field of `bfi` stands in its place, and the base around it. -/
theorem opBfi_bits (p : LaneArg) (x y : Word) (ha : p.a = x.toNat) (hb : p.b = y.toNat) :
    let pos := p.c % 32
    let len := min (p.c / 256 % 64) 32
    ∃ v : Word, (opBfi p).1 = v.toNat ∧
      ∀ n, n < 32 → v.getLsbD n = if pos ≤ n ∧ n < pos + len then x.getLsbD (n - pos) else y.getLsbD n := by
  intro pos len
  generalize hmask : fieldMask pos len = mask
  have hdis : (y &&& ~~~mask) &&& (x <<< pos &&& mask) = 0 := by
    ext n hn
    simp
    tauto
  refine ⟨(y &&& ~~~mask) ||| (x <<< pos &&& mask), ?_, fun n hn => ?_⟩
  · rw [← BitVec.add_eq_or_of_and_eq_zero _ _ hdis]
    have hlt : (y &&& ~~~mask).toNat + (x <<< pos &&& mask).toNat < 2 ^ 32 := by
      rw [← BitVec.toNat_add_of_and_eq_zero hdis]
      exact BitVec.isLt _
    rw [BitVec.toNat_add, Nat.mod_eq_of_lt hlt, BitVec.toNat_and, BitVec.toNat_and, BitVec.toNat_not, BitVec.toNat_shiftLeft,
      Nat.shiftLeft_eq, ← ha, ← hb, ← hmask]
    rfl
  · have hb := getLsbD_fieldMask pos len hn
    rw [hmask] at hb
    simp only [BitVec.getLsbD_or, BitVec.getLsbD_and, BitVec.getLsbD_not, BitVec.getLsbD_shiftLeft, hb, decide_eq_true hn]
    by_cases h : pos ≤ n ∧ n < pos + len
    · simp [h, show ¬n < pos by omega]
    · simp [h]

/-! ## Rounding shifts -/

theorem roundShift_eq (g : Bool) (x s : Nat) :
    roundShift g x s = if s = 0 then asInt g 32 x else (asInt g 32 x + 2 ^ (s - 1)) / 2 ^ s := by
  simp [roundShift]

theorem opShrr_word (p : LaneArg) (ht : p.w.t < 2) :
    let g := typeSigned p.w.t
    let v := roundShift g p.a (p.b % 32)
    opShrr p = if xSat p.x then (low 32 (asInt g 16 (satInt 16 g v).1), (satInt 16 g v).2) else (low 32 v, 0) :=
  if_pos ht

theorem opShrr_pair (p : LaneArg) (ht : ¬p.w.t < 2) :
    let g := typeSigned p.w.t
    opShrr p = joinElems 16 (fun k => clampInt (xSat p.x) 16 g (roundShift g (if k = 0 then p.a else p.b) (p.c % 32))) 2 := by
  simp [opShrr, ht, joinElems]

/-- An integer of 16 bits fits 32. -/
theorem asInt_low_of_narrow (g : Bool) (v : Nat) : asInt g 32 (low 32 (asInt g 16 v)) = asInt g 16 v := by
  obtain ⟨h, h'⟩ := asInt_mem (w := 16) (by decide) g v
  have hmin : intMin 32 g ≤ intMin 16 g := by cases g <;> decide
  have hmax : intMax 16 g ≤ intMax 32 g := by cases g <;> decide
  exact asInt_low (by decide) (hmin.trans h) (h'.trans hmax)

/-- Settles O43, word by word. -/
theorem laneIntegerResults : Obligations.LaneIntegerResults := by
  intro p t w sg sat pat a b c sh each plain whole truth shifted
  have hw : 0 < w := elemWidth_pos t
  have hlt : ∀ v k, pat v k < 2 ^ w := fun v k => elemOf_lt w v k
  have hzero : ∀ v, asInt sg w v = asInt sg w (pat v 0) := fun v => by simp only [pat, elemOf_zero, asInt_mod]
  refine ⟨fun _ => ⟨elems_of_clamp (f := fun a b _ => a + b) rfl, elems_of_clamp (f := fun a b _ => a - b) rfl,
    elems_of_clamp (f := fun a b _ => a * b) rfl, elems_of_clamp (f := fun a b c => a * b + c) rfl, ?mulh, ?shl, ?shlSat, ?shr,
    ?sra, ?min, ?max, ?div, ?rem, elems_of_clamp (f := fun a b _ => a + b) rfl, elems_of_clamp (f := fun a b _ => a - b) rfl,
    fun hsg => ⟨?abs, ?neg⟩⟩, fun _ => ⟨rfl, rfl, rfl⟩, fun ht => ⟨rfl, rfl, ?popc, ?clz, ?brev⟩, fun _ => ⟨?movi, ?moviWide⟩,
    ?cmp, fun ht => ⟨?bfe, ?shrr, ?shrrSat⟩, fun ht => ⟨?dp2, ?shrrPair⟩, ?dp4, fun ht x y z hx hy hz => ⟨?lop3, ?bfi, ?plop⟩⟩
  case mulh =>
    refine elems_of_int rfl fun k => ⟨Laws.low_lt_pow _ _, ?_, rfl⟩
    have h := mulh_mem hw sg (pat p.a k) (pat p.b k)
    exact asInt_low hw h.1 h.2
  case shl =>
    intro hsat
    refine elems_of_int rfl fun k => ?_
    dsimp only
    rw [if_neg (by simpa [sat] using hsat)]
    exact ⟨Nat.mod_lt _ (by positivity), rfl⟩
  case shlSat =>
    intro hsat
    refine elems_of_int rfl fun k => ?_
    dsimp only
    rw [if_pos hsat]
    have h := satInt_clamps hw sg (a k * 2 ^ sh k)
    exact ⟨h.lt, h⟩
  case shr => exact elems_of_int rfl fun k => ⟨(Nat.div_le_self _ _).trans_lt (hlt p.a k), rfl⟩
  case sra => exact elems_of_int rfl fun k => ⟨Laws.low_lt_pow _ _, sraW_value hw _ _, rfl⟩
  case min => exact elems_of_int rfl fun k => ⟨by dsimp only; split <;> exact elemOf_lt _ _ _, rfl⟩
  case max => exact elems_of_int rfl fun k => ⟨by dsimp only; split <;> exact elemOf_lt _ _ _, rfl⟩
  case div =>
    refine elems_of_int rfl fun k => ?_
    obtain ⟨hq, hzero, hdiv⟩ := div_spec sg (hlt p.a k) (hlt p.b k)
    exact ⟨hq, rfl, hzero, hdiv⟩
  case rem =>
    refine elems_of_int rfl fun k => ?_
    obtain ⟨hr, hzero, hrem⟩ := rem_spec hw sg (hlt p.a k) (hlt p.b k)
    exact ⟨hr, rfl, hzero, hrem⟩
  case abs =>
    have h := elems_of_clamp (p := p) (opc := 0x00F) (f := fun a _ _ => (a.natAbs : Int)) rfl
    simpa only [each, w, t, sat, a, sg, hsg, Int.abs_eq_natAbs] using h
  case neg => exact hsg ▸ elems_of_clamp (p := p) (opc := 0x010) (f := fun a _ _ => -a) rfl
  case popc => exact congrArg (fun v => some (v, 0)) (popcW_eq_countP w p.a)
  case clz => exact fun ha => ⟨clzW w p.a, rfl, clzW_bounds ha⟩
  case brev => exact ⟨brevW w p.a, rfl, brevW_lt _ _, fun n hn => bit_brevW _ hn⟩
  case movi =>
    intro ht
    have h6 : (t == 6) = false := by rcases ht with h | h <;> rw [h] <;> rfl
    exact congrArg (fun v => some (v, 0)) (if_neg (Bool.not_eq_true _ ▸ h6))
  case moviWide => exact fun ht => congrArg (fun v => some (v, 0)) (if_pos (beq_iff_eq.2 ht))
  case cmp =>
    intro _ cond hc hx
    change some (boolW (intCond (p.x % 8) (asInt sg w p.a) (asInt sg w p.b)), 0) = _
    rw [hx, hzero p.a, hzero p.b]
    interval_cases cond <;> simp [intCond, boolW, truth, a, b]
  case bfe =>
    intro ha
    obtain ⟨hv, hbits⟩ := opBfe_bits p ha
    exact ⟨_, congrArg some (Prod.ext rfl (opBfe_flags p)), hv, hbits⟩
  case shrr =>
    intro hsat
    obtain ⟨h, h'⟩ := roundShift_mem sg p.a (p.b % 32)
    refine ⟨low 32 (roundShift sg p.a (p.b % 32)), congrArg some ?_, Laws.low_lt_pow _ _, ?_⟩
    · exact (opShrr_word p (by omega)).trans (if_neg (Bool.eq_false_iff.1 hsat))
    · exact (asInt_low (by decide) h h').trans (roundShift_eq _ _ _)
  case shrrSat =>
    intro hsat
    refine ⟨satInt 16 sg (shifted sg p.a (p.b % 32)), _, _, congrArg some ((opShrr_word p (by omega)).trans (if_pos hsat)),
      Laws.low_lt_pow _ _, satInt_clamps (by decide) _ _, ?_, ?_⟩ <;> rw [roundShift_eq]
    exact asInt_low_of_narrow _ _
  case dp2 =>
    have hw16 : w = 16 := by rcases ht with h | h <;> simp only [w, h] <;> rfl
    refine ⟨opDp2 p, rfl, ?_⟩
    simp only [a, b, pat, hw16]
    exact clampInt_clamps (by decide) _ _ _
  case shrrPair =>
    have hw16 : w = 16 := by rcases ht with h | h <;> simp only [w, h] <;> rfl
    have hn : elemCount t = 2 := by rcases ht with h | h <;> rw [h] <;> rfl
    simp only [each, hw16, hn]
    refine elems_of_join (congrArg some (opShrr_pair p (by omega))) fun k _ => ?_
    have hc := clampInt_clamps (w := 16) (by decide) sat sg (roundShift sg (if k = 0 then p.a else p.b) (p.c % 32))
    exact ⟨hc.lt, roundShift_eq sg _ _ ▸ hc⟩
  case dp4 =>
    intro ht
    have hw8 : w = 8 := by rcases ht with h | h <;> simp only [w, h] <;> rfl
    refine ⟨opDp4 p, rfl, ?_⟩
    simp only [a, b, pat, hw8]
    exact clampInt_clamps (by decide) _ _ _
  case lop3 =>
    obtain ⟨hv, hbits⟩ := lutBits_spec (xLut p.x) p.a p.b p.c 32
    refine ⟨BitVec.ofNat 32 (lutBits (xLut p.x) p.a p.b p.c 32), congrArg (fun v => some (v, 0)) ?_, fun n hn => ?_⟩
    · exact (BitVec.toNat_ofNat _ _ ▸ Nat.mod_eq_of_lt hv).symm
    · rw [BitVec.getLsbD_ofNat, decide_eq_true hn, Bool.true_and, ← bit_eq_testBit, hbits, decide_eq_true hn, Bool.true_and,
        hx, hy, hz]
      simp only [bit_eq_testBit, BitVec.testBit_toNat]
      rfl
  case bfi =>
    obtain ⟨v, hv, hbits⟩ := opBfi_bits p x y hx hy
    exact ⟨v, congrArg (fun v => some (v, 0)) hv, hbits⟩
  case plop =>
    refine congrArg (fun v => some (v, 0)) ?_
    simp only [boolW_eq_toNat]
    exact (boolW_eq_toNat _).symm

end Sys2Proof.Machine
end

section
/-!
PROOF. O24, the collectives: the tree and the running results over a list of values, and what each position takes (spec/02 R67, spec/07 R215,
R216).
-/
namespace Sys2Proof.Machine

/-! ## TreeReduce -/

section
variable {f : Nat → Nat → Nat}

theorem length_le_one_of_no_pair {xs : List Nat} (h : ∀ (a b : Nat) (ys : List Nat), xs = a :: b :: ys → False) :
    xs.length ≤ 1 := by
  match xs, h with
  | [], _ => exact Nat.zero_le 1
  | [a], _ => exact le_rfl
  | a :: b :: xs, h => exact absurd rfl (h a b xs)

theorem length_pairUp (f : Nat → Nat → Nat) (xs : List Nat) : (pairUp f xs).length = (xs.length + 1) / 2 := by
  induction xs using pairUp.induct with
  | case1 a b xs ih => simp only [pairUp, List.length_cons, ih]; omega
  | case2 xs h =>
    have := length_le_one_of_no_pair h
    rw [pairUp.eq_2 _ _ h]
    omega

/-- Each round combines neighbours in pairs, and an odd value at the end stays. -/
theorem getD_pairUp (f : Nat → Nat → Nat) (xs : List Nat) : (∀ j, j < xs.length / 2 →
      (pairUp f xs).getD j 0 = f (xs.getD (2 * j) 0) (xs.getD (2 * j + 1) 0)) ∧
    (xs.length % 2 = 1 → (pairUp f xs).getD (xs.length / 2) 0 = xs.getD (xs.length - 1) 0) := by
  induction xs using pairUp.induct with
  | case1 a b xs ih =>
    obtain ⟨hpair, hodd⟩ := ih
    simp only [pairUp, List.length_cons]
    refine ⟨fun j hj => ?_, fun h => ?_⟩
    · cases j with
      | zero => rfl
      | succ j => exact hpair j (by omega)
    · obtain ⟨n, hn⟩ : ∃ n, xs.length = n + 1 := ⟨xs.length - 1, by omega⟩
      rw [show (xs.length + 1 + 1) / 2 = xs.length / 2 + 1 by omega, show xs.length + 1 + 1 - 1 = xs.length - 1 + 1 + 1 by omega]
      exact hodd (by omega)
  | case2 xs h =>
    have := length_le_one_of_no_pair h
    rw [pairUp.eq_2 _ _ h]
    refine ⟨fun j hj => by omega, fun h1 => ?_⟩
    rw [show xs.length / 2 = xs.length - 1 by omega]

/-- More rounds than values change nothing. -/
theorem treeReduce_fuel {n : Nat} {xs : List Nat} (h : xs.length ≤ n) : treeReduce f n xs = treeReduce f xs.length xs := by
  induction n using Nat.strong_induction_on generalizing xs with
  | _ n ih =>
    match n, xs, h with
    | 0, [], _ => rfl
    | n + 1, [], _ => rfl
    | n + 1, [a], _ => rfl
    | n + 1, a :: b :: xs, h =>
      have hlen := length_pairUp f (a :: b :: xs)
      simp only [List.length_cons] at h hlen
      have hstep : ∀ k, treeReduce f (k + 1) (a :: b :: xs) = treeReduce f k (pairUp f (a :: b :: xs)) := fun k =>
        if_neg (by simp)
      rw [hstep, List.length_cons, hstep, ih n (by omega) (by omega)]
      exact (ih _ (by simp only [List.length_cons]; omega) (by simp only [List.length_cons]; omega)).symm

theorem treeReduce_step {xs : List Nat} (h : 1 < xs.length) :
    treeReduce f xs.length xs = treeReduce f (pairUp f xs).length (pairUp f xs) := by
  obtain ⟨n, hn⟩ : ∃ n, xs.length = n + 1 := ⟨xs.length - 1, by omega⟩
  have hlen := length_pairUp f xs
  rw [hn, treeReduce, if_neg (by omega), treeReduce_fuel (by omega)]

theorem lt_of_mem_pairUp {xs : List Nat} (h : ∀ v ∈ xs, v < 2 ^ 32) : ∀ v ∈ pairUp (collOp 0) xs, v < 2 ^ 32 := by
  induction xs using pairUp.induct with
  | case1 a b xs ih =>
    simp only [pairUp, List.mem_cons, forall_eq_or_imp] at h ⊢
    exact ⟨Nat.mod_lt _ (by decide), ih h.2.2⟩
  | case2 xs hx => rwa [pairUp.eq_2 _ _ hx]

/-- A round keeps the sum of 32 bits. -/
theorem sum_pairUp (xs : List Nat) : (pairUp (collOp 0) xs).sum % 2 ^ 32 = xs.sum % 2 ^ 32 := by
  induction xs using pairUp.induct with
  | case1 a b xs ih =>
    simp only [pairUp, List.sum_cons, collOp, addW] at *
    omega
  | case2 xs h => rw [pairUp.eq_2 _ _ h]

theorem treeReduce_sum {xs : List Nat} (hne : xs ≠ []) (h : ∀ v ∈ xs, v < 2 ^ 32) :
    treeReduce (collOp 0) xs.length xs = xs.sum % 2 ^ 32 := by
  induction hn : xs.length using Nat.strong_induction_on generalizing xs with
  | _ n ih =>
    subst hn
    match xs, hne with
    | [a], _ =>
      have ha : a < 2 ^ 32 := h a (by simp)
      rw [List.sum_singleton, Nat.mod_eq_of_lt ha]
      rfl
    | a :: b :: xs, _ =>
      have hlen := length_pairUp (collOp 0) (a :: b :: xs)
      simp only [List.length_cons] at hlen
      rw [treeReduce_step (by simp), ← sum_pairUp]
      exact ih _ (by simp only [List.length_cons]; omega) (by simp [pairUp]) (lt_of_mem_pairUp h) rfl

end

/-! ## ExPrefix -/

section
variable {f : Nat → Nat → Nat}

theorem length_prefixRest (f : Nat → Nat → Nat) (x : Nat) (xs : List Nat) : (prefixRest f x xs).length = xs.length := by
  induction xs generalizing x with
  | nil => rfl
  | cons y ys ih => simp [prefixRest, ih]

/-- Each value after the first is the operation on the one before it and its source. -/
theorem getD_prefixRest (f : Nat → Nat → Nat) (x : Nat) (xs : List Nat) {i : Nat} (h : i + 1 < xs.length) :
    (prefixRest f x xs).getD (i + 1) 0 = f ((prefixRest f x xs).getD i 0) (xs.getD i 0) := by
  induction xs generalizing x i with
  | nil => exact absurd h (Nat.not_lt_zero _)
  | cons y ys ih =>
    cases i with
    | zero =>
      obtain _ | ⟨z, zs⟩ := ys
      · exact absurd h (by simp)
      · rfl
    | succ i => exact ih (f x y) (by simpa using h)

theorem exPrefix_spec (op : Nat) (xs : List Nat) : let out := exPrefix op xs
    out.length = xs.length ∧ (0 < xs.length → out.getD 0 0 = collIdentity op) ∧
    (1 < xs.length → out.getD 1 0 = xs.getD 0 0) ∧
    ∀ i, 2 ≤ i → i < xs.length → out.getD i 0 = collOp op (out.getD (i - 1) 0) (xs.getD (i - 1) 0) := by
  match xs with
  | [] => simp [exPrefix]
  | [x] => simp [exPrefix, prefixRest]; omega
  | x :: y :: ys =>
    refine ⟨by simp [exPrefix, length_prefixRest], fun _ => rfl, fun _ => rfl, fun i hi hlt => ?_⟩
    obtain ⟨i, rfl⟩ : ∃ n, i = n + 2 := ⟨i - 2, by omega⟩
    exact getD_prefixRest (collOp op) x (y :: ys) (by simpa using hlt)

/-- The running sums of 32 bits. -/
theorem exPrefix_sum {xs : List Nat} (h : ∀ v ∈ xs, v < 2 ^ 32) :
    exPrefix 0 xs = (List.range xs.length).map fun i => (xs.take i).sum % 2 ^ 32 := by
  obtain ⟨hlen, h0, h1, hstep⟩ := exPrefix_spec 0 xs
  have key : ∀ i, i < xs.length → (exPrefix 0 xs).getD i 0 = (xs.take i).sum % 2 ^ 32 := by
    intro i hi
    induction i with
    | zero => rw [h0 hi]; rfl
    | succ i ih =>
      have hi' : i < xs.length := by omega
      have hsum : (xs.take (i + 1)).sum = (xs.take i).sum + xs.getD i 0 := by
        rw [List.take_succ_eq_append_getElem hi', List.sum_append, List.getD_eq_getElem _ _ hi']
        simp
      cases i with
      | zero =>
        have hx : xs.getD 0 0 < 2 ^ 32 := List.getD_eq_getElem _ _ hi' ▸ h _ (List.getElem_mem _)
        rw [h1 hi, hsum]
        simp only [List.take_zero, List.sum_nil, Nat.zero_add, Nat.mod_eq_of_lt hx]
      | succ i =>
        rw [hstep _ (by omega) hi, Nat.add_sub_cancel, ih hi', hsum]
        exact Nat.mod_add_mod _ _ _
  refine List.ext_getElem (by simpa using hlen) fun i hi hi' => ?_
  rw [← List.getD_eq_getElem _ 0 hi, key i (by simpa using hi'), List.getElem_map, List.getElem_range]

end

/-! ## Slides -/

theorem slideElem_eq (w : Nat) (vals : List Nat) (fill : Nat) (j : Int) : slideElem w vals fill j =
    let m := 32 / w
    if 0 ≤ j ∧ j < (m * vals.length : Nat) then elemOf w (vals.getD (j.toNat / m) 0) (j.toNat % m) else fill % 2 ^ w := rfl

/-- The word of a slide at a position joins the elements that slide there. -/
theorem slideWord_eq_joinElems (w : Nat) (vals : List Nat) (fill : Nat) (d : Int) (i n : Nat) :
    slideWord w vals fill d i n = (joinElems w (fun k => (slideElem w vals fill ((32 / w * i + k : Nat) + d), 0)) n).1 := by
  induction n with
  | zero => rfl
  | succ n ih => rw [slideWord, ih]; rfl

theorem slideElem_lt (w : Nat) (vals : List Nat) (fill : Nat) (j : Int) : slideElem w vals fill j < 2 ^ w := by
  rw [slideElem_eq]
  dsimp only
  split <;> exact Nat.mod_lt _ (by positivity)

theorem slideWord_lt (w : Nat) (vals : List Nat) (fill : Nat) (d : Int) (i n : Nat) :
    slideWord w vals fill d i n < 2 ^ (w * n) := by
  rw [slideWord_eq_joinElems]
  exact joinElems_lt fun k _ => slideElem_lt w vals fill _

theorem elemOf_slideWord (w : Nat) (vals : List Nat) (fill : Nat) (d : Int) (i : Nat) {k n : Nat} (hk : k < n) :
    elemOf w (slideWord w vals fill d i n) k = slideElem w vals fill ((32 / w * i + k : Nat) + d) := by
  rw [slideWord_eq_joinElems, elemOf_joinElems (fun k _ => slideElem_lt w vals fill _) hk]

/-! ## The operations -/

/-- A word of one element gives that element. -/
theorem fst_joinElems_one (w : Nat) (f : Nat → Nat × Nat) : (joinElems w f 1).1 = (f 0).1 := by simp [joinElems]

/-- With no modifier a source is itself. -/
theorem modified_none (f : FloatFmt) (k : Nat) {v : Nat} (hv : v < 2 ^ f.width) : modified f 0 k v = v := by
  have hs : 2 ^ f.width = 2 * f.signBit := by
    rw [FloatFmt.signBit, ← pow_succ', Nat.sub_add_cancel (by unfold FloatFmt.width; omega)]
  have hdiv : v / f.signBit < 2 := (Nat.div_lt_iff_lt_mul (by unfold FloatFmt.signBit; positivity)).2 (by omega)
  have hv' := Nat.div_add_mod v f.signBit
  have hb : ∀ n, bit 0 n = false := fun n => by simp [bit]
  simp only [modified, withSign, hb, Bool.not_false, Bool.and_true, Bool.bne_false, beq_iff_eq, Nat.mod_eq_of_lt hdiv]
  generalize v / f.signBit = q at *
  obtain rfl | rfl : q = 0 ∨ q = 1 := by omega
  · simpa using hv'
  · simpa using hv'

theorem toNat_ite_sle (a b x y : Word) :
    (if a.sle b then x else y).toNat = if sext 32 a.toNat ≤ sext 32 b.toNat then x.toNat else y.toNat := by
  simp only [sext_toNat, BitVec.sle, decide_eq_true_eq]
  split <;> rfl

/-- A word of one F32 element, with no modifier and mode RNE, on whole registers. -/
theorem floatElems_f32 (p : LaneArg) (f : FloatFmt → Nat → Nat → Nat → Nat → Nat × Nat) {a b : Word} (ha : p.a = a.toNat)
    (hb : p.b = b.toNat) (ht : p.w.t = 8) (hx : p.x = 0) :
    (floatElems p f).1 = (f .f32 (srElem p.draw 0) a.toNat b.toNat (modified .f32 0 2 (elemOf 32 p.c 0))).1 := by
  have he : ∀ v : Word, modified .f32 0 0 (elemOf 32 v.toNat 0) = v.toNat ∧ modified .f32 0 1 (elemOf 32 v.toNat 0) = v.toNat :=
    fun v => by
      have hv : v.toNat < 2 ^ FloatFmt.f32.width := v.isLt
      rw [elemOf_zero, Nat.mod_eq_of_lt v.isLt]
      exact ⟨modified_none _ _ hv, modified_none _ _ hv⟩
  simp only [floatElems, ht, hx, ha, hb]
  refine (fst_joinElems_one _ _).trans ?_
  change (f .f32 _ (modified .f32 0 0 (elemOf 32 a.toNat 0)) (modified .f32 0 1 (elemOf 32 b.toNat 0)) _).1 = _
  rw [(he a).1, (he b).2]
  rfl

/-- The operations of a collective are those of the scalar and the lane words (R215). -/
theorem collOp_spec (a b : Word) (p : LaneArg) (ha : p.a = a.toNat) (hb : p.b = b.toNat) (ht : p.w.t = 8) (hx : p.x = 0) :
    collOp 0 a.toNat b.toNat = (a + b).toNat ∧ some (collOp 1 a.toNat b.toNat) = (laneFn 0x040).map (fun f => (f p).1) ∧
    collOp 2 a.toNat b.toNat = (if a.sle b then a else b).toNat ∧
    collOp 3 a.toNat b.toNat = (if a.sle b then b else a).toNat ∧
    some (collOp 4 a.toNat b.toNat) = (laneFn 0x044).map (fun f => (f p).1) ∧
    some (collOp 5 a.toNat b.toNat) = (laneFn 0x045).map (fun f => (f p).1) ∧
    collOp 6 a.toNat b.toNat = (a &&& b).toNat ∧ collOp 7 a.toNat b.toNat = (a ||| b).toNat := by
  refine ⟨(BitVec.toNat_add a b).symm, congrArg some ?_, (toNat_ite_sle a b a b).symm, (toNat_ite_sle a b b a).symm,
    congrArg some ?_, congrArg some ?_, (BitVec.toNat_and a b).symm, (BitVec.toNat_or a b).symm⟩
  · refine ((floatElems_f32 p _ ha hb ht hx).trans ?_).symm
    rw [hx]
    rfl
  · exact (floatElems_f32 p (fun fm _ a b _ => floatMinMax fm false a b) ha hb ht hx).symm
  · exact (floatElems_f32 p (fun fm _ a b _ => floatMinMax fm true a b) ha hb ht hx).symm

theorem collResult_eq {op : Nat} (v : Nat) : collResult op v =
    if op ∈ [1, 4, 5] ∧ (floatVal .f32 v = .nan false ∨ floatVal .f32 v = .nan true) then canonNaN .f32 else v := by
  have hnan : anyNaN [floatVal .f32 v] = true ↔ floatVal .f32 v = .nan false ∨ floatVal .f32 v = .nan true := by
    rcases floatVal .f32 v with (_ | _) | _ | _ <;> simp [anyNaN]
  simp only [collResult, Bool.and_eq_true, Bool.or_eq_true, beq_iff_eq, hnan, List.mem_cons, List.not_mem_nil, or_false, or_assoc]

/-- The elements of a slide, and at 32 bits its words. -/
theorem collResults_slide {code : Nat} (vals : List Nat) (fill : Nat) (d : Int) (hcode : code < 3) :
    let m := 2 ^ code
    let w := 32 / m
    let out := collResults (0x46, code, d) vals fill
    out.length = vals.length ∧ ∀ i k, i < vals.length → k < m →
      out.getD i 0 < 2 ^ 32 ∧
      elemOf w (out.getD i 0) k =
        let j : Int := (m * i + k : Nat) + d
        if 0 ≤ j ∧ j < (m * vals.length : Nat) then elemOf w (vals.getD (j.toNat / m) 0) (j.toNat % m) else fill % 2 ^ w := by
  intro m w out
  have hm : 32 / w = m ∧ w * m = 32 := by
    simp only [w, m]
    interval_cases code <;> decide
  have hout : out = (List.range vals.length).map fun i => slideWord w vals fill d i (32 / w) := rfl
  refine ⟨by simp [hout], fun i k hi hk => ?_⟩
  have hget : out.getD i 0 = slideWord w vals fill d i m := by
    rw [hout, List.getD_eq_getElem _ _ (by simpa using hi), List.getElem_map, List.getElem_range, hm.1]
  have helem := elemOf_slideWord w vals fill d i hk
  rw [slideElem_eq, hm.1] at helem
  exact hget ▸ ⟨hm.2 ▸ slideWord_lt w vals fill d i m, helem⟩

theorem slideWord_whole {vals : List Nat} {fill : Nat} (hvals : ∀ v ∈ vals, v < 2 ^ 32) (hfill : fill < 2 ^ 32) (d : Int)
    (i : Nat) : slideWord 32 vals fill d i 1 =
      if 0 ≤ (i : Int) + d ∧ (i : Int) + d < vals.length then vals.getD ((i : Int) + d).toNat 0 else fill := by
  have hword : slideWord 32 vals fill d i 1 = slideElem 32 vals fill (i + d) := by simp [slideWord]
  rw [hword, slideElem_eq]
  simp only [Nat.div_self (show 0 < 32 by decide), Nat.one_mul, Nat.div_one, Nat.mod_one, elemOf_zero]
  split
  next h =>
    have hlt : (i + d).toNat < vals.length := by omega
    rw [List.getD_eq_getElem _ _ hlt]
    exact Nat.mod_eq_of_lt (hvals _ (List.getElem_mem _))
  next h => exact Nat.mod_eq_of_lt hfill

/-- Settles O24: the tree, the running results, their operations, and the words of each position. -/
theorem collectiveResults : Obligations.CollectiveResults := by
  refine ⟨fun f x xs => ⟨rfl, fun h => ?tree⟩, exPrefix_spec, rfl, collOp_spec, ?canonical, ?slide,
    fun vals fill hvals hne => ⟨?sum, ?prefixSum, fun r => rfl, fun hfill n => ?slide32⟩⟩
  case tree =>
    obtain ⟨hpair, hodd⟩ := getD_pairUp f xs
    exact ⟨pairUp f xs, length_pairUp f xs, hpair, hodd, treeReduce_step h⟩
  case canonical =>
    intro op vals fill _ _ canonical
    have hcanon : collResult op = canonical := funext collResult_eq
    exact ⟨hcanon ▸ rfl, hcanon ▸ rfl⟩
  case slide => exact fun code vals fill d hcode => collResults_slide vals fill d hcode
  case sum =>
    have h := treeReduce_sum hne hvals
    exact List.map_congr_left fun _ _ => h
  case prefixSum => exact (List.map_id _).trans (exPrefix_sum hvals)
  case slide32 =>
    have hout : collResults (0x46, 0, n) vals fill = (List.range vals.length).map fun i => slideWord 32 vals fill n i 1 := by
      simp [collResults]
    rw [hout]
    exact List.map_congr_left fun i _ => slideWord_whole hvals hfill n i

end Sys2Proof.Machine
end

section
/-!
PROOF. Bit patterns of the float formats and the numbers that they stand for (spec/02 R43).
-/
namespace Sys2Proof.Machine

/-! ## Magnitudes -/

/-- The number of least units that a magnitude with F fraction bits stands for. -/
def magUnits (F mag : Nat) : Nat := (if mag / 2 ^ F = 0 then mag % 2 ^ F else 2 ^ F + mag % 2 ^ F) * 2 ^ (mag / 2 ^ F - 1)

/-- The exponent of the least unit of a format. -/
def FloatFmt.unit (f : FloatFmt) : Int := 1 - (f.bias : Int) - f.fracBits

section
variable {F E k : Nat}

/-- A significand in a binade, or below the first one: a carry out of the significand moves to the next binade. -/
theorem magUnits_add (hk : k ≤ 2 ^ (F + 1)) (hE : 2 ^ F ≤ k ∨ E = 0) : magUnits F (E * 2 ^ F + k) = k * 2 ^ E := by
  have hp : 0 < 2 ^ F := by positivity
  rw [pow_succ] at hk
  rcases Nat.lt_or_ge k (2 ^ F) with h | h
  · obtain rfl : E = 0 := hE.resolve_left (by omega)
    simp [magUnits, Nat.div_eq_of_lt h, Nat.mod_eq_of_lt h]
  obtain ⟨r, rfl⟩ : ∃ r, k = 2 ^ F + r := ⟨k - 2 ^ F, by omega⟩
  rcases Nat.lt_or_ge r (2 ^ F) with hr | hr
  · have hsplit : E * 2 ^ F + (2 ^ F + r) = r + (E + 1) * 2 ^ F := by ring
    rw [hsplit, magUnits, Nat.add_mul_div_right _ _ hp, Nat.add_mul_mod_self_right, Nat.div_eq_of_lt hr, Nat.mod_eq_of_lt hr]
    simp
  · obtain rfl : r = 2 ^ F := by omega
    have hsplit : E * 2 ^ F + (2 ^ F + 2 ^ F) = (E + 2) * 2 ^ F := by ring
    rw [hsplit, magUnits, Nat.mul_div_cancel _ hp, Nat.mul_mod_left]
    simp [pow_succ]
    ring

/-- Every magnitude is a significand in a binade, or stands below the first one. -/
theorem exists_binade (F mag : Nat) : ∃ E k, mag = E * 2 ^ F + k ∧ k < 2 ^ (F + 1) ∧ (2 ^ F ≤ k ∨ E = 0) := by
  have hp : 0 < 2 ^ F := by positivity
  have hmod := Nat.mod_lt mag hp
  have hdiv := Nat.div_add_mod mag (2 ^ F)
  rw [pow_succ]
  rcases Nat.eq_zero_or_pos (mag / 2 ^ F) with h | h
  · rw [h] at hdiv
    exact ⟨0, mag, by omega, by omega, .inr rfl⟩
  · obtain ⟨E, hE⟩ : ∃ E, mag / 2 ^ F = E + 1 := ⟨mag / 2 ^ F - 1, by omega⟩
    rw [hE] at hdiv
    exact ⟨E, 2 ^ F + mag % 2 ^ F, by linarith, by omega, .inl (by omega)⟩

theorem magUnits_strictMono (F : Nat) : StrictMono (magUnits F) := by
  refine strictMono_nat_of_lt_succ fun mag => ?_
  obtain ⟨E, k, rfl, hk, hE⟩ := exists_binade F mag
  rw [magUnits_add hk.le hE, Nat.add_assoc, magUnits_add hk (hE.imp_left fun h => h.trans (Nat.le_succ k))]
  exact Nat.mul_lt_mul_of_pos_right (Nat.lt_succ_self k) (by positivity)

theorem magUnits_zero (F : Nat) : magUnits F 0 = 0 := by simp [magUnits]

end

/-! ## Patterns -/

section
variable {f : FloatFmt}

theorem signBit_eq (f : FloatFmt) : f.signBit = 2 ^ f.fracBits * 2 ^ f.expBits := by
  rw [FloatFmt.signBit, ← pow_add]
  congr 1
  unfold FloatFmt.width
  omega

theorem signBit_pos (f : FloatFmt) : 0 < f.signBit := by
  unfold FloatFmt.signBit
  positivity

theorem two_mul_signBit (f : FloatFmt) : 2 * f.signBit = 2 ^ f.width := by
  rw [FloatFmt.signBit, ← pow_succ', Nat.sub_add_cancel (by unfold FloatFmt.width; omega)]

theorem maxFinite_lt_signBit (f : FloatFmt) : f.maxFinite < f.signBit := by cases f <;> decide

/-- The sign of a pattern. -/
def patNeg (f : FloatFmt) (b : Nat) : Bool := bit b (f.width - 1)

/-- A number as the format's patterns give it: a sign, a significand and an exponent. -/
structure FloatFmt.Holds (f : FloatFmt) (mag m : Nat) (e : Int) : Prop where
  value : (m : ℚ) * 2 ^ e = magUnits f.fracBits mag * 2 ^ f.unit
  lt : m < 2 ^ (f.fracBits + 1)
  unit_le : f.unit ≤ e
  normal : m < 2 ^ f.fracBits → e = f.unit

theorem FloatFmt.Holds.real {mag m : Nat} {e : Int} (h : f.Holds mag m e) :
    (m : ℝ) * 2 ^ e = magUnits f.fracBits mag * 2 ^ f.unit := by
  have h := congrArg (Rat.cast : ℚ → ℝ) h.value
  push_cast at h
  exact h

/-- The number of a pattern whose exponent field is not the top one. -/
def patNumber (f : FloatFmt) (b : Nat) : FloatVal :=
  let F := f.fracBits
  let mag := b % f.signBit
  if mag / 2 ^ F = 0 then .fin (patNeg f b) (mag % 2 ^ F) f.unit
  else .fin (patNeg f b) (2 ^ F + mag % 2 ^ F) ((mag / 2 ^ F : Nat) - f.bias - F)

theorem exp_and_frac (f : FloatFmt) (b : Nat) :
    bits b (f.fracBits + f.expBits - 1) f.fracBits = b % f.signBit / 2 ^ f.fracBits ∧
      b % 2 ^ f.fracBits = b % f.signBit % 2 ^ f.fracBits := by
  have hw : f.fracBits + f.expBits - 1 + 1 - f.fracBits = f.expBits := by cases f <;> rfl
  rw [signBit_eq, Nat.mod_mul_right_div_self, Nat.mod_mul_right_mod, bits, hw]
  exact ⟨rfl, rfl⟩

theorem patNumber_holds (f : FloatFmt) (b : Nat) : ∃ m e, patNumber f b = .fin (patNeg f b) m e ∧ f.Holds (b % f.signBit) m e := by
  have hfr : b % f.signBit % 2 ^ f.fracBits < 2 ^ f.fracBits := Nat.mod_lt _ (by positivity)
  have hpow := pow_succ 2 f.fracBits
  unfold patNumber
  dsimp only
  split
  next h =>
    refine ⟨_, _, rfl, ?_, by omega, le_rfl, fun _ => rfl⟩
    simp [magUnits, h]
  next h =>
    obtain ⟨E, hE⟩ : ∃ E, b % f.signBit / 2 ^ f.fracBits = E + 1 := Nat.exists_eq_succ_of_ne_zero h
    have hexp : ((E + 1 : Nat) : Int) - f.bias - f.fracBits = f.unit + E := by unfold FloatFmt.unit; push_cast; ring
    rw [hE, hexp]
    refine ⟨_, _, rfl, ?_, by omega, by omega, fun hlt => by omega⟩
    rw [magUnits, if_neg h, hE, zpow_add₀ (by norm_num)]
    push_cast
    simp
    ring

/-- What the exponent field and the fraction of a pattern say. -/
theorem floatVal_eq (f : FloatFmt) (b : Nat) : floatVal f b =
    let ef := b % f.signBit / 2 ^ f.fracBits
    let fr := b % f.signBit % 2 ^ f.fracBits
    match f with
    | .e2m1 => patNumber f b
    | .e4m3 => if ef = 15 ∧ fr = 7 then .nan false else patNumber f b
    | _ =>
      if ef = 2 ^ f.expBits - 1 then (if fr = 0 then .inf (patNeg f b) else .nan (!(bit fr (f.fracBits - 1))))
      else patNumber f b := by
  obtain ⟨hef, hfr⟩ := exp_and_frac f b
  have hunit : (1 : Int) - f.bias - f.fracBits = f.unit := rfl
  simp only [floatVal, hef, hfr, hunit, patNumber, patNeg, beq_iff_eq, Bool.and_eq_true]
  cases f <;> rfl

theorem floatVal_finite {b : Nat} (h : b % f.signBit ≤ f.maxFinite) :
    ∃ m e, floatVal f b = .fin (patNeg f b) m e ∧ f.Holds (b % f.signBit) m e := by
  have hnum : floatVal f b = patNumber f b := by
    rw [floatVal_eq]
    generalize b % f.signBit = mag at *
    cases f <;> simp only [FloatFmt.maxFinite, FloatFmt.fracBits, FloatFmt.expBits] at h ⊢ <;> exact if_neg (by omega)
  rw [hnum]
  exact patNumber_holds f b

theorem floatVal_inf {b : Nat} (h : f.infBits = some (b % f.signBit)) : floatVal f b = .inf (patNeg f b) := by
  rw [floatVal_eq]
  cases f <;> simp only [FloatFmt.infBits, Option.some.injEq, reduceCtorEq] at h <;> rw [← h] <;> rfl

theorem floatVal_nan {b : Nat} (h : f.maxFinite < b % f.signBit) (h' : f.infBits ≠ some (b % f.signBit)) :
    ∃ s, floatVal f b = .nan s := by
  have hlt : b % f.signBit < f.signBit := Nat.mod_lt _ (signBit_pos f)
  rw [floatVal_eq]
  generalize b % f.signBit = mag at *
  rw [signBit_eq] at hlt
  cases f <;> simp only [FloatFmt.maxFinite, FloatFmt.infBits, FloatFmt.fracBits, FloatFmt.expBits, Ne, Option.some.injEq]
    at h h' hlt ⊢
  case e2m1 => omega
  case e4m3 => exact ⟨_, if_pos (by omega)⟩
  all_goals exact ⟨_, (if_pos (by omega)).trans (if_neg (by omega))⟩

/-! ## A magnitude under a sign -/

theorem withSign_mod {mag : Nat} (n : Bool) (h : mag < f.signBit) : withSign f n mag % f.signBit = mag := by
  cases n
  · exact Nat.mod_eq_of_lt h
  · exact (Nat.add_mod_left _ _).trans (Nat.mod_eq_of_lt h)

theorem patNeg_withSign {mag : Nat} (n : Bool) (h : mag < f.signBit) : patNeg f (withSign f n mag) = n := by
  have hdiv : withSign f n mag / f.signBit = n.toNat := by
    cases n
    · exact Nat.div_eq_of_lt h
    · exact (Nat.add_div_left _ (signBit_pos f)).trans (by rw [Nat.div_eq_of_lt h]; rfl)
  rw [patNeg, bit, ← FloatFmt.signBit, hdiv]
  cases n <;> rfl

theorem withSign_lt {mag : Nat} (n : Bool) (h : mag < f.signBit) : withSign f n mag < 2 ^ f.width := by
  rw [← two_mul_signBit]
  cases n <;> simp only [withSign, if_true, Bool.false_eq_true, if_false] <;> omega

/-- A finite magnitude under a sign is a number of that sign. -/
theorem floatVal_withSign {mag : Nat} (n : Bool) (h : mag ≤ f.maxFinite) :
    ∃ m e, floatVal f (withSign f n mag) = .fin n m e ∧ f.Holds mag m e := by
  have hlt := h.trans_lt (maxFinite_lt_signBit f)
  obtain ⟨m, e, hval, hm⟩ := floatVal_finite (f := f) (b := withSign f n mag) (by rwa [withSign_mod n hlt])
  rw [patNeg_withSign n hlt] at hval
  rw [withSign_mod n hlt] at hm
  exact ⟨m, e, hval, hm⟩

/-- The largest finite value. -/
def FloatFmt.most (f : FloatFmt) : ℚ := magUnits f.fracBits f.maxFinite * 2 ^ f.unit

theorem rat_maxFinite (f : FloatFmt) : (floatVal f f.maxFinite).rat = f.most := by
  obtain ⟨m, e, hval, hm⟩ := floatVal_withSign (f := f) false le_rfl
  rw [show f.maxFinite = withSign f false f.maxFinite from rfl, hval, FloatVal.rat, FloatFmt.most, ← hm.value]
  simp

end
end Sys2Proof.Machine
end

section
/-!
PROOF. Rounding (spec/02 R47, R49, R50, R53): what `roundAt` and `roundExact` give for the number that an exact value stands for.
-/
namespace Sys2Proof.Machine

/-- The exact value encloses a magnitude: it is the magnitude, or with `sticky` the magnitude lies within its last unit. -/
structure ExactVal.Encloses (v : ExactVal) (y : ℝ) : Prop where
  le : v.m * (2 : ℝ) ^ v.e ≤ y
  lt : y < (v.m + 1) * (2 : ℝ) ^ v.e
  exact_iff : v.sticky = false ↔ y = v.m * (2 : ℝ) ^ v.e

/-- The exact value stands for a number: it has its sign and encloses its magnitude. -/
structure ExactVal.Stands (v : ExactVal) (x : ℝ) : Prop extends v.Encloses |x| where
  neg : v.neg = true ↔ x < 0

/-- Whether a mode takes the multiple above a magnitude, from what stands below the multiple under it. -/
def GoesUp (mode g : Nat) (neg odd : Prop) (frac : ℝ) : Prop :=
  match mode with
  | 0 => 1 / 2 < frac ∨ (frac = 1 / 2 ∧ odd)
  | 1 => False
  | 2 => neg ∧ 0 < frac
  | 3 => ¬neg ∧ 0 < frac
  | 4 => 1 / 2 ≤ frac
  | _ => 2 ^ 16 ≤ ⌊2 ^ 16 * frac⌋₊ + g

theorem roundsMag_iff (mode g : Nat) (neg : Prop) (m : ℝ) (q : ℤ) (k : ℕ) : RoundsMag mode g neg m q k ↔
    let t := m / (2 : ℝ) ^ q
    let up := GoesUp mode g neg (⌊t⌋₊ % 2 = 1) (t - ⌊t⌋₊)
    (up ∧ k = ⌊t⌋₊ + 1) ∨ (¬up ∧ k = ⌊t⌋₊) := Iff.rfl

theorem not_goesUp_zero {g : Nat} (mode : Nat) (neg odd : Prop) (hg : g < 65536) : ¬GoesUp mode g neg odd 0 := by
  unfold GoesUp
  split <;> norm_num
  omega

/-- The multiple below a magnitude or the one above it, as the mode chooses. -/
theorem roundsMag_of_frac {mode g : Nat} {neg : Prop} {m frac : ℝ} {q : ℤ} {k : ℕ} {up : Bool} (h : m / (2 : ℝ) ^ q = k + frac)
    (h0 : 0 ≤ frac) (h1 : frac < 1) (hup : up = true ↔ GoesUp mode g neg (k % 2 = 1) frac) :
    RoundsMag mode g neg m q (if up then k + 1 else k) := by
  have hfloor : ⌊m / (2 : ℝ) ^ q⌋₊ = k := by
    rw [h, Nat.floor_eq_iff (by positivity)]
    exact ⟨by linarith, by linarith⟩
  rw [roundsMag_iff]
  dsimp only
  rw [hfloor, h, add_sub_cancel_left, ← hup]
  cases up
  · exact .inr ⟨by simp, rfl⟩
  · exact .inl ⟨rfl, rfl⟩

/-- A multiple is taken as it is. -/
theorem roundsMag_self {mode g : Nat} {neg : Prop} {m : ℝ} {q : ℤ} {k : ℕ} (hg : g < 65536) (h : m = k * (2 : ℝ) ^ q) :
    RoundsMag mode g neg m q k := by
  have ht : m / (2 : ℝ) ^ q = k := by rw [h, mul_div_assoc, div_self (by positivity), mul_one]
  rw [roundsMag_iff]
  dsimp only
  rw [ht, Nat.floor_natCast, sub_self]
  exact .inr ⟨not_goesUp_zero _ _ _ hg, rfl⟩

section
variable {mode g n rem : Nat} {neg odd sticky : Bool} {θ : ℝ}

/-- The random bits compare with the 16 bits below the multiple. -/
theorem floor_sixteen_bits (h0 : 0 ≤ θ) (h1 : θ < 1) (hn : θ ≠ 0 → 16 ≤ n) :
    ⌊2 ^ 16 * ((rem + θ) / 2 ^ n)⌋₊ = rem * 65536 / 2 ^ n := by
  by_cases hθ : θ = 0
  · have h := Nat.floor_div_eq_div (K := ℝ) (rem * 65536) (2 ^ n)
    push_cast at h
    rw [← h, hθ]
    congr 1
    norm_num
    ring
  · obtain ⟨d, rfl⟩ : ∃ d, n = d + 16 := ⟨n - 16, by have := hn hθ; omega⟩
    have hreal : 2 ^ 16 * ((rem + θ) / 2 ^ (d + 16)) = (rem + θ) / (2 ^ d : ℕ) := by
      push_cast
      rw [pow_add]
      field_simp
    have hfloor : ⌊rem + θ⌋₊ = rem := by
      rw [Nat.floor_eq_iff (by positivity)]
      exact ⟨by linarith, by linarith⟩
    rw [hreal, Nat.floor_div_natCast, hfloor, pow_add]
    exact (Nat.mul_div_mul_right _ _ (by norm_num)).symm

theorem natCast_le_add_frac (h0 : 0 ≤ θ) (h1 : θ < 1) (a b : ℕ) : (a : ℝ) ≤ b + θ ↔ a ≤ b := by
  refine ⟨fun h => ?_, fun h => ?_⟩
  · have : (a : ℝ) < (b + 1 : ℕ) := by push_cast; linarith
    exact Nat.le_of_lt_succ (by exact_mod_cast this)
  · have : (a : ℝ) ≤ b := by exact_mod_cast h
    linarith

theorem add_frac_eq_natCast (h0 : 0 ≤ θ) (h1 : θ < 1) (a b : ℕ) : (b : ℝ) + θ = a ↔ b = a ∧ θ = 0 := by
  refine ⟨fun h => ?_, fun ⟨h, hθ⟩ => by rw [h, hθ, add_zero]⟩
  have hle : a ≤ b := (natCast_le_add_frac h0 h1 a b).1 h.ge
  have hge : b ≤ a := by
    have : (b : ℝ) ≤ a := by linarith
    exact_mod_cast this
  obtain rfl := le_antisymm hle hge
  exact ⟨rfl, by linarith⟩

theorem natCast_lt_add_frac (h0 : 0 ≤ θ) (h1 : θ < 1) (a b : ℕ) : (a : ℝ) < b + θ ↔ a < b ∨ (b = a ∧ θ ≠ 0) := by
  rw [lt_iff_le_and_ne, natCast_le_add_frac h0 h1, Ne, eq_comm, add_frac_eq_natCast h0 h1]
  rcases Nat.lt_trichotomy a b with h | h | h
  · simp [h.le, h, h.ne']
  · simp [h]
  · simp [h.not_ge, h.not_gt, h.ne]

/-- The model's choice of the multiple above, from the remainder and the sticky bit. -/
theorem roundsUp_iff (h0 : 0 ≤ θ) (h1 : θ < 1) (hs : sticky = true ↔ θ ≠ 0) (hpos : 0 < n) (hn : θ ≠ 0 → 16 ≤ n) :
    roundsUp mode g neg odd rem n sticky = true ↔ GoesUp mode g (neg = true) (odd = true) ((rem + θ) / 2 ^ n) := by
  obtain ⟨d, rfl⟩ : ∃ d, n = d + 1 := ⟨n - 1, by omega⟩
  have hpow : (2 : ℝ) ^ (d + 1) = 2 * ((2 ^ d : ℕ) : ℝ) := by push_cast; ring
  have hd : (0 : ℝ) < ((2 ^ d : ℕ) : ℝ) := by positivity
  have hpowN : 2 ^ (d + 1) = 2 * 2 ^ d := pow_succ' 2 d
  -- the half of the multiple, against the remainder
  have hgt : 1 / 2 < ((rem : ℝ) + θ) / 2 ^ (d + 1) ↔ 2 ^ d < rem ∨ (rem = 2 ^ d ∧ θ ≠ 0) := by
    rw [← natCast_lt_add_frac h0 h1, hpow, div_lt_div_iff₀ two_pos (by positivity)]
    constructor <;> intro h <;> linarith
  have heq : ((rem : ℝ) + θ) / 2 ^ (d + 1) = 1 / 2 ↔ rem = 2 ^ d ∧ θ = 0 := by
    rw [← add_frac_eq_natCast h0 h1, hpow, div_eq_div_iff (by positivity) two_ne_zero]
    constructor <;> intro h <;> linarith
  have hge : 1 / 2 ≤ ((rem : ℝ) + θ) / 2 ^ (d + 1) ↔ 2 ^ d ≤ rem := by
    rw [← natCast_le_add_frac h0 h1, hpow, div_le_div_iff₀ two_pos (by positivity)]
    constructor <;> intro h <;> linarith
  have hinexact : 0 < ((rem : ℝ) + θ) / 2 ^ (d + 1) ↔ rem ≠ 0 ∨ sticky = true := by
    have h := natCast_lt_add_frac h0 h1 0 rem
    rw [div_pos_iff_of_pos_right (by positivity), hs]
    simp only [Nat.cast_zero] at h
    rw [h]
    by_cases hr : rem = 0 <;> simp [hr, Nat.pos_iff_ne_zero]
  have hsticky : θ = 0 ↔ ¬sticky = true := by rw [hs, not_not]
  have hbits := floor_sixteen_bits (rem := rem) h0 h1 hn
  generalize ((rem : ℝ) + θ) / 2 ^ (d + 1) = frac at *
  match mode with
  | 0 =>
    simp only [roundsUp, GoesUp, hgt, heq, ← hs, hsticky, hpowN, Bool.or_eq_true, Bool.and_eq_true, decide_eq_true_eq,
      beq_iff_eq]
    have h2 : 2 * rem > 2 * 2 ^ d ↔ 2 ^ d < rem := by omega
    have h3 : 2 * rem = 2 * 2 ^ d ↔ rem = 2 ^ d := by omega
    rw [h2, h3]
    cases sticky <;> simp
  | 1 => simp [roundsUp, GoesUp]
  | 2 => simp [roundsUp, GoesUp, hinexact, and_comm]
  | 3 => simp [roundsUp, GoesUp, hinexact, and_comm]
  | 4 =>
    have hp : 0 < 2 ^ d := by positivity
    simp only [roundsUp, GoesUp, hge, hpowN, Bool.or_eq_true, Bool.and_eq_true, decide_eq_true_eq, bne_iff_ne]
    omega
  | m + 5 =>
    simp only [roundsUp, GoesUp, hbits, decide_eq_true_eq]
    norm_num

end

section
variable {mode g : Nat} {v : ExactVal} {y : ℝ} {q : Int}

/-- What a value encloses: a whole number of units and less than one more. -/
theorem ExactVal.Encloses.units (h : v.Encloses y) : ∃ θ : ℝ, 0 ≤ θ ∧ θ < 1 ∧ (v.sticky = true ↔ θ ≠ 0) ∧
    y = (v.m + θ) * (2 : ℝ) ^ v.e := by
  have hp : (0 : ℝ) < 2 ^ v.e := by positivity
  refine ⟨y / 2 ^ v.e - v.m, ?_, ?_, ?_, ?_⟩
  · rw [sub_nonneg, le_div_iff₀ hp]
    exact h.le
  · rw [sub_lt_iff_lt_add', div_lt_iff₀ hp, add_comm]
    linarith [h.lt]
  · rw [sub_ne_zero, Ne, div_eq_iff hp.ne', ← h.exact_iff, Bool.not_eq_false]
  · field_simp
    ring

/-- A magnitude over the unit of the result: the multiple below it, the remainder and what lies below the value's unit. -/
theorem div_unit_eq {θ : ℝ} {n : Nat} (hx : y = (v.m + θ) * (2 : ℝ) ^ v.e) :
    y / (2 : ℝ) ^ (v.e + n) = ((v.m / 2 ^ n : ℕ) : ℝ) + ((v.m % 2 ^ n : ℕ) + θ) / 2 ^ n := by
  have hm : (v.m : ℝ) = 2 ^ n * (v.m / 2 ^ n : ℕ) + (v.m % 2 ^ n : ℕ) := by exact_mod_cast (Nat.div_add_mod v.m (2 ^ n)).symm
  rw [hx, zpow_add₀ two_ne_zero, zpow_natCast]
  conv_lhs => rw [hm]
  field_simp
  ring

/-- The model rounds as R49 and R53 say, and tells whether the result differs. -/
theorem roundAt_spec (h : v.Encloses y) (hq : v.sticky = true → v.e + 16 ≤ q) (hg : g < 65536) :
    RoundsMag mode g (v.neg = true) y q (roundAt mode g v q).1 ∧
      ((roundAt mode g v q).2 = true ↔ ((roundAt mode g v q).1 : ℝ) * 2 ^ q ≠ y) := by
  unfold roundAt
  dsimp only
  split
  next hle =>
    have hs : v.sticky = false := by
      by_contra hs
      have := hq (by simpa using hs)
      omega
    have hx : y = (v.m * 2 ^ (-(q - v.e)).toNat : ℕ) * (2 : ℝ) ^ q := by
      rw [h.exact_iff.1 hs]
      have he : v.e = ((-(q - v.e)).toNat : ℤ) + q := by omega
      conv_lhs => rw [he]
      rw [zpow_add₀ two_ne_zero, zpow_natCast]
      push_cast
      ring
    exact ⟨roundsMag_self hg hx, by simp [hs, hx]⟩
  next hlt =>
    obtain ⟨n, hn⟩ : ∃ n : ℕ, q = v.e + n := ⟨(q - v.e).toNat, by omega⟩
    have htn : (q - v.e).toNat = n := by omega
    have hpos : 0 < n := by omega
    obtain ⟨θ, h0, h1, hs, hx⟩ := h.units
    have hmod : v.m % 2 ^ n + 1 ≤ 2 ^ n := Nat.mod_lt _ (by positivity)
    have ht := div_unit_eq (n := n) hx
    have hfrac0 : 0 ≤ ((v.m % 2 ^ n : ℕ) + θ) / 2 ^ n := by positivity
    have hfrac1 : ((v.m % 2 ^ n : ℕ) + θ) / 2 ^ n < 1 := by
      have : ((v.m % 2 ^ n : ℕ) : ℝ) + 1 ≤ 2 ^ n := by exact_mod_cast hmod
      rw [div_lt_one (by positivity)]
      linarith
    have hup : roundsUp mode g v.neg (v.m / 2 ^ n % 2 == 1) (v.m % 2 ^ n) n v.sticky = true ↔
        GoesUp mode g (v.neg = true) (v.m / 2 ^ n % 2 = 1) (((v.m % 2 ^ n : ℕ) + θ) / 2 ^ n) := by
      have hup := roundsUp_iff (mode := mode) (g := g) (neg := v.neg) (odd := v.m / 2 ^ n % 2 == 1) (rem := v.m % 2 ^ n) h0 h1 hs
        hpos fun hθ => by have := hq (hs.2 hθ); omega
      simpa only [beq_iff_eq] using hup
    have hrem : (v.m % 2 ^ n != 0 || v.sticky) = true ↔ ((v.m % 2 ^ n : ℕ) + θ) / 2 ^ n ≠ 0 := by
      have hz := add_frac_eq_natCast h0 h1 0 (v.m % 2 ^ n)
      rw [Nat.cast_zero] at hz
      rw [Bool.or_eq_true, bne_iff_ne, hs, div_ne_zero_iff, Ne.eq_def (_ + _) (0 : ℝ), hz, not_and_or]
      simp
    rw [← hn] at ht
    generalize ((v.m % 2 ^ n : ℕ) + θ) / 2 ^ n = frac at *
    rw [htn]
    refine ⟨roundsMag_of_frac ht hfrac0 hfrac1 hup, hrem.trans ?_⟩
    have hx' : y = (v.m / 2 ^ n : ℕ) * (2 : ℝ) ^ q + frac * 2 ^ q := by
      rw [← add_mul, ← ht, div_mul_cancel₀ _ (by positivity)]
    have hq0 : (0 : ℝ) < 2 ^ q := by positivity
    split
    next hgo =>
      have hne : frac ≠ 0 := fun h0 => not_goesUp_zero _ _ _ hg (h0 ▸ hup.1 hgo)
      refine iff_of_true hne ?_
      rw [hx']
      push_cast
      nlinarith
    next =>
      rw [hx']
      simp [hq0.ne']

end

end Sys2Proof.Machine
end

section
/-!
PROOF. Rounding, continued (spec/02 R47, R49, R50, R53): the number of `roundExact` is the number of R47, with its flags.
-/
namespace Sys2Proof.Machine

section
variable {f : FloatFmt} {mode g : Nat} {sat : Bool} {v : ExactVal} {x : ℝ} {q : Int}

/-- The multiple that a mode takes lies between those that bound the magnitude. -/
theorem roundsMag_bounds {neg : Prop} {m : ℝ} {k a b : ℕ} (h : RoundsMag mode g neg m q k) (ha : a * (2 : ℝ) ^ q ≤ m)
    (hb : m < b * (2 : ℝ) ^ q) : a ≤ k ∧ k ≤ b := by
  have hq : (0 : ℝ) < 2 ^ q := by positivity
  have h1 : a ≤ ⌊m / (2 : ℝ) ^ q⌋₊ := Nat.le_floor ((le_div_iff₀ hq).2 ha)
  have h2 : ⌊m / (2 : ℝ) ^ q⌋₊ < b := (Nat.floor_lt' (by
    rintro rfl
    have : (0 : ℝ) ≤ a * 2 ^ q := by positivity
    simp only [Nat.cast_zero, zero_mul] at hb
    linarith)).2 ((div_lt_iff₀ hq).2 hb)
  rw [roundsMag_iff] at h
  omega

/-- The number of an exact value. -/
def ExactVal.rat (v : ExactVal) : ℚ := (FloatVal.fin v.neg v.m v.e).rat

theorem ExactVal.rat_cast (v : ExactVal) : (v.rat : ℝ) = (if v.neg then -1 else 1) * v.m * 2 ^ v.e := by
  rw [rat, FloatVal.rat]
  split <;> push_cast <;> rfl

theorem ExactVal.abs_rat (v : ExactVal) : |(v.rat : ℝ)| = v.m * 2 ^ v.e := by
  have h : |(if v.neg then (-1 : ℝ) else 1)| = 1 := by split <;> simp
  rw [rat_cast, abs_mul, abs_mul, h, one_mul, Nat.abs_cast, abs_of_pos (by positivity)]

theorem ExactVal.stands_rat (hs : v.sticky = false) (hm : v.m ≠ 0) : v.Stands v.rat := by
  have hp : (0 : ℝ) < v.m * 2 ^ v.e := by have := Nat.pos_of_ne_zero hm; positivity
  have hlt : (v.m : ℝ) * 2 ^ v.e < (v.m + 1) * 2 ^ v.e := mul_lt_mul_of_pos_right (lt_add_one _) (by positivity)
  refine ⟨⟨v.abs_rat.ge, v.abs_rat ▸ hlt, iff_of_true hs v.abs_rat⟩, ?_⟩
  rw [rat_cast]
  cases v.neg <;> simp only [if_true, Bool.false_eq_true, if_false, false_iff, true_iff] <;> linarith

/-- The exponent of a result that keeps all its bits. -/
def freeExp (f : FloatFmt) (v : ExactVal) : Int := v.e + Nat.log2 v.m - f.fracBits

theorem ExactVal.Stands.binade (h : v.Stands x) (hm : v.m ≠ 0) (f : FloatFmt) :
    (2 : ℝ) ^ (freeExp f v + f.fracBits) ≤ |x| ∧ |x| < (2 : ℝ) ^ (freeExp f v + f.fracBits + 1) := by
  have hp : (0 : ℝ) < 2 ^ v.e := by positivity
  have he : freeExp f v + f.fracBits = (Nat.log2 v.m : ℤ) + v.e := by unfold freeExp; ring
  have he' : (Nat.log2 v.m : ℤ) + v.e + 1 = ((Nat.log2 v.m + 1 : ℕ) : ℤ) + v.e := by push_cast; ring
  have hlo : (2 : ℝ) ^ Nat.log2 v.m ≤ v.m := by exact_mod_cast Nat.log2_self_le hm
  have hhi : (v.m : ℝ) + 1 ≤ 2 ^ (Nat.log2 v.m + 1) := by exact_mod_cast Nat.lt_log2_self (n := v.m)
  rw [he, he', zpow_add₀ two_ne_zero, zpow_add₀ two_ne_zero, zpow_natCast, zpow_natCast]
  exact ⟨(mul_le_mul_of_nonneg_right hlo hp.le).trans h.le, h.lt.trans_le (mul_le_mul_of_nonneg_right hhi hp.le)⟩

theorem twoPow_le_maxFinite (f : FloatFmt) : 2 ^ f.fracBits ≤ f.maxFinite := by cases f <;> decide

/-- A multiple that fits its binade is the value of the magnitude that the model forms. -/
theorem units_of_multiple {k : Nat} (hq : f.unit ≤ q) (hk : k ≤ 2 ^ (f.fracBits + 1)) (hE : 2 ^ f.fracBits ≤ k ∨ q = f.unit) :
    let mag := ((q + f.fracBits + f.bias - 1) * (2 : Int) ^ f.fracBits + k).toNat
    (magUnits f.fracBits mag : ℝ) * 2 ^ f.unit = k * 2 ^ q := by
  obtain ⟨E, hE'⟩ : ∃ E : ℕ, q = f.unit + E := ⟨(q - f.unit).toNat, by omega⟩
  have hmag : ((q + f.fracBits + f.bias - 1) * (2 : Int) ^ f.fracBits + k).toNat = E * 2 ^ f.fracBits + k := by
    rw [show q + f.fracBits + f.bias - 1 = E by rw [hE']; unfold FloatFmt.unit; ring]
    exact_mod_cast Int.toNat_natCast _
  dsimp only
  rw [hmag, magUnits_add hk (hE.imp_right fun h => by omega), hE', zpow_add₀ two_ne_zero, zpow_natCast]
  push_cast
  ring

theorem most_lt_iff (f : FloatFmt) (mag : Nat) : (f.most : ℝ) < magUnits f.fracBits mag * 2 ^ f.unit ↔ f.maxFinite < mag := by
  have hp : (0 : ℝ) < 2 ^ f.unit := by positivity
  rw [FloatFmt.most]
  push_cast
  rw [mul_lt_mul_iff_left₀ hp, Nat.cast_lt, (magUnits_strictMono _).lt_iff_lt]

theorem roundExact_eq (hm : v.m ≠ 0) : roundExact f mode sat g v =
    let q := max (freeExp f v) f.unit
    let r := roundAt mode g v q
    let mag := ((q + f.fracBits + f.bias - 1) * (2 : Int) ^ f.fracBits + r.1).toNat
    let wide := (roundAt mode g v (freeExp f v)).1
    let tiny := decide (freeExp f v < f.unit) && decide (wide < 2 ^ (1 - (f.bias : Int) - freeExp f v).toNat)
    if mag > f.maxFinite then (overflowBits f mode sat v.neg, flagOF + flagNX)
    else (withSign f v.neg mag, (if r.2 then flagNX else 0) + (if tiny && r.2 then flagUF else 0)) := by
  have hfree : v.e + ((Nat.log2 v.m : Int) + 1) - (f.fracBits + 1) = freeExp f v := by unfold freeExp; ring
  rw [roundExact, if_neg (by simp [hm])]
  simp only [hfree]
  rfl

/-- A result below the smallest normal number, before and after the multiple is scaled (R50). -/
theorem tiny_iff {free : Int} {wide : Nat} (hle : 2 ^ f.fracBits ≤ wide) :
    (decide (free < f.unit) && decide (wide < 2 ^ (1 - (f.bias : Int) - free).toNat)) = true ↔
      (wide : ℝ) * 2 ^ free < 2 ^ (1 - (f.bias : ℤ)) := by
  have hp : (0 : ℝ) < 2 ^ free := by positivity
  have hunit : f.unit = 1 - (f.bias : Int) - f.fracBits := rfl
  rw [Bool.and_eq_true, decide_eq_true_eq, decide_eq_true_eq]
  have hwide : (2 : ℝ) ^ f.fracBits ≤ wide := by exact_mod_cast hle
  rcases lt_or_ge free f.unit with hlt | hge
  · have he : 1 - (f.bias : Int) = ((1 - (f.bias : Int) - free).toNat : ℤ) + free := by omega
    conv_rhs => rw [he, zpow_add₀ two_ne_zero, zpow_natCast, mul_lt_mul_iff_left₀ hp]
    simp only [hlt, true_and]
    exact_mod_cast Iff.rfl
  · refine iff_of_false (fun h => absurd h.1 (not_lt.2 hge)) (not_lt.2 ?_)
    calc (2 : ℝ) ^ (1 - (f.bias : ℤ)) ≤ 2 ^ ((f.fracBits : ℤ) + free) := zpow_le_zpow_right₀ one_le_two (by omega)
      _ = 2 ^ f.fracBits * 2 ^ free := by rw [zpow_add₀ two_ne_zero, zpow_natCast]
      _ ≤ wide * 2 ^ free := mul_le_mul_of_nonneg_right hwide hp.le

theorem overflowBits_bounded {neg : Bool} (h : sat = true ∨ f = .e2m1 ∨ (f ≠ .e4m3 ∧ towardZero mode neg = true)) :
    overflowBits f mode sat neg = withSign f neg f.maxFinite := by
  cases f <;> simp_all [overflowBits]

theorem overflowBits_unbounded {neg : Bool} (h : ¬(sat = true ∨ f = .e2m1 ∨ (f ≠ .e4m3 ∧ towardZero mode neg = true))) :
    overflowBits f mode sat neg = if f = .e4m3 then canonNaN f else infOf f neg := by
  cases f <;> simp_all [overflowBits, infOf]

theorem roundsMag_unique {neg : Prop} {m : ℝ} {k k' : ℕ} (h : RoundsMag mode g neg m q k) (h' : RoundsMag mode g neg m q k') :
    k = k' := by
  rw [roundsMag_iff] at h h'
  dsimp only at h h'
  rcases h with ⟨hu, rfl⟩ | ⟨hu, rfl⟩ <;> rcases h' with ⟨hu', h'⟩ | ⟨hu', h'⟩
  · exact h'.symm
  · exact absurd hu hu'
  · exact absurd hu' hu
  · exact h'.symm

theorem natPow_mul_zpow (n : ℕ) (q : ℤ) : ((2 ^ n : ℕ) : ℝ) * 2 ^ q = 2 ^ (q + n) := by
  rw [zpow_add₀ two_ne_zero, zpow_natCast, mul_comm]
  norm_num

/-- A multiple of the full-precision unit within its binade. -/
theorem natCast_mul_zpow_le {k n : ℕ} (q : ℤ) (h : k ≤ 2 ^ n) : (k : ℝ) * 2 ^ q ≤ 2 ^ (q + n) := by
  rw [← natPow_mul_zpow]
  exact mul_le_mul_of_nonneg_right (by exact_mod_cast h) (by positivity)

theorem most_ge (f : FloatFmt) : ((2 ^ f.fracBits : ℕ) : ℝ) * 2 ^ f.unit ≤ f.most := by
  have h := mt (most_lt_iff f (2 ^ f.fracBits)).1 (not_lt.2 (twoPow_le_maxFinite f))
  have hunits : magUnits f.fracBits (2 ^ f.fracBits) = 2 ^ f.fracBits := by
    simpa using magUnits_add (F := f.fracBits) (E := 0) (Nat.pow_le_pow_right two_pos (Nat.le_succ _)) (.inl le_rfl)
  rw [hunits] at h
  exact not_lt.1 h

/-- The multiples that a result takes at full precision, and at the least unit when that is larger: they fit their binades, and
one is too large exactly when the other is. -/
theorem multiples_spec {neg : Prop} {m : ℝ} {free : Int} {wide k : ℕ} (hlo : (2 : ℝ) ^ (free + f.fracBits) ≤ m)
    (hhi : m < 2 ^ (free + f.fracBits + 1)) (hwide : RoundsMag mode g neg m free wide)
    (hk : RoundsMag mode g neg m (max free f.unit) k) :
    2 ^ f.fracBits ≤ wide ∧ wide ≤ 2 ^ (f.fracBits + 1) ∧ k ≤ 2 ^ (f.fracBits + 1) ∧ (2 ^ f.fracBits ≤ k ∨ max free f.unit = f.unit) ∧
      ((f.most : ℝ) < wide * 2 ^ free ↔ (f.most : ℝ) < k * 2 ^ max free f.unit) := by
  have hlo' : ((2 ^ f.fracBits : ℕ) : ℝ) * 2 ^ free ≤ m := by rwa [natPow_mul_zpow]
  have hhi' : m < ((2 ^ (f.fracBits + 1) : ℕ) : ℝ) * 2 ^ free := by rwa [natPow_mul_zpow, Nat.cast_add_one, ← add_assoc]
  obtain ⟨hw1, hw2⟩ := roundsMag_bounds hwide hlo' hhi'
  rcases le_or_gt f.unit free with hle | hlt
  · rw [max_eq_left hle] at hk ⊢
    obtain rfl := roundsMag_unique hwide hk
    exact ⟨hw1, hw2, hw2, .inl hw1, Iff.rfl⟩
  · rw [max_eq_right hlt.le] at hk ⊢
    have hsmall : (2 : ℝ) ^ (free + f.fracBits + 1) ≤ ((2 ^ f.fracBits : ℕ) : ℝ) * 2 ^ f.unit := by
      rw [natPow_mul_zpow]
      exact zpow_le_zpow_right₀ one_le_two (by omega)
    have hk2 := (roundsMag_bounds (a := 0) hk (by simpa using (by positivity : (0 : ℝ) ≤ _).trans hlo) (hhi.trans_le hsmall)).2
    have hmost := most_ge f
    refine ⟨hw1, hw2, hk2.trans (Nat.pow_le_pow_right two_pos (Nat.le_succ _)), .inr rfl, iff_of_false (not_lt.2 ?_) (not_lt.2 ?_)⟩
    · have hw : (wide : ℝ) * 2 ^ free ≤ ((2 ^ (f.fracBits + 1) : ℕ) : ℝ) * 2 ^ free :=
        mul_le_mul_of_nonneg_right (by exact_mod_cast hw2) (by positivity)
      rw [natPow_mul_zpow, Nat.cast_add_one, ← add_assoc] at hw
      exact hw.trans (hsmall.trans hmost)
    · exact (mul_le_mul_of_nonneg_right (by exact_mod_cast hk2) (by positivity)).trans hmost

/-- A value of enough bits reaches below the random bits of every format's result. -/
theorem free_le (hm : v.m ≠ 0) (hs : v.sticky = true → 2 ^ 68 ≤ v.m) : v.sticky = true → v.e + 16 ≤ freeExp f v := fun hst => by
  have hF : f.fracBits ≤ 52 := by cases f <;> decide
  have : 68 ≤ Nat.log2 v.m := (Nat.le_log2 hm).2 (hs hst)
  unfold freeExp
  omega

/-- Rounding gives what R47, R49, R50 and R53 say of the number that the value stands for. -/
theorem roundExact_rounds (h : v.Stands x) (hm : v.m ≠ 0) (hs : v.sticky = true → 2 ^ 68 ≤ v.m) (hg : g < 65536) :
    Rounds f mode sat g x (roundExact f mode sat g v) := by
  obtain ⟨hlo, hhi⟩ := h.binade hm f
  have hfree := free_le (f := f) hm hs
  obtain ⟨hwide, -⟩ := roundAt_spec (mode := mode) h.toEncloses hfree hg
  obtain ⟨hk, hinexact⟩ := roundAt_spec (mode := mode) h.toEncloses (fun hst => (hfree hst).trans (le_max_left _ f.unit)) hg
  rw [show (v.neg = true) = (x < 0) from propext h.neg] at hwide hk
  rw [roundExact_eq hm]
  dsimp only
  generalize freeExp f v = free at *
  generalize roundAt mode g v (max free f.unit) = r at *
  generalize (roundAt mode g v free).1 = wide at *
  obtain ⟨hw, -, hk1, hk2, hover⟩ := multiples_spec hlo hhi hwide hk
  have hunits := units_of_multiple (le_max_right free f.unit) hk1 hk2
  dsimp only at hunits
  generalize ((max free f.unit + f.fracBits + f.bias - 1) * (2 : Int) ^ f.fracBits + r.1).toNat = mag at *
  rw [← hunits, most_lt_iff] at hover
  have htiny := tiny_iff (f := f) (free := free) hw
  generalize (decide (free < f.unit) && decide (wide < 2 ^ (1 - (f.bias : Int) - free).toNat)) = tiny at *
  have hx0 : x ≠ 0 := abs_pos.1 ((by positivity : (0 : ℝ) < _).trans_le hlo)
  have htoward : (mode = 1 ∨ (mode = 2 ∧ 0 < x) ∨ (mode = 3 ∧ x < 0)) ↔ towardZero mode v.neg = true := by
    have hpos : v.neg = false ↔ 0 < x := by
      rw [← Bool.not_eq_true, h.neg, not_lt]
      exact ⟨fun hle => lt_of_le_of_ne hle hx0.symm, le_of_lt⟩
    simp [towardZero, ← h.neg, ← hpos, or_assoc]
  refine ⟨free, wide, r.1, v.neg, r.2, tiny, hlo, hhi, hwide, hk, h.neg, hinexact, htiny, ?_, ?_⟩
  · rw [rat_maxFinite, hover]
    intro hlt
    rw [if_pos hlt]
    simp only [htoward]
    exact ⟨trivial, overflowBits_bounded, overflowBits_unbounded⟩
  · rw [rat_maxFinite, ← not_lt, hover, not_lt]
    intro hle
    rw [if_neg (not_lt.2 hle)]
    obtain ⟨m, e, hval, hm⟩ := floatVal_withSign (f := f) v.neg hle
    refine ⟨⟨v.neg, m, e, hval, h.neg, ?_⟩, by rw [Bool.and_comm]⟩
    exact hm.real.trans hunits

/-! ## Results as patterns -/

theorem canonNaN_lt (f : FloatFmt) : canonNaN f < f.signBit := by cases f <;> decide

theorem infBits_lt (f : FloatFmt) : f.infBits.getD 0 < f.signBit := by cases f <;> decide

theorem lt_of_lt_signBit {b : Nat} (h : b < f.signBit) : b < 2 ^ f.width := withSign_lt false h

theorem overflowBits_lt (f : FloatFmt) (mode : Nat) (sat neg : Bool) : overflowBits f mode sat neg < 2 ^ f.width := by
  by_cases h : sat = true ∨ f = .e2m1 ∨ (f ≠ .e4m3 ∧ towardZero mode neg = true)
  · rw [overflowBits_bounded h]
    exact withSign_lt _ (maxFinite_lt_signBit f)
  · rw [overflowBits_unbounded h]
    split
    · exact lt_of_lt_signBit (canonNaN_lt f)
    · exact withSign_lt _ (infBits_lt f)

theorem roundExact_zero (hm : v.m = 0) (hs : v.sticky = false) : roundExact f mode sat g v = (withSign f v.neg 0, 0) := by
  rw [roundExact, if_pos (by simp [hm, hs])]

theorem roundExact_lt (f : FloatFmt) (mode : Nat) (sat : Bool) (g : Nat) (v : ExactVal) :
    (roundExact f mode sat g v).1 < 2 ^ f.width := by
  unfold roundExact
  split
  · exact withSign_lt _ (signBit_pos f)
  · dsimp only
    split
    · exact overflowBits_lt _ _ _ _
    next hle => exact withSign_lt _ ((not_lt.1 hle).trans_lt (maxFinite_lt_signBit f))

/-- A number that the format has is itself in every mode. -/
theorem roundExact_fits (hs : v.sticky = false) (hm : v.m < 2 ^ (f.fracBits + 1)) (he : f.unit ≤ v.e)
    (hmost : v.m * (2 : ℝ) ^ v.e ≤ f.most) :
    ∃ mag, mag ≤ f.maxFinite ∧ (magUnits f.fracBits mag : ℝ) * 2 ^ f.unit = v.m * 2 ^ v.e ∧
      ∀ mode sat g, roundExact f mode sat g v = (withSign f v.neg mag, 0) := by
  by_cases hm0 : v.m = 0
  · exact ⟨0, Nat.zero_le _, by simp [hm0, magUnits_zero], fun _ _ _ => roundExact_zero hm0 hs⟩
  have hlog : Nat.log2 v.m ≤ f.fracBits := Nat.le_of_lt_succ ((Nat.log2_lt hm0).2 hm)
  have hfree : freeExp f v ≤ v.e := by unfold freeExp; omega
  have hself : ∀ mode g q, q ≤ v.e → roundAt mode g v q = (v.m * 2 ^ (-(q - v.e)).toNat, false) := fun mode g q hq => by
    rw [roundAt, if_pos (by omega), hs]
  have hmul : ∀ q, q ≤ v.e → (v.m : ℝ) * 2 ^ v.e = (v.m * 2 ^ (-(q - v.e)).toNat : ℕ) * 2 ^ q := fun q hq => by
    have hsplit : v.e = ((-(q - v.e)).toNat : ℤ) + q := by omega
    conv_lhs => rw [hsplit, zpow_add₀ two_ne_zero, zpow_natCast]
    push_cast
    ring
  have hq := max_le hfree he
  obtain ⟨hlo, hhi⟩ := (ExactVal.stands_rat hs hm0).binade hm0 f
  rw [v.abs_rat] at hlo hhi
  have hg : 0 < 65536 := by decide
  obtain ⟨-, -, hk1, hk2, -⟩ := multiples_spec (mode := 0) (neg := False) hlo hhi (roundsMag_self hg (hmul _ hfree))
    (roundsMag_self hg (hmul _ hq))
  have hunits := units_of_multiple (le_max_right _ f.unit) hk1 hk2
  rw [← hmul _ hq] at hunits
  have hmag := mt (most_lt_iff f _).2 (not_lt.2 (hunits ▸ hmost))
  refine ⟨_, not_lt.1 hmag, hunits, fun mode sat g => ?_⟩
  rw [roundExact_eq hm0]
  dsimp only
  rw [hself mode g _ hq, if_neg hmag]
  simp

/-- An exact value rounded once (R47, R49, R50, R53). -/
theorem roundExact_roundsOr (hs : v.sticky = false) (hg : g < 65536) :
    RoundsOr f mode sat g v.rat v.neg (roundExact f mode sat g v) := by
  have hzero : (v.rat : ℝ) = 0 ↔ v.m = 0 := by
    rw [← abs_eq_zero, v.abs_rat, mul_eq_zero, or_iff_left (by positivity), Nat.cast_eq_zero]
  refine ⟨fun h => roundExact_zero (hzero.1 h) hs, fun h => ?_⟩
  have hm := mt hzero.2 h
  exact roundExact_rounds (ExactVal.stands_rat hs hm) hm (by simp [hs]) hg

end

end Sys2Proof.Machine
end

section
/-!
PROOF. Sums, products and their fused form (spec/02 R46, R47, spec/06 R143): the operations give the exact result, rounded once.
-/
namespace Sys2Proof.Machine

section
variable {f : FloatFmt} {mode g : Nat} {sat : Bool}

theorem anySignalling_iff (vs : List FloatVal) : anySignalling vs = true ↔ FloatVal.nan true ∈ vs := by
  induction vs with
  | nil => simp [anySignalling]
  | cons v vs ih => rcases v with (_ | _) | _ | _ <;> simp [anySignalling, ih]

theorem nanFlags_eq (vs : List FloatVal) : nanFlags vs = if FloatVal.nan true ∈ vs then flagNV else 0 := by
  simp only [nanFlags, anySignalling_iff]

theorem nanOf_nanFlags (f : FloatFmt) (vs : List FloatVal) : NaNOf f vs (canonNaN f, nanFlags vs) := ⟨rfl, nanFlags_eq vs⟩

theorem nanOf_single (f : FloatFmt) (s : Bool) : NaNOf f [.nan s] (canonNaN f, if s then flagNV else 0) :=
  ⟨rfl, by cases s <;> simp⟩

theorem RoundsOr.congr {x y : ℝ} {z z' : Bool} {r : Nat × Nat} (h : RoundsOr f mode sat g x z r) (hxy : x = y)
    (hz : x = 0 → z = z') : RoundsOr f mode sat g y z' r :=
  hxy ▸ ⟨fun hx => hz hx ▸ h.1 hx, h.2⟩

/-! ## Numbers on a grid -/

theorem rat_fin (n : Bool) (m : Nat) (e : Int) : (FloatVal.fin n m e).rat = (if n then -1 else 1) * m * 2 ^ e := rfl

theorem rat_of_int (s q : Int) : (FloatVal.fin (decide (s < 0)) s.natAbs q).rat = s * 2 ^ q := by
  rw [rat_fin]
  congr 1
  have hc : ((s.natAbs : ℤ) : ℚ) = (s.natAbs : ℚ) := by norm_num
  rw [← hc]
  rcases lt_or_ge s 0 with h | h
  · rw [Int.ofNat_natAbs_of_nonpos h.le]
    simp [h]
  · rw [Int.natAbs_of_nonneg h]
    simp [not_lt.2 h]

theorem onGrid_mul {n : Bool} {m : Nat} {e q : Int} (h : q ≤ e) : (onGrid n m e q : ℚ) * 2 ^ q = (FloatVal.fin n m e).rat := by
  have he : e = ((e - q).toNat : ℤ) + q := by omega
  have hp : (2 : ℚ) ^ e = 2 ^ (e - q).toNat * 2 ^ q := by
    conv_lhs => rw [he, zpow_add₀ two_ne_zero, zpow_natCast]
  rw [rat_fin, hp, onGrid]
  cases n <;> simp <;> ring

/-- An exact sum is rounded once, and a sum of 0 has the sign of R143. -/
theorem exactAdd_rounds (hg : g < 65536) (n1 : Bool) (m1 : Nat) (e1 : Int) (n2 : Bool) (m2 : Nat) (e2 : Int) :
    RoundsOr f mode sat g ((FloatVal.fin n1 m1 e1).rat + (FloatVal.fin n2 m2 e2).rat : ℚ)
      (if m1 = 0 ∧ m2 = 0 ∧ n1 = n2 then n1 else mode == 2) (roundExact f mode sat g (exactAdd mode n1 m1 e1 n2 m2 e2)) := by
  have hsum : (FloatVal.fin n1 m1 e1).rat + (FloatVal.fin n2 m2 e2).rat =
      ((onGrid n1 m1 e1 (min e1 e2) + onGrid n2 m2 e2 (min e1 e2) : Int) : ℚ) * 2 ^ min e1 e2 := by
    rw [← onGrid_mul (min_le_left e1 e2), ← onGrid_mul (min_le_right e1 e2)]
    push_cast
    ring
  rw [hsum, exactAdd]
  generalize onGrid n1 m1 e1 (min e1 e2) + onGrid n2 m2 e2 (min e1 e2) = s
  dsimp only
  by_cases h0 : s = 0
  · rw [if_pos (beq_iff_eq.2 h0), roundExact_zero rfl rfl, h0]
    refine ⟨fun _ => ?_, fun h => absurd (by simp) h⟩
    simp [and_assoc]
  · rw [if_neg (mt beq_iff_eq.1 h0)]
    refine (roundExact_roundsOr rfl hg).congr (congrArg Rat.cast (rat_of_int s _)) fun h => ?_
    rw [ExactVal.rat, rat_of_int] at h
    have : (s : ℚ) * 2 ^ min e1 e2 ≠ 0 := mul_ne_zero (by exact_mod_cast h0) (by positivity)
    exact absurd (by exact_mod_cast h) this

theorem rawAdd_gives (hg : g < 65536) (a b : FloatVal) :
    SumGives f mode sat g a b (roundRaw f mode sat g (rawAdd mode a b)) := by
  match a, b with
  | .nan s, b => cases b <;> exact nanOf_nanFlags f _
  | .inf n, .nan s => exact nanOf_nanFlags f _
  | .fin n m e, .nan s => exact nanOf_nanFlags f _
  | .inf n, .inf k => cases n <;> cases k <;> rfl
  | .inf n, .fin _ _ _ => rfl
  | .fin _ _ _, .inf k => rfl
  | .fin n m e, .fin k l d => exact exactAdd_rounds hg n m e k l d

theorem rat_mul (n : Bool) (m : Nat) (e : Int) (k : Bool) (l : Nat) (d : Int) :
    (FloatVal.fin (n != k) (m * l) (e + d)).rat = (FloatVal.fin n m e).rat * (FloatVal.fin k l d).rat := by
  rw [rat_fin, rat_fin, rat_fin, zpow_add₀ two_ne_zero]
  cases n <;> cases k <;> push_cast <;> simp <;> ring

theorem rawMul_gives (hg : g < 65536) (a b : FloatVal) :
    ProductGives f mode sat g a b (roundRaw f mode sat g (rawMul a b)) := by
  match a, b with
  | .nan s, b => cases b <;> exact nanOf_nanFlags f _
  | .inf n, .nan s => exact nanOf_nanFlags f _
  | .fin n m e, .nan s => exact nanOf_nanFlags f _
  | .inf n, .inf k => rfl
  | .inf n, .fin k l d => cases l <;> rfl
  | .fin n m e, .inf k => cases m <;> rfl
  | .fin n m e, .fin k l d =>
    exact (roundExact_roundsOr rfl hg).congr (congrArg Rat.cast (rat_mul n m e k l d)) fun _ => rfl

/-- What a product that is infinite gives with an addend. -/
theorem rawFma_infinite {a b : FloatVal} {n : Bool} {fl : Nat} (h : rawMul a b = .inf n fl) (c : FloatVal) :
    InfinitePlus f n c (roundRaw f mode sat g (rawFma mode a b c)) := by
  rw [rawFma, h]
  match c with
  | .nan s => exact nanOf_single f s
  | .inf k => cases n <;> cases k <;> rfl
  | .fin _ _ _ => rfl

theorem rawFma_gives (hg : g < 65536) (a b c : FloatVal) :
    FmaGives f mode sat g a b c (roundRaw f mode sat g (rawFma mode a b c)) := by
  match a, b with
  | .nan s, b => cases b <;> exact nanOf_nanFlags f _
  | .inf n, .nan s => exact nanOf_nanFlags f _
  | .fin n m e, .nan s => exact nanOf_nanFlags f _
  | .inf n, .inf k => exact rawFma_infinite (fl := 0) rfl c
  | .inf n, .fin k l d =>
    cases l with
    | zero => rfl
    | succ l => exact rawFma_infinite (fl := 0) rfl c
  | .fin n m e, .inf k =>
    cases m with
    | zero => rfl
    | succ m => exact rawFma_infinite (fl := 0) rfl c
  | .fin n m e, .fin k l d =>
    match c with
    | .nan s => exact nanOf_single f s
    | .inf j => rfl
    | .fin j h o =>
      refine (exactAdd_rounds hg (n != k) (m * l) (e + d) j h o).congr ?_ fun _ => ?_
      · rw [rat_mul]
      · exact if_ctx_congr Iff.rfl (fun h => h.2.2) fun _ => rfl

end
end Sys2Proof.Machine
end

section
/-!
PROOF. Quotients and square roots (spec/02 R55): the model's long division and Newton's iteration enclose the exact result.
-/
namespace Sys2Proof.Machine

section
variable {f : FloatFmt} {mode g : Nat} {sat : Bool}

theorem ExactVal.Stands.ne_zero {v : ExactVal} {x : ℝ} (h : v.Stands x) (hm : v.m ≠ 0) : x ≠ 0 := by
  have hp : (0 : ℝ) < v.m * 2 ^ v.e := by have := Nat.pos_of_ne_zero hm; positivity
  exact abs_pos.1 (hp.trans_le h.le)

/-- A number other than 0 that a value of enough bits encloses is rounded once. -/
theorem roundExact_encloses {v : ExactVal} {x : ℝ} (z : Bool) (h : v.Stands x) (hm : 2 ^ 68 ≤ v.m) (hg : g < 65536) :
    RoundsOr f mode sat g x z (roundExact f mode sat g v) := by
  have hm0 : v.m ≠ 0 := fun h0 => by rw [h0] at hm; exact absurd hm (by decide)
  exact ⟨fun h0 => absurd h0 (h.ne_zero hm0), fun _ => roundExact_rounds h hm0 (fun _ => hm) hg⟩

/-! ## Quotients -/

/-- A whole quotient encloses the exact one. -/
theorem stands_of_div {neg : Bool} {a b : Nat} {e : Int} {x : ℝ} (hb : b ≠ 0) (hneg : neg = true ↔ x < 0)
    (hx : |x| = (a / b : ℝ) * 2 ^ e) : (ExactVal.mk neg (a / b) e (a % b != 0)).Stands x := by
  have hp : (0 : ℝ) < 2 ^ e := by positivity
  have hb0 : (0 : ℝ) < b := by exact_mod_cast Nat.pos_of_ne_zero hb
  have hlt : a < (a / b + 1) * b := by rw [Nat.add_one_mul]; exact Nat.lt_div_mul_add (Nat.pos_of_ne_zero hb)
  refine ⟨⟨?_, ?_, ?_⟩, hneg⟩
  · rw [hx]
    exact mul_le_mul_of_nonneg_right Nat.cast_div_le hp.le
  · rw [hx]
    refine mul_lt_mul_of_pos_right ?_ hp
    rw [div_lt_iff₀ hb0]
    exact_mod_cast hlt
  · rw [hx, mul_left_inj' hp.ne', div_eq_iff hb0.ne', bne_eq_false_iff_eq]
    have hd := Nat.div_add_mod' a b
    have hmul : (a : ℝ) = ((a / b : ℕ) : ℝ) * b ↔ a = a / b * b := by norm_cast
    rw [hmul]
    omega

theorem rat_neg_iff (n : Bool) {m : Nat} (e : Int) (hm : m ≠ 0) : (FloatVal.fin n m e).rat < 0 ↔ n = true := by
  have hp : (0 : ℚ) < m * 2 ^ e := by have := Nat.pos_of_ne_zero hm; positivity
  rw [rat_fin]
  cases n <;> simp <;> linarith

theorem abs_rat_fin (n : Bool) (m : Nat) (e : Int) : |(FloatVal.fin n m e).rat| = m * 2 ^ e := by
  rw [rat_fin, abs_mul, abs_mul, Nat.abs_cast, abs_of_pos (by positivity : (0 : ℚ) < 2 ^ e)]
  cases n <;> simp

theorem rat_ne_zero (n : Bool) {m : Nat} (e : Int) (hm : m ≠ 0) : (FloatVal.fin n m e).rat ≠ 0 := by
  rw [← abs_pos, abs_rat_fin]
  have := Nat.pos_of_ne_zero hm
  positivity

theorem exactDiv_stands (n : Bool) (m : Nat) (e : Int) (k : Bool) (l : Nat) (d : Int) (hm : m ≠ 0) (hl : l ≠ 0) :
    (exactDiv (n != k) m e l d).Stands ((FloatVal.fin n m e).rat / (FloatVal.fin k l d).rat : ℚ) := by
  refine stands_of_div hl ?_ ?_
  · have hn := rat_neg_iff n e hm
    have hk := rat_neg_iff k d hl
    have hn0 := rat_ne_zero n e hm
    have hk0 := rat_ne_zero k d hl
    rw [Rat.cast_lt_zero, div_neg_iff, hn, hk, ← not_le, ← not_le, hn0.le_iff_lt, hk0.le_iff_lt, hn, hk]
    cases n <;> cases k <;> simp
  · have hl0 : (l : ℝ) ≠ 0 := by exact_mod_cast hl
    rw [← Rat.cast_abs, abs_div, abs_rat_fin, abs_rat_fin, show e - d - (128 + Nat.log2 l : ℕ) = e - d + -((128 + Nat.log2 l : ℕ) : ℤ) by ring,
      zpow_add₀ two_ne_zero, zpow_sub₀ two_ne_zero, zpow_neg, zpow_natCast]
    push_cast
    field_simp

theorem exactDiv_bits (n : Bool) (m : Nat) (e : Int) (l : Nat) (d : Int) (hm : m ≠ 0) (hl : l ≠ 0) :
    2 ^ 68 ≤ (exactDiv n m e l d).m := by
  refine (Nat.le_div_iff_mul_le (Nat.pos_of_ne_zero hl)).2 ?_
  calc 2 ^ 68 * l ≤ 2 ^ 68 * 2 ^ (Nat.log2 l + 1) := Nat.mul_le_mul_left _ Nat.lt_log2_self.le
    _ ≤ 2 ^ (128 + Nat.log2 l) := by rw [← pow_add]; exact Nat.pow_le_pow_right two_pos (by omega)
    _ ≤ m * 2 ^ (128 + Nat.log2 l) := Nat.le_mul_of_pos_left _ (Nat.pos_of_ne_zero hm)

theorem rawDiv_gives (hg : g < 65536) (a b : FloatVal) :
    QuotientGives f mode sat g a b (roundRaw f mode sat g (rawDiv a b)) := by
  match a, b with
  | .nan s, b => cases b <;> exact nanOf_nanFlags f _
  | .inf n, .nan s => exact nanOf_nanFlags f _
  | .fin n m e, .nan s => exact nanOf_nanFlags f _
  | .inf n, .inf k => rfl
  | .inf n, .fin k l d => rfl
  | .fin n m e, .inf k => exact roundExact_zero rfl rfl
  | .fin n m e, .fin k l d =>
    cases l with
    | zero => cases m <;> rfl
    | succ l =>
      rw [QuotientGives, if_neg (Nat.succ_ne_zero l)]
      cases m with
      | zero =>
        refine (roundExact_roundsOr (v := ⟨n != k, 0, 0, false⟩) rfl hg).congr ?_ fun _ => rfl
        simp [ExactVal.rat, rat_fin]
      | succ m =>
        exact roundExact_encloses _ (exactDiv_stands n _ e k _ d (Nat.succ_ne_zero m) (Nat.succ_ne_zero l))
          (exactDiv_bits _ _ e _ d (Nat.succ_ne_zero m) (Nat.succ_ne_zero l)) hg

/-! ## Square roots -/

/-- The mean of a number and its quotient is not below the root. -/
theorem sqrt_le_mean (n : Nat) {x : Nat} (hx : 0 < x) : Nat.sqrt n ≤ (x + n / x) / 2 := by
  have hs := Nat.sqrt_le n
  rw [Nat.le_div_iff_mul_le two_pos]
  rcases Nat.le_total x (2 * Nat.sqrt n) with h | h
  · obtain ⟨d, hd⟩ := Nat.exists_eq_add_of_le h
    have hle : d ≤ n / x := (Nat.le_div_iff_mul_le hx).2 (by nlinarith [sq_nonneg ((Nat.sqrt n : ℤ) - x)])
    omega
  · exact (Nat.mul_comm _ _).trans_le (h.trans (Nat.le_add_right _ _))

theorem isqrtLoop_sqrt (n fuel : Nat) : isqrtLoop n fuel (Nat.sqrt n) = Nat.sqrt n := by
  cases fuel with
  | zero => rfl
  | succ fuel =>
    refine if_neg (not_lt.2 ?_)
    rcases Nat.eq_zero_or_pos (Nat.sqrt n) with h0 | hpos
    · simp [h0]
    · exact sqrt_le_mean n hpos

/-- Newton's iteration from above at least halves its distance from the root. -/
theorem isqrtLoop_eq (n : Nat) {fuel x k : Nat} (hle : Nat.sqrt n ≤ x) (hlt : x - Nat.sqrt n < 2 ^ k) (hk : k ≤ fuel) :
    isqrtLoop n fuel x = Nat.sqrt n := by
  induction k generalizing x fuel with
  | zero =>
    obtain rfl : x = Nat.sqrt n := by rw [pow_zero] at hlt; omega
    exact isqrtLoop_sqrt n fuel
  | succ k ih =>
    rcases Nat.eq_or_lt_of_le hle with heq | hgt
    · rw [← heq]
      exact isqrtLoop_sqrt n fuel
    · obtain ⟨fuel, rfl⟩ := Nat.exists_eq_add_of_lt (Nat.lt_of_succ_le hk)
      have hquot : n / x ≤ Nat.sqrt n := by
        refine Nat.le_of_lt_succ ((Nat.div_lt_iff_lt_mul (by omega)).2 ?_)
        exact (Nat.lt_succ_sqrt n).trans_le (Nat.mul_le_mul_left _ hgt)
      have hmean := sqrt_le_mean n (x := x) (by omega)
      rw [isqrtLoop, if_pos (by omega)]
      exact ih hmean (by rw [pow_succ] at hlt; omega) (Nat.le_add_right _ _)

theorem isqrt_eq {n k : Nat} (hk : k ≤ 1000) (h : n < 2 ^ k) : isqrt n = Nat.sqrt n := by
  rw [isqrt]
  split
  next h0 => simp [show n = 0 by simpa using h0]
  next h0 =>
    have h0 : n ≠ 0 := by simpa using h0
    have hlog : Nat.log2 n < k := (Nat.log2_lt h0).2 h
    have hsq : n < 2 ^ (Nat.log2 n / 2 + 1) * 2 ^ (Nat.log2 n / 2 + 1) := by
      rw [← pow_add]
      exact Nat.lt_log2_self.trans_le (Nat.pow_le_pow_right two_pos (by omega))
    refine isqrtLoop_eq n (Nat.sqrt_lt.2 hsq).le ((Nat.sub_le _ _).trans_lt (Nat.pow_lt_pow_right one_lt_two (Nat.lt_succ_self _))) ?_
    omega

/-- A whole root encloses the root of any number between two whole ones. -/
theorem stands_of_sqrt {r : Nat} {y x : ℝ} {e : Int} {sticky : Bool} (hx : x = √y * 2 ^ e) (hlo : (r : ℝ) * r ≤ y)
    (hhi : y < (r + 1) * (r + 1)) (hs : sticky = false ↔ (r : ℝ) * r = y) : (ExactVal.mk false r e sticky).Stands x := by
  have hp : (0 : ℝ) < 2 ^ e := by positivity
  have hy : 0 ≤ y := (mul_self_nonneg _).trans hlo
  have habs : |x| = √y * 2 ^ e := by rw [hx, abs_of_nonneg (by positivity)]
  refine ⟨⟨?_, ?_, ?_⟩, by simp [not_lt, hx]; positivity⟩
  · rw [habs]
    exact mul_le_mul_of_nonneg_right (Real.le_sqrt_of_sq_le (by rwa [sq])) hp.le
  · rw [habs]
    exact mul_lt_mul_of_pos_right ((Real.sqrt_lt' (by positivity)).2 (by rwa [sq])) hp
  · rw [habs, mul_left_inj' hp.ne', hs, Real.sqrt_eq_iff_mul_self_eq hy (by positivity), eq_comm]

theorem evenExp_spec (m : Nat) (e : Int) : (evenExp m e).2 % 2 = 0 ∧ (evenExp m e).1 ≤ 2 * m ∧ m ≤ (evenExp m e).1 ∧
    ((evenExp m e).1 : ℝ) * 2 ^ (evenExp m e).2 = m * 2 ^ e := by
  unfold evenExp
  split
  next h => exact ⟨by simpa using h, by omega, le_rfl, rfl⟩
  next h =>
    have h : e % 2 ≠ 0 := by simpa using h
    refine ⟨by dsimp only; omega, le_rfl, by dsimp only; omega, ?_⟩
    rw [zpow_sub₀ two_ne_zero]
    push_cast
    field_simp

/-- A positive number over a square: the root of a number with an even exponent. -/
theorem sqrt_mul_zpow {y : ℝ} {e : Int} (he : e % 2 = 0) : √(y * 2 ^ e) = √y * 2 ^ (e / 2) := by
  have h2 : e = e / 2 + e / 2 := by omega
  conv_lhs => rw [h2, zpow_add₀ two_ne_zero, ← mul_assoc, mul_assoc, Real.sqrt_mul' _ (mul_self_nonneg _),
    Real.sqrt_mul_self (by positivity)]

theorem natCast_lt_succ_sq {n : Nat} {y : ℝ} (hy : y < n + 1) : y < (Nat.sqrt n + 1) * (Nat.sqrt n + 1) := by
  have h : ((n + 1 : ℕ) : ℝ) ≤ ((Nat.sqrt n + 1) * (Nat.sqrt n + 1) : ℕ) := by exact_mod_cast Nat.lt_succ_sqrt n
  push_cast at h
  linarith

/-- The root of a value of at most 53 bits (R55). -/
theorem rawSqrt_fin (hg : g < 65536) {m : Nat} {e : Int} (hm : m ≠ 0) (hlt : m < 2 ^ 53) :
    RoundsOr f mode sat g √(FloatVal.fin false m e).rat false (roundRaw f mode sat g (rawSqrt (.fin false m e))) := by
  obtain ⟨heven, hhi, hlo, hval⟩ := evenExp_spec m e
  have hrat : ((FloatVal.fin false m e).rat : ℝ) = m * 2 ^ e := by simp [rat_fin]
  have hraw : rawSqrt (.fin false m e) = .exact ⟨false, isqrt ((evenExp m e).1 * 2 ^ 256), (evenExp m e).2 / 2 - 128,
      isqrt ((evenExp m e).1 * 2 ^ 256) * isqrt ((evenExp m e).1 * 2 ^ 256) != (evenExp m e).1 * 2 ^ 256⟩ := by
    simp [rawSqrt, hm]
  rw [hraw, hrat, ← hval]
  generalize evenExp m e = p at *
  have hlt : p.1 * 2 ^ 256 < 2 ^ (54 + 256) := by
    rw [pow_add]
    exact Nat.mul_lt_mul_of_pos_right (by omega) (by positivity)
  rw [isqrt_eq (by decide) hlt]
  refine roundExact_encloses false (stands_of_sqrt (y := (p.1 * 2 ^ 256 : ℕ)) ?_ ?_ ?_ ?_) ?_ hg
  · have hbig : ((p.1 * 2 ^ 256 : ℕ) : ℝ) = p.1 * 2 ^ (256 : ℤ) := by
      rw [Nat.cast_mul, Nat.cast_pow, Nat.cast_two, zpow_ofNat]
    rw [hbig, sqrt_mul_zpow heven, sqrt_mul_zpow (by decide), mul_assoc, ← zpow_add₀ two_ne_zero]
    congr 2
    omega
  · exact_mod_cast Nat.sqrt_le _
  · exact natCast_lt_succ_sq (lt_add_one _)
  · rw [bne_eq_false_iff_eq]
    norm_cast
  · refine Nat.le_sqrt.2 ?_
    rw [← pow_add]
    exact (Nat.pow_le_pow_right two_pos (by decide)).trans (Nat.le_mul_of_pos_left _ (by omega))

/-- The reciprocal root of a value of at most 53 bits (R55). -/
theorem rawRsqrt_fin (hg : g < 65536) {m : Nat} {e : Int} (hm : m ≠ 0) (hlt : m < 2 ^ 53) :
    RoundsOr f mode sat g (1 / √(FloatVal.fin false m e).rat) false
      (roundRaw f mode sat g (rawRsqrt (.fin false m e))) := by
  obtain ⟨heven, hhi, hlo, hval⟩ := evenExp_spec m e
  have hrat : ((FloatVal.fin false m e).rat : ℝ) = m * 2 ^ e := by simp [rat_fin]
  have hraw : rawRsqrt (.fin false m e) = .exact ⟨false, isqrt (2 ^ 320 / (evenExp m e).1), -((evenExp m e).2 / 2) - 160,
      isqrt (2 ^ 320 / (evenExp m e).1) * isqrt (2 ^ 320 / (evenExp m e).1) * (evenExp m e).1 != 2 ^ 320⟩ := by
    rw [rawRsqrt, if_neg (by simpa using hm), if_neg Bool.false_ne_true]
  rw [hraw, hrat, ← hval]
  generalize evenExp m e = p at *
  have hp0 : 0 < p.1 := by omega
  have hpr : (0 : ℝ) < p.1 := by exact_mod_cast hp0
  generalize hbig : (2 : ℕ) ^ 320 = big at *
  have hbigr : (big : ℝ) = 2 ^ (320 : ℤ) := by rw [← hbig, Nat.cast_pow, Nat.cast_two, zpow_ofNat]
  have hlt' : big / p.1 < 2 ^ (320 + 1) := by
    refine (Nat.div_le_self _ _).trans_lt ?_
    rw [pow_succ, hbig]
    exact lt_mul_of_one_lt_right (hbig ▸ by positivity) one_lt_two
  rw [isqrt_eq (by decide) hlt']
  have hsq := Nat.sqrt_le (big / p.1)
  refine roundExact_encloses false (stands_of_sqrt (y := (big : ℝ) / p.1) ?_ ?_ ?_ ?_) ?_ hg
  · rw [sqrt_mul_zpow heven, hbigr, Real.sqrt_div' _ hpr.le, show √((2 : ℝ) ^ (320 : ℤ)) = 2 ^ (160 : ℤ) by
      rw [← one_mul ((2 : ℝ) ^ (320 : ℤ)), sqrt_mul_zpow (by decide)]; simp]
    rw [zpow_sub₀ two_ne_zero, zpow_neg]
    have := Real.sqrt_pos.2 hpr
    field_simp
  · rw [le_div_iff₀ hpr]
    exact_mod_cast (Nat.mul_le_mul_right _ hsq).trans (Nat.div_mul_le_self _ _)
  · refine natCast_lt_succ_sq ?_
    rw [div_lt_iff₀ hpr]
    have hlt : big < (big / p.1 + 1) * p.1 := by rw [Nat.add_one_mul]; exact Nat.lt_div_mul_add hp0
    exact_mod_cast hlt
  · rw [bne_eq_false_iff_eq, eq_div_iff hpr.ne']
    norm_cast
  · refine Nat.le_sqrt.2 ((Nat.le_div_iff_mul_le hp0).2 ?_)
    calc 2 ^ 68 * 2 ^ 68 * p.1 ≤ 2 ^ 68 * 2 ^ 68 * 2 ^ 54 := Nat.mul_le_mul_left _ (by omega)
      _ = 2 ^ 190 := by rw [← pow_add, ← pow_add]
      _ ≤ 2 ^ 190 * 2 ^ 130 := Nat.le_mul_of_pos_right _ (by positivity)
      _ = big := by rw [← pow_add, ← hbig]

end
end Sys2Proof.Machine
end

section
/-!
PROOF. The functions of R55 at the operands whose result is known: infinities, zeros, integers, halves and powers of two.
-/
namespace Sys2Proof.Machine

section
variable {f : FloatFmt} {mode g : Nat} {sat : Bool} {v : ExactVal} {x : ℝ}

/-! ## Numbers far from a format's range -/

/-- A power of two is the value of the magnitude that begins its binade. -/
theorem pow_binade (f : FloatFmt) (E : Nat) :
    (magUnits f.fracBits ((E + 1) * 2 ^ f.fracBits) : ℝ) * 2 ^ f.unit = 2 ^ ((E : ℤ) + 1 - f.bias) := by
  have h := magUnits_add (F := f.fracBits) (E := E) (Nat.pow_le_pow_right two_pos (Nat.le_succ _)) (.inl le_rfl)
  rw [Nat.add_one_mul, h]
  push_cast
  rw [← zpow_natCast, ← zpow_natCast, ← zpow_add₀ two_ne_zero, ← zpow_add₀ two_ne_zero]
  congr 1
  unfold FloatFmt.unit
  ring

theorem most_lt_pow (f : FloatFmt) : (f.most : ℝ) < 2 ^ ((f.bias : ℤ) + 2) := by
  have h := (most_lt_iff f ((2 * f.bias + 1 + 1) * 2 ^ f.fracBits)).2 (by cases f <;> decide)
  rw [pow_binade] at h
  convert h using 2
  push_cast
  ring

theorem one_le_most (f : FloatFmt) : (1 : ℝ) ≤ f.most := by
  have h := mt (most_lt_iff f ((f.bias - 1 + 1) * 2 ^ f.fracBits)).1 (not_lt.2 (by cases f <;> decide))
  have he : ((f.bias - 1 : ℕ) : ℤ) + 1 - f.bias = 0 := by cases f <;> rfl
  rw [pow_binade, he, zpow_zero] at h
  exact not_lt.1 h

theorem neg_1074_le_unit (f : FloatFmt) : -1074 ≤ f.unit := by cases f <;> decide

/-- The modes that round away from zero for a sign (R50). -/
abbrev awayFromZero (mode : Nat) (neg : Prop) : Prop := mode = 2 ∧ neg ∨ mode = 3 ∧ ¬neg

/-- Of a magnitude far below a multiple, only the modes away from zero take the multiple. -/
theorem roundsMag_small {neg : Prop} {m : ℝ} {q : ℤ} {k : ℕ} (h : RoundsMag mode g neg m q k) (h0 : 0 < m)
    (h1 : m < 2 ^ (q - 16)) (hg : g < 65536) : (awayFromZero mode neg → k = 1) ∧ (¬awayFromZero mode neg → k = 0) := by
  classical
  have hq : (0 : ℝ) < 2 ^ q := by positivity
  have ht0 : 0 < m / 2 ^ q := by positivity
  have ht1 : m / 2 ^ q < 1 / 2 ^ 16 := by
    rw [div_lt_div_iff₀ hq (by positivity), one_mul]
    rw [zpow_sub₀ two_ne_zero, lt_div_iff₀ (by positivity)] at h1
    exact_mod_cast h1
  generalize ht : m / (2 : ℝ) ^ q = t at *
  have hfloor : ⌊2 ^ 16 * t⌋₊ = 0 := by
    rw [Nat.floor_eq_zero]
    linarith
  have hup : awayFromZero mode neg ↔ GoesUp mode g neg (0 % 2 = 1) t := by
    have ht2 : t < 1 / 2 := by linarith
    match mode with
    | 0 => simp only [GoesUp, ht2.not_gt, ht2.ne]; simp
    | 1 => simp [GoesUp]
    | 2 => simp [GoesUp, ht0, awayFromZero]
    | 3 => simp [GoesUp, ht0, awayFromZero]
    | 4 => simp only [GoesUp, ht2.not_ge]; simp
    | n + 5 => simp only [GoesUp, hfloor]; omega
  have hk := roundsMag_unique h (roundsMag_of_frac (k := 0) (up := decide (awayFromZero mode neg)) (by simpa using ht) ht0.le
    (by linarith) (by simpa only [decide_eq_true_eq] using hup))
  exact ⟨fun ha => by simpa [ha] using hk, fun ha => by simpa [ha] using hk⟩

theorem exists_stands (hm : v.m ≠ 0) : ∃ x, v.Stands x := by
  have hp : (0 : ℝ) < 2 ^ v.e := by positivity
  have hm' : (0 : ℝ) < v.m := by exact_mod_cast Nat.pos_of_ne_zero hm
  obtain ⟨θ, h0, h1, hs⟩ : ∃ θ : ℝ, 0 ≤ θ ∧ θ < 1 ∧ (v.sticky = false ↔ θ = 0) := by
    cases v.sticky
    · exact ⟨0, le_rfl, one_pos, by simp⟩
    · exact ⟨1 / 2, by norm_num, by norm_num, by simp⟩
  have habs : |(if v.neg then (-1 : ℝ) else 1) * ((v.m + θ) * 2 ^ v.e)| = (v.m + θ) * 2 ^ v.e := by
    rw [abs_mul, abs_of_pos (by positivity : 0 < (v.m + θ) * 2 ^ v.e)]
    cases v.neg <;> simp
  have hpos : 0 < (v.m + θ) * (2 : ℝ) ^ v.e := by positivity
  refine ⟨(if v.neg then -1 else 1) * ((v.m + θ) * 2 ^ v.e), ⟨?_, ?_, ?_⟩, ?_⟩
  · rw [habs]
    exact mul_le_mul_of_nonneg_right (by linarith) hp.le
  · rw [habs]
    exact mul_lt_mul_of_pos_right (by linarith) hp
  · rw [habs, mul_left_inj' hp.ne', add_eq_left, hs]
  · cases v.neg <;> simp only [if_true, Bool.false_eq_true, if_false, false_iff, true_iff] <;> linarith

/-- A value far below the least unit gives 0, or the least unit in a mode away from zero. -/
theorem roundExact_small (hm : v.m ≠ 0) (hs : v.sticky = true → 2 ^ 68 ≤ v.m) (hg : g < 65536)
    (h : freeExp f v + f.fracBits + 17 ≤ f.unit) : roundExact f mode sat g v =
      (withSign f v.neg (if awayFromZero mode (v.neg = true) then 1 else 0), flagNX + flagUF) := by
  obtain ⟨x, hx⟩ := exists_stands hm
  obtain ⟨hlo, hhi⟩ := hx.binade hm f
  have hx0 : 0 < |x| := (by positivity : (0 : ℝ) < _).trans_le hlo
  have hlt : |x| < 2 ^ (f.unit - 16) := hhi.trans_le (zpow_le_zpow_right₀ one_le_two (by omega))
  have hfree := free_le (f := f) hm hs
  have hmax : max (freeExp f v) f.unit = f.unit := max_eq_right (by omega)
  obtain ⟨hwide, -⟩ := roundAt_spec (mode := mode) hx.toEncloses hfree hg
  obtain ⟨hk, hinexact⟩ := roundAt_spec (mode := mode) hx.toEncloses (fun hst => (hfree hst).trans (by omega : _ ≤ f.unit)) hg
  obtain ⟨hw, hw', -⟩ := multiples_spec hlo hhi hwide (hmax.symm ▸ hk)
  obtain ⟨h1, h0⟩ := roundsMag_small hk hx0 hlt hg
  rw [roundExact_eq hm, hmax]
  dsimp only
  have htiny := (tiny_iff (f := f) (free := freeExp f v) hw).2 <| (natCast_mul_zpow_le _ hw').trans_lt <|
    zpow_lt_zpow_right₀ one_lt_two (by unfold FloatFmt.unit at h; push_cast; omega)
  generalize roundAt mode g v f.unit = r at *
  have hr : r.1 ≤ 1 := by
    by_cases ha : awayFromZero mode (v.neg = true)
    · exact (h1 ha).le
    · exact (h0 ha).trans_le (Nat.zero_le 1)
  have hne : r.2 = true := by
    rw [hinexact]
    obtain h | h : r.1 = 0 ∨ r.1 = 1 := by omega
    · rw [h]
      simpa using hx0.ne
    · have hlt' : |x| < 2 ^ f.unit := hlt.trans (zpow_lt_zpow_right₀ one_lt_two (by omega))
      simpa [h] using hlt'.ne'
  have hmag : ((f.unit + f.fracBits + f.bias - 1) * (2 : Int) ^ f.fracBits + r.1).toNat = r.1 := by
    rw [show f.unit + f.fracBits + f.bias - 1 = 0 by unfold FloatFmt.unit; ring, zero_mul, zero_add, Int.toNat_natCast]
  have hfin : r.1 ≤ f.maxFinite := hr.trans ((Nat.one_le_two_pow).trans (twoPow_le_maxFinite f))
  have hr01 : r.1 = if awayFromZero mode (v.neg = true) then 1 else 0 := by
    split
    · exact h1 ‹_›
    · exact h0 ‹_›
  rw [hmag, if_neg (not_lt.2 hfin), htiny, hne, hr01]
  rfl

/-- A value far above the largest one overflows. -/
theorem roundExact_large (hm : v.m ≠ 0) (hs : v.sticky = true → 2 ^ 68 ≤ v.m) (hg : g < 65536)
    (h : (f.bias : Int) + 2 ≤ freeExp f v + f.fracBits) :
    roundExact f mode sat g v = (overflowBits f mode sat v.neg, flagOF + flagNX) := by
  obtain ⟨x, hx⟩ := exists_stands hm
  obtain ⟨hlo, hhi⟩ := hx.binade hm f
  have hfree := free_le (f := f) hm hs
  obtain ⟨hwide, -⟩ := roundAt_spec (mode := mode) hx.toEncloses hfree hg
  obtain ⟨hk, -⟩ := roundAt_spec (mode := mode) hx.toEncloses (fun hst => (hfree hst).trans (le_max_left _ f.unit)) hg
  obtain ⟨hw, -, hk1, hk2, hover⟩ := multiples_spec hlo hhi hwide hk
  have hunits := units_of_multiple (le_max_right (freeExp f v) f.unit) hk1 hk2
  dsimp only at hunits
  rw [← hunits, most_lt_iff] at hover
  rw [roundExact_eq hm]
  refine if_pos (hover.1 ((most_lt_pow f).trans_le ?_))
  calc (2 : ℝ) ^ ((f.bias : ℤ) + 2) ≤ 2 ^ (freeExp f v + f.fracBits) := zpow_le_zpow_right₀ one_le_two h
    _ = ((2 ^ f.fracBits : ℕ) : ℝ) * 2 ^ freeExp f v := (natPow_mul_zpow _ _).symm
    _ ≤ _ := mul_le_mul_of_nonneg_right (by exact_mod_cast hw) (by positivity)

theorem rat_two_pow (z : Int) : (ExactVal.mk false 1 z false).rat = 2 ^ z := by simp [ExactVal.rat, rat_fin]

theorem rat_unit (n : Bool) : (ExactVal.mk n 1 0 false).rat = if n then -1 else 1 := by
  cases n <;> simp [ExactVal.rat, rat_fin]

theorem pow_roundsOr (hg : g < 65536) (z : Int) :
    RoundsOr f mode sat g ((2 : ℝ) ^ z) false (roundExact f mode sat g ⟨false, 1, z, false⟩) :=
  (roundExact_roundsOr rfl hg).congr (by rw [rat_two_pow]; push_cast; rfl) fun _ => rfl

theorem freeExp_pow (f : FloatFmt) (n : Bool) (j : Nat) (e : Int) (s : Bool) :
    freeExp f ⟨n, 2 ^ j, e, s⟩ + f.fracBits = j + e := by
  rw [freeExp, Nat.log2_two_pow]
  ring

theorem freeExp_one (f : FloatFmt) (e : Int) : freeExp f ⟨false, 1, e, false⟩ + f.fracBits = e := by
  simpa using freeExp_pow f false 0 e false

/-- A power of two far below every format rounds as the model's stand-in for it. -/
theorem tinyVal_rounds (hg : g < 65536) {z : Int} (hz : z ≤ -8192) :
    RoundsOr f mode sat g ((2 : ℝ) ^ z) false (roundExact f mode sat g (tinyVal false)) := by
  have hunit := neg_1074_le_unit f
  have hpow := roundExact_small (f := f) (mode := mode) (sat := sat) (v := ⟨false, 1, z, false⟩) one_ne_zero (by simp) hg
    (by rw [freeExp_one]; omega)
  have htiny := roundExact_small (f := f) (mode := mode) (sat := sat) (v := tinyVal false) (by decide) (fun _ => by decide) hg
    (by rw [tinyVal, freeExp_pow]; omega)
  have heq : roundExact f mode sat g (tinyVal false) = roundExact f mode sat g ⟨false, 1, z, false⟩ := htiny.trans hpow.symm
  rw [heq]
  exact pow_roundsOr hg z

/-- A power of two far above every format rounds as the model's stand-in for it. -/
theorem hugeVal_rounds (hg : g < 65536) {z : Int} (hz : 8192 ≤ z) :
    RoundsOr f mode sat g ((2 : ℝ) ^ z) false (roundExact f mode sat g (hugeVal false)) := by
  have hbias : f.bias ≤ 1023 := by cases f <;> decide
  have hpow := roundExact_large (f := f) (mode := mode) (sat := sat) (v := ⟨false, 1, z, false⟩) one_ne_zero (by simp) hg
    (by rw [freeExp_one]; omega)
  have hhuge := roundExact_large (f := f) (mode := mode) (sat := sat) (v := hugeVal false) (by decide) (fun _ => by decide) hg
    (by rw [hugeVal, freeExp_pow]; omega)
  have heq : roundExact f mode sat g (hugeVal false) = roundExact f mode sat g ⟨false, 1, z, false⟩ := hhuge.trans hpow.symm
  rw [heq]
  exact pow_roundsOr hg z

/-! ## fexp2 and flog2 -/

theorem abs_rat_int {n : Bool} {m : Nat} {e z : Int} (h : (FloatVal.fin n m e).rat = z) : (m : ℚ) * 2 ^ e = z.natAbs := by
  rw [← abs_rat_fin n, h, ← Int.cast_abs, Int.abs_eq_natAbs]
  norm_num

theorem signed_natAbs {n : Bool} {z : Int} (h : n = true ↔ z < 0) : (if n then -(z.natAbs : Int) else z.natAbs) = z := by
  by_cases hz : z < 0
  · rw [if_pos (h.2 hz)]
    omega
  · rw [if_neg (mt h.1 hz)]
    omega

theorem topExp_bounds {m : Nat} (e : Int) (hm : m ≠ 0) :
    (2 : ℚ) ^ topExp m e ≤ m * 2 ^ e ∧ (m : ℚ) * 2 ^ e < 2 ^ (topExp m e + 1) := by
  have hp : (0 : ℚ) < 2 ^ e := by positivity
  have hlo : (2 : ℚ) ^ Nat.log2 m ≤ m := by exact_mod_cast Nat.log2_self_le hm
  have hhi : (m : ℚ) < 2 ^ (Nat.log2 m + 1) := by exact_mod_cast Nat.lt_log2_self (n := m)
  rw [show topExp m e + 1 = ((Nat.log2 m + 1 : ℕ) : ℤ) + e by unfold topExp; push_cast; ring, topExp, zpow_add₀ two_ne_zero,
    zpow_add₀ two_ne_zero, zpow_natCast, zpow_natCast]
  exact ⟨mul_le_mul_of_nonneg_right hlo hp.le, mul_lt_mul_of_pos_right hhi hp⟩

/-- An integer below 1 in magnitude is 0. -/
theorem topExp_nonneg {n : Bool} {m : Nat} {e z : Int} (hm : m ≠ 0) (h : (FloatVal.fin n m e).rat = z) : 0 ≤ topExp m e := by
  by_contra hlt
  have hone : (m : ℚ) * 2 ^ e < 1 :=
    (topExp_bounds e hm).2.trans_le ((zpow_le_zpow_right₀ one_le_two (by omega)).trans_eq (zpow_zero 2))
  have hpos : (0 : ℚ) < m * 2 ^ e := by have := Nat.pos_of_ne_zero hm; positivity
  rw [abs_rat_int h] at hone hpos
  norm_cast at hone hpos
  omega

theorem rawExp2_int (hg : g < 65536) {n : Bool} {m : Nat} {e z : Int} (h : (FloatVal.fin n m e).rat = z) :
    RoundsOr f mode sat g ((2 : ℝ) ^ z) false (roundRaw f mode sat g (rawExp2 (.fin n m e))) := by
  have habs := abs_rat_int h
  rw [rawExp2]
  by_cases hm : m = 0
  · obtain rfl : z = 0 := by simpa [hm, eq_comm] using habs
    rw [if_pos (by simpa using hm)]
    exact pow_roundsOr hg 0
  have hneg : n = true ↔ z < 0 := by rw [← rat_neg_iff n e hm, h, Int.cast_lt_zero]
  rw [if_neg (by simpa using hm)]
  by_cases hbig : topExp m e ≥ 13
  · have hz : 8192 ≤ z.natAbs := by
      have hle := (zpow_le_zpow_right₀ (one_le_two (α := ℚ)) hbig).trans (topExp_bounds e hm).1
      rw [habs] at hle
      generalize z.natAbs = a at hle
      norm_num at hle
      exact_mod_cast hle
    rw [if_pos hbig]
    by_cases hz0 : z < 0
    · rw [hneg.2 hz0]
      exact tinyVal_rounds hg (by omega)
    · rw [Bool.eq_false_iff.2 (mt hneg.1 hz0)]
      exact hugeVal_rounds hg (by omega)
  rw [if_neg hbig, if_neg (by have := topExp_nonneg hm h; omega)]
  by_cases he : e ≥ 0
  · have hk : m * 2 ^ e.toNat = z.natAbs := by
      have hc : (e.toNat : ℤ) = e := Int.toNat_of_nonneg he
      rw [← hc, zpow_natCast] at habs
      exact_mod_cast habs
    rw [if_pos he, hk]
    dsimp only
    rw [signed_natAbs hneg]
    exact pow_roundsOr hg z
  · have hk : m = z.natAbs * 2 ^ (-e).toNat := by
      have hc : e = -((-e).toNat : ℤ) := by omega
      rw [hc, zpow_neg, zpow_natCast, mul_inv_eq_iff_eq_mul₀ (by positivity)] at habs
      exact_mod_cast habs
    rw [if_neg he]
    have hfrac : m % 2 ^ (-e).toNat = 0 := by rw [hk]; exact Nat.mul_mod_left _ _
    have hwhole : m / 2 ^ (-e).toNat = z.natAbs := by conv_lhs => rw [hk, Nat.mul_div_cancel _ (by positivity)]
    dsimp only
    rw [if_pos (by simpa using hfrac), hwhole, signed_natAbs hneg]
    exact pow_roundsOr hg z

theorem rawLog2_pow (hg : g < 65536) {m : Nat} {e z : Int} (hm : m ≠ 0) (h : (FloatVal.fin false m e).rat = 2 ^ z) :
    RoundsOr f mode sat g z false (roundRaw f mode sat g (rawLog2 (.fin false m e))) := by
  have hval : (m : ℚ) * 2 ^ e = 2 ^ z := by simpa [rat_fin] using h
  have hle : e ≤ z := by
    rw [← zpow_le_zpow_iff_right₀ (one_lt_two (α := ℚ)), ← hval]
    exact le_mul_of_one_le_left (by positivity) (by exact_mod_cast Nat.pos_of_ne_zero hm)
  obtain ⟨j, rfl⟩ : ∃ j : ℕ, z = j + e := ⟨(z - e).toNat, by omega⟩
  have hmj : m = 2 ^ j := by
    rw [zpow_add₀ two_ne_zero, zpow_natCast, mul_left_inj' (by positivity)] at hval
    exact_mod_cast hval
  have hraw : rawLog2 (.fin false m e) = .exact ⟨decide ((j : Int) + e < 0), ((j : Int) + e).natAbs, 0, false⟩ := by
    rw [rawLog2, if_neg (by simpa using hm), if_neg (by simp), hmj, Nat.log2_two_pow, if_pos (by simp), topExp, Nat.log2_two_pow]
  rw [hraw]
  refine (roundExact_roundsOr rfl hg).congr ?_ fun h0 => ?_
  · rw [ExactVal.rat, rat_of_int]
    push_cast
    simp
  · rw [ExactVal.rat, rat_of_int, zpow_zero, mul_one] at h0
    have h0 : (j : Int) + e = 0 := by exact_mod_cast h0
    simp [h0]

end
end Sys2Proof.Machine
end

section
/-!
PROOF. The functions of R55 at the operands whose result is known, continued: sines and cosines at integers and halves, and the
functions that have limits.
-/
namespace Sys2Proof.Machine

section
variable {f : FloatFmt} {mode g : Nat} {sat : Bool}

/-! ## Quarters of a turn -/

theorem two_mul_half {k : Nat} (hk : 1 ≤ k) : 2 ^ k = 2 * 2 ^ (k - 1) := by
  rw [← pow_succ', Nat.sub_add_cancel hk]

/-- An operand that is a whole number of halves is a whole number of quarter turns. -/
theorem turnOf_half {m N : Nat} {e : Int} (he : e ≤ 0) (h : (m : ℚ) * 2 ^ e * 2 = N) :
    ∃ k, 1 ≤ k ∧ turnOf m e = (k, N % 4 * 2 ^ (k - 1)) := by
  have hk : 1 ≤ max 2 (-e).toNat := (by decide : 1 ≤ 2).trans (le_max_left _ _)
  refine ⟨max 2 (-e).toNat, hk, ?_⟩
  have hke : -e ≤ (max 2 (-e).toNat : ℕ) := by omega
  rw [turnOf]
  generalize max 2 (-e).toNat = k at *
  have hscaled : m * 2 ^ ((k : Int) + e).toNat = N * 2 ^ (k - 1) := by
    have hc : (((k : Int) + e).toNat : ℤ) = k + e := Int.toNat_of_nonneg (by omega)
    have hq : (m : ℚ) * 2 ^ ((k : Int) + e).toNat = N * 2 ^ (k - 1) := by
      rw [← zpow_natCast, hc, zpow_add₀ two_ne_zero, zpow_natCast, ← h]
      have : (2 : ℚ) ^ k = 2 * 2 ^ (k - 1) := by exact_mod_cast two_mul_half hk
      rw [this]
      ring
    exact_mod_cast hq
  rw [hscaled, two_mul_half hk, show 2 * (2 * 2 ^ (k - 1)) = 4 * 2 ^ (k - 1) by ring, Nat.mul_mod_mul_right]

/-- The sine at the quarter turns. -/
theorem sinTurn_quarter {k c : Nat} (hk : 1 ≤ k) (hc : c < 4) : sinTurn k (c * 2 ^ (k - 1)) =
    if c % 2 = 0 then ⟨false, 0, 0, false⟩ else ⟨decide (c = 3), 1, 0, false⟩ := by
  have hp : 0 < 2 ^ (k - 1) := by positivity
  rw [sinTurn, two_mul_half hk]
  generalize 2 ^ (k - 1) = h at *
  have h1 : h % (2 * h) = h := Nat.mod_eq_of_lt (by omega)
  have h3 : 3 * h % (2 * h) = h := by rw [show 3 * h = h + 2 * h by ring, Nat.add_mod_right, h1]
  interval_cases c
  · simp
  · simp [h1, hp.ne']
    omega
  · simp
  · simp [h3, hp.ne']
    omega

theorem half_turns_of_int {n : Bool} {m : Nat} {e z : Int} (h : (FloatVal.fin n m e).rat = z) :
    (m : ℚ) * 2 ^ e * 2 = (2 * z.natAbs : ℕ) := by
  rw [abs_rat_int h]
  push_cast
  ring

theorem half_turns_of_half {n : Bool} {m : Nat} {e z : Int} (h : (FloatVal.fin n m e).rat = z + 1 / 2) :
    (m : ℚ) * 2 ^ e * 2 = ((2 * z + 1).natAbs : ℕ) := by
  have h2 : |(FloatVal.fin n m e).rat| * 2 = |((2 * z + 1 : ℤ) : ℚ)| := by
    rw [h, ← abs_two, ← abs_mul]
    congr 1
    push_cast
    simp
    ring
  rw [abs_rat_fin] at h2
  rw [h2, ← Int.cast_abs, Int.abs_eq_natAbs]
  norm_num

/-- A whole number of halves with a positive exponent is even. -/
theorem even_of_pos_exp {m N : Nat} {e : Int} (he : 0 < e) (h : (m : ℚ) * 2 ^ e * 2 = N) : N % 4 = 0 := by
  obtain ⟨j, rfl⟩ : ∃ j : ℕ, e = j + 1 := ⟨(e - 1).toNat, by omega⟩
  have hN : m * 2 ^ (j + 1) * 2 = N := by exact_mod_cast h
  rw [← hN, show m * 2 ^ (j + 1) * 2 = m * 2 ^ j * 4 by ring]
  exact Nat.mul_mod_left _ _

theorem topExp_of_halves {m N : Nat} {e : Int} (hN : N ≠ 0) (h : (m : ℚ) * 2 ^ e * 2 = N) : -1 ≤ topExp m e := by
  have hm : m ≠ 0 := by
    rintro rfl
    exact hN (by simpa [eq_comm] using h)
  by_contra hlt
  have hle : (m : ℚ) * 2 ^ e < 2 ^ (-1 : ℤ) := (topExp_bounds e hm).2.trans_le (zpow_le_zpow_right₀ one_le_two (by omega))
  have hone : (1 : ℚ) ≤ N := by exact_mod_cast Nat.pos_of_ne_zero hN
  norm_num at hle
  linarith

theorem roundRaw_zero (n : Bool) : roundRaw f mode sat g (.exact ⟨n, 0, 0, false⟩) = (withSign f n 0, 0) :=
  roundExact_zero rfl rfl

theorem unit_roundsOr (hg : g < 65536) (n : Bool) :
    RoundsOr f mode sat g (if n then -1 else 1) false (roundExact f mode sat g ⟨n, 1, 0, false⟩) := by
  refine (roundExact_roundsOr rfl hg).congr ?_ fun h => ?_
  · rw [rat_unit]
    cases n <;> simp
  · rw [rat_unit] at h
    cases n <;> simp at h

theorem rawSinpi_int {n : Bool} {m : Nat} {e z : Int} (h : (FloatVal.fin n m e).rat = z) :
    roundRaw f mode sat g (rawSinpi (.fin n m e)) = (withSign f n 0, 0) := by
  rw [rawSinpi]
  by_cases hm : m = 0
  · rw [if_pos (by simpa using hm), roundRaw_zero]
  by_cases he : e > 0
  · rw [if_neg (by simpa using hm), if_pos he, roundRaw_zero]
  rw [if_neg (by simpa using hm), if_neg he]
  obtain ⟨k, hk, hturn⟩ := turnOf_half (by omega) (half_turns_of_int h)
  rw [hturn]
  have heven : 2 * z.natAbs % 4 % 2 = 0 := by omega
  dsimp only
  rw [sinTurn_quarter hk (Nat.mod_lt _ (by decide)), if_pos heven]
  exact roundRaw_zero n

/-- The operand of a sine or cosine at a half: it is not 0, it is no even integer, and its sign is that of the integer below. -/
theorem half_operand {n : Bool} {m : Nat} {e z : Int} (h : (FloatVal.fin n m e).rat = z + 1 / 2) :
    m ≠ 0 ∧ e ≤ 0 ∧ (n = true ↔ z < 0) := by
  have hN := half_turns_of_half h
  have hm : m ≠ 0 := by
    rintro rfl
    have hz : (((2 * z + 1).natAbs : ℕ) : ℚ) = 0 := by rw [← hN]; simp
    have hz : (2 * z + 1).natAbs = 0 := by exact_mod_cast hz
    omega
  refine ⟨hm, ?_, ?_⟩
  · by_contra he
    have := even_of_pos_exp (not_le.1 he) hN
    omega
  · have hneg : (z : ℚ) + 1 / 2 < 0 ↔ z < 0 := by
      refine ⟨fun hlt => ?_, fun hlt => ?_⟩
      · have : (z : ℚ) < 0 := by linarith
        exact_mod_cast this
      · have : (z : ℚ) ≤ -1 := by exact_mod_cast Int.le_sub_one_of_lt hlt
        linarith
    rw [← rat_neg_iff n e hm, h, hneg]

/-- 1 at an even number of half turns, and -1 at an odd one. -/
theorem parity_roundsOr (hg : g < 65536) (z : Int) :
    RoundsOr f mode sat g (if z % 2 = 0 then 1 else -1) false (roundRaw f mode sat g (.exact ⟨decide (z % 2 = 1), 1, 0, false⟩)) := by
  refine (unit_roundsOr hg (decide (z % 2 = 1))).congr ?_ fun _ => rfl
  rcases Int.emod_two_eq_zero_or_one z with hz | hz <;> rw [hz] <;> norm_num

theorem rawSinpi_half (hg : g < 65536) {n : Bool} {m : Nat} {e z : Int} (h : (FloatVal.fin n m e).rat = z + 1 / 2) :
    RoundsOr f mode sat g (if z % 2 = 0 then 1 else -1) false (roundRaw f mode sat g (rawSinpi (.fin n m e))) := by
  obtain ⟨hm, he, hn⟩ := half_operand h
  obtain ⟨k, hk, hturn⟩ := turnOf_half he (half_turns_of_half h)
  have hodd : ¬(2 * z + 1).natAbs % 4 % 2 = 0 := by omega
  have hsign : (decide ((2 * z + 1).natAbs % 4 = 3) != n) = decide (z % 2 = 1) := by
    by_cases hz : z < 0
    · rw [hn.2 hz, Bool.bne_true, ← decide_not, decide_eq_decide]
      omega
    · rw [Bool.eq_false_iff.2 (mt hn.1 hz), Bool.bne_false, decide_eq_decide]
      omega
  have hraw : rawSinpi (.fin n m e) = .exact ⟨decide (z % 2 = 1), 1, 0, false⟩ := by
    rw [rawSinpi, if_neg (by simpa using hm), if_neg (not_lt.2 he), hturn]
    dsimp only
    rw [sinTurn_quarter hk (Nat.mod_lt _ (by decide)), if_neg hodd, if_neg (by simp), hsign]
  rw [hraw]
  exact parity_roundsOr hg z

/-- The cosine is the sine a quarter turn on. -/
theorem quarter_on {k c : Nat} (hk : 1 ≤ k) : (c % 4 * 2 ^ (k - 1) + 2 ^ (k - 1)) % (2 * 2 ^ k) = (c + 1) % 4 * 2 ^ (k - 1) := by
  rw [two_mul_half hk, show 2 * (2 * 2 ^ (k - 1)) = 4 * 2 ^ (k - 1) by ring, ← Nat.add_one_mul, Nat.mul_mod_mul_right,
    Nat.mod_add_mod]

theorem rawCospi_int (hg : g < 65536) {n : Bool} {m : Nat} {e z : Int} (h : (FloatVal.fin n m e).rat = z) :
    RoundsOr f mode sat g (if z % 2 = 0 then 1 else -1) false (roundRaw f mode sat g (rawCospi (.fin n m e))) := by
  have hN := half_turns_of_int h
  have hraw : rawCospi (.fin n m e) = .exact ⟨decide (z % 2 = 1), 1, 0, false⟩ := by
    rw [rawCospi]
    by_cases hme : m = 0 ∨ 0 < e
    · have hz : z % 2 = 0 := by
        rcases hme with rfl | he
        · have hz : ((2 * z.natAbs : ℕ) : ℚ) = 0 := by rw [← hN]; simp
          have hz : 2 * z.natAbs = 0 := by exact_mod_cast hz
          omega
        · have := even_of_pos_exp he hN
          omega
      rw [if_pos (by simpa using hme), hz]
      rfl
    · obtain ⟨hm, he⟩ := not_or.1 hme
      obtain ⟨k, hk, hturn⟩ := turnOf_half (not_lt.1 he) hN
      have htop := topExp_nonneg hm h
      have hodd : ¬(2 * z.natAbs + 1) % 4 % 2 = 0 := by omega
      have hsign : decide ((2 * z.natAbs + 1) % 4 = 3) = decide (z % 2 = 1) := by
        rw [decide_eq_decide]
        omega
      rw [if_neg (by simpa using hme), hturn]
      dsimp only
      rw [if_neg (by omega), quarter_on hk, sinTurn_quarter hk (Nat.mod_lt _ (by decide)), if_neg hodd, if_neg (by simp), hsign]
  rw [hraw]
  exact parity_roundsOr hg z

theorem rawCospi_half {n : Bool} {m : Nat} {e z : Int} (h : (FloatVal.fin n m e).rat = z + 1 / 2) :
    roundRaw f mode sat g (rawCospi (.fin n m e)) = (withSign f false 0, 0) := by
  obtain ⟨hm, he, -⟩ := half_operand h
  obtain ⟨k, hk, hturn⟩ := turnOf_half he (half_turns_of_half h)
  have htop := topExp_of_halves (by omega) (half_turns_of_half h)
  have heven : ((2 * z + 1).natAbs + 1) % 4 % 2 = 0 := by omega
  rw [rawCospi, if_neg (by simp [hm, he]), hturn]
  dsimp only
  rw [if_neg (by omega), quarter_on hk, sinTurn_quarter hk (Nat.mod_lt _ (by decide)), if_pos heven]
  exact roundRaw_zero false

/-! ## Limits -/

/-- Plus and minus 1 are exact, so that the random bits of the draw do not count. -/
theorem unit_roundsOr_noDraw (n : Bool) :
    RoundsOr f mode sat 0 (if n then -1 else 1) false (roundExact f mode sat g ⟨n, 1, 0, false⟩) := by
  have hF : 1 < 2 ^ (f.fracBits + 1) := Nat.one_lt_two_pow (Nat.succ_ne_zero _)
  have hunit : f.unit ≤ 0 := by cases f <;> decide
  obtain ⟨mag, -, -, hfits⟩ := roundExact_fits (f := f) (v := ⟨n, 1, 0, false⟩) rfl hF hunit (by simpa using one_le_most f)
  rw [hfits, ← hfits mode sat 0]
  exact unit_roundsOr (by decide) n

theorem rawSigm_zero (hg : g < 65536) (n : Bool) (e : Int) :
    RoundsOr f mode sat g (1 / 2) false (roundRaw f mode sat g (rawSigm (.fin n 0 e))) := by
  refine (pow_roundsOr hg (-1)).congr ?_ fun _ => rfl
  norm_num

end
end Sys2Proof.Machine
end

section
/-!
PROOF. Words that compare numbers or move a sign (spec/02 R48, spec/06 R143 to R145).
-/
namespace Sys2Proof.Machine

/-! ## The order of numbers -/

section
variable {a b : FloatVal}

theorem lt_fin_iff (n : Bool) (m : Nat) (e : Int) (k : Bool) (l : Nat) (d : Int) :
    (FloatVal.fin n m e).lt (.fin k l d) = true ↔ (FloatVal.fin n m e).rat < (FloatVal.fin k l d).rat := by
  rw [FloatVal.lt, decide_eq_true_eq, ← onGrid_mul (min_le_left e d), ← onGrid_mul (min_le_right e d),
    mul_lt_mul_iff_left₀ (by positivity), Int.cast_lt]

theorem anyNaN_pair (a b : FloatVal) : anyNaN [a, b] = true ↔ ∃ s, a = .nan s ∨ b = .nan s := by
  rcases a with _ | _ | _ <;> rcases b with _ | _ | _ <;> simp [anyNaN]

theorem same_iff (ha : ∀ s, a ≠ .nan s) (hb : ∀ s, b ≠ .nan s) : a.Same b ↔ a.lt b = false ∧ b.lt a = false := by
  match a, b with
  | .nan s, _ => exact absurd rfl (ha s)
  | _, .nan s => exact absurd rfl (hb s)
  | .inf n, .inf k => cases n <;> cases k <;> simp [FloatVal.Same, FloatVal.lt]
  | .inf n, .fin k l d => cases n <;> simp [FloatVal.Same, FloatVal.lt]
  | .fin n m e, .inf k => cases k <;> simp [FloatVal.Same, FloatVal.lt]
  | .fin n m e, .fin k l d =>
    simp only [← Bool.not_eq_true, lt_fin_iff, not_lt, FloatVal.Same]
    exact ⟨fun h => ⟨h.ge, h.le⟩, fun h => le_antisymm h.2 h.1⟩

theorem below_iff (ha : ∀ s, a ≠ .nan s) (hb : ∀ s, b ≠ .nan s) :
    a.Below b ↔ a.lt b = true ∨ (a.Same b ∧ a.isNeg = true ∧ b.isNeg = false) := by
  match a, b with
  | .nan s, _ => exact absurd rfl (ha s)
  | _, .nan s => exact absurd rfl (hb s)
  | .inf n, .inf k => cases n <;> cases k <;> simp [FloatVal.Same, FloatVal.lt, FloatVal.Below]
  | .inf n, .fin k l d => cases n <;> simp [FloatVal.Same, FloatVal.lt, FloatVal.Below]
  | .fin n m e, .inf k => cases k <;> simp [FloatVal.Same, FloatVal.lt, FloatVal.Below]
  | .fin n m e, .fin k l d => simp only [lt_fin_iff, FloatVal.Same, FloatVal.Below, FloatVal.isNeg]

theorem lt_asymm_float (h : a.lt b = true) : b.lt a = false := by
  match a, b with
  | .inf n, .inf k => cases n <;> cases k <;> simp_all [FloatVal.lt]
  | .inf n, .fin k l d => simp_all [FloatVal.lt]
  | .fin n m e, .inf k => simp_all [FloatVal.lt]
  | .fin n m e, .fin k l d =>
    rw [lt_fin_iff] at h
    rw [← Bool.not_eq_true, lt_fin_iff]
    exact not_lt.2 h.le

end

/-! ## Patterns and their numbers -/

section
variable {f : FloatFmt} {a b : Nat}

/-- The three kinds of a pattern. -/
theorem floatVal_cases (f : FloatFmt) (b : Nat) :
    (b % f.signBit ≤ f.maxFinite ∧ ∃ m e, floatVal f b = .fin (patNeg f b) m e ∧ f.Holds (b % f.signBit) m e) ∨
      (f.infBits = some (b % f.signBit) ∧ floatVal f b = .inf (patNeg f b)) ∨ ∃ s, floatVal f b = .nan s := by
  by_cases h : b % f.signBit ≤ f.maxFinite
  · exact .inl ⟨h, floatVal_finite h⟩
  · by_cases h' : f.infBits = some (b % f.signBit)
    · exact .inr (.inl ⟨h', floatVal_inf h'⟩)
    · exact .inr (.inr (floatVal_nan (not_le.1 h) h'))

theorem number_cases (h : ∀ s, floatVal f b ≠ .nan s) :
    (∃ m e, floatVal f b = .fin (patNeg f b) m e ∧ f.Holds (b % f.signBit) m e) ∨
      (f.infBits = some (b % f.signBit) ∧ floatVal f b = .inf (patNeg f b)) := by
  obtain ⟨-, hfin⟩ | hinf | ⟨s, hnan⟩ := floatVal_cases f b
  · exact .inl hfin
  · exact .inr hinf
  · exact absurd hnan (h s)

theorem withSign_patNeg (hb : b < 2 ^ f.width) : withSign f (patNeg f b) (b % f.signBit) = b := by
  rw [← two_mul_signBit] at hb
  have hdiv : b / f.signBit < 2 := (Nat.div_lt_iff_lt_mul (signBit_pos f)).2 hb
  have hb' := Nat.div_add_mod b f.signBit
  have hneg : patNeg f b = (b / f.signBit % 2 == 1) := rfl
  rw [hneg, withSign]
  generalize b / f.signBit = q at *
  obtain rfl | rfl : q = 0 ∨ q = 1 := by omega
  · simpa using hb'
  · simpa using hb'

/-- The sign of a pattern that is no NaN is that of its number. -/
theorem isNeg_floatVal (h : ∀ s, floatVal f b ≠ .nan s) : (floatVal f b).isNeg = patNeg f b := by
  obtain ⟨m, e, hval, -⟩ | ⟨-, hval⟩ := number_cases h <;> rw [hval] <;> rfl

/-- Equal numbers of one sign have one pattern. -/
theorem floatVal_injective (ha : a < 2 ^ f.width) (hb : b < 2 ^ f.width) (hna : ∀ s, floatVal f a ≠ .nan s)
    (hnb : ∀ s, floatVal f b ≠ .nan s) (hsame : (floatVal f a).Same (floatVal f b)) (hneg : patNeg f a = patNeg f b) :
    a = b := by
  rw [← withSign_patNeg ha, ← withSign_patNeg hb, hneg]
  congr 1
  obtain ⟨m, e, hva, hm⟩ | ⟨hia, hva⟩ := number_cases hna <;> obtain ⟨l, d, hvb, hl⟩ | ⟨hib, hvb⟩ := number_cases hnb <;>
    rw [hva, hvb] at hsame
  · have habs := congrArg abs hsame
    rw [abs_rat_fin, abs_rat_fin, hm.value, hl.value, mul_left_inj' (by positivity), Nat.cast_inj] at habs
    exact (magUnits_strictMono _).injective habs
  · exact hsame.elim
  · exact hsame.elim
  · exact Option.some_injective _ (hia.symm.trans hib)

/-- Minimum and maximum, with -0 below +0 (R48). -/
theorem floatMinMax_spec (ha : a < 2 ^ f.width) (hb : b < 2 ^ f.width) (wide : Bool) :
    let va := floatVal f a
    let vb := floatVal f b
    let r := floatMinMax f wide a b
    ((∃ s, va = .nan s ∨ vb = .nan s) → NaNOf f [va, vb] r) ∧
      ((∀ s, va ≠ .nan s ∧ vb ≠ .nan s) →
        (va.Below vb → r = (if wide then b else a, 0)) ∧ (¬va.Below vb → r = (if wide then a else b, 0))) := by
  intro va vb r
  refine ⟨fun h => ?_, fun h => ?_⟩
  · have hr : r = (canonNaN f, nanFlags [va, vb]) := if_pos ((anyNaN_pair va vb).2 h)
    rw [hr]
    exact nanOf_nanFlags f _
  · have hna := fun s => (h s).1
    have hnb := fun s => (h s).2
    have hbelow := below_iff hna hnb
    have hsame := same_iff hna hnb
    have hnone : ¬anyNaN [va, vb] = true := by
      rw [anyNaN_pair]
      rintro ⟨s, h | h⟩
      · exact hna s h
      · exact hnb s h
    have hr : r = if va.lt vb then (if wide then b else a, 0) else if vb.lt va then (if wide then a else b, 0)
        else if va.isNeg then (if wide then b else a, 0) else (if wide then a else b, 0) := by
      refine (if_neg hnone).trans ?_
      cases wide <;> simp only [va, vb, if_true, Bool.false_eq_true, if_false] <;> split_ifs <;> rfl
    rw [hr]
    by_cases hlt : va.lt vb = true
    · exact ⟨fun _ => if_pos hlt, fun hn => absurd (hbelow.2 (.inl hlt)) hn⟩
    rw [if_neg hlt]
    by_cases hgt : vb.lt va = true
    · have hnot : ¬va.Below vb := by
        rw [hbelow, hsame]
        simp [hlt, hgt]
      exact ⟨fun hb => absurd hb hnot, fun _ => if_pos hgt⟩
    rw [if_neg hgt]
    have hs := hsame.2 ⟨by simpa using hlt, by simpa using hgt⟩
    cases hneg : va.isNeg
    · exact ⟨fun hb => by simp [hbelow, hlt, hneg] at hb, fun _ => rfl⟩
    · refine ⟨fun _ => rfl, fun hn => ?_⟩
      have hnegb : vb.isNeg = true := by
        by_contra hvb
        exact hn (hbelow.2 (.inr ⟨hs, hneg, by simpa using hvb⟩))
      have hab : a = b := by
        refine floatVal_injective ha hb hna hnb hs ?_
        rw [← isNeg_floatVal hna, ← isNeg_floatVal hnb]
        exact hneg.trans hnegb.symm
      rw [hab]
      cases wide <;> rfl

/-- Comparison: the zeros are equal, and no NaN is (R95, R144). -/
theorem floatCompare_spec (cond : Nat) (va vb : FloatVal) :
    let r := floatCompare cond va vb
    let nan := ∃ s, va = .nan s ∨ vb = .nan s
    let same := va.Same vb
    let less := va.Below vb ∧ ¬same
    (r.1 = true ↔ match cond with
      | 0 => ¬nan ∧ same | 1 => nan ∨ ¬same | 2 => ¬nan ∧ less | 3 => ¬nan ∧ (less ∨ same)
      | 4 => ¬nan ∧ ¬less ∧ ¬same | _ => ¬nan ∧ ¬less) ∧
    (nan → r.2 = if 2 ≤ cond ∨ .nan true ∈ [va, vb] then flagNV else 0) ∧ (¬nan → r.2 = 0) := by
  intro r nan same less
  by_cases h : nan
  · have hr : r = (cond == 1, if cond ≥ 2 then flagNV else nanFlags [va, vb]) := if_pos ((anyNaN_pair va vb).2 h)
    rw [hr, nanFlags_eq]
    refine ⟨?_, fun _ => ?_, fun hn => absurd h hn⟩
    · match cond with
      | 0 | 2 | 3 | 4 | n + 5 => simp [h]
      | 1 => simp [h]
    · by_cases hc : 2 ≤ cond <;> simp [hc]
  · have hn : ∀ s, va ≠ .nan s ∧ vb ≠ .nan s := fun s => ⟨fun hs => h ⟨s, .inl hs⟩, fun hs => h ⟨s, .inr hs⟩⟩
    have hsame : same ↔ va.lt vb = false ∧ vb.lt va = false := same_iff (fun s => (hn s).1) (fun s => (hn s).2)
    have hless : less ↔ va.lt vb = true := by
      have hbelow := below_iff (fun s => (hn s).1) (fun s => (hn s).2)
      simp only [less, hbelow, hsame, same]
      cases va.lt vb <;> cases vb.lt va <;> simp
    have hasymm : ¬(va.lt vb = true ∧ vb.lt va = true) := fun ⟨hl, hg⟩ => by rw [lt_asymm_float hl] at hg; simp at hg
    have hr : floatCompare cond va vb = _ := if_neg (mt (anyNaN_pair va vb).1 h)
    rw [show r = floatCompare cond va vb from rfl, hr]
    refine ⟨?_, fun hnan => absurd hnan h, fun _ => rfl⟩
    simp only [h, hless, hsame, not_false_eq_true, true_and, false_or]
    generalize va.lt vb = l at *
    generalize vb.lt va = gt at *
    match cond with
    | 0 | 1 | 2 | 3 | 4 | n + 5 => cases l <;> cases gt <;> simp_all

end

end Sys2Proof.Machine
end

section
/-!
PROOF. Classes, signs and integral rounding (spec/02 R51, spec/06 R143, R145, R146, R147): what a float gives as an integer, and an
integer as a float.
-/
namespace Sys2Proof.Machine

section
variable {f : FloatFmt} {mode g b : Nat} {sat : Bool}

/-! ## Signs and classes -/

theorem signOf_eq (hb : b < 2 ^ f.width) : signOf f b = decide (f.signBit ≤ b) := by
  rw [← two_mul_signBit] at hb
  have hlt : b / f.signBit < 2 := (Nat.div_lt_iff_lt_mul (signBit_pos f)).2 hb
  have hle : 1 ≤ b / f.signBit ↔ f.signBit ≤ b := by rw [Nat.le_div_iff_mul_le (signBit_pos f), one_mul]
  rw [signOf, Bool.beq_eq_decide_eq, decide_eq_decide, ← hle]
  generalize b / f.signBit = q at *
  omega

/-- A word that moves a sign acts on the sign alone, and makes a NaN canonical. -/
theorem signWord_spec (f : FloatFmt) (b : Nat) (neg : Bool) :
    ((∃ s, floatVal f b = .nan s) → NaNOf f [floatVal f b] (signWord f b neg)) ∧
      ((∀ s, floatVal f b ≠ .nan s) → signWord f b neg = (withSign f neg (b % f.signBit), 0)) := by
  unfold signWord
  match h : floatVal f b with
  | .nan s => exact ⟨fun _ => nanOf_single f s, fun hn => absurd rfl (hn s)⟩
  | .inf n => exact ⟨fun ⟨s, hs⟩ => (nomatch hs), fun _ => rfl⟩
  | .fin n m e => exact ⟨fun ⟨s, hs⟩ => (nomatch hs), fun _ => rfl⟩

/-- A number below the smallest normal one has a significand below the leading bit. -/
theorem FloatFmt.Holds.subnormal_iff {mag m : Nat} {e : Int} (h : f.Holds mag m e) :
    m < 2 ^ f.fracBits ↔ (m : ℚ) * 2 ^ e < 2 ^ (1 - (f.bias : ℤ)) := by
  have hnormal : (2 : ℚ) ^ (1 - (f.bias : ℤ)) = 2 ^ f.fracBits * 2 ^ f.unit := by
    rw [← zpow_natCast, ← zpow_add₀ two_ne_zero]
    congr 1
    unfold FloatFmt.unit
    ring
  rw [hnormal]
  refine ⟨fun hlt => ?_, fun hlt => ?_⟩
  · rw [h.normal hlt]
    exact mul_lt_mul_of_pos_right (by exact_mod_cast hlt) (by positivity)
  · by_contra hge
    have hm : (2 : ℚ) ^ f.fracBits ≤ m := by exact_mod_cast not_lt.1 hge
    have hle : (2 : ℚ) ^ f.unit ≤ 2 ^ e := zpow_le_zpow_right₀ one_le_two h.unit_le
    exact absurd hlt (not_lt.2 (mul_le_mul hm hle (by positivity) (by positivity)))

theorem floatClass_fin {n : Bool} {m : Nat} {e : Int} (h : floatVal f b = .fin n m e) :
    floatClass f b = if m = 0 then (if n then 8 else 16)
      else if |(FloatVal.fin n m e).rat| < (2 : ℚ) ^ (1 - (f.bias : ℤ)) then (if n then 4 else 32) else if n then 2 else 64 := by
  obtain ⟨m', e', hval, hm⟩ | ⟨-, hval⟩ := number_cases (f := f) (b := b) (by simp [h])
  · obtain ⟨-, rfl, rfl⟩ : _ ∧ m = m' ∧ e = e' := by simpa [h] using hval
    simp only [floatClass, h, abs_rat_fin, ← hm.subnormal_iff, beq_iff_eq]
  · simp [h] at hval

/-! ## Rounding to an integer -/

theorem encloses_abs_rat (n : Bool) (m : Nat) (e : Int) :
    (ExactVal.mk n m e false).Encloses |((FloatVal.fin n m e).rat : ℝ)| := by
  have habs := (ExactVal.mk n m e false).abs_rat
  rw [ExactVal.rat] at habs
  have hlt : (m : ℝ) * 2 ^ e < (m + 1) * 2 ^ e := mul_lt_mul_of_pos_right (lt_add_one _) (by positivity)
  exact ⟨habs.ge, habs ▸ hlt, iff_of_true rfl habs⟩

theorem roundInt_spec (hg : g < 65536) (n : Bool) (m : Nat) (e : Int) :
    let r := roundInt mode g n m e
    RoundsMag mode g (n = true) |((FloatVal.fin n m e).rat : ℝ)| 0 r.1 ∧ (r.2 = true ↔ (r.1 : ℚ) ≠ |(FloatVal.fin n m e).rat|) := by
  obtain ⟨hk, hinexact⟩ := roundAt_spec (mode := mode) (q := 0) (encloses_abs_rat n m e) (by simp) hg
  refine ⟨hk, hinexact.trans ?_⟩
  rw [zpow_zero, mul_one]
  norm_cast

theorem isValue_withSign {mag k : Nat} {q : Int} (n : Bool) (hmag : mag ≤ f.maxFinite)
    (hval : (magUnits f.fracBits mag : ℝ) * 2 ^ f.unit = k * 2 ^ q) : IsValue f (withSign f n mag) (n = true) k q := by
  obtain ⟨m, e, hv, hm⟩ := floatVal_withSign (f := f) n hmag
  exact ⟨n, m, e, hv, Iff.rfl, hm.real.trans hval⟩

theorem pow_fracBits_le_most (f : FloatFmt) : (2 : ℝ) ^ f.fracBits ≤ f.most := by
  have h := mt (most_lt_iff f ((f.fracBits + f.bias - 1 + 1) * 2 ^ f.fracBits)).1 (not_lt.2 (by cases f <;> decide))
  have he : ((f.fracBits + f.bias - 1 : ℕ) : ℤ) + 1 - f.bias = f.fracBits := by cases f <;> rfl
  rw [pow_binade, he, zpow_natCast] at h
  exact not_lt.1 h

/-- An integer below the precision is a number of the format. -/
theorem roundExact_integer {k : Nat} (n : Bool) (hk : k ≤ 2 ^ f.fracBits) :
    IsValue f (roundExact f 0 false 0 ⟨n, k, 0, false⟩).1 (n = true) k 0 := by
  have hunit : f.unit ≤ 0 := by cases f <;> decide
  have hpow := pow_succ 2 f.fracBits
  have hp : 0 < 2 ^ f.fracBits := by positivity
  have hmost : (k : ℝ) * 2 ^ (0 : ℤ) ≤ f.most := by
    rw [zpow_zero, mul_one]
    exact le_trans (by exact_mod_cast hk) (pow_fracBits_le_most f)
  obtain ⟨mag, hmag, hval, hfits⟩ := roundExact_fits (f := f) (v := ⟨n, k, 0, false⟩) rfl (by dsimp only; omega) hunit hmost
  rw [hfits]
  exact isValue_withSign n hmag hval

/-- `frnd` (R146). -/
theorem floatRoundIntegral_spec (hg : g < 65536) (hb : b < 2 ^ f.width) :
    FunctionGives f (floatVal f b) (fun n r => r = (infOf f n, 0)) (fun n _ r => ∃ z : ℕ,
      RoundsMag mode g (n = true) |((floatVal f b).rat : ℝ)| 0 z ∧ IsValue f r.1 (n = true) z 0 ∧
        r.2 = if (z : ℚ) = |(floatVal f b).rat| then 0 else flagNX) (floatRoundIntegral f mode g b) := by
  unfold floatRoundIntegral
  obtain ⟨-, m, e, hval, hm⟩ | ⟨hinf, hval⟩ | ⟨s, hval⟩ := floatVal_cases f b
  · rw [hval]
    change ∃ z : ℕ, _
    dsimp only
    by_cases hint : m = 0 ∨ 0 ≤ e
    · rw [if_pos (by simpa using hint)]
      have hz : ((m * 2 ^ e.toNat : ℕ) : ℚ) = |(FloatVal.fin (patNeg f b) m e).rat| := by
        rw [abs_rat_fin]
        rcases hint with rfl | he
        · simp
        · have hc : (e.toNat : ℤ) = e := Int.toNat_of_nonneg he
          rw [← hc, zpow_natCast, hc]
          push_cast
          rfl
      have hzr : |((FloatVal.fin (patNeg f b) m e).rat : ℝ)| = (m * 2 ^ e.toNat : ℕ) * 2 ^ (0 : ℤ) := by
        rw [zpow_zero, mul_one, ← Rat.cast_abs, ← hz, Rat.cast_natCast]
      refine ⟨m * 2 ^ e.toNat, roundsMag_self hg hzr, ⟨_, m, e, hval, Iff.rfl, ?_⟩, by rw [if_pos hz]⟩
      rw [← hzr, ← Rat.cast_abs, abs_rat_fin]
      push_cast
      rfl
    · obtain ⟨hm0, he⟩ := not_or.1 hint
      obtain ⟨hk, hinexact⟩ := roundInt_spec (mode := mode) hg (patNeg f b) m e
      rw [if_neg (by simpa using hint)]
      have hbound : |((FloatVal.fin (patNeg f b) m e).rat : ℝ)| < ((2 ^ f.fracBits : ℕ) : ℝ) * 2 ^ (0 : ℤ) := by
        have hm' : (m : ℝ) < 2 ^ (f.fracBits + 1) := by exact_mod_cast hm.lt
        have he' : (2 : ℝ) ^ e ≤ 2 ^ (-1 : ℤ) := zpow_le_zpow_right₀ one_le_two (by omega)
        rw [← Rat.cast_abs, abs_rat_fin]
        push_cast
        calc (m : ℝ) * 2 ^ e ≤ m * 2 ^ (-1 : ℤ) := mul_le_mul_of_nonneg_left he' (by positivity)
          _ < 2 ^ (f.fracBits + 1) * 2 ^ (-1 : ℤ) := mul_lt_mul_of_pos_right hm' (by positivity)
          _ = _ := by rw [pow_succ, zpow_neg_one, zpow_zero]; ring
      have hk2 := (roundsMag_bounds (a := 0) hk (by simp) hbound).2
      refine ⟨_, hk, roundExact_integer _ hk2, ?_⟩
      generalize roundInt mode g (patNeg f b) m e = r at *
      cases h2 : r.2 <;> simp only [h2, Bool.false_eq_true, false_iff, true_iff, not_not] at hinexact
      · rw [if_pos hinexact]; rfl
      · rw [if_neg hinexact]; rfl
  · rw [hval]
    refine Prod.ext ?_ rfl
    change b = infOf f (patNeg f b)
    rw [infOf, hinf, Option.getD_some, withSign_patNeg hb]
  · rw [hval]
    exact nanOf_single f s

/-- A float to an integer (R51). -/
theorem floatToInt_gives {w : Nat} (hw : 0 < w) (signed : Bool) (hg : g < 65536) (a : FloatVal) :
    IntegerGives w signed mode g a (floatToInt w signed mode g a) := by
  have hle : intMin w signed ≤ intMax w signed := (asInt_mem hw signed 0).1.trans (asInt_mem hw signed 0).2
  match a with
  | .nan s => exact ⟨by positivity, rfl⟩
  | .inf n =>
    refine ⟨Laws.low_lt_pow _ _, ?_, rfl⟩
    cases n
    · exact asInt_low hw hle le_rfl
    · exact asInt_low hw le_rfl hle
  | .fin n m e =>
    obtain ⟨hk, hinexact⟩ := roundInt_spec (mode := mode) hg n m e
    generalize hr : roundInt mode g n m e = r at *
    have hres : floatToInt w signed mode g (.fin n m e) =
        let v : Int := if n then -(r.1 : Int) else r.1
        if intMax w signed < v then (low w (intMax w signed), flagNV)
        else if v < intMin w signed then (low w (intMin w signed), flagNV)
        else (low w v, if r.2 then flagNX else 0) := by rw [← hr]; rfl
    dsimp only at hres
    generalize hv : (if n then -(r.1 : Int) else r.1) = v at hres
    rw [hres]
    refine ⟨by split <;> [skip; split] <;> exact Laws.low_lt_pow _ _, r.1, hk, ?_⟩
    dsimp only
    rw [hv]
    change asInt signed w _ = max (intMin w signed) (min (intMax w signed) _) ∧
      _ = if _ < intMin w signed ∨ intMax w signed < _ then flagNV else if _ then 0 else flagNX
    by_cases hhi : intMax w signed < v
    · rw [if_pos hhi, if_pos (.inr hhi)]
      exact ⟨by rw [asInt_low hw hle le_rfl, min_eq_left hhi.le, max_eq_right hle], rfl⟩
    rw [if_neg hhi]
    by_cases hlo : v < intMin w signed
    · rw [if_pos hlo, if_pos (.inl hlo)]
      exact ⟨by rw [asInt_low hw le_rfl hle, max_eq_left ((min_le_right _ _).trans hlo.le)], rfl⟩
    rw [if_neg hlo, if_neg (not_or.2 ⟨hlo, hhi⟩)]
    refine ⟨by rw [asInt_low hw (not_lt.1 hlo) (not_lt.1 hhi), min_eq_right (not_lt.1 hhi), max_eq_right (not_lt.1 hlo)], ?_⟩
    cases h2 : r.2 <;> simp only [h2, Bool.false_eq_true, false_iff, true_iff, not_not] at hinexact
    · rw [if_pos hinexact]; rfl
    · rw [if_neg hinexact]; rfl

end
end Sys2Proof.Machine
end

section
/-!
PROOF. O44, the float words and the conversions: what each gives element by element (spec/02 R43 to R62, spec/06 R142 to R151).
-/
namespace Sys2Proof.Machine

section
variable {f : FloatFmt} {mode g b : Nat} {sat : Bool}

/-! ## Every result is a pattern -/

theorem roundRaw_lt (f : FloatFmt) (mode : Nat) (sat : Bool) (g : Nat) (r : RawResult) : (roundRaw f mode sat g r).1 < 2 ^ f.width := by
  match r with
  | .nan fl => exact lt_of_lt_signBit (canonNaN_lt f)
  | .inf n fl => exact withSign_lt n (infBits_lt f)
  | .exact v => exact roundExact_lt f mode sat g v

/-- A NaN is converted to the canonical one, where the target has one (R50). -/
theorem roundConv_nan (hf : f ≠ .e2m1) (s : Bool) : roundConv f mode sat g (.nan s) = (canonNaN f, if s then flagNV else 0) := by
  cases f
  case e2m1 => exact absurd rfl hf
  all_goals rfl

/-- What an infinity is converted to (R50). -/
theorem roundConv_inf (hf : f ≠ .e2m1) (n : Bool) : roundConv f mode sat g (.inf n) =
    if sat then (withSign f n f.maxFinite, 0) else if f = .e4m3 then (canonNaN f, flagNV) else (infOf f n, 0) := by
  cases f
  case e2m1 => exact absurd rfl hf
  all_goals rfl

theorem roundConv_lt (hf : f ≠ .e2m1) (a : FloatVal) : (roundConv f mode sat g a).1 < 2 ^ f.width := by
  match a with
  | .nan s =>
    rw [roundConv_nan hf]
    exact lt_of_lt_signBit (canonNaN_lt f)
  | .inf n =>
    rw [roundConv_inf hf]
    split_ifs
    · exact withSign_lt n (maxFinite_lt_signBit f)
    · exact lt_of_lt_signBit (canonNaN_lt f)
    · exact withSign_lt n (infBits_lt f)
  | .fin n m e => exact roundExact_lt f mode sat g _

theorem exactConv_lt (f : FloatFmt) (a : FloatVal) : (exactConv f a).1 < 2 ^ f.width := by
  match a with
  | .nan s => exact lt_of_lt_signBit (canonNaN_lt f)
  | .inf n => exact withSign_lt n (infBits_lt f)
  | .fin n m e => exact roundExact_lt f 0 false 0 _

theorem modified_lt (f : FloatFmt) (x j v : Nat) : modified f x j v < 2 ^ f.width :=
  withSign_lt _ (Nat.mod_lt _ (signBit_pos f))

theorem floatMinMax_lt (wide : Bool) {a b : Nat} (ha : a < 2 ^ f.width) (hb : b < 2 ^ f.width) :
    (floatMinMax f wide a b).1 < 2 ^ f.width := by
  unfold floatMinMax
  dsimp only
  split_ifs
  · exact lt_of_lt_signBit (canonNaN_lt f)
  all_goals assumption

theorem signWord_lt (f : FloatFmt) (a : Nat) (n : Bool) : (signWord f a n).1 < 2 ^ f.width := by
  unfold signWord
  split
  · exact lt_of_lt_signBit (canonNaN_lt f)
  · exact withSign_lt n (Nat.mod_lt _ (signBit_pos f))

theorem floatRoundIntegral_lt (f : FloatFmt) (mode g : Nat) {a : Nat} (ha : a < 2 ^ f.width) :
    (floatRoundIntegral f mode g a).1 < 2 ^ f.width := by
  unfold floatRoundIntegral
  split
  · exact lt_of_lt_signBit (canonNaN_lt f)
  · exact ha
  · split
    · exact ha
    · exact roundExact_lt f 0 false 0 _

/-! ## Conversions between float types -/

/-- An element converted with rounding (R50, R147). -/
theorem roundConv_gives (hf : f ≠ .e2m1) (hg : g < 65536) (a : FloatVal) :
    ConvertGives f mode sat false g a (roundConv f mode sat g a) := by
  match a with
  | .nan s =>
    rw [roundConv_nan hf]
    exact nanOf_single f s
  | .inf n =>
    rw [roundConv_inf hf, ConvertGives]
    simp only [true_and]
    split_ifs <;> rfl
  | .fin n m e => exact roundExact_roundsOr (v := ⟨n, m, e, false⟩) rfl hg

/-- The numbers of a format are numbers of another. -/
structure FloatFmt.Within (s t : FloatFmt) : Prop where
  fracBits : s.fracBits ≤ t.fracBits
  unit : t.unit ≤ s.unit
  most : s.most ≤ t.most

/-- A number of a narrower format is exact in a wider one, whatever the mode. -/
theorem roundExact_within {s : FloatFmt} (h : s.Within f) {n : Bool} {m : Nat} {e : Int} (hb : floatVal s b = .fin n m e) :
    ∃ r, ∀ mode sat g, roundExact f mode sat g ⟨n, m, e, false⟩ = r := by
  obtain ⟨hmag, m', e', hval, hm⟩ | ⟨-, hval⟩ | ⟨_, hval⟩ := floatVal_cases s b
  · obtain ⟨-, rfl, rfl⟩ : _ ∧ m = m' ∧ e = e' := by simpa [hb] using hval
    have hmost : (m : ℝ) * 2 ^ e ≤ f.most := by
      have hle := not_lt.1 (mt (most_lt_iff s (b % s.signBit)).1 (not_lt.2 hmag))
      rw [hm.real]
      exact hle.trans (by exact_mod_cast h.most)
    obtain ⟨mag, -, -, hfits⟩ := roundExact_fits (f := f) (v := ⟨n, m, e, false⟩) rfl
      (hm.lt.trans_le (Nat.pow_le_pow_right two_pos (Nat.succ_le_succ h.fracBits))) (h.unit.trans hm.unit_le) hmost
    exact ⟨_, hfits⟩
  · simp [hb] at hval
  · simp [hb] at hval

/-- An element converted exactly (R147). -/
theorem exactConv_gives {s : FloatFmt} (h : s.Within f) (hf : f ≠ .e4m3) (sat : Bool) :
    ConvertGives f 0 sat true 0 (floatVal s b) (exactConv f (floatVal s b)) := by
  match hv : floatVal s b with
  | .nan s => exact nanOf_single f s
  | .inf n =>
    rw [ConvertGives, if_neg (by simp), if_neg hf]
    rfl
  | .fin n m e =>
    obtain ⟨r, hr⟩ := roundExact_within h hv
    have hrounds := roundExact_roundsOr (f := f) (mode := 0) (sat := sat) (v := ⟨n, m, e, false⟩) rfl (by decide : 0 < 65536)
    rw [hr] at hrounds
    rw [exactConv, hr]
    exact hrounds

theorem within_f32_f64 : FloatFmt.f32.Within .f64 := by
  have h32 := most_lt_pow .f32
  have h64 := mt (most_lt_iff .f64 ((1023 + 128 + 1) * 2 ^ FloatFmt.f64.fracBits)).1 (not_lt.2 (by decide))
  rw [pow_binade] at h64
  have hle := h32.le.trans (le_trans (by norm_num [FloatFmt.bias]) (not_lt.1 h64))
  exact ⟨by decide, by decide, by exact_mod_cast hle⟩

theorem within_bf16_f32 : FloatFmt.bf16.Within .f32 := by
  refine ⟨by decide, by decide, ?_⟩
  norm_num [FloatFmt.most, magUnits, FloatFmt.maxFinite, FloatFmt.fracBits, FloatFmt.unit, FloatFmt.bias]

theorem within_f16_f32 : FloatFmt.f16.Within .f32 := by
  refine ⟨by decide, by decide, ?_⟩
  norm_num [FloatFmt.most, magUnits, FloatFmt.maxFinite, FloatFmt.fracBits, FloatFmt.unit, FloatFmt.bias]

/-- The formats of 8 bits stand within those of 16 and 32. -/
theorem within_fp8 {s t : FloatFmt} (hs : s = .e4m3 ∨ s = .e5m2) (ht : t = .f32 ∨ t = .f16 ∨ t = .bf16) : s.Within t := by
  rcases hs with rfl | rfl <;> rcases ht with rfl | rfl | rfl <;> refine ⟨by decide, by decide, ?_⟩ <;>
    norm_num [FloatFmt.most, magUnits, FloatFmt.maxFinite, FloatFmt.fracBits, FloatFmt.unit, FloatFmt.bias]

end
end Sys2Proof.Machine
end

section
/-!
PROOF. O44, the words of float elements: each word is its function on each element after the sources' modifiers (spec/06 R142).
-/
namespace Sys2Proof.Machine

/-- Element k of source j of a float word, after its modifiers (R142). -/
def LaneArg.floatSource (p : LaneArg) (j k : Nat) : Nat :=
  modified (floatFmt p.w.t) p.x j (elemOf (floatFmt p.w.t).width (match j with | 0 => p.a | 1 => p.b | _ => p.c) k)

/-- What that element stands for. -/
def LaneArg.floatValue (p : LaneArg) (j k : Nat) : FloatVal := floatVal (floatFmt p.w.t) (p.floatSource j k)

/-- A raw result rounded as the word says, with the random bits of element k. -/
def LaneArg.rounding (p : LaneArg) (k : Nat) (r : RawResult) : Nat × Nat :=
  roundRaw (floatFmt p.w.t) (xRnd p.x) (xSat p.x) (srElem p.draw k) r

/-- Each element of a float word's result is as a property says. -/
abbrev LaneArg.EachFloat (p : LaneArg) (opc : Nat) (P : Nat → Nat × Nat → Prop) : Prop :=
  p.Elems opc (floatFmt p.w.t).width (elemCount p.w.t) P

/-- Each element of a function word's result is what the function gives for the element of the source. -/
abbrev LaneArg.EachFunction (p : LaneArg) (opc : Nat) (inf : Bool → Nat × Nat → Prop)
    (fin : Nat → Bool → Nat → Nat × Nat → Prop) : Prop :=
  p.EachFloat opc fun k => FunctionGives (floatFmt p.w.t) (p.floatValue 0 k) inf (fin k)

theorem srElem_lt (draw k : Nat) : srElem draw k < 65536 := Nat.mod_lt _ (by decide)

section
variable {p : LaneArg} {opc : Nat} {P : Nat → Nat × Nat → Prop}

theorem floatSource_lt (p : LaneArg) (j k : Nat) : p.floatSource j k < 2 ^ (floatFmt p.w.t).width := modified_lt _ _ _ _

/-- A float word of patterns. -/
theorem elems_of_patterns (F : FloatFmt → Nat → Nat → Nat → Nat → Nat × Nat)
    (h : (laneFn opc).map (fun op => op p) = some (floatElems p F))
    (hF : ∀ k, let r := F (floatFmt p.w.t) (srElem p.draw k) (p.floatSource 0 k) (p.floatSource 1 k) (p.floatSource 2 k)
      r.1 < 2 ^ (floatFmt p.w.t).width ∧ P k r) : p.EachFloat opc P :=
  elems_of_join h fun k _ => hF k

/-- A rounded float word. -/
theorem elems_of_raw (raw : FloatVal → FloatVal → FloatVal → RawResult)
    (h : (laneFn opc).map (fun op => op p) = some (floatElems p fun fm g a b c =>
      roundRaw fm (xRnd p.x) (xSat p.x) g (raw (floatVal fm a) (floatVal fm b) (floatVal fm c))))
    (hP : ∀ k, P k (p.rounding k (raw (p.floatValue 0 k) (p.floatValue 1 k) (p.floatValue 2 k)))) : p.EachFloat opc P :=
  elems_of_patterns _ h fun k => ⟨roundRaw_lt _ _ _ _ _, hP k⟩

/-- A rounded float word of one source: what it gives for a NaN, for the infinities and for the numbers. -/
theorem elems_of_function (raw : FloatVal → RawResult) {inf : Bool → Nat × Nat → Prop} {fin : Nat → Bool → Nat → Nat × Nat → Prop}
    (h : (laneFn opc).map (fun op => op p) = some (float1 p raw))
    (hnan : ∀ s, raw (.nan s) = .nan (if s then flagNV else 0))
    (hinf : ∀ k n, inf n (p.rounding k (raw (.inf n))))
    (hfin : ∀ k n m e, m < 2 ^ 53 → p.floatValue 0 k = .fin n m e → fin k n m (p.rounding k (raw (.fin n m e)))) :
    p.EachFunction opc inf fin := by
  refine elems_of_raw (fun a _ _ => raw a) h fun k => ?_
  obtain ⟨-, m, e, hval, hm⟩ | ⟨-, hval⟩ | ⟨s, hval⟩ := floatVal_cases (floatFmt p.w.t) (p.floatSource 0 k)
  · have hF : (floatFmt p.w.t).fracBits + 1 ≤ 53 := by cases floatFmt p.w.t <;> decide
    have hgives := hfin k _ m e (hm.lt.trans_le (Nat.pow_le_pow_right two_pos hF)) hval
    rw [show p.floatValue 0 k = _ from hval]
    exact hgives
  · rw [show p.floatValue 0 k = _ from hval]
    exact hinf k _
  · rw [show p.floatValue 0 k = _ from hval, hnan]
    exact nanOf_single _ s

/-- A conversion to a float type, element by element. -/
theorem elems_of_toFloat {exact : Bool} (src : Nat → FloatVal)
    (h : (laneFn opc).map (fun op => op p) = some (toFloat p exact src))
    (hP : ∀ k, k < elemCount p.w.t → P k (if exact then exactConv (floatFmt p.w.t) (src k)
      else roundConv (floatFmt p.w.t) (xRnd p.x) (xSat p.x) (srElem p.draw k) (src k))) : p.EachFloat opc P := by
  refine elems_of_join h fun k hk => ⟨?_, hP k hk⟩
  cases exact
  · exact roundConv_lt (by unfold floatFmt; split <;> decide) _
  · exact exactConv_lt _ _

theorem modified_elem_zero (f : FloatFmt) (x j v : Nat) : modified f x j (elemOf f.width v 0) = modified f x j v := by
  have hs := two_mul_signBit f
  have hmod : v % 2 ^ f.width % f.signBit = v % f.signBit := by rw [← hs, Nat.mod_mul_left_mod]
  have hdiv : v % 2 ^ f.width / f.signBit % 2 = v / f.signBit % 2 := by
    rw [← hs, Nat.mul_comm, Nat.mod_mul_right_div_self, Nat.mod_mod]
  rw [elemOf_zero, modified, modified, hmod, hdiv]

end

end Sys2Proof.Machine
end

section
/-!
PROOF. O44, what each float word gives for each element after the sources' modifiers (spec/02 R47 to R55, spec/06 R143 to R146).
-/
namespace Sys2Proof.Machine

section
variable (p : LaneArg)

/-- A number rounded once as the word says, with the random bits of element k, and a sign for 0. -/
abbrev LaneArg.Rounded (p : LaneArg) (k : Nat) (x : ℝ) : Nat × Nat → Prop :=
  RoundsOr (floatFmt p.w.t) (xRnd p.x) (xSat p.x) (srElem p.draw k) x false

/-! ## Sums, products and quotients -/

theorem fadd_elems : p.EachFloat 0x040 fun k =>
    SumGives (floatFmt p.w.t) (xRnd p.x) (xSat p.x) (srElem p.draw k) (p.floatValue 0 k) (p.floatValue 1 k) :=
  elems_of_raw (fun a b _ => rawAdd (xRnd p.x) a b) rfl fun k => rawAdd_gives (srElem_lt _ k) _ _

theorem fsub_elems : p.EachFloat 0x041 fun k =>
    SumGives (floatFmt p.w.t) (xRnd p.x) (xSat p.x) (srElem p.draw k) (p.floatValue 0 k) (p.floatValue 1 k).negate :=
  elems_of_raw (fun a b _ => rawAdd (xRnd p.x) a b.negate) rfl fun k => rawAdd_gives (srElem_lt _ k) _ _

theorem fmul_elems : p.EachFloat 0x042 fun k =>
    ProductGives (floatFmt p.w.t) (xRnd p.x) (xSat p.x) (srElem p.draw k) (p.floatValue 0 k) (p.floatValue 1 k) :=
  elems_of_raw (fun a b _ => rawMul a b) rfl fun k => rawMul_gives (srElem_lt _ k) _ _

theorem fma_elems : p.EachFloat 0x043 fun k =>
    FmaGives (floatFmt p.w.t) (xRnd p.x) (xSat p.x) (srElem p.draw k) (p.floatValue 0 k) (p.floatValue 1 k) (p.floatValue 2 k) :=
  elems_of_raw (rawFma (xRnd p.x)) rfl fun k => rawFma_gives (srElem_lt _ k) _ _ _

theorem frcp_elems : p.EachFloat 0x04B fun k =>
    QuotientGives (floatFmt p.w.t) (xRnd p.x) (xSat p.x) (srElem p.draw k) (.fin false 1 0) (p.floatValue 0 k) :=
  elems_of_raw (fun a _ _ => rawRcp a) rfl fun k => rawDiv_gives (srElem_lt _ k) (.fin false 1 0) _

theorem fdiv_elems : p.EachFloat 0x04E fun k =>
    QuotientGives (floatFmt p.w.t) (xRnd p.x) (xSat p.x) (srElem p.draw k) (p.floatValue 0 k) (p.floatValue 1 k) :=
  elems_of_raw (fun a b _ => rawDiv a b) rfl fun k => rawDiv_gives (srElem_lt _ k) _ _

/-! ## The functions of one operand (R55) -/

theorem frsq_elems : p.EachFunction 0x04C
    (fun n r => if n then Invalid (floatFmt p.w.t) r else r = (withSign (floatFmt p.w.t) false 0, 0))
    (fun k n m r => if m = 0 then r = (infOf (floatFmt p.w.t) n, flagDZ) else if n then Invalid (floatFmt p.w.t) r
      else p.Rounded k (1 / √(p.floatValue 0 k).rat) r) := by
  refine elems_of_function rawRsqrt rfl (fun _ => rfl) (fun k n => ?_) fun k n m e hm hval => ?_
  · cases n <;> rfl
  · rw [hval]
    by_cases hm0 : m = 0
    · rw [if_pos hm0, hm0]
      rfl
    rw [if_neg hm0]
    cases n
    · exact rawRsqrt_fin (srElem_lt _ k) hm0 hm
    · have hraw : rawRsqrt (.fin true m e) = .nan flagNV := by rw [rawRsqrt, if_neg (by simpa using hm0), if_pos rfl]
      rw [hraw]
      rfl

theorem fsqrt_elems : p.EachFunction 0x04D
    (fun n r => if n then Invalid (floatFmt p.w.t) r else r = (infOf (floatFmt p.w.t) false, 0))
    (fun k n m r => if m = 0 then r = (withSign (floatFmt p.w.t) n 0, 0) else if n then Invalid (floatFmt p.w.t) r
      else p.Rounded k √(p.floatValue 0 k).rat r) := by
  refine elems_of_function rawSqrt rfl (fun _ => rfl) (fun k n => ?_) fun k n m e hm hval => ?_
  · cases n <;> rfl
  · rw [hval]
    by_cases hm0 : m = 0
    · rw [if_pos hm0, hm0]
      exact roundRaw_zero n
    rw [if_neg hm0]
    cases n
    · exact rawSqrt_fin (srElem_lt _ k) hm0 hm
    · have hraw : rawSqrt (.fin true m e) = .nan flagNV := by rw [rawSqrt, if_neg (by simpa using hm0), if_pos rfl]
      rw [hraw]
      rfl

theorem fexp2_elems : p.EachFunction 0x04F
    (fun n r => r = (if n then withSign (floatFmt p.w.t) false 0 else infOf (floatFmt p.w.t) false, 0))
    (fun k _ _ r => ∀ z : ℤ, (p.floatValue 0 k).rat = z → p.Rounded k ((2 : ℝ) ^ z) r) := by
  refine elems_of_function rawExp2 rfl (fun _ => rfl) (fun k n => ?_) fun k n m e hm hval => ?_
  · cases n <;> rfl
  · rw [hval]
    exact fun z hz => rawExp2_int (srElem_lt _ k) hz

theorem flog2_elems : p.EachFunction 0x050
    (fun n r => if n then Invalid (floatFmt p.w.t) r else r = (infOf (floatFmt p.w.t) false, 0))
    (fun k n m r => if m = 0 then r = (infOf (floatFmt p.w.t) true, flagDZ) else if n then Invalid (floatFmt p.w.t) r
      else ∀ z : ℤ, (p.floatValue 0 k).rat = 2 ^ z → p.Rounded k z r) := by
  refine elems_of_function rawLog2 rfl (fun _ => rfl) (fun k n => ?_) fun k n m e hm hval => ?_
  · cases n <;> rfl
  · rw [hval]
    by_cases hm0 : m = 0
    · rw [if_pos hm0, hm0]
      rfl
    rw [if_neg hm0]
    cases n
    · exact fun z hz => rawLog2_pow (srElem_lt _ k) hm0 hz
    · have hraw : rawLog2 (.fin true m e) = .nan flagNV := by rw [rawLog2, if_neg (by simpa using hm0), if_pos rfl]
      rw [hraw]
      rfl

theorem fsinpi_elems : p.EachFunction 0x051 (fun _ r => Invalid (floatFmt p.w.t) r) (fun k n _ r => ∀ z : ℤ,
    ((p.floatValue 0 k).rat = z → r = (withSign (floatFmt p.w.t) n 0, 0)) ∧
      ((p.floatValue 0 k).rat = z + 1 / 2 → p.Rounded k (if z % 2 = 0 then 1 else -1) r)) := by
  refine elems_of_function rawSinpi rfl (fun _ => rfl) (fun _ _ => rfl) fun k n m e hm hval => ?_
  rw [hval]
  exact fun z => ⟨rawSinpi_int, rawSinpi_half (srElem_lt _ k)⟩

theorem fcospi_elems : p.EachFunction 0x052 (fun _ r => Invalid (floatFmt p.w.t) r) (fun k _ _ r => ∀ z : ℤ,
    ((p.floatValue 0 k).rat = z → p.Rounded k (if z % 2 = 0 then 1 else -1) r) ∧
      ((p.floatValue 0 k).rat = z + 1 / 2 → r = (withSign (floatFmt p.w.t) false 0, 0))) := by
  refine elems_of_function rawCospi rfl (fun _ => rfl) (fun _ _ => rfl) fun k n m e hm hval => ?_
  rw [hval]
  exact fun z => ⟨rawCospi_int (srElem_lt _ k), rawCospi_half⟩

theorem ftanh_elems : p.EachFunction 0x053
    (fun n r => RoundsOr (floatFmt p.w.t) (xRnd p.x) (xSat p.x) 0 (if n then -1 else 1) false r)
    (fun _ n m r => m = 0 → r = (withSign (floatFmt p.w.t) n 0, 0)) := by
  refine elems_of_function rawTanh rfl (fun _ => rfl) (fun _ n => unit_roundsOr_noDraw n) fun k n m e _ _ hm0 => ?_
  rw [hm0]
  exact roundRaw_zero n

theorem fsigm_elems : p.EachFunction 0x054
    (fun n r => RoundsOr (floatFmt p.w.t) (xRnd p.x) (xSat p.x) 0 (if n then 0 else 1) false r)
    (fun k _ m r => m = 0 → p.Rounded k (1 / 2) r) := by
  refine elems_of_function rawSigm rfl (fun _ => rfl) (fun k n => ?_) fun k n m e _ _ hm0 => ?_
  · cases n
    · exact unit_roundsOr_noDraw false
    · exact ⟨fun _ => roundRaw_zero false, fun h => absurd rfl h⟩
  · rw [hm0]
    exact rawSigm_zero (srElem_lt _ k) n e

/-! ## Rounding to an integer, minimum and maximum, signs -/

theorem frnd_elems : p.EachFunction 0x04A (fun n r => r = (infOf (floatFmt p.w.t) n, 0)) (fun k n _ r => ∃ z : ℕ,
    RoundsMag (xRnd p.x) (srElem p.draw k) (n = true) |((p.floatValue 0 k).rat : ℝ)| 0 z ∧
      IsValue (floatFmt p.w.t) r.1 (n = true) z 0 ∧ r.2 = if (z : ℚ) = |(p.floatValue 0 k).rat| then 0 else flagNX) :=
  elems_of_patterns (fun fm g a _ _ => floatRoundIntegral fm (xRnd p.x) g a) rfl fun k =>
    ⟨floatRoundIntegral_lt _ _ _ (floatSource_lt p 0 k), floatRoundIntegral_spec (srElem_lt _ k) (floatSource_lt p 0 k)⟩

theorem fminmax_elems (wide : Bool) : p.EachFloat (if wide then 0x045 else 0x044) fun k r =>
    ((∃ s, p.floatValue 0 k = .nan s ∨ p.floatValue 1 k = .nan s) → NaNOf (floatFmt p.w.t) [p.floatValue 0 k, p.floatValue 1 k] r) ∧
      ((∀ s, p.floatValue 0 k ≠ .nan s ∧ p.floatValue 1 k ≠ .nan s) →
        ((p.floatValue 0 k).Below (p.floatValue 1 k) → r = (p.floatSource (if wide then 1 else 0) k, 0)) ∧
          (¬(p.floatValue 0 k).Below (p.floatValue 1 k) → r = (p.floatSource (if wide then 0 else 1) k, 0))) := by
  refine elems_of_patterns (fun fm _ a b _ => floatMinMax fm wide a b) (by cases wide <;> rfl) fun k => ?_
  have ha := floatSource_lt p 0 k
  have hb := floatSource_lt p 1 k
  have hspec := floatMinMax_spec ha hb wide
  refine ⟨floatMinMax_lt wide ha hb, ?_⟩
  cases wide <;> exact hspec

/-- A word that moves a sign: that of element k becomes `sign k`. -/
theorem elems_of_sign {opc : Nat} (sign : FloatFmt → Nat → Nat → Bool) (neg : Nat → Bool)
    (h : (laneFn opc).map (fun op => op p) = some (floatElems p fun fm _ a b _ => signWord fm a (sign fm a b)))
    (hneg : ∀ k, sign (floatFmt p.w.t) (p.floatSource 0 k) (p.floatSource 1 k) = neg k) : p.EachFloat opc fun k r =>
      ((∃ s, p.floatValue 0 k = .nan s) → NaNOf (floatFmt p.w.t) [p.floatValue 0 k] r) ∧
        ((∀ s, p.floatValue 0 k ≠ .nan s) →
          r = (withSign (floatFmt p.w.t) (neg k) (p.floatSource 0 k % (floatFmt p.w.t).signBit), 0)) := by
  refine elems_of_patterns _ h fun k => ?_
  dsimp only
  rw [hneg k]
  exact ⟨signWord_lt _ _ _, signWord_spec _ _ _⟩

theorem sign_elems {opc : Nat} (hopc : opc ∈ [0x046, 0x047, 0x055]) : p.EachFloat opc fun k r =>
    let sign := fun j => decide ((floatFmt p.w.t).signBit ≤ p.floatSource j k)
    ((∃ s, p.floatValue 0 k = .nan s) → NaNOf (floatFmt p.w.t) [p.floatValue 0 k] r) ∧
      ((∀ s, p.floatValue 0 k ≠ .nan s) → r = (withSign (floatFmt p.w.t)
        (if opc = 0x046 then !sign 0 else if opc = 0x047 then false else sign 1)
        (p.floatSource 0 k % (floatFmt p.w.t).signBit), 0)) := by
  have hsign := fun j k => signOf_eq (floatSource_lt p j k)
  simp only [List.mem_cons, List.not_mem_nil, or_false] at hopc
  rcases hopc with rfl | rfl | rfl
  · exact elems_of_sign p (fun fm a _ => !signOf fm a) _ rfl fun k => congrArg _ (hsign 0 k)
  · exact elems_of_sign p (fun _ _ _ => false) _ rfl fun _ => rfl
  · exact elems_of_sign p (fun fm _ b => signOf fm b) _ rfl fun k => hsign 1 k

/-! ## Classes and comparison: words of one element -/

theorem fclass_gives : (laneFn 0x049).map (fun f => f p) = some (match p.floatValue 0 0 with
    | .nan s => if s then 256 else 512
    | .inf n => if n then 1 else 128
    | .fin n m _ =>
      if m = 0 then (if n then 8 else 16)
      else if |(p.floatValue 0 0).rat| < (2 : ℚ) ^ (1 - ((floatFmt p.w.t).bias : ℤ)) then (if n then 4 else 32)
      else if n then 2 else 64, 0) := by
  have hclass : (laneFn 0x049).map (fun f => f p) = some (floatClass (floatFmt p.w.t) (p.floatSource 0 0), 0) := by
    rw [LaneArg.floatSource, modified_elem_zero]
    rfl
  rw [hclass]
  match h : p.floatValue 0 0 with
  | .nan s => 
    have h : floatVal (floatFmt p.w.t) (p.floatSource 0 0) = .nan s := h
    rw [floatClass, h]
  | .inf n =>
    have h : floatVal (floatFmt p.w.t) (p.floatSource 0 0) = .inf n := h
    rw [floatClass, h]
  | .fin n m e => rw [floatClass_fin h]

theorem fcmp_gives : (laneFn 0x048).map (fun f => f p) =
    let r := floatCompare (p.x % 8) (p.floatValue 0 0) (p.floatValue 1 0)
    some (if r.1 then 1 else 0, r.2) := by
  rw [LaneArg.floatValue, LaneArg.floatValue, LaneArg.floatSource, LaneArg.floatSource, modified_elem_zero, modified_elem_zero]
  rfl

end
end Sys2Proof.Machine
end

section
/-!
PROOF. O44, the conversion words: `cvt`, `pack`, `unpk` and `tw2d` place and convert their elements (spec/06 R147 to R151).
-/
namespace Sys2Proof.Machine

/-! ## Integers as numbers of a format -/

section
variable {f : FloatFmt} {mode g : Nat} {sat : Bool}

theorem roundConv_int (hg : g < 65536) (i : Int) : RoundsOr f mode sat g i false (roundConv f mode sat g (intVal i)) := by
  refine (roundExact_roundsOr (v := ⟨decide (i < 0), i.natAbs, 0, false⟩) rfl hg).congr ?_ fun h0 => ?_
  · rw [ExactVal.rat, rat_of_int, zpow_zero, mul_one, Rat.cast_intCast]
  · rw [ExactVal.rat, rat_of_int, zpow_zero, mul_one, Rat.cast_intCast] at h0
    have h0 : i = 0 := by exact_mod_cast h0
    simp [h0]

/-- An integer of few bits is exact, so that the mode and the draw do not count. -/
theorem exactConv_int (hg : g < 65536) {i : Int} (hi : i.natAbs < 2 ^ (f.fracBits + 1)) (hunit : f.unit ≤ 0)
    (hmost : (i.natAbs : ℝ) ≤ f.most) : RoundsOr f mode sat g i false (exactConv f (intVal i)) := by
  obtain ⟨mag, -, -, hfits⟩ := roundExact_fits (f := f) (v := ⟨decide (i < 0), i.natAbs, 0, false⟩) rfl hi hunit (by simpa using hmost)
  have hsame : exactConv f (intVal i) = roundConv f mode sat g (intVal i) := (hfits 0 false 0).trans (hfits mode sat g).symm
  rw [hsame]
  exact roundConv_int hg i

theorem pow_le_most_f64 : (2 : ℝ) ^ (128 : ℤ) ≤ FloatFmt.f64.most := by
  have h := mt (most_lt_iff .f64 ((1023 + 127 + 1) * 2 ^ FloatFmt.f64.fracBits)).1 (not_lt.2 (by decide))
  rw [pow_binade] at h
  exact not_lt.1 h

/-- Every word of 32 bits is exact in F64. -/
theorem exactConv_word (hg : g < 65536) (signed : Bool) (v : Nat) :
    RoundsOr .f64 mode sat g (asInt signed 32 v : Int) false (exactConv .f64 (intVal (asInt signed 32 v))) := by
  have hmem := asInt_mem (w := 32) (by decide) signed v
  generalize asInt signed 32 v = i at *
  have hi : i.natAbs ≤ 2 ^ 32 := by
    cases signed <;> simp [intMin, intMax] at hmem <;> omega
  refine exactConv_int hg (hi.trans_lt (by decide)) (by decide) (le_trans ?_ pow_le_most_f64)
  calc (i.natAbs : ℝ) ≤ (2 ^ 32 : ℕ) := by exact_mod_cast hi
    _ ≤ (2 : ℝ) ^ (128 : ℤ) := by norm_num

end

/-! ## cvt -/

/-- Element k of an integer source of a conversion. -/
def LaneArg.intElem (p : LaneArg) (v k : Nat) : Int :=
  asInt (typeSigned (xSt p.x)) (elemWidth (xSt p.x)) (elemOf (elemWidth (xSt p.x)) v k)

section
variable {p : LaneArg}

theorem isIntType_iff (t : Nat) : isIntType t = true ↔ t ∈ [0, 1, 6, 7] := by simp [isIntType, or_assoc]

theorem isIntType_of_float {t : Nat} (h : t = 8 ∨ t = 12) : isIntType t = false := by rcases h with rfl | rfl <;> rfl

theorem asInt_intElem_zero (p : LaneArg) (v : Nat) : asInt (typeSigned (xSt p.x)) (elemWidth (xSt p.x)) v = p.intElem v 0 := by
  rw [LaneArg.intElem, elemOf_zero, asInt_mod]

theorem opCvt_int_int (ht : isIntType p.w.t = true) (hst : isIntType (xSt p.x) = true) :
    Clamps (xSat p.x) (elemWidth p.w.t) (typeSigned p.w.t) (p.intElem p.a 0) (opCvt p) := by
  rw [opCvt, if_pos ht, if_pos hst, asInt_intElem_zero]
  exact clampInt_clamps (elemWidth_pos _) _ _ _

theorem opCvt_int_float (ht : isIntType p.w.t = true) (hst : isIntType (xSt p.x) = false) :
    IntegerGives (elemWidth p.w.t) (typeSigned p.w.t) (xRnd p.x) (srElem p.draw 0) (floatElem (xSt p.x) p.a 0) (opCvt p) := by
  rw [opCvt, if_pos ht, if_neg (by simp [hst])]
  exact floatToInt_gives (elemWidth_pos _) _ (srElem_lt _ 0) _

/-- The source of element k of a conversion to a float type: an integer, or an element, which for an 8-bit type ELEM chooses. -/
def LaneArg.cvtSource (p : LaneArg) (k : Nat) : FloatVal :=
  if isIntType (xSt p.x) then intVal (p.intElem p.a 0)
  else if (xSt p.x = 13 ∨ xSt p.x = 14) ∧ p.w.t ≠ 13 ∧ p.w.t ≠ 14 then floatElem (xSt p.x) p.a (2 * xElem p.x + k)
  else floatElem (xSt p.x) p.a k

theorem opCvt_float {exact : Bool} (ht : isIntType p.w.t = false) (hpair : convPair 0x080 p.w.t (xSt p.x) = some exact) :
    (laneFn 0x080).map (fun op => op p) = some (toFloat p exact p.cvtSource) := by
  change some (opCvt p) = _
  rw [opCvt, hpair, Option.getD_some, if_neg (by simp [ht])]
  congr 1
  unfold LaneArg.cvtSource
  by_cases hst : isIntType (xSt p.x) = true
  · simp only [hst, if_true, asInt_intElem_zero]
  · simp only [hst]
    by_cases hcond : (xSt p.x = 13 ∨ xSt p.x = 14) ∧ p.w.t ≠ 13 ∧ p.w.t ≠ 14
    · rw [if_neg (by decide), if_pos (by simpa [and_assoc] using hcond)]
      simp [hcond]
    · rw [if_neg (by decide), if_neg (by simpa [and_assoc] using hcond)]
      simp [hcond]

theorem cvtSource_int (hst : isIntType (xSt p.x) = true) (k : Nat) : p.cvtSource k = intVal (p.intElem p.a 0) := if_pos hst

theorem cvtSource_elem (hst : isIntType (xSt p.x) = false) (h : ¬((xSt p.x = 13 ∨ xSt p.x = 14) ∧ p.w.t ≠ 13 ∧ p.w.t ≠ 14))
    (k : Nat) : p.cvtSource k = floatElem (xSt p.x) p.a k := by
  rw [LaneArg.cvtSource, if_neg (by simp [hst]), if_neg h]

theorem cvtSource_fp8 (hst : xSt p.x = 13 ∨ xSt p.x = 14) (ht : p.w.t ≠ 13 ∧ p.w.t ≠ 14) (k : Nat) :
    p.cvtSource k = floatElem (xSt p.x) p.a (2 * xElem p.x + k) := by
  have hint : isIntType (xSt p.x) = false := by rcases hst with h | h <;> rw [h] <;> rfl
  rw [LaneArg.cvtSource, if_neg (by simp [hint]), if_pos ⟨hst, ht⟩]

/-- An integer to a float type: F64 has every word of 32 bits. -/
theorem cvt_of_int (ht : p.w.t = 8 ∨ p.w.t = 12) (hst : xSt p.x ∈ [0, 1, 6, 7]) : p.EachFloat 0x080 fun _ =>
    RoundsOr (floatFmt p.w.t) (xRnd p.x) (xSat p.x) (srElem p.draw 0) (p.intElem p.a 0 : ℤ) false := by
  have hint := (isIntType_iff _).2 hst
  have hfloat := isIntType_of_float ht
  have hone : ∀ k, k < elemCount p.w.t → k = 0 := fun k hk => by
    have hcount : elemCount p.w.t = 1 := by rcases ht with h | h <;> rw [h] <;> rfl
    omega
  by_cases hexact : p.w.t = 12 ∧ (xSt p.x = 0 ∨ xSt p.x = 1)
  · obtain ⟨h12, h32⟩ := hexact
    have hpair : convPair 0x080 p.w.t (xSt p.x) = some true := by rcases h32 with h | h <;> rw [h12, h] <;> rfl
    have hwidth : elemWidth (xSt p.x) = 32 := by rcases h32 with h | h <;> rw [h] <;> rfl
    refine elems_of_toFloat _ (opCvt_float hfloat hpair) fun k _ => ?_
    rw [if_pos rfl, cvtSource_int hint, LaneArg.intElem, hwidth, show floatFmt p.w.t = .f64 by rw [h12]; rfl]
    exact exactConv_word (srElem_lt _ 0) _ _
  · have hpair : convPair 0x080 p.w.t (xSt p.x) = some false := by
      have hall : ∀ t ∈ [8, 12], ∀ st ∈ [0, 1, 6, 7], ¬(t = 12 ∧ (st = 0 ∨ st = 1)) → convPair 0x080 t st = some false := by decide
      exact hall _ (by simpa using ht) _ hst hexact
    refine elems_of_toFloat _ (opCvt_float hfloat hpair) fun k hk => ?_
    rw [if_neg (by decide), cvtSource_int hint, hone k hk]
    exact roundConv_int (srElem_lt _ 0) _

theorem floatFmt_ne_e2m1 (t : Nat) : floatFmt t ≠ .e2m1 := by
  unfold floatFmt
  split <;> decide

/-- A float to another float type, rounded. -/
theorem cvt_rounded (h : (p.w.t, xSt p.x) ∈ [(8, 12), (10, 9), (11, 9), (10, 11), (11, 10), (13, 14), (14, 13)]) :
    p.EachFloat 0x080 fun k => ConvertGives (floatFmt p.w.t) (xRnd p.x) (xSat p.x) false (srElem p.draw k)
      (floatElem (xSt p.x) p.a k) := by
  have hall : ∀ q ∈ [(8, 12), (10, 9), (11, 9), (10, 11), (11, 10), (13, 14), (14, 13)], isIntType q.1 = false ∧
      isIntType q.2 = false ∧ ¬((q.2 = 13 ∨ q.2 = 14) ∧ q.1 ≠ 13 ∧ q.1 ≠ 14) ∧ convPair 0x080 q.1 q.2 = some false := by decide
  obtain ⟨ht, hst, hplace, hpair⟩ := hall _ h
  refine elems_of_toFloat _ (opCvt_float ht hpair) fun k _ => ?_
  rw [if_neg (by decide), cvtSource_elem hst hplace]
  exact roundConv_gives (floatFmt_ne_e2m1 _) (srElem_lt _ k) _

/-- A float to a wider float type is exact. -/
theorem cvt_exact (h : (p.w.t, xSt p.x) ∈ [(12, 8), (9, 10), (9, 11)]) :
    p.EachFloat 0x080 fun k => ConvertGives (floatFmt p.w.t) 0 (xSat p.x) true 0 (floatElem (xSt p.x) p.a k) := by
  have hall : ∀ q ∈ [(12, 8), (9, 10), (9, 11)], isIntType q.1 = false ∧ isIntType q.2 = false ∧
      ¬((q.2 = 13 ∨ q.2 = 14) ∧ q.1 ≠ 13 ∧ q.1 ≠ 14) ∧ convPair 0x080 q.1 q.2 = some true ∧ floatFmt q.1 ≠ .e4m3 := by decide
  obtain ⟨ht, hst, hplace, hpair, hfmt⟩ := hall _ h
  have hwithin : (floatFmt (xSt p.x)).Within (floatFmt p.w.t) := by
    simp only [List.mem_cons, List.not_mem_nil, Prod.mk.injEq, or_false] at h
    rcases h with ⟨h1, h2⟩ | ⟨h1, h2⟩ | ⟨h1, h2⟩ <;> rw [h1, h2]
    · exact within_f32_f64
    · exact within_f16_f32
    · exact within_bf16_f32
  refine elems_of_toFloat _ (opCvt_float ht hpair) fun k _ => ?_
  rw [if_pos rfl, cvtSource_elem hst hplace]
  exact exactConv_gives hwithin hfmt _

/-- Two of the elements of 8 bits, those that ELEM chooses, to a wider type (R149). -/
theorem cvt_fp8 (ht : p.w.t ∈ [9, 10, 11]) (hst : xSt p.x = 13 ∨ xSt p.x = 14) : p.EachFloat 0x080 fun k =>
    ConvertGives (floatFmt p.w.t) 0 (xSat p.x) true 0 (floatElem (xSt p.x) p.a (2 * xElem p.x + k)) := by
  have hall : ∀ t ∈ [9, 10, 11], isIntType t = false ∧ (t ≠ 13 ∧ t ≠ 14) ∧ floatFmt t ≠ .e4m3 ∧
      (floatFmt t = .f32 ∨ floatFmt t = .f16 ∨ floatFmt t = .bf16) ∧ ∀ st, st = 13 ∨ st = 14 → convPair 0x080 t st = some true := by
    simp only [List.forall_mem_cons, List.not_mem_nil, false_imp_iff, implies_true, and_true, forall_eq_or_imp, forall_eq]
    decide
  obtain ⟨hfloat, hne, hfmt, hwide, hpair⟩ := hall _ ht
  have hnarrow : floatFmt (xSt p.x) = .e4m3 ∨ floatFmt (xSt p.x) = .e5m2 := by
    rcases hst with h | h <;> rw [h]
    · exact .inl rfl
    · exact .inr rfl
  refine elems_of_toFloat _ (opCvt_float hfloat (hpair _ hst)) fun k _ => ?_
  rw [if_pos rfl, cvtSource_fp8 hst hne]
  exact exactConv_gives (within_fp8 hnarrow hwide) hfmt _

/-! ## unpk and pack -/

theorem unpk_int (ht : p.w.t = 0 ∨ p.w.t = 1) : ∃ v, (laneFn 0x082).map (fun f => f p) = some (v, 0) ∧ v < 2 ^ 32 ∧
    (2 : Int) ^ 32 ∣ v - p.intElem p.a (xElem p.x) := by
  have hop : opUnpk p = (low 32 (p.intElem p.a (xElem p.x)), 0) := by
    rw [opUnpk, if_neg (by rcases ht with h | h <;> rw [h] <;> decide)]
    rfl
  refine ⟨_, congrArg some hop, Laws.low_lt_pow _ _, ?_⟩
  rw [← dvd_neg, neg_sub]
  exact pow_dvd_sub_low _ _

theorem unpk_float (ht : p.w.t = 8) (hst : xSt p.x ∈ [10, 11, 13, 14]) : ∃ r, (laneFn 0x082).map (fun f => f p) = some r ∧
    ConvertGives .f32 0 false true 0 (floatElem (xSt p.x) p.a (xElem p.x)) r := by
  have hop : opUnpk p = exactConv .f32 (floatElem (xSt p.x) p.a (xElem p.x)) := by rw [opUnpk, if_pos (by rw [ht]; decide)]
  have hwithin : (floatFmt (xSt p.x)).Within .f32 := by
    simp only [List.mem_cons, List.not_mem_nil, or_false] at hst
    rcases hst with h | h | h | h <;> rw [h]
    · exact within_f16_f32
    · exact within_bf16_f32
    · exact within_fp8 (.inl rfl) (.inl rfl)
    · exact within_fp8 (.inr rfl) (.inl rfl)
  exact ⟨_, congrArg some hop, exactConv_gives hwithin (by decide) _⟩

/-- The first half of the elements comes from A and the second from B. -/
theorem packSource_apply {α : Type} (F : Nat → Nat → α) (k : Nat) : F (packSource p k).1 (packSource p k).2 =
    if k < elemCount p.w.t / 2 then F p.a k else F p.b (k - elemCount p.w.t / 2) := by
  unfold packSource
  dsimp only
  split <;> rfl

theorem pack_int (ht : p.w.t ≤ 5) : p.Elems 0x081 (elemWidth p.w.t) (elemCount p.w.t) fun k =>
    Clamps (xSat p.x) (elemWidth p.w.t) (typeSigned p.w.t)
      (if k < elemCount p.w.t / 2 then p.intElem p.a k else p.intElem p.b (k - elemCount p.w.t / 2)) := by
  have hop : opPack p = joinElems (elemWidth p.w.t) (fun k => clampInt (xSat p.x) (elemWidth p.w.t) (typeSigned p.w.t)
      (p.intElem (packSource p k).1 (packSource p k).2)) (elemCount p.w.t) := by
    rw [opPack, if_pos ht]
    rfl
  refine elems_of_join (congrArg some hop) fun k _ => ?_
  rw [packSource_apply p.intElem k]
  have hc := clampInt_clamps (elemWidth_pos p.w.t) (xSat p.x) (typeSigned p.w.t)
  exact ⟨(hc _).lt, hc _⟩

theorem pack_float (ht : 5 < p.w.t) : p.EachFloat 0x081 fun k =>
    ConvertGives (floatFmt p.w.t) (xRnd p.x) (xSat p.x) false (srElem p.draw k)
      (if k < elemCount p.w.t / 2 then floatElem (xSt p.x) p.a k else floatElem (xSt p.x) p.b (k - elemCount p.w.t / 2)) := by
  have hop : opPack p = toFloat p false fun k =>
      if k < elemCount p.w.t / 2 then floatElem (xSt p.x) p.a k else floatElem (xSt p.x) p.b (k - elemCount p.w.t / 2) := by
    rw [opPack, if_neg (not_le.2 ht)]
    exact congrArg _ (funext (packSource_apply (floatElem (xSt p.x))))
  exact elems_of_toFloat _ (congrArg some hop) fun k _ => roundConv_gives (floatFmt_ne_e2m1 _) (srElem_lt _ k) _

/-! ## tw2d -/

theorem tw2d_elems : p.Elems 0x083 (floatFmt p.w.t).width 2 fun k =>
    let n := 2 * xElem p.x + k
    ProductGives (floatFmt p.w.t) (xRnd p.x) false (srElem p.draw k) (tw2Weight p.map (p.a / 2 ^ (8 * (n / 4)) % 256) (n % 4))
      (if bit p.b 8 then floatVal .e4m3 (p.b % 256) else .fin false 1 0) :=
  elems_of_join rfl fun k _ => ⟨roundRaw_lt _ _ _ _ _, rawMul_gives (srElem_lt _ k) _ _⟩

end
end Sys2Proof.Machine
end

section
/-!
PROOF. O44: the levels, the signs and the magnitudes of a TW2 code (spec/02 R60 to R62), and the obligation from the words before.
-/
namespace Sys2Proof.Machine

/-! ## TW2 codes -/

/-- The rows of R61: the levels of coordinates 0 to 3 as the digits of a number. -/
def tw2Rows : List Nat :=
  [1111, 2111, 1211, 1121, 1112, 2211, 2121, 2112, 1221, 1212, 1122, 2221, 2212, 2122, 1222, 2222, 3111, 1311, 1131,
    1113, 3211, 3121, 3112, 2311, 1321, 1312, 2131, 1231, 1132, 2113, 1213, 1123]

/-- The level of a coordinate of a code. -/
def tw2Level (code j : Nat) : Nat := tw2Rows.getD (code / 8) 0 / 10 ^ (3 - j) % 10

/-- The weight of a coordinate in half units, with the signs that the code writes. -/
def tw2Half (code j : Nat) : Int := (if j < 3 ∧ code / 2 ^ j % 2 = 1 then -1 else 1) * (2 * (tw2Level code j : Int) - 1)

/-- Whether a coordinate is negative: the code says it for three, and the fourth makes the sum a multiple of 4. -/
def Tw2Minus (code n : Nat) : Prop :=
  if n < 3 then code / 2 ^ n % 2 = 1 else (tw2Half code 0 + tw2Half code 1 + tw2Half code 2 + tw2Half code 3) % 4 ≠ 0

section
variable {code n : Nat}

theorem tw2Pattern_rows : ∀ r < 32, ∀ j < 4, (tw2Pattern r).getD j 1 = tw2Rows.getD r 0 / 10 ^ (3 - j) % 10 ∧
    tw2Rows.getD r 0 / 10 ^ (3 - j) % 10 ∈ [1, 2, 3] := by decide

theorem tw2Level_mem (hcode : code < 256) (hn : n < 4) : tw2Level code n ∈ [1, 2, 3] :=
  (tw2Pattern_rows _ (by omega) n hn).2

theorem tw2Pattern_level (hcode : code < 256) (hn : n < 4) : (tw2Pattern (code / 8 % 32)).getD n 1 = tw2Level code n := by
  rw [Nat.mod_eq_of_lt (by omega)]
  exact (tw2Pattern_rows _ (by omega) n hn).1

theorem tw2_unsigned (hcode : code < 256) (hn : n < 4) :
    ((2 * (tw2Pattern (code / 8 % 32)).getD n 1 - 1 : Nat) : Int) = 2 * (tw2Level code n : Int) - 1 := by
  rw [tw2Pattern_level hcode hn]
  have hlevel := tw2Level_mem hcode hn
  simp only [List.mem_cons, List.not_mem_nil, or_false] at hlevel
  omega

theorem tw2_signed (hcode : code < 256) (hn : n < 3) :
    (if bit code n then -((2 * (tw2Pattern (code / 8 % 32)).getD n 1 - 1 : Nat) : Int)
      else ((2 * (tw2Pattern (code / 8 % 32)).getD n 1 - 1 : Nat) : Int)) = tw2Half code n := by
  rw [tw2_unsigned hcode (by omega), tw2Half]
  by_cases hbit : code / 2 ^ n % 2 = 1
  · rw [if_pos (by simpa [bit] using hbit), if_pos ⟨hn, hbit⟩, neg_one_mul]
  · rw [if_neg (by simpa [bit] using hbit), if_neg (fun h => hbit h.2), one_mul]

theorem tw2Coord_spec (hcode : code < 256) (hn : n < 4) :
    ((tw2Coord code n).1 = true ↔ Tw2Minus code n) ∧ (tw2Coord code n).2 = tw2Level code n := by
  refine ⟨?_, tw2Pattern_level hcode hn⟩
  have hlast : ((2 * (tw2Pattern (code / 8 % 32)).getD 3 1 - 1 : Nat) : Int) = tw2Half code 3 := by
    rw [tw2_unsigned hcode (by decide), tw2Half, if_neg fun h => absurd h.1 (by decide), one_mul]
  rw [tw2Coord, Tw2Minus]
  dsimp only
  by_cases h3 : n < 3
  · rw [if_pos h3, if_pos h3, bit, beq_iff_eq]
  · rw [if_neg h3, if_neg h3, decide_eq_true_iff, tw2_signed hcode (by decide), tw2_signed hcode (by decide),
      tw2_signed hcode (by decide), hlast]

/-- The magnitude of a coordinate is that of its level in the map. -/
theorem tw2Weight_spec (map : Nat) (hcode : code < 256) (hn : n < 4) :
    let v := floatVal .e4m3 (map / 2 ^ (8 * (tw2Level code n - 1)) % 256)
    (Tw2Minus code n → tw2Weight map code n = v.negate) ∧ (¬Tw2Minus code n → tw2Weight map code n = v) := by
  intro v
  obtain ⟨hneg, hlevel⟩ := tw2Coord_spec hcode hn
  have hbits : bits map (8 * tw2Level code n - 1) (8 * tw2Level code n - 8) = map / 2 ^ (8 * (tw2Level code n - 1)) % 256 := by
    have h := tw2Level_mem hcode hn
    simp only [List.mem_cons, List.not_mem_nil, or_false] at h
    rcases h with h | h | h <;> rw [h] <;> rfl
  have hweight : tw2Weight map code n = if (tw2Coord code n).1 then v.negate else v := by
    rw [tw2Weight]
    dsimp only
    rw [hlevel, hbits]
  rw [hweight]
  exact ⟨fun h => if_pos (hneg.2 h), fun h => if_neg (mt hneg.1 h)⟩

theorem rat_negate (n : Bool) (m : Nat) (e : Int) : (FloatVal.fin n m e).negate.rat = -(FloatVal.fin n m e).rat := by
  rw [show (FloatVal.fin n m e).negate = .fin (!n) m e from rfl, rat_fin, rat_fin]
  cases n <;> simp

/-- The map 0x00423C30 has the half units of R62: its levels are 1/2, 3/2 and 5/2. -/
theorem halfUnits_level {l : Nat} (hl : l ∈ [1, 2, 3]) :
    let v := floatVal .e4m3 (0x00423C30 / 2 ^ (8 * (l - 1)) % 256)
    v.rat = (2 * (l : ℚ) - 1) / 2 ∧ v.negate.rat = (1 - 2 * (l : ℚ)) / 2 := by
  intro v
  have hfin : ∃ m e, v = .fin false m e ∧ (m : ℚ) * 2 ^ e = (2 * (l : ℚ) - 1) / 2 := by
    simp only [List.mem_cons, List.not_mem_nil, or_false] at hl
    rcases hl with rfl | rfl | rfl
    · exact ⟨8, -4, rfl, by norm_num⟩
    · exact ⟨12, -3, rfl, by norm_num⟩
    · exact ⟨10, -2, rfl, by norm_num⟩
  obtain ⟨m, e, hv, hval⟩ := hfin
  have hrat : (FloatVal.fin false m e).rat = (2 * (l : ℚ) - 1) / 2 := by simpa [rat_fin] using hval
  rw [hv, rat_negate, hrat]
  exact ⟨rfl, by ring⟩

end

/-! ## The obligation -/

/-- Settles O44: each word is its function on each element, and each function is the exact result rounded once. -/
theorem laneFloatResults : Obligations.LaneFloatResults := by
  refine ⟨fun map code n hcode hn => ?_, fun p _ => ?_⟩
  · have hunits := halfUnits_level (tw2Level_mem hcode hn)
    obtain ⟨hminus, hplus⟩ := tw2Weight_spec map hcode hn
    obtain ⟨hminus', hplus'⟩ := tw2Weight_spec 0x00423C30 hcode hn
    exact ⟨fun h => ⟨hminus h, (congrArg _ (hminus' h)).trans hunits.2⟩,
      fun h => ⟨hplus h, (congrArg _ (hplus' h)).trans hunits.1⟩⟩
  intro t fm rnd sat g src val each one invalid is rounded real st el sst wst srcInt srcFloat ints
  have hints := fun {t : Nat} => (isIntType_iff t).2
  refine ⟨fun _ => ⟨fadd_elems p, fsub_elems p, fmul_elems p, fma_elems p, frcp_elems p, fdiv_elems p, frsq_elems p, fsqrt_elems p,
    fexp2_elems p, flog2_elems p, fsinpi_elems p, fcospi_elems p, ftanh_elems p, fsigm_elems p, frnd_elems p, fminmax_elems p,
    fun _ => sign_elems p, fun ht => ⟨?_, ?_⟩⟩, fun ht => ⟨fun hst _ => ?_, fun hst => ?_⟩, fun ⟨ht, hst⟩ => cvt_of_int ht hst,
    cvt_rounded, cvt_exact, fun ⟨ht, hst⟩ => cvt_fp8 ht hst, fun ⟨ht, _⟩ => unpk_int ht, fun ⟨ht, hst⟩ => unpk_float ht hst,
    fun h => pack_int ?_, fun h => pack_float ?_, fun _ => tw2d_elems⟩
  · exact fclass_gives p
  · exact ⟨_, _, fcmp_gives p, floatCompare_spec _ _ _⟩
  · exact ⟨_, rfl, opCvt_int_int (hints ht) (hints hst)⟩
  · exact ⟨_, rfl, opCvt_int_float (hints ht) (isIntType_of_float hst)⟩
  · omega
  · omega

end Sys2Proof.Machine
end

section
/-!
PROOF. Decoding and encoding of both streams: the fields of the words that the encoder makes (spec/04 R85, R90), and the round trip
of every form (R85 to R90).
-/
namespace Sys2Proof.Encoding
open Sys2Proof.Machine Sys2Proof.Laws

/-! ## The fields of scalar words (R85) -/

section
variable {op x y fn : Nat} {imm : Int}

/-- The fields that the decoder reads from an S2 word. -/
structure S2Fields (w op x y fn : Nat) : Prop where
  op : opOf w = op
  x : xOf w = x
  y : yOf w = y
  fn : fnOf w = fn

theorem mkS2_fields (ho : op < 128) (hx : x < 1024) (hy : y < 1024) (hf : fn < 32) :
    S2Fields (mkS2 op x y fn) op x y fn where
  op := by unfold opOf mkS2; omega
  x := by unfold xOf mkS2; omega
  y := by unfold yOf mkS2; omega
  fn := by unfold fnOf mkS2; omega

theorem opOf_mkSI (ho : op < 128) (hx : x < 1024) : opOf (mkSI op x imm) = op := by
  have := low_lt_pow 15 imm
  unfold opOf mkSI; omega

theorem xOf_mkSI (hx : x < 1024) : xOf (mkSI op x imm) = x := by
  have := low_lt_pow 15 imm
  unfold xOf mkSI; omega

theorem mkSI_mod : mkSI op x imm % 2 ^ 15 = low 15 imm := by
  have := low_lt_pow 15 imm
  unfold mkSI; omega

end

/-- A signed field holds the value that its low bits were taken from. -/
theorem sext_of_low {n v : Nat} {i : Int} (hn : 0 < n) (hv : v % 2 ^ n = low n i) (hl : -2 ^ (n - 1) ≤ i)
    (hh : i < 2 ^ (n - 1)) : sext n v = i := by
  obtain ⟨n, rfl⟩ := Nat.exists_eq_add_one.2 hn
  rw [Nat.add_sub_cancel] at hl hh
  have hpow : (2 : Int) ^ (n + 1) = 2 * 2 ^ n := by rw [pow_succ, mul_comm]
  have hlow : (low (n + 1) i : Int) = i % 2 ^ (n + 1) := Int.toNat_of_nonneg (Int.emod_nonneg _ (by positivity))
  have hiff : low (n + 1) i < 2 ^ n ↔ i % 2 ^ (n + 1) < 2 ^ n := by
    rw [← hlow, ← Int.ofNat_lt, Nat.cast_pow, Nat.cast_ofNat]
  rw [sext, hv, Nat.add_sub_cancel]
  simp only [hiff, hlow, hpow]
  by_cases h0 : 0 ≤ i
  · rw [Int.emod_eq_of_lt h0 (by omega), if_pos hh]
  · rw [← Int.add_emod_right, Int.emod_eq_of_lt (by omega) (by omega), if_neg (by omega)]
    omega

theorem immOf_of_low {w : Nat} {imm : Int} (h : wfImm15 imm = true) (hw : w % 2 ^ 15 = low 15 imm) : immOf w = imm := by
  simp only [wfImm15, Bool.and_eq_true, decide_eq_true_eq] at h
  exact sext_of_low (by decide) (by rw [Nat.mod_mod, hw]) (by omega) (by omega)

@[simp] theorem need_true (i : Instr) : need true i = .ok i := rfl

theorem withNext_some {v : Nat} (h : v < 2 ^ 32) (k : Nat → Except DecodeError Instr) : withNext (some v) k = k v := by
  rw [withNext, Nat.mod_eq_of_lt h]

theorem decodeWords_one (a : Nat) : decodeWords false [a] = decodeScalar a none := rfl

theorem decodeWords_two (a b : Nat) : decodeWords false [a, b] = decodeScalar a (some b) := rfl

theorem decodeWords_lane (a b c : Nat) : decodeWords true [a, b, c] = decodeLane (a + b * 2 ^ 32 + c * 2 ^ 64) := by
  simp only [decodeWords, if_true]

/-! ## The round trip, by the form of the encoding -/

/-- The instruction, encoded, decodes to itself. -/
def RoundTrips (i : Instr) : Prop := i.wf = true → encode i ≠ [] → decodeWords i.isLane (encode i) = .ok i

theorem RoundTrips.of_event {i : Instr} (he : encode i = []) : RoundTrips i := fun _ hne => absurd he hne

section
variable {i : Instr} {op x y fn v : Nat} {imm : Int}

/-- A form of one S2 word. -/
theorem RoundTrips.of_S2 (ho : op < 128) (hl : i.isLane = false) (he : encode i = [mkS2 op x y fn])
    (hd : i.wf = true → (x < 1024 ∧ y < 1024 ∧ fn < 32) ∧ ∀ w, S2Fields w op x y fn → decodeScalar w none = .ok i) :
    RoundTrips i := by
  intro h _
  obtain ⟨⟨hx, hy, hf⟩, hd⟩ := hd h
  rw [hl, he, decodeWords_one]
  exact hd _ (mkS2_fields ho hx hy hf)

/-- A form of one S2 word that names two registers. -/
theorem RoundTrips.of_registers (ho : op < 128) (hf : fn < 32) (hl : i.isLane = false) (he : encode i = [mkS2 op x y fn])
    (hw : i.wf = (wfReg x && wfReg y)) (hd : ∀ w, S2Fields w op x y fn → decodeScalar w none = .ok i) : RoundTrips i := by
  refine .of_S2 ho hl he fun h => ⟨?_, hd⟩
  simp only [hw, wfReg, Bool.and_eq_true, decide_eq_true_eq] at h
  exact ⟨h.1, h.2, hf⟩

/-- A form of one S2 word that names one register. -/
theorem RoundTrips.of_register (ho : op < 128) (hl : i.isLane = false) (he : encode i = [mkS2 op x 0 0]) (hw : i.wf = wfReg x)
    (hd : ∀ w, S2Fields w op x 0 0 → decodeScalar w none = .ok i) : RoundTrips i :=
  .of_S2 ho hl he fun h => ⟨⟨of_decide_eq_true (hw.symm.trans h), by decide, by decide⟩, hd⟩

/-- A form of one SI or SB word. -/
theorem RoundTrips.of_SI (ho : op < 128) (hl : i.isLane = false) (he : encode i = [mkSI op x imm])
    (hx : i.wf = true → x < 1024)
    (hd : ∀ w, opOf w = op → xOf w = x → w % 2 ^ 15 = low 15 imm → i.wf = true → decodeScalar w none = .ok i) :
    RoundTrips i := by
  intro h _
  rw [hl, he, decodeWords_one]
  exact hd _ (opOf_mkSI ho (hx h)) (xOf_mkSI (hx h)) mkSI_mod h

/-- A form of one SI or SB word whose immediate is signed. -/
theorem RoundTrips.of_immediate (ho : op < 128) (hl : i.isLane = false) (he : encode i = [mkSI op x imm])
    (hw : i.wf = (wfReg x && wfImm15 imm))
    (hd : ∀ w, opOf w = op → xOf w = x → immOf w = imm → decodeScalar w none = .ok i) : RoundTrips i := by
  rw [Bool.eq_iff_iff, Bool.and_eq_true, wfReg, decide_eq_true_eq] at hw
  refine .of_SI ho hl he (fun h => (hw.1 h).1) fun w h1 h2 h3 h => hd w h1 h2 ?_
  exact immOf_of_low (hw.1 h).2 h3

/-- A form of an S2 word and a second word. -/
theorem RoundTrips.of_two_words (hfit : EncodedWordsFit.Statement i) (ho : op < 128) (hl : i.isLane = false)
    (he : encode i = [mkS2 op x y fn, v])
    (hd : i.wf = true → (x < 1024 ∧ y < 1024 ∧ fn < 32) ∧
      ∀ w u, S2Fields w op x y fn → u = v → u < 2 ^ 32 → decodeScalar w (some u) = .ok i) : RoundTrips i := by
  intro h _
  obtain ⟨⟨hx, hy, hf⟩, hd⟩ := hd h
  rw [hl, he, decodeWords_two]
  exact hd _ v (mkS2_fields ho hx hy hf) rfl ((hfit h).1 v (by simp [he]))

end

theorem decodeScalar_salu {w : Nat} (h : opOf w = 0x01) (nxt : Option Nat) :
    decodeScalar w nxt = decodeSalu (xOf w) (yOf w) (fnOf w) := by
  simp only [decodeScalar, h]

theorem decodeScalar_salu64 {w : Nat} (h : opOf w = 0x02) (nxt : Option Nat) :
    decodeScalar w nxt = decodeSalu64 (xOf w) (yOf w) (fnOf w) := by
  simp only [decodeScalar, h]

/-! ## Lane words (R90) -/

section
variable {opc : Nat} {w : LaneWord}

theorem laneFields_iff : laneFields w = true ↔
    w.d < 1024 ∧ w.a < 1024 ∧ w.b < 1024 ∧ w.c < 1024 ∧ w.pg < 16 ∧ w.e < 8 ∧ w.t < 16 ∧ w.x < 2 ^ 32 := by
  simp only [laneFields, Bool.and_eq_true, decide_eq_true_eq, and_assoc]

theorem b2n_false : b2n false = 0 := rfl

theorem bit_of_b2n {v n : Nat} {z : Bool} (h : v / 2 ^ n % 2 = b2n z) : bit v n = z := by
  rw [bit, h]
  cases z <;> rfl

/-- The decoder reads the OPC, the fields and a zero bit 32 from the word that the encoder makes. -/
theorem mkLane_fields (ho : opc < 1024) (h : laneFields w = true) :
    opcOf (mkLane opc w) = opc ∧ laneFieldsOf (mkLane opc w) = w ∧ bit (mkLane opc w) 32 = false := by
  obtain ⟨hd, ha, hb, hc, hp, he, ht, hx⟩ := laneFields_iff.1 h
  have hu := b2n_le_one w.u
  have hk := b2n_le_one w.blk
  refine ⟨by unfold opcOf mkLane; omega, ?_, bit_of_b2n (by rw [mkLane, b2n_false]; omega)⟩
  have d : bits (mkLane opc w) 85 76 = w.d := by unfold bits mkLane; omega
  have a : bits (mkLane opc w) 75 66 = w.a := by unfold bits mkLane; omega
  have b : bits (mkLane opc w) 65 56 = w.b := by unfold bits mkLane; omega
  have c : bits (mkLane opc w) 55 46 = w.c := by unfold bits mkLane; omega
  have pg : bits (mkLane opc w) 45 42 = w.pg := by unfold bits mkLane; omega
  have u : bit (mkLane opc w) 41 = w.u := bit_of_b2n (by unfold mkLane; omega)
  have blk : bit (mkLane opc w) 40 = w.blk := bit_of_b2n (by unfold mkLane; omega)
  have e : bits (mkLane opc w) 39 37 = w.e := by unfold bits mkLane; omega
  have t : bits (mkLane opc w) 36 33 = w.t := by unfold bits mkLane; omega
  have x : mkLane opc w % 2 ^ 32 = w.x := by unfold mkLane; omega
  rw [laneFieldsOf, d, a, b, c, pg, u, blk, e, t, x]

/-- A word that passes checks 1 and 2 decodes to the instruction of its OPC and fields. -/
theorem decodeLane_wellFormed {i : Instr} {v : Nat} (ho : opcOf v = opc) (hf : laneFieldsOf v = w) (h32 : bit v 32 = false)
    (hc : laneCtor opc w = some i) (hw : laneWellFormed opc w = true) : decodeLane v = .ok i := by
  rw [laneWellFormed, Bool.and_eq_true] at hw
  have hrow := hw.2
  cases hr : laneRow opc with
  | none => simp [hr] at hrow
  | some row =>
    simp only [hr, Bool.and_eq_true, Bool.not_eq_true'] at hrow
    obtain ⟨h1, h2⟩ := hrow
    simp only [decodeLane, ho, hf, h32, hr, hc, h1, h2, Bool.false_or, Bool.false_eq_true, if_false]

/-- The decoder gives a lane instruction back. -/
theorem decodeLane_mkLane {i : Instr} (ho : opc < 1024) (hc : laneCtor opc w = some i) (hw : laneWellFormed opc w = true) :
    decodeLane (mkLane opc w) = .ok i := by
  obtain ⟨hopc, hfields, h32⟩ := mkLane_fields ho ((Bool.and_eq_true _ _).mp hw).1
  exact decodeLane_wellFormed hopc hfields h32 hc hw

/-- A lane instruction. -/
theorem RoundTrips.of_lane {i : Instr} (ho : opc < 1024) (hl : laneOf i = some (opc, w)) (hc : laneCtor opc w = some i)
    (he : encode i = [mkLane opc w % 2 ^ 32, mkLane opc w / 2 ^ 32 % 2 ^ 32, mkLane opc w / 2 ^ 64])
    (hw : i.wf = laneWellFormed opc w) : RoundTrips i := by
  intro h _
  rw [hw] at h
  have hparts : ∀ v : Nat, v % 2 ^ 32 + v / 2 ^ 32 % 2 ^ 32 * 2 ^ 32 + v / 2 ^ 64 * 2 ^ 64 = v := by omega
  rw [he, Instr.isLane, hl, Option.isSome_some, decodeWords_lane, hparts]
  exact decodeLane_mkLane ho hc h

end
end Sys2Proof.Encoding
end

section
/-!
PROOF. The round trip of every form, by the fields of its words (spec/04 R85 to R90; spec/14, spec/16 for second words).
-/
namespace Sys2Proof.Encoding
open Sys2Proof.Machine Sys2Proof.Laws

/-! ## Forms of one scalar word with fields of their own -/

theorem scollForms_roundTrip (x y k op : Nat) : RoundTrips (.scoll x y k op) ∧ RoundTrips (.sprfx x y k op) := by
  constructor <;>
  · refine .of_S2 (by decide) rfl rfl fun h => ?_
    simp only [Instr.wf, wfReg, Bool.and_eq_true, decide_eq_true_eq] at h
    obtain ⟨⟨⟨hx, hy⟩, hk⟩, hop⟩ := h
    refine ⟨⟨hx, hy, by omega⟩, fun w hw => ?_⟩
    have h1 : (k * 8 + op) / 8 = k := by omega
    have h2 : (k * 8 + op) % 8 = op := by omega
    simp only [decodeScalar, hw.op, hw.x, hw.y, hw.fn, h1, h2]

/-- The scalar memory forms without `sxt`: FN holds the word offset (R85). -/
theorem memoryForms_roundTrip (x y : Nat) (off : Int) :
    ∀ i ∈ [Instr.sld x y off, .sld64 x y off, .sld128 x y off, .sst x y off, .sst64 x y off, .sst128 x y off,
      .sldacq x y off, .sstrel x y off], RoundTrips i := by
  simp only [List.forall_mem_cons, List.not_mem_nil, false_implies, implies_true, and_true]
  refine ⟨?_, ?_, ?_, ?_, ?_, ?_, ?_, ?_⟩ <;>
  · refine .of_S2 (by decide) rfl rfl fun h => ?_
    simp only [Instr.wf, wfReg, wfOff5, Bool.and_eq_true, decide_eq_true_eq] at h
    obtain ⟨⟨hx, hy⟩, h0, h32⟩ := h
    refine ⟨⟨hx, hy, by omega⟩, fun w hw => ?_⟩
    simp only [decodeScalar, hw.op, hw.x, hw.y, hw.fn, Int.toNat_of_nonneg h0]

/-- The forms of X and a level. -/
theorem levelQueries_roundTrip (x k : Nat) : RoundTrips (.sidx x k) ∧ RoundTrips (.selct x k) := by
  constructor <;>
  · refine .of_S2 (by decide) rfl rfl fun h => ?_
    simp only [Instr.wf, wfReg, Bool.and_eq_true, decide_eq_true_eq] at h
    obtain ⟨hx, hk⟩ := h
    refine ⟨⟨hx, by decide, by omega⟩, fun w hw => ?_⟩
    simp only [decodeScalar, hw.op, hw.x, hw.y, hw.fn, hk, Nat.mod_eq_of_lt hk, beq_self_eq_true, decide_true, Bool.and_self,
      need_true]

/-- The forms of a level alone. -/
theorem levelForms_roundTrip (k : Nat) : RoundTrips (.srgnb k) ∧ RoundTrips (.srgne k) ∧ RoundTrips (.sfenceSc k) := by
  refine ⟨?_, ?_, ?_⟩ <;>
  · refine .of_S2 (by decide) rfl rfl fun h => ?_
    have hk : k < 4 := of_decide_eq_true h
    refine ⟨⟨by decide, by decide, by omega⟩, fun w hw => ?_⟩
    simp only [decodeScalar, decodeSfence, hw.op, hw.x, hw.y, hw.fn, hk, Nat.mod_eq_of_lt hk, Nat.div_eq_of_lt hk,
      beq_self_eq_true, decide_true, Bool.and_self, need_true]

theorem sbar_roundTrips (k id : Nat) : RoundTrips (.sbar k id) := by
  refine .of_S2 (by decide) rfl rfl fun h => ?_
  simp only [Instr.wf, Bool.and_eq_true, decide_eq_true_eq] at h
  obtain ⟨hk, hid⟩ := h
  refine ⟨⟨by decide, by omega, by omega⟩, fun w hw => ?_⟩
  simp only [decodeScalar, hw.op, hw.x, hw.y, hw.fn, hk, hid, Nat.mod_eq_of_lt hk, Nat.mod_eq_of_lt hid, beq_self_eq_true,
    decide_true, Bool.and_self, need_true]

theorem smapq_roundTrips (x q : Nat) : RoundTrips (.smapq x q) := by
  refine .of_S2 (by decide) rfl rfl fun h => ?_
  simp only [Instr.wf, wfReg, Bool.and_eq_true, decide_eq_true_eq] at h
  obtain ⟨hx, hq⟩ := h
  refine ⟨⟨hx, by decide, hq⟩, fun w hw => ?_⟩
  simp only [decodeScalar, hw.op, hw.x, hw.y, hw.fn, beq_self_eq_true, need_true]

theorem sshare_roundTrips (x y f : Nat) : RoundTrips (.sshare x y f) := by
  refine .of_S2 (by decide) rfl rfl fun h => ?_
  simp only [Instr.wf, wfReg, Bool.and_eq_true, decide_eq_true_eq] at h
  obtain ⟨⟨hx, hy⟩, hf⟩ := h
  refine ⟨⟨hx, hy, hf⟩, fun w hw => ?_⟩
  simp only [decodeScalar, hw.op, hw.x, hw.y, hw.fn]

theorem sthd_roundTrips (x y n : Nat) : RoundTrips (.sthd x y n) := by
  refine .of_S2 (by decide) rfl rfl fun h => ?_
  simp only [Instr.wf, wfReg, Bool.and_eq_true, decide_eq_true_eq] at h
  obtain ⟨⟨hx, hy⟩, hn⟩ := h
  refine ⟨⟨hx, hy, by omega⟩, fun w hw => ?_⟩
  simp only [decodeScalar, hw.op, hw.x, hw.y, hw.fn, hn, Nat.mod_eq_of_lt hn, decide_true, need_true]

theorem sscw_roundTrips (x c : Nat) : RoundTrips (.sscw x c) := by
  refine .of_S2 (by decide) rfl rfl fun h => ?_
  simp only [Instr.wf, wfReg, Bool.and_eq_true, decide_eq_true_eq] at h
  obtain ⟨hx, hc⟩ := h
  refine ⟨⟨hx, by decide, by omega⟩, fun w hw => ?_⟩
  simp only [decodeScalar, hw.op, hw.x, hw.y, hw.fn, hc, Nat.mod_eq_of_lt hc, beq_self_eq_true, decide_true, Bool.and_self,
    need_true]

/-- The forms of a tile token: Y is OWN (R360). -/
theorem tokenForms_roundTrip (own : Bool) (tile : Nat) : RoundTrips (.smacq own tile) ∧ RoundTrips (.smrel own tile) := by
  have hown : b2n own < 2 := by have := b2n_le_one own; omega
  have hbit : bit (b2n own) 0 = own := bit_of_b2n (by omega)
  constructor <;>
  · refine .of_S2 (by decide) rfl rfl fun h => ?_
    refine ⟨⟨by decide, by omega, of_decide_eq_true h⟩, fun w hw => ?_⟩
    simp only [decodeScalar, hw.op, hw.x, hw.y, hw.fn, hown, hbit, beq_self_eq_true, decide_true, Bool.and_self, need_true]

theorem scsrR_roundTrips (x csr : Nat) : RoundTrips (.scsrR x csr) := by
  refine .of_S2 (by decide) rfl rfl fun h => ?_
  simp only [Instr.wf, wfReg, Bool.and_eq_true, decide_eq_true_eq] at h
  obtain ⟨hx, hcsr⟩ := h
  have := knownCsr_le hcsr
  refine ⟨⟨hx, by omega, by decide⟩, fun w hw => ?_⟩
  simp only [decodeScalar, hw.op, hw.x, hw.y, hw.fn, hcsr, if_true]

theorem scsrW_roundTrips (x csr : Nat) : RoundTrips (.scsrW x csr) := by
  refine .of_S2 (by decide) rfl rfl fun h => ?_
  simp only [Instr.wf, wfReg, Bool.and_eq_true, decide_eq_true_eq] at h
  obtain ⟨⟨hx, hcsr⟩, hne⟩ := h
  have := knownCsr_le hcsr
  refine ⟨⟨hx, by omega, by decide⟩, fun w hw => ?_⟩
  simp only [decodeScalar, hw.op, hw.x, hw.y, hw.fn, hcsr, hne, Bool.and_self, if_true]

/-! ## SI and SB forms without X, and those of a region id -/

theorem sbr_roundTrips (off : Int) : RoundTrips (.sbr off) := by
  refine .of_SI (by decide) rfl rfl (fun _ => by decide) fun w ho hx hw h => ?_
  simp only [decodeScalar, ho, hx, immOf_of_low h hw, beq_self_eq_true, need_true]

theorem strap_roundTrips (code : Int) : RoundTrips (.strap code) := by
  refine .of_SI (by decide) rfl rfl (fun _ => by decide) fun w ho hx hw h => ?_
  simp only [decodeScalar, ho, hx, immOf_of_low h hw]

/-- A region id is the immediate when it is not negative (R422). -/
theorem regionId_fields {w id : Nat} (hid : id < 16384) (hw : w % 2 ^ 15 = low 15 (id : Int)) :
    w % 2 ^ 15 < 16384 ∧ w % 2 ^ 14 = id := by
  have : low 15 (id : Int) = id := by unfold low; omega
  omega

theorem sirb_roundTrips (id : Nat) : RoundTrips (.sirb id) := by
  refine .of_SI (by decide) rfl rfl (fun _ => by decide) fun w ho hx hw h => ?_
  obtain ⟨h1, h2⟩ := regionId_fields (of_decide_eq_true h) hw
  simp only [decodeScalar, ho, hx, h1, h2, beq_self_eq_true, decide_true, Bool.and_self, need_true]

theorem sirc_roundTrips (x id : Nat) : RoundTrips (.sirc x id) := by
  have hb : (Instr.sirc x id).wf = true → x < 1024 ∧ id < 16384 := by
    simp only [Instr.wf, wfReg, Bool.and_eq_true, decide_eq_true_eq, imp_self]
  refine .of_SI (by decide) rfl rfl (fun h => (hb h).1) fun w ho hx hw h => ?_
  obtain ⟨h1, h2⟩ := regionId_fields (hb h).2 hw
  simp only [decodeScalar, ho, hx, h1, h2, decide_true, need_true]

/-! ## Forms of two words -/

theorem sxt_roundTrips (h body : Nat) : RoundTrips (.sxt h body) := by
  intro hwf _
  simp only [Instr.wf, Bool.and_eq_true, decide_eq_true_eq] at hwf
  obtain ⟨hh, hb⟩ := hwf
  have h1 : opOf (0x7F * 2 ^ 25 + h) = 0x7F := by unfold opOf; omega
  have h2 : (0x7F * 2 ^ 25 + h) % 2 ^ 25 = h := by omega
  change decodeWords false [0x7F * 2 ^ 25 + h, body] = _
  simp only [decodeWords_two, decodeScalar, h1, h2, withNext_some hb]

theorem satom_roundTrips (x y f ord aop t z : Nat) : RoundTrips (.satom x y f ord aop t z) := by
  refine .of_two_words (EncodedWordsFit.satom x y f ord aop t z) (by decide) rfl rfl fun h => ?_
  simp only [Instr.wf, wfReg, Bool.and_eq_true, decide_eq_true_eq] at h
  obtain ⟨⟨⟨⟨⟨hx, hy⟩, hf⟩, ho⟩, hacc⟩, hz⟩ := h
  obtain ⟨ha, ht⟩ := satomAccepts_bounds hacc
  refine ⟨⟨hx, hy, hf⟩, fun w u hw hu hu32 => ?_⟩
  have h1 : bits u 28 27 = ord := by unfold bits; omega
  have h2 : bits u 23 16 = aop := by unfold bits; omega
  have h3 : bits u 13 10 = t := by unfold bits; omega
  have h4 : bits u 31 29 = 0 := by unfold bits; omega
  have h5 : bits u 26 24 = 0 := by unfold bits; omega
  have h6 : bits u 15 14 = 0 := by unfold bits; omega
  have h7 : u % 1024 = z := by omega
  have h8 : (ord != 3) = true := bne_iff_ne.2 (by omega)
  simp only [decodeScalar, hw.op, hw.x, hw.y, hw.fn, withNext_some hu32, decodeSatom, h1, h2, h3, h4, h5, h6, h7, h8, hacc,
    Bool.not_true, Bool.false_eq_true, if_false, beq_self_eq_true, Bool.and_self, need_true]

theorem lrun_roundTrips (x y n entry : Nat) : RoundTrips (.lrun x y n entry) := by
  refine .of_two_words (EncodedWordsFit.lrun x y n entry) (by decide) rfl rfl fun h => ?_
  simp only [Instr.wf, wfReg, Bool.and_eq_true, decide_eq_true_eq] at h
  obtain ⟨⟨⟨hx, hy⟩, hn⟩, -⟩ := h
  refine ⟨⟨hx, hy, by omega⟩, fun w u hw hu hu32 => ?_⟩
  subst hu
  simp only [decodeScalar, hw.op, hw.x, hw.y, hw.fn, withNext_some hu32, Nat.not_lt.2 hn, if_false]

theorem sslide_roundTrips (x y k width fill : Nat) (d : Int) : RoundTrips (.sslide x y k width fill d) := by
  refine .of_two_words (EncodedWordsFit.sslide x y k width fill d) (by decide) rfl rfl fun h => ?_
  simp only [Instr.wf, wfReg, Bool.and_eq_true, decide_eq_true_eq] at h
  obtain ⟨⟨⟨⟨⟨⟨hx, hy⟩, hk⟩, hwd⟩, hfill⟩, hlo⟩, hhi⟩ := h
  have hd := low_lt_pow 16 d
  refine ⟨⟨hx, hy, by omega⟩, fun w u hw hu hu32 => ?_⟩
  have h1 : (width * 4 + k) / 4 % 4 = width := by omega
  have h2 : (width == 3) = false := beq_eq_false_iff_ne.2 (by omega)
  have h3 : width * 4 + k < 16 := by omega
  have h4 : (width * 4 + k) % 4 = k := by omega
  have h5 : bits u 21 16 = 0 := by unfold bits; omega
  have h6 : u / 2 ^ 22 = fill := by omega
  have h7 : sext 16 u = d := sext_of_low (by decide) (by omega) (by omega) (by omega)
  simp only [decodeScalar, hw.op, hw.x, hw.y, hw.fn, withNext_some hu32, h1, h2, h3, h4, h5, h6, h7, Bool.false_eq_true, if_false,
    beq_self_eq_true, decide_true, Bool.and_self, need_true]

theorem sbcast_roundTrips (x y k rank : Nat) : RoundTrips (.sbcast x y k rank) := by
  refine .of_two_words (EncodedWordsFit.sbcast x y k rank) (by decide) rfl rfl fun h => ?_
  simp only [Instr.wf, wfReg, Bool.and_eq_true, decide_eq_true_eq] at h
  obtain ⟨⟨⟨hx, hy⟩, hk⟩, -⟩ := h
  refine ⟨⟨hx, hy, by omega⟩, fun w u hw hu hu32 => ?_⟩
  have h1 : u % 2 ^ 22 = 0 := by omega
  have h2 : u / 2 ^ 22 = rank := by omega
  simp only [decodeScalar, hw.op, hw.x, hw.y, hw.fn, withNext_some hu32, hk, Nat.mod_eq_of_lt hk, h1, h2, beq_self_eq_true,
    decide_true, Bool.and_self, need_true]

theorem spawn_roundTrips (x y n target : Nat) : RoundTrips (.spawn x y n target) := by
  refine .of_two_words (EncodedWordsFit.spawn x y n target) (by decide) rfl rfl fun h => ?_
  simp only [Instr.wf, wfReg, Bool.and_eq_true, decide_eq_true_eq] at h
  obtain ⟨⟨⟨⟨hx, hy⟩, h1⟩, h8⟩, -⟩ := h
  refine ⟨⟨hx, hy, by omega⟩, fun w u hw hu hu32 => ?_⟩
  subst hu
  have hn : ¬ n - 1 ≥ 8 := by omega
  simp only [decodeScalar, hw.op, hw.x, hw.y, hw.fn, withNext_some hu32, hn, if_false, Nat.sub_add_cancel h1]

theorem scpy_roundTrips (x y : Nat) (restart : Bool) (r : Nat) : RoundTrips (.scpy x y restart r) := by
  refine .of_two_words (EncodedWordsFit.scpy x y restart r) (by decide) rfl rfl fun h => ?_
  simp only [Instr.wf, wfReg, Bool.and_eq_true, decide_eq_true_eq] at h
  obtain ⟨⟨⟨hx, hy⟩, hr⟩, hrestart⟩ := h
  have := b2n_le_one restart
  refine ⟨⟨hx, hy, by decide⟩, fun w u hw hu hu32 => ?_⟩
  have h1 : bits u 30 10 = 0 := by unfold bits; omega
  have h2 : bit u 31 = restart := bit_of_b2n (by omega)
  have h3 : u % 1024 = r := by omega
  simp only [decodeScalar, hw.op, hw.x, hw.y, hw.fn, withNext_some hu32, h1, h2, h3, hrestart, beq_self_eq_true, Bool.and_self,
    need_true]

theorem ssig_roundTrips (x y op : Nat) (ord loc : Bool) (d sreg : Nat) : RoundTrips (.ssig x y op ord loc d sreg) := by
  refine .of_two_words (EncodedWordsFit.ssig x y op ord loc d sreg) (by decide) rfl rfl fun h => ?_
  simp only [Instr.wf, wfReg, Bool.and_eq_true, decide_eq_true_eq] at h
  obtain ⟨⟨⟨⟨⟨hx, hy⟩, hop⟩, hd⟩, hs⟩, hloc⟩ := h
  have := b2n_le_one ord
  have := b2n_le_one loc
  refine ⟨⟨hx, hy, by omega⟩, fun w u hw hu hu32 => ?_⟩
  have h1 : (b2n ord * 4 + op) % 4 = op := by omega
  have h2 : bit (b2n ord * 4 + op) 2 = ord := bit_of_b2n (by omega)
  have h3 : b2n ord * 4 + op < 8 := by omega
  have h4 : bits u 20 10 = 0 := by unfold bits; omega
  have h5 : bit u 21 = loc := bit_of_b2n (by omega)
  have h6 : u / 2 ^ 22 = d := by omega
  have h7 : u % 1024 = sreg := by omega
  simp only [decodeScalar, hw.op, hw.x, hw.y, hw.fn, withNext_some hu32, ge_iff_le, Nat.not_le.2 hop, if_false, h1, h2, h3, h4, h5,
    h6, h7, hloc, beq_self_eq_true, decide_true, Bool.and_self, need_true]

theorem smma_roundTrips (x y sreg : Nat) (own zero pair : Bool) (tile : Nat) :
    RoundTrips (.smma x y sreg own zero pair tile) := by
  refine .of_two_words (EncodedWordsFit.smma x y sreg own zero pair tile) (by decide) rfl rfl fun h => ?_
  simp only [Instr.wf, wfReg, Bool.and_eq_true, decide_eq_true_eq] at h
  obtain ⟨⟨⟨hx, hy⟩, hs⟩, ht⟩ := h
  have := b2n_le_one own
  have := b2n_le_one zero
  have := b2n_le_one pair
  refine ⟨⟨hx, hy, by decide⟩, fun w u hw hu hu32 => ?_⟩
  have h1 : bits u 21 8 = 0 := by unfold bits; omega
  have h2 : u / 2 ^ 22 = sreg := by omega
  have h3 : bit u 7 = own := bit_of_b2n (by omega)
  have h4 : bit u 6 = zero := bit_of_b2n (by omega)
  have h5 : bit u 5 = pair := bit_of_b2n (by omega)
  have h6 : u % 32 = tile := by omega
  simp only [decodeScalar, hw.op, hw.x, hw.y, hw.fn, withNext_some hu32, h1, h2, h3, h4, h5, h6, beq_self_eq_true, Bool.and_self,
    need_true]

theorem wfInt8_bounds {e : Int} (h : wfInt8 e = true) : -2 ^ (8 - 1) ≤ e ∧ e < 2 ^ (8 - 1) := by
  simp only [wfInt8, Bool.and_eq_true, decide_eq_true_eq] at h
  omega

theorem smld_roundTrips (x y tile sreg : Nat) (e : Int) (bf own : Bool) : RoundTrips (.smld x y tile sreg e bf own) := by
  refine .of_two_words (EncodedWordsFit.smld x y tile sreg e bf own) (by decide) rfl rfl fun h => ?_
  simp only [Instr.wf, wfReg, Bool.and_eq_true, decide_eq_true_eq] at h
  obtain ⟨⟨⟨⟨hx, hy⟩, ht⟩, hs⟩, he⟩ := h
  obtain ⟨hlo, hhi⟩ := wfInt8_bounds he
  have hlow := low_lt_pow 8 e
  have := b2n_le_one bf
  have := b2n_le_one own
  refine ⟨⟨hx, hy, ht⟩, fun w u hw hu hu32 => ?_⟩
  have h1 : bits u 12 1 = 0 := by unfold bits; omega
  have h2 : u / 2 ^ 22 = sreg := by omega
  have h3 : sext 8 (bits u 21 14) = e := sext_of_low (by decide) (by unfold bits; omega) hlo hhi
  have h4 : bit u 13 = bf := bit_of_b2n (by omega)
  have h5 : bit u 0 = own := bit_of_b2n (by omega)
  simp only [decodeScalar, hw.op, hw.x, hw.y, hw.fn, withNext_some hu32, h1, h2, h3, h4, h5, beq_self_eq_true, need_true]

theorem smst_roundTrips (x y tile sreg : Nat) (e : Int) (own : Bool) : RoundTrips (.smst x y tile sreg e own) := by
  refine .of_two_words (EncodedWordsFit.smst x y tile sreg e own) (by decide) rfl rfl fun h => ?_
  simp only [Instr.wf, wfReg, Bool.and_eq_true, decide_eq_true_eq] at h
  obtain ⟨⟨⟨⟨hx, hy⟩, ht⟩, hs⟩, he⟩ := h
  obtain ⟨hlo, hhi⟩ := wfInt8_bounds he
  have hlow := low_lt_pow 8 e
  have := b2n_le_one own
  refine ⟨⟨hx, hy, ht⟩, fun w u hw hu hu32 => ?_⟩
  have h1 : bits u 13 1 = 0 := by unfold bits; omega
  have h2 : u / 2 ^ 22 = sreg := by omega
  have h3 : sext 8 (bits u 21 14) = e := sext_of_low (by decide) (by unfold bits; omega) hlo hhi
  have h4 : bit u 0 = own := bit_of_b2n (by omega)
  simp only [decodeScalar, hw.op, hw.x, hw.y, hw.fn, withNext_some hu32, h1, h2, h3, h4, beq_self_eq_true, need_true]

theorem sscan_roundTrips (x y c : Nat) (first last : Bool) : RoundTrips (.sscan x y c first last) := by
  refine .of_two_words (EncodedWordsFit.sscan x y c first last) (by decide) rfl rfl fun h => ?_
  simp only [Instr.wf, wfReg, Bool.and_eq_true, decide_eq_true_eq] at h
  obtain ⟨⟨hx, hy⟩, hc⟩ := h
  have := b2n_le_one first
  have := b2n_le_one last
  refine ⟨⟨hx, hy, by decide⟩, fun w u hw hu hu32 => ?_⟩
  have h1 : u / 64 = 0 := by omega
  have h2 : u % 16 = c := by omega
  have h3 : bit u 4 = first := bit_of_b2n (by omega)
  have h4 : bit u 5 = last := bit_of_b2n (by omega)
  simp only [decodeScalar, hw.op, hw.x, hw.y, hw.fn, withNext_some hu32, h1, h2, h3, h4, beq_self_eq_true, Bool.and_self,
    need_true]

theorem sacc_roundTrips (x y q : Nat) : RoundTrips (.sacc x y q) := by
  refine .of_two_words (EncodedWordsFit.sacc x y q) (by decide) rfl rfl fun h => ?_
  simp only [Instr.wf, wfReg, Bool.and_eq_true, decide_eq_true_eq] at h
  obtain ⟨⟨hx, hy⟩, hq⟩ := h
  refine ⟨⟨hx, hy, by omega⟩, fun w u hw hu hu32 => ?_⟩
  subst hu
  simp only [decodeScalar, hw.op, hw.x, hw.y, hw.fn, withNext_some hu32, hq, Nat.mod_eq_of_lt hq, beq_self_eq_true,
    decide_true, Bool.and_self, need_true]

theorem slaunch_roundTrips (x y : Nat) : RoundTrips (.slaunch x y) := by
  refine .of_two_words (EncodedWordsFit.slaunch x y) (by decide) rfl rfl fun h => ?_
  simp only [Instr.wf, wfReg, Bool.and_eq_true, decide_eq_true_eq] at h
  obtain ⟨hx, hy⟩ := h
  refine ⟨⟨hx, hy, by decide⟩, fun w u hw hu hu32 => ?_⟩
  subst hu
  simp only [decodeScalar, hw.op, hw.x, hw.y, hw.fn, withNext_some hu32, beq_self_eq_true, Bool.and_self, need_true]

theorem sarm_roundTrips (x y tag count : Nat) : RoundTrips (.sarm x y tag count) := by
  refine .of_two_words (EncodedWordsFit.sarm x y tag count) (by decide) rfl rfl fun h => ?_
  simp only [Instr.wf, wfReg, Bool.and_eq_true, decide_eq_true_eq] at h
  obtain ⟨⟨⟨hx, hy⟩, -⟩, hc⟩ := h
  refine ⟨⟨hx, hy, by decide⟩, fun w u hw hu hu32 => ?_⟩
  have h1 : u / 2 ^ 16 = tag := by omega
  have h2 : u % 2 ^ 16 = count := by omega
  simp only [decodeScalar, hw.op, hw.x, hw.y, hw.fn, withNext_some hu32, h1, h2, beq_self_eq_true, need_true]

/-- The second word of `sbank`: the entry, and the mode of `sbank.take` above it (R367). -/
theorem sbankWord_fields {u e : Nat} {mode : Bool} (he : e < 16) (hu : u = b2n mode * 16 + e) :
    u % 16 = e ∧ bit u 4 = mode ∧ (u / 32 == 0) = true := by
  have := b2n_le_one mode
  exact ⟨by omega, bit_of_b2n (by omega), beq_iff_eq.2 (by omega)⟩

theorem sbankWord_entry {u e : Nat} (he : e < 16) (hu : u = e) : u % 16 = e ∧ bit u 4 = false ∧ (u / 32 == 0) = true :=
  sbankWord_fields he (by rw [hu, b2n_false, Nat.zero_mul, Nat.zero_add])

/-- The forms of `sbank` that name a status register and an entry only. -/
theorem sbankForms_roundTrip (x e : Nat) : RoundTrips (.sbankScr x e) ∧ RoundTrips (.sbankRel x e) := by
  refine ⟨.of_two_words (EncodedWordsFit.sbankScr x e) (by decide) rfl rfl fun h => ?_,
    .of_two_words (EncodedWordsFit.sbankRel x e) (by decide) rfl rfl fun h => ?_⟩ <;>
  · simp only [Instr.wf, wfReg, Bool.and_eq_true, decide_eq_true_eq] at h
    obtain ⟨hx, he⟩ := h
    refine ⟨⟨hx, by decide, by decide⟩, fun w u hw hu hu32 => ?_⟩
    obtain ⟨h1, h2, h3⟩ := sbankWord_entry he hu
    simp [decodeScalar, hw.op, hw.x, hw.y, hw.fn, withNext_some hu32, decodeSbank, h1, h2, h3]

theorem sbankFifo_roundTrips (x y e : Nat) : RoundTrips (.sbankFifo x y e) := by
  refine .of_two_words (EncodedWordsFit.sbankFifo x y e) (by decide) rfl rfl fun h => ?_
  simp only [Instr.wf, wfReg, Bool.and_eq_true, decide_eq_true_eq] at h
  obtain ⟨⟨hx, hy⟩, he⟩ := h
  refine ⟨⟨hx, hy, by decide⟩, fun w u hw hu hu32 => ?_⟩
  obtain ⟨h1, h2, h3⟩ := sbankWord_entry he hu
  simp [decodeScalar, hw.op, hw.x, hw.y, hw.fn, withNext_some hu32, decodeSbank, h1, h2, h3]

theorem sbankTake_roundTrips (x y : Nat) (fifo : Bool) (e : Nat) : RoundTrips (.sbankTake x y fifo e) := by
  refine .of_two_words (EncodedWordsFit.sbankTake x y fifo e) (by decide) rfl rfl fun h => ?_
  simp only [Instr.wf, wfReg, Bool.and_eq_true, decide_eq_true_eq] at h
  obtain ⟨⟨⟨hx, hy⟩, he⟩, hfifo⟩ := h
  refine ⟨⟨hx, hy, by decide⟩, fun w u hw hu hu32 => ?_⟩
  obtain ⟨h1, h2, h3⟩ := sbankWord_fields he hu
  simp [decodeScalar, hw.op, hw.x, hw.y, hw.fn, withNext_some hu32, decodeSbank, h1, h2, h3, hfifo]

/-! ## Every instruction -/

theorem roundTrips (i : Instr) : RoundTrips i := by
  cases i with
  | smov x y | sadd x y | ssub x y | sand x y | sor x y | sxor x y | sshl x y | sshr x y | ssra x y | smul x y | smulh x y
  | smulhu x y | sdiv x y | sdivu x y | srem x y | sremu x y | smin x y | smax x y | sminu x y | smaxu x y | sslt x y
  | ssltu x y | sseq x y | snot x y | sclz x y | spopc x y | sbrev x y | sneg x y =>
    exact .of_registers (by decide) (by decide) rfl rfl rfl fun w hw => by
      rw [decodeScalar_salu hw.op, hw.x, hw.y, hw.fn]
      rfl
  | smov64 x y | sadd64 x y | ssub64 x y | sshl64 x y | sshr64 x y | ssra64 x y | smul64 x y =>
    exact .of_registers (by decide) (by decide) rfl rfl rfl fun w hw => by
      rw [decodeScalar_salu64 hw.op, hw.x, hw.y, hw.fn]
      rfl
  | sfet x y | swaitc x y | sjrL x y =>
    exact .of_registers (by decide) (by decide) rfl rfl rfl fun w hw => by
      simp only [decodeScalar, hw.op, hw.x, hw.y, hw.fn, beq_self_eq_true, need_true]
  | sjr x | swfull x | sempt x | ssetfmt x | scyc x =>
    exact .of_register (by decide) rfl rfl rfl fun w hw => by
      simp only [decodeScalar, hw.op, hw.x, hw.y, hw.fn, beq_self_eq_true, Bool.and_self, need_true]
  | lsync | sfenceAcqrel | sfenceRel | sfenceAcq | sbrk | sexit | syield | snop | strapRet =>
    exact fun _ _ => rfl
  | sli x imm | sli64 x imm | saddi x imm | sandi x imm | sori x imm | sxori x imm | sshli x imm | sshri x imm | ssrai x imm
  | ssltiu x imm | saddi64 x imm | sbz x imm | sbnz x imm | sblz x imm | sbgez x imm | scall x imm | sloop x imm =>
    exact .of_immediate (by decide) rfl rfl rfl fun w ho hx hi => by simp only [decodeScalar, ho, hx, hi]
  | sld x y off | sld64 x y off | sld128 x y off | sst x y off | sst64 x y off | sst128 x y off | sldacq x y off
  | sstrel x y off =>
    exact memoryForms_roundTrip x y off _ (by simp)
  | scoll x y k op => exact (scollForms_roundTrip x y k op).1
  | sprfx x y k op => exact (scollForms_roundTrip x y k op).2
  | sidx x k => exact (levelQueries_roundTrip x k).1
  | selct x k => exact (levelQueries_roundTrip x k).2
  | srgnb k => exact (levelForms_roundTrip k).1
  | srgne k => exact (levelForms_roundTrip k).2.1
  | sfenceSc k => exact (levelForms_roundTrip k).2.2
  | smacq own tile => exact (tokenForms_roundTrip own tile).1
  | smrel own tile => exact (tokenForms_roundTrip own tile).2
  | sbar k id => exact sbar_roundTrips k id
  | smapq x q => exact smapq_roundTrips x q
  | sshare x y f => exact sshare_roundTrips x y f
  | sthd x y n => exact sthd_roundTrips x y n
  | sscw x c => exact sscw_roundTrips x c
  | scsrR x csr => exact scsrR_roundTrips x csr
  | scsrW x csr => exact scsrW_roundTrips x csr
  | sbr off => exact sbr_roundTrips off
  | strap code => exact strap_roundTrips code
  | sirb id => exact sirb_roundTrips id
  | sirc x id => exact sirc_roundTrips x id
  | sxt h body => exact sxt_roundTrips h body
  | satom x y f ord aop t z => exact satom_roundTrips x y f ord aop t z
  | lrun x y n entry => exact lrun_roundTrips x y n entry
  | sslide x y k width fill d => exact sslide_roundTrips x y k width fill d
  | sbcast x y k rank => exact sbcast_roundTrips x y k rank
  | spawn x y n target => exact spawn_roundTrips x y n target
  | scpy x y restart r => exact scpy_roundTrips x y restart r
  | ssig x y op ord loc d sreg => exact ssig_roundTrips x y op ord loc d sreg
  | smma x y sreg own zero pair tile => exact smma_roundTrips x y sreg own zero pair tile
  | smld x y tile sreg e bf own => exact smld_roundTrips x y tile sreg e bf own
  | smst x y tile sreg e own => exact smst_roundTrips x y tile sreg e own
  | sscan x y c first last => exact sscan_roundTrips x y c first last
  | sacc x y q => exact sacc_roundTrips x y q
  | slaunch x y => exact slaunch_roundTrips x y
  | sarm x y tag count => exact sarm_roundTrips x y tag count
  | sbankScr x e => exact (sbankForms_roundTrip x e).1
  | sbankRel x e => exact (sbankForms_roundTrip x e).2
  | sbankFifo x y e => exact sbankFifo_roundTrips x y e
  | sbankTake x y fifo e => exact sbankTake_roundTrips x y fifo e
  | add w | sub w | mul w | mulh w | mad w | and w | or w | xor w | lop3 w | shl w | shr w | sra w | min w | max w | abs w
  | neg w | clz w | popc w | brev w | bfe w | bfi w | sel w | cmp w | div w | rem w | addsat w | subsat w | dp2 w | dp4 w
  | shrr w | mov w | movi w | plop w | fadd w | fsub w | fmul w | fma w | fmin w | fmax w | fneg w | fabs w | fcmp w
  | fclass w | frnd w | frcp w | frsq w | fsqrt w | fdiv w | fexp2 w | flog2 w | fsinpi w | fcospi w | ftanh w | fsigm w
  | fcsgn w | cvt w | pack w | unpk w | tw2d w | ld w | st w | atom w | red w | pf w | cln w | tbeg w | tend w | tabt w
  | tsts w | bra w | brr w | lcall w | lend w | lidx w | lshb w | lvote w | xissue w | lfmt w | rdflg w | clrflg w | lnop w
  | ltrap w | accrd w | accwr w | bperm w =>
    exact .of_lane (by decide) rfl rfl rfl rfl
  | _ => exact .of_event rfl

/-! ## The obligations -/

/-- Settles O1: the decoder reads back every field that the encoder has written, and a well-formed instruction passes its checks. -/
theorem decodeEncodeRoundTrip : Obligations.DecodeEncodeRoundTrip := roundTrips

/-- Settles O2: the scalar and lane decoders evaluated on each word. -/
theorem codeWordsDecode : Obligations.CodeWordsDecode := by
  unfold Obligations.CodeWordsDecode
  exact ⟨rfl, rfl, rfl, rfl, rfl, rfl, rfl, rfl, rfl, rfl, rfl, rfl, rfl, rfl, rfl, rfl, rfl⟩

end Sys2Proof.Encoding
end

section
/-!
PROOF. `sxt` (spec/04 R87): which words accept it, and the instruction that it and the next word make.
-/
namespace Sys2Proof.Encoding
open Sys2Proof.Machine Sys2Proof.Laws

/-! ## Widened fields -/

theorem sext_eq_toInt (n v : Nat) : sext (n + 1) v = (BitVec.ofNat (n + 1) v).toInt := by
  rw [BitVec.toInt_eq_toNat_cond, BitVec.toNat_ofNat, sext]
  have hpow : 2 ^ (n + 1) = 2 * 2 ^ n := by rw [Nat.pow_succ, Nat.mul_comm]
  have hiff : v % 2 ^ (n + 1) < 2 ^ (n + 1 - 1) ↔ 2 * (v % 2 ^ (n + 1)) < 2 ^ (n + 1) := by
    rw [Nat.add_sub_cancel]; omega
  simp only [hiff, Nat.cast_pow, Nat.cast_ofNat]

/-- A field below another, as one bit vector. -/
theorem ofNat_concat {m n a b : Nat} (ha : a < 2 ^ m) (hb : b < 2 ^ n) :
    BitVec.ofNat (m + n) (a * 2 ^ n + b) = BitVec.ofNat m a ++ BitVec.ofNat n b := by
  apply BitVec.eq_of_toNat_eq
  have hlt : a * 2 ^ n + b < 2 ^ (m + n) := by
    calc a * 2 ^ n + b < (a + 1) * 2 ^ n := by rw [Nat.succ_mul]; omega
      _ ≤ 2 ^ m * 2 ^ n := Nat.mul_le_mul_right _ ha
      _ = 2 ^ (m + n) := (Nat.pow_add ..).symm
  rw [BitVec.toNat_append, BitVec.toNat_ofNat, BitVec.toNat_ofNat, BitVec.toNat_ofNat, Nat.mod_eq_of_lt hlt, Nat.mod_eq_of_lt ha,
    Nat.mod_eq_of_lt hb, ← Nat.shiftLeft_add_eq_or_of_lt hb, Nat.shiftLeft_eq]

section
variable {h body x y w f : Nat}

/-- The immediate of a prefixed word is {HI25, IMM15}. -/
theorem widened_eq (hh : h < 2 ^ 25) (hw : w < 2 ^ 15) (hb : body % 2 ^ 15 = w) :
    widened h body = (BitVec.ofNat 25 h ++ BitVec.ofNat 15 w : BitVec 40).toInt := by
  rw [widened, hb, sext_eq_toInt, ofNat_concat hh hw]

/-- The word offset of a prefixed memory word is {HI25, FN}. -/
theorem widenedOffset_eq (hh : h < 2 ^ 25) (hf : f < 2 ^ 5) (hb : body % 2 ^ 5 = f) :
    widenedOffset h body = (BitVec.ofNat 25 h ++ BitVec.ofNat 5 f : BitVec 30).toInt := by
  rw [widenedOffset, hb, sext_eq_toInt, ofNat_concat hh hf]

/-! ## The prefixed instruction -/

theorem exec_sxt (h body : Nat) (s : State) : exec (.sxt h body) s = execSxt h body s := rfl

/-- The forms of X and an immediate or a branch offset that accept `sxt`, by their OP. -/
def prefixedImmediates (x : Nat) (imm : Int) : List (Nat × Instr) :=
  [(0x04, .sli x imm), (0x05, .sli64 x imm), (0x06, .saddi x imm), (0x07, .sandi x imm), (0x08, .sori x imm), (0x09, .sxori x imm),
    (0x0A, .sshli x imm), (0x0B, .sshri x imm), (0x0C, .ssrai x imm), (0x0D, .ssltiu x imm), (0x0E, .saddi64 x imm),
    (0x21, .sbz x imm), (0x22, .sbnz x imm), (0x23, .sblz x imm), (0x24, .sbgez x imm), (0x25, .scall x imm), (0x27, .sloop x imm)]

/-- The scalar memory forms, by their OP. -/
def prefixedMemory (x y : Nat) (off : Int) : List (Nat × Instr) :=
  [(0x10, .sld x y off), (0x11, .sld64 x y off), (0x12, .sld128 x y off), (0x13, .sst x y off), (0x14, .sst64 x y off),
    (0x15, .sst128 x y off), (0x16, .sldacq x y off), (0x17, .sstrel x y off)]

theorem prefixedImmediates_op (x : Nat) (imm : Int) : ∀ i ∈ prefixedImmediates x imm, i.1 < 128 := by simp [prefixedImmediates]

theorem prefixedMemory_op (x y : Nat) (off : Int) : ∀ i ∈ prefixedMemory x y off, i.1 < 128 := by simp [prefixedMemory]

theorem exec_prefixedImmediate (s : State) {imm : Int} (hx : xOf body = x) (himm : widened h body = imm) :
    ∀ i ∈ prefixedImmediates x imm, opOf body = i.1 → exec (.sxt h body) s = exec i.2 s := by
  simp only [prefixedImmediates, List.forall_mem_cons, List.not_mem_nil, false_implies, implies_true, and_true, exec_sxt]
  refine ⟨?_, ?_, ?_, ?_, ?_, ?_, ?_, ?_, ?_, ?_, ?_, ?_, ?_, ?_, ?_, ?_, ?_⟩ <;>
  · intro ho
    simp only [execSxt, ho, hx, himm]
    rfl

theorem exec_prefixedMemory (s : State) {off : Int} (hx : xOf body = x) (hy : yOf body = y) (hoff : widenedOffset h body = off) :
    ∀ i ∈ prefixedMemory x y off, opOf body = i.1 → exec (.sxt h body) s = exec i.2 s := by
  simp only [prefixedMemory, List.forall_mem_cons, List.not_mem_nil, false_implies, implies_true, and_true, exec_sxt]
  refine ⟨?_, ?_, ?_, ?_, ?_, ?_, ?_, ?_⟩ <;>
  · intro ho
    simp only [execSxt, ho, hx, hy, hoff]
    rfl

theorem exec_prefixedBranch (s : State) (ho : opOf body = 0x20) (hx : xOf body = 0) :
    exec (.sxt h body) s = exec (.sbr (widened h body)) s := by
  simp only [exec_sxt, execSxt, ho, hx]
  rfl

theorem exec_prefixedTrap (s : State) (ho : opOf body = 0x70) (hx : xOf body = 0) :
    exec (.sxt h body) s = exec (.strap (widened h body)) s := by
  simp only [exec_sxt, execSxt, ho, hx]
  rfl

/-! ## Words that do not accept `sxt` -/

/-- The OPs that accept `sxt`. -/
def prefixable : List Nat :=
  [0x04, 0x05, 0x06, 0x07, 0x08, 0x09, 0x0A, 0x0B, 0x0C, 0x0D, 0x0E, 0x10, 0x11, 0x12, 0x13, 0x14, 0x15, 0x16, 0x17, 0x20, 0x21,
    0x22, 0x23, 0x24, 0x25, 0x27, 0x70]

theorem execSxt_refused (s : State) (ho : opOf body ∉ prefixable) : execSxt h body s = badPrefix h s := by
  unfold execSxt
  dsimp only
  split
  case h_28 => rfl
  all_goals
    rename_i hop
    exact absurd (hop ▸ by decide) ho

theorem exec_refusedPrefix {s : State} {is : Issue} {sh : Shuttle} {env : Env} (hi : s.AtIssue is sh env)
    (ho : opOf body ∉ prefixable) : EndsTeamWith (.sxt h body) s sh 0x10 0 := by
  refine ⟨trapWords (scalarTrap { is with words := [0x7F * 2 ^ 25 + h] } sh 0x10 0) (sh.traps + 1), ?_⟩
  rw [exec_sxt, execSxt_refused s ho, badPrefix, onIssue_eq hi, scalarTrapOf_illegal]

/-! ## A prefixed `sli` -/

theorem exec_sli {s : State} {is : Issue} {sh : Shuttle} {env : Env} (hi : s.AtIssue is sh env) (hw : Writable env sh x)
    (imm : Int) : Gives (.sli x imm) s is sh x (BitVec.ofInt 32 imm) := by
  obtain ⟨h64, hn, hp⟩ := hw
  have hlegal : (useNone x).illegal env.nest.ns = none := (useNone_writesOne x).legal rfl h64 (by simp [useNone, hn])
  obtain ⟨hr, hb⟩ := ScalarUse.ready_of_full (u := useNone x) (s := sh) (by simp [useNone]) (by simp [useNone, hp])
  rw [← ofNat_low]
  exact scalarReg_done hi hlegal hr hb

end

/-! ## The obligation -/

/-- The fields of an SI or SB word, whose low bits are a number. -/
theorem immediateWord_fields {op x w : Nat} (ho : op < 128) (hx : x < 2 ^ 10) (hw : w < 2 ^ 15) :
    opOf (op * 2 ^ 25 + x * 2 ^ 15 + w) = op ∧ xOf (op * 2 ^ 25 + x * 2 ^ 15 + w) = x ∧
      (op * 2 ^ 25 + x * 2 ^ 15 + w) % 2 ^ 15 = w := by
  unfold opOf xOf; omega

/-- Settles O31: by the OP of the word after `sxt`, whose field is read as {HI25, IMM15} or {HI25, FN}. -/
theorem prefixedInstructions : Obligations.PrefixedInstructions := by
  intro s h x y f imm w hh hx hy
  refine ⟨fun hw himm => ⟨fun i hi => ?_, ?_, ?_⟩, fun hf hoff i hi => ?_,
    fun is sh env hat => ⟨fun v hwr hw hv => ?_, fun op hop hw => ?_⟩⟩
  · obtain ⟨h1, h2, h3⟩ := immediateWord_fields (prefixedImmediates_op x imm i hi) hx hw
    exact exec_prefixedImmediate s h2 ((widened_eq hh hw h3).trans himm.symm) i hi h1
  · have h3 := widened_eq (body := 0x20 * 2 ^ 25 + w) hh hw (by omega)
    rw [exec_prefixedBranch s (by unfold opOf; omega) (by unfold xOf; omega), h3, himm]
  · have h3 := widened_eq (body := 0x70 * 2 ^ 25 + w) hh hw (by omega)
    rw [exec_prefixedTrap s (by unfold opOf; omega) (by unfold xOf; omega), h3, himm]
  · have hfields : S2Fields (i.1 * 2 ^ 25 + x * 2 ^ 15 + y * 2 ^ 5 + f) i.1 x y f :=
      mkS2_fields (prefixedMemory_op x y imm i hi) hx hy hf
    exact exec_prefixedMemory s hfields.x hfields.y ((widenedOffset_eq hh hf (by omega)).trans hoff.symm) i hi hfields.op
  · obtain ⟨h1, h2, h3⟩ := immediateWord_fields (op := 0x04) (by decide) hx hw
    have hsli : (0x04, Instr.sli x v) ∈ prefixedImmediates x v := by simp [prefixedImmediates]
    exact (exec_prefixedImmediate s h2 ((widened_eq hh hw h3).trans hv.symm) _ hsli h1).trans (exec_sli hat hwr v)
  · have hno : ∀ op ∈ [0x01, 0x02, 0x18, 0x26, 0x28, 0x30, 0x38, 0x3D, 0x44, 0x50, 0x60, 0x71, 0x7F],
      op < 128 ∧ op ∉ prefixable := by decide
    obtain ⟨h1, h2⟩ := hno op hop
    have ho : opOf (op * 2 ^ 25 + w) = op := by unfold opOf; omega
    exact exec_refusedPrefix hat (by rwa [ho])

end Sys2Proof.Encoding
end

section
/-!
PROOF. The operations of the scalar stream on numbers are those of bit vectors (spec/02 R56, R57; spec/05 R107, R108).
-/
namespace Sys2Proof.Machine

section
variable {w : Nat} (a b : BitVec w)

/-! ## Signed values -/

theorem sext_toNat_eq_toInt : sext w a.toNat = a.toInt := by
  cases w with
  | zero => simp [sext, Nat.mod_one, BitVec.of_length_zero (x := a)]
  | succ n => rw [Encoding.sext_eq_toInt, BitVec.ofNat_toNat, BitVec.setWidth_eq]

theorem low_eq_toNat (i : Int) : low w i = (BitVec.ofInt w i).toNat := by
  rw [BitVec.toNat_ofInt, low, Nat.cast_pow, Nat.cast_ofNat]

theorem ofNat_low_eq_ofInt (i : Int) : BitVec.ofNat w (low w i) = BitVec.ofInt w i := by
  rw [low_eq_toNat, BitVec.ofNat_toNat, BitVec.setWidth_eq]

theorem toNat_ne_zero {a : BitVec w} (h : a ≠ 0) : a.toNat ≠ 0 := fun e => h (BitVec.eq_of_toNat_eq (by simpa using e))

/-! ## Sums, products and shifts -/

theorem ofNat_addW : BitVec.ofNat w (addW w a.toNat b.toNat) = a + b := by
  apply BitVec.eq_of_toNat_eq
  simp [addW]

theorem ofNat_subW : BitVec.ofNat w (subW w a.toNat b.toNat) = a - b := by
  apply BitVec.eq_of_toNat_eq
  have hb := b.isLt
  simp only [subW, BitVec.toNat_ofNat, BitVec.toNat_sub, Nat.mod_eq_of_lt hb, Nat.mod_mod]
  congr 1
  omega

theorem ofNat_mulW : BitVec.ofNat w (mulW w a.toNat b.toNat) = a * b := by
  apply BitVec.eq_of_toNat_eq
  simp [mulW]

theorem ofNat_shlW (k : Nat) : BitVec.ofNat w (shlW w a.toNat k) = a <<< k := by
  apply BitVec.eq_of_toNat_eq
  simp [shlW, Nat.shiftLeft_eq]

theorem ofNat_shrW (k : Nat) : BitVec.ofNat w (shrW a.toNat k) = a >>> k := by
  apply BitVec.eq_of_toNat_eq
  have hlt : a.toNat / 2 ^ k < 2 ^ w := (Nat.div_le_self _ _).trans_lt a.isLt
  simp [shrW, Nat.shiftRight_eq_div_pow, Nat.mod_eq_of_lt hlt]

theorem ofNat_sraW (k : Nat) : BitVec.ofNat w (sraW w a.toNat k) = a.sshiftRight k := by
  rw [sraW, ofNat_low_eq_ofInt, sext_toNat_eq_toInt, BitVec.sshiftRight, Int.shiftRight_eq_div_pow]
  simp

/-- The middle digits of a number in a base. -/
theorem emod_mul_ediv (v m : Int) (hm : 0 < m) : v % (m * m) / m = v / m % m := by
  have hsplit : v - m * m * (v / (m * m)) = v + m * -(m * (v / (m * m))) := by ring
  rw [Int.emod_def v, hsplit, Int.add_mul_ediv_left _ _ hm.ne', ← Int.ediv_ediv_of_nonneg hm.le, Int.emod_def (v / m)]
  rfl

theorem ofNat_mulhW :
    BitVec.ofNat w (mulhW w a.toNat b.toNat) = (a.signExtend (w + w) * b.signExtend (w + w)).extractLsb' w w := by
  have hp : (0 : Int) < 2 ^ w := by positivity
  rw [mulhW, ofNat_low_eq_ofInt, sext_toNat_eq_toInt, sext_toNat_eq_toInt, BitVec.signExtend, BitVec.signExtend,
    ← BitVec.ofInt_mul]
  apply BitVec.eq_of_toNat_eq
  rw [BitVec.toNat_ofInt, BitVec.extractLsb'_toNat, BitVec.toNat_ofInt, Nat.shiftRight_eq_div_pow]
  zify
  rw [Int.toNat_of_nonneg (Int.emod_nonneg _ hp.ne'), Int.toNat_of_nonneg (Int.emod_nonneg _ (by positivity)), pow_add,
    emod_mul_ediv _ _ hp, Int.emod_emod]

theorem ofNat_mulhuW :
    BitVec.ofNat w (mulhuW w a.toNat b.toNat) = (a.zeroExtend (w + w) * b.zeroExtend (w + w)).extractLsb' w w := by
  apply BitVec.eq_of_toNat_eq
  have hlt : a.toNat * b.toNat < 2 ^ (w + w) := by
    rw [pow_add]
    exact Nat.mul_lt_mul'' a.isLt b.isLt
  have hle : 2 ^ w ≤ 2 ^ (w + w) := Nat.pow_le_pow_right (by decide) (by omega)
  simp [mulhuW, BitVec.extractLsb'_toNat, Nat.shiftRight_eq_div_pow, Nat.mod_eq_of_lt hlt,
    Nat.mod_eq_of_lt (a.isLt.trans_le hle), Nat.mod_eq_of_lt (b.isLt.trans_le hle)]

/-! ## Quotients and remainders -/

theorem ofNat_divW : BitVec.ofNat w (divW w a.toNat b.toNat) = if b = 0 then BitVec.allOnes w else a.sdiv b := by
  by_cases h : b = 0
  · rw [if_pos h, h]
    apply BitVec.eq_of_toNat_eq
    simp [divW]
  · rw [if_neg h, divW, if_neg (by simpa using toNat_ne_zero h), ofNat_low_eq_ofInt, sext_toNat_eq_toInt, sext_toNat_eq_toInt]
    apply BitVec.eq_of_toInt_eq
    rw [BitVec.toInt_ofInt, BitVec.toInt_sdiv]

theorem ofNat_divuW : BitVec.ofNat w (divuW w a.toNat b.toNat) = if b = 0 then BitVec.allOnes w else a / b := by
  apply BitVec.eq_of_toNat_eq
  by_cases h : b = 0
  · simp [divuW, h]
  · have hlt : a.toNat / b.toNat < 2 ^ w := (Nat.div_le_self _ _).trans_lt a.isLt
    rw [if_neg h, divuW, if_neg (by simpa using toNat_ne_zero h), BitVec.toNat_ofNat, Nat.mod_eq_of_lt hlt, BitVec.toNat_udiv]

theorem ofNat_remW : BitVec.ofNat w (remW w a.toNat b.toNat) = a.srem b := by
  by_cases h : b = 0
  · simp [h, remW, BitVec.srem_zero]
  · rw [remW, if_neg (by simpa using toNat_ne_zero h), ofNat_low_eq_ofInt, sext_toNat_eq_toInt, sext_toNat_eq_toInt,
      ← BitVec.toInt_srem, BitVec.ofInt_toInt]

theorem ofNat_remuW : BitVec.ofNat w (remuW a.toNat b.toNat) = a % b := by
  apply BitVec.eq_of_toNat_eq
  have hlt : a.toNat % b.toNat < 2 ^ w := (Nat.mod_le _ _).trans_lt a.isLt
  by_cases h : b.toNat = 0
  · simp [remuW, h]
  · simp [remuW, h, Nat.mod_eq_of_lt hlt]

/-! ## Comparisons -/

theorem ofNat_minW : BitVec.ofNat w (minW w a.toNat b.toNat) = if a.sle b then a else b := by
  rw [minW, sext_toNat_eq_toInt, sext_toNat_eq_toInt]
  simp only [BitVec.sle, decide_eq_true_eq]
  split <;> simp

theorem ofNat_maxW : BitVec.ofNat w (maxW w a.toNat b.toNat) = if a.sle b then b else a := by
  rw [maxW, sext_toNat_eq_toInt, sext_toNat_eq_toInt]
  simp only [BitVec.sle, decide_eq_true_eq]
  split <;> simp

theorem ofNat_min : BitVec.ofNat w (min a.toNat b.toNat) = if a ≤ b then a else b := by
  simp only [Nat.min_def, BitVec.le_def]
  split <;> simp

theorem ofNat_max : BitVec.ofNat w (max a.toNat b.toNat) = if a ≤ b then b else a := by
  simp only [Nat.max_def, BitVec.le_def]
  split <;> simp

theorem ofNat_boolW {p : Bool} {P : Prop} [Decidable P] (h : p = true ↔ P) : BitVec.ofNat w (boolW p) = if P then 1 else 0 := by
  cases p with
  | true => rw [if_pos (h.1 rfl)]; rfl
  | false => rw [if_neg fun hP => absurd (h.2 hP) Bool.false_ne_true]; rfl

/-! ## Bits -/

theorem ofNat_and_toNat : BitVec.ofNat w (a.toNat &&& b.toNat) = a &&& b := by simp [BitVec.ofNat_and]

theorem ofNat_or_toNat : BitVec.ofNat w (a.toNat ||| b.toNat) = a ||| b := by simp [BitVec.ofNat_or]

theorem ofNat_xor_toNat : BitVec.ofNat w (a.toNat ^^^ b.toNat) = a ^^^ b := by simp [BitVec.ofNat_xor]

theorem ofNat_notW : BitVec.ofNat w (notW w a.toNat) = ~~~a := by
  apply BitVec.eq_of_toNat_eq
  have ha := a.isLt
  rw [notW, Nat.mod_eq_of_lt ha, BitVec.toNat_ofNat, BitVec.toNat_not, Nat.mod_eq_of_lt (by omega)]

theorem ofNat_brevW : BitVec.ofNat w (brevW w a.toNat) = a.reverse := by
  apply BitVec.eq_of_getLsbD_eq
  intro i hi
  rw [BitVec.getLsbD_ofNat, BitVec.getLsbD_reverse, ← bit_eq_testBit, bit_brevW _ hi, bit_eq_testBit, BitVec.getMsbD,
    BitVec.testBit_toNat]

theorem log2_eq_of_bounds {n k : Nat} (h0 : 2 ^ k ≤ n) (h1 : n < 2 ^ (k + 1)) : n.log2 = k := by
  have hn : n ≠ 0 := by
    have := Nat.two_pow_pos k
    omega
  have hle := (Nat.le_log2 hn).2 h0
  have hlt := (Nat.log2_lt hn).2 h1
  omega

theorem ofNat_clzW : BitVec.ofNat w (clzW w a.toNat) = a.clz := by
  by_cases h : a = 0#w
  · rw [BitVec.clz_eq_iff_eq_zero.2 h, h]
    rfl
  · have hw : 0 < w := Nat.pos_of_ne_zero fun hw => by
      subst hw
      exact h BitVec.of_length_zero
    have hc : a.clz.toNat < w := (BitVec.lt_def.1 (BitVec.clz_lt_iff_ne_zero.2 h)).trans_le (Nat.mod_le w _)
    have hlt : a.toNat < 2 ^ (w - a.clz.toNat) := BitVec.toNat_lt_two_pow_sub_clz
    have hlog : a.toNat.log2 = w - 1 - a.clz.toNat := log2_eq_of_bounds (BitVec.two_pow_sub_clz_le_toNat_of_ne_zero hw h)
      (by rwa [show w - 1 - a.clz.toNat + 1 = w - a.clz.toNat by omega])
    rw [clzW, if_neg (by simpa using toNat_ne_zero h), hlog, show w - 1 - (w - 1 - a.clz.toNat) = a.clz.toNat by omega,
      BitVec.ofNat_toNat, BitVec.setWidth_eq]

theorem cpopNatRec_eq_countP (n acc : Nat) : a.cpopNatRec n acc = acc + (List.range n).countP fun i => a.getLsbD i := by
  induction n generalizing acc with
  | zero => rfl
  | succ n ih =>
    rw [BitVec.cpopNatRec_succ, ih, List.range_succ, List.countP_append, List.countP_singleton]
    cases a.getLsbD n <;> simp [Nat.add_comm, Nat.add_left_comm]

theorem ofNat_popcW : BitVec.ofNat w (popcW w a.toNat) = a.cpop := by
  rw [popcW_eq_countP, BitVec.cpop, cpopNatRec_eq_countP, Nat.zero_add]
  simp only [bit_eq_testBit, BitVec.testBit_toNat]

end

end Sys2Proof.Machine
end

section
/-!
PROOF. What the forms of the scalar stream that act on registers compute: the results of R107 to R109, the branches and loops of
R116 to R118 and the full/empty instructions of R119.
-/
namespace Sys2Proof.Machine

/-! ## Forms that go on -/

/-- The use is legal, waits for nothing and reads no poison. -/
structure ScalarUse.Runs (u : ScalarUse) (env : Env) (sh : Shuttle) : Prop where
  legal : u.illegal env.nest.ns = none
  ready : u.ready sh = true
  whole : u.broken sh = false

section
variable {s : State} {is : Issue} {sh : Shuttle} {env : Env} {i : Instr} {u : ScalarUse} {x y : Nat} {a b a1 b1 v : Word}

theorem ScalarUse.runs_of_full (hl : u.illegal env.nest.ns = none) (hr : ∀ n ∈ u.reads, (sh.sreg n).isFull = true)
    (hw : ∀ n ∈ u.writes, (sh.sreg n).isPending = false) : u.Runs env sh :=
  ⟨hl, (ready_of_full hr hw).1, (ready_of_full hr hw).2⟩

theorem isFull_of_reads (h : Reads env sh x a) : (sh.sreg x).isFull = true := by rw [h.2]; rfl

theorem sval_of_full (h : sh.sreg x = .full a) : sh.sval x = a.toNat := by rw [Shuttle.sval, h]; rfl

/-- A full register outside s0 to s63 may be written. -/
theorem writable_of_reads (hx : 64 ≤ x) (h : Reads env sh x a) : Writable env sh x := ⟨hx, h.1, by rw [h.2]; rfl⟩

theorem useXY_runs (hx : 64 ≤ x) (ra : Reads env sh x a) (rb : Reads env sh y b) : (useXY x y).Runs env sh :=
  ScalarUse.runs_of_full ((useXY_writesOne x y).legal rfl hx (by simp [useXY, ra.1, rb.1]))
    (by simp [useXY, isFull_of_reads ra, isFull_of_reads rb]) (by simp [useXY, (writable_of_reads hx ra).2.2])

theorem useY_runs (hx : Writable env sh x) (rb : Reads env sh y b) : (useY x y).Runs env sh :=
  ScalarUse.runs_of_full ((useY_writesOne x y).legal rfl hx.1 (by simp [useY, hx.2.1, rb.1]))
    (by simp [useY, isFull_of_reads rb]) (by simp [useY, hx.2.2])

theorem useX_runs (hx : 64 ≤ x) (ra : Reads env sh x a) : (useX x).Runs env sh :=
  ScalarUse.runs_of_full ((useX_writesOne x).legal rfl hx (by simp [useX, ra.1]))
    (by simp [useX, isFull_of_reads ra]) (by simp [useX, (writable_of_reads hx ra).2.2])

theorem useNone_runs (hx : Writable env sh x) : (useNone x).Runs env sh :=
  ScalarUse.runs_of_full ((useNone_writesOne x).legal rfl hx.1 (by simp [useNone, hx.2.1]))
    (by simp [useNone]) (by simp [useNone, hx.2.2])

theorem useTest_runs (ra : Reads env sh x a) : (useTest x).Runs env sh :=
  ScalarUse.runs_of_full
    (ScalarUse.illegal_none rfl rfl rfl rfl (by simp [useTest]) (by simp [useTest, ra.1]) (by simp [useTest]))
    (by simp [useTest, isFull_of_reads ra]) (by simp [useTest])

theorem useSfet_runs (hx : Writable env sh x) (hy : nameable env.nest.ns y = true) (hne : x ≠ y) :
    (useSfet x y).Runs env sh :=
  ScalarUse.runs_of_full
    ((useSfet_writesOne x y).legal (by simpa [useSfet] using hne) hx.1 (by simp [useSfet, hx.2.1, hy]))
    (by simp [useSfet]) (by simp [useSfet, hx.2.2])

/-- A form that uses nothing goes on. -/
theorem noUse_runs (env : Env) (sh : Shuttle) : ScalarUse.Runs {} env sh :=
  ⟨rfl, rfl, rfl⟩

theorem useShift_runs {imm : Int} (h0 : 0 ≤ imm) (h1 : imm ≤ 31) (hx : 64 ≤ x) (ra : Reads env sh x a) :
    (useShift x imm).Runs env sh :=
  ScalarUse.runs_of_full
    (ScalarUse.illegal_none rfl (by simp [useShift, h0, h1]) rfl rfl (by simpa [useShift, useX] using hx)
      (by simp [useShift, useX, ra.1]) (by simp [useShift, useX]))
    (by simp [useShift, useX, isFull_of_reads ra]) (by simp [useShift, useX, (writable_of_reads hx ra).2.2])

/-- The forms over the pairs at even registers X and Y, whatever of them they read. -/
theorem useXY64_runs {r : List Nat} (ex : x % 2 = 0) (ey : y % 2 = 0) (wx : Writable env sh x) (wx1 : Writable env sh (x + 1))
    (rb : Reads env sh y b) (rb1 : Reads env sh (y + 1) b1) (hr : ∀ n ∈ r, (sh.sreg n).isFull = true) :
    { useXY64 x y with reads := r }.Runs env sh :=
  ScalarUse.runs_of_full
    (ScalarUse.illegal_none rfl rfl rfl rfl (by simpa [useXY64] using wx.1)
      (by simp [useXY64, regRange_two, wx.2.1, wx1.2.1, rb.1, rb1.1]) (by simp [useXY64, ex, ey]))
    hr (by simp [useXY64, regRange_two, wx.2.2, wx1.2.2])

/-- The immediate forms over the pair at an even register X, whatever of it they read. -/
theorem useX64_runs {r : List Nat} (ex : x % 2 = 0) (wx : Writable env sh x) (wx1 : Writable env sh (x + 1))
    (hr : ∀ n ∈ r, (sh.sreg n).isFull = true) : { useX64 x with reads := r }.Runs env sh :=
  ScalarUse.runs_of_full
    (ScalarUse.illegal_none rfl rfl rfl rfl (by simpa [useX64] using wx.1)
      (by simp [useX64, regRange_two, wx.2.1, wx1.2.1]) (by simp [useX64, ex]))
    hr (by simp [useX64, regRange_two, wx.2.2, wx1.2.2])

/-! ## What they leave -/

theorem scalarReg_ends {f : Issue → Shuttle → Shuttle} {h' : Shuttle} (h : s.AtIssue is sh env) (hu : u.Runs env sh)
    (hi : exec i s = scalarReg u f s) (hf : f is sh = h') : EndsAs i s h' := by
  rw [EndsAs, hi, scalarReg_done h hu.legal hu.ready hu.whole, hf]

/-- A full pair, low word first (R103). -/
theorem pair_of_full (h : sh.sreg x = .full a) (h1 : sh.sreg (x + 1) = .full a1) : sh.pair x = (a1 ++ a : DWord).toNat := by
  simp only [Shuttle.pair, Shuttle.svals, Shuttle.sval, h, h1, RegCell.val, BitVec.toNat_append]
  rw [← Nat.shiftLeft_add_eq_or_of_lt a.isLt, Nat.shiftLeft_eq]
  omega

theorem fullOf_eq {n : Nat} (h : BitVec.ofNat 32 n = v) : fullOf n = .full v := by rw [fullOf, h]

/-- The two registers of a 64-bit value. -/
theorem fullOf_words {n : Nat} {v : DWord} (h : BitVec.ofNat 64 n = v) :
    fullOf n = .full (v.setWidth 32) ∧ fullOf (n / 2 ^ 32) = .full ((v >>> 32).setWidth 32) := by
  subst h
  refine ⟨fullOf_eq (BitVec.eq_of_toNat_eq ?_), fullOf_eq (BitVec.eq_of_toNat_eq ?_)⟩
  · simp only [BitVec.toNat_ofNat, BitVec.toNat_setWidth]
    omega
  · simp only [BitVec.toNat_ofNat, BitVec.toNat_setWidth, BitVec.toNat_ushiftRight, Nat.shiftRight_eq_div_pow]
    omega

/-- Two forms over registers, and their results as words. -/
theorem alu2_gives {f : Nat → Nat → Nat} (h : s.AtIssue is sh env) (hu : u.Runs env sh) (hi : exec i s = alu2 u x y f s)
    (hv : BitVec.ofNat 32 (f (sh.sval x) (sh.sval y)) = v) : Gives i s is sh x v :=
  scalarReg_ends h hu hi (by rw [← fullOf_eq hv]; rfl)

theorem aluImm_gives {f : Nat → Nat} (h : s.AtIssue is sh env) (hu : u.Runs env sh) (hi : exec i s = aluImm u x f s)
    (hv : BitVec.ofNat 32 (f (sh.sval x)) = v) : Gives i s is sh x v :=
  scalarReg_ends h hu hi (by rw [← fullOf_eq hv]; rfl)

theorem alu64_gives {f : Nat → Nat → Nat} {v : DWord} (h : s.AtIssue is sh env) (hu : u.Runs env sh)
    (hi : exec i s = alu64 u x y f s) (hv : BitVec.ofNat 64 (f (sh.pair x) (sh.pair y)) = v) : GivesPair i s is sh x v :=
  scalarReg_ends h hu hi (by rw [← (fullOf_words hv).1, ← (fullOf_words hv).2]; rfl)

theorem aluImm64_gives {f : Nat → Nat} {v : DWord} (h : s.AtIssue is sh env) (hu : u.Runs env sh)
    (hi : exec i s = aluImm64 u x f s) (hv : BitVec.ofNat 64 (f (sh.pair x)) = v) : GivesPair i s is sh x v :=
  scalarReg_ends h hu hi (by rw [← (fullOf_words hv).1, ← (fullOf_words hv).2]; rfl)

/-! ## Registers (R107) -/

/-- A form that reads sX and sY. -/
theorem twoRegisters_give {f : Nat → Nat → Nat} (h : s.AtIssue is sh env) (hx : 64 ≤ x) (ra : Reads env sh x a)
    (rb : Reads env sh y b) (hi : exec i s = alu2 (useXY x y) x y f s) (hv : BitVec.ofNat 32 (f a.toNat b.toNat) = v) :
    Gives i s is sh x v :=
  alu2_gives h (useXY_runs hx ra rb) hi (by rw [sval_of_full ra.2, sval_of_full rb.2, hv])

/-- A form that reads sY only. -/
theorem unary_gives {f : Nat → Nat} (h : s.AtIssue is sh env) (hx : Writable env sh x) (rb : Reads env sh y b)
    (hi : exec i s = alu2 (useY x y) x y (fun _ v => f v) s) (hv : BitVec.ofNat 32 (f b.toNat) = v) : Gives i s is sh x v :=
  alu2_gives h (useY_runs hx rb) hi (by rw [sval_of_full rb.2, hv])

end

theorem slt_iff (a b : Word) : decide (sext 32 a.toNat < sext 32 b.toNat) = true ↔ a.slt b = true := by
  rw [sext_toNat, sext_toNat, BitVec.slt]

/-- Settles O10: each form computes on numbers what the bit vectors give. -/
theorem registerArithmetic : Obligations.RegisterArithmetic := by
  refine ⟨fun s is sh env x y a b h hx ra rb => ?_, fun s is sh env x y b h hx rb => ?_⟩
  · have two : ∀ {i f v}, exec i s = alu2 (useXY x y) x y f s → BitVec.ofNat 32 (f a.toNat b.toNat) = v →
        Gives i s is sh x v := twoRegisters_give h hx ra rb
    have sshl : Gives (.sshl x y) s is sh x (a <<< (b.toNat % 32)) :=
      two (f := fun a b => shlW 32 a (b % 32)) rfl (ofNat_shlW a _)
    have sshr : Gives (.sshr x y) s is sh x (a >>> (b.toNat % 32)) := two (f := fun a b => shrW a (b % 32)) rfl (ofNat_shrW a _)
    have ssra : Gives (.ssra x y) s is sh x (a.sshiftRight (b.toNat % 32)) :=
      two (f := fun a b => sraW 32 a (b % 32)) rfl (ofNat_sraW a _)
    have sslt : Gives (.sslt x y) s is sh x (if a.slt b then 1 else 0) :=
      two (f := fun a b => boolW (decide (sext 32 a < sext 32 b))) rfl (ofNat_boolW (slt_iff a b))
    have ssltu : Gives (.ssltu x y) s is sh x (if a < b then 1 else 0) :=
      two (f := fun a b => boolW (decide (a < b))) rfl (ofNat_boolW (by rw [decide_eq_true_eq, BitVec.lt_def]))
    have sseq : Gives (.sseq x y) s is sh x (if a = b then 1 else 0) :=
      two (f := fun a b => boolW (a == b)) rfl (ofNat_boolW (by rw [beq_iff_eq, BitVec.toNat_inj]))
    exact ⟨two rfl (ofNat_addW a b), two rfl (ofNat_subW a b), two rfl (ofNat_and_toNat a b), two rfl (ofNat_or_toNat a b),
      two rfl (ofNat_xor_toNat a b), sshl, sshr, ssra, two rfl (ofNat_mulW a b), two rfl (ofNat_mulhW a b),
      two rfl (ofNat_mulhuW a b), two rfl (ofNat_divW a b), two rfl (ofNat_divuW a b), two rfl (ofNat_remW a b),
      two rfl (ofNat_remuW a b), two rfl (ofNat_minW a b), two rfl (ofNat_maxW a b), two rfl (ofNat_min a b),
      two rfl (ofNat_max a b), sslt, ssltu, sseq⟩
  · have one : ∀ {i} {f : Nat → Nat} {v}, exec i s = alu2 (useY x y) x y (fun _ n => f n) s →
        BitVec.ofNat 32 (f b.toNat) = v → Gives i s is sh x v := unary_gives h hx rb
    have neg : BitVec.ofNat 32 (subW 32 0 b.toNat) = -b := (ofNat_subW 0 b).trans (BitVec.zero_sub b)
    exact ⟨one (f := id) rfl (by simp), one (f := notW 32) rfl (ofNat_notW b), one (f := clzW 32) rfl (ofNat_clzW b),
      one (f := popcW 32) rfl (ofNat_popcW b), one (f := brevW 32) rfl (ofNat_brevW b), one (f := subW 32 0) rfl neg⟩

/-! ## Pairs (R108) -/

/-- Settles O11: the forms of OP 0x02 compute on pairs what the bit vectors give. -/
theorem pairArithmetic : Obligations.PairArithmetic := by
  intro s is sh env x y a0 a1 b0 b1 h ex ey rb rb1 b
  have fy : ∀ n ∈ regRange y 2, (sh.sreg n).isFull = true := by
    simp [regRange_two, isFull_of_reads rb, isFull_of_reads rb1]
  have py : sh.pair y = b.toNat := pair_of_full rb.2 rb1.2
  refine ⟨fun wx wx1 => alu64_gives (f := fun _ n => n) h (useXY64_runs ex ey wx wx1 rb rb1 fy) rfl (by simp [py]),
    fun hx ra ra1 => ?_⟩
  have px : sh.pair x = (a1 ++ a0 : DWord).toNat := pair_of_full ra.2 ra1.2
  have fx : ∀ n ∈ regRange x 2, (sh.sreg n).isFull = true := by
    simp [regRange_two, isFull_of_reads ra, isFull_of_reads ra1]
  have runs : (useXY64 x y).Runs env sh :=
    useXY64_runs ex ey (writable_of_reads hx ra) (writable_of_reads (by omega) ra1) rb rb1 fun n hn =>
      (List.mem_append.1 hn).elim (fx n) (fy n)
  have amount : b.toNat % 64 = b0.toNat % 64 := by
    rw [← py, Shuttle.pair, Shuttle.svals, sval_of_full rb.2]
    omega
  have two : ∀ {i f v}, exec i s = alu64 (useXY64 x y) x y f s →
      BitVec.ofNat 64 (f (a1 ++ a0 : DWord).toNat b.toNat) = v → GivesPair i s is sh x v :=
    fun hi hv => alu64_gives h runs hi (by rw [px, py, hv])
  rw [← amount]
  exact ⟨two rfl (ofNat_addW _ b), two rfl (ofNat_subW _ b), two (f := fun a b => shlW 64 a (b % 64)) rfl (ofNat_shlW _ _),
    two (f := fun a b => shrW a (b % 64)) rfl (ofNat_shrW _ _), two (f := fun a b => sraW 64 a (b % 64)) rfl (ofNat_sraW _ _),
    two rfl (ofNat_mulW _ b)⟩

/-! ## Immediates (R109) -/

/-- Settles O12: the immediate forms compute on words what the bit vectors give, with the immediate sign-extended. -/
theorem immediateForms : Obligations.ImmediateForms := by
  intro s is sh env x imm a a1 h
  refine ⟨fun wx => aluImm_gives (f := fun _ => low 32 imm) h (useNone_runs wx) rfl (ofNat_low imm),
    fun ex wx wx1 => aluImm64_gives (f := fun _ => low 64 imm) h (useX64_runs ex wx wx1 (by simp)) rfl (ofNat_low_eq_ofInt imm),
    fun hx ra => ?_, fun hx ex ra ra1 => ?_⟩
  · have one : ∀ {i f v}, exec i s = aluImm (useX x) x f s → BitVec.ofNat 32 (f a.toNat) = v → Gives i s is sh x v :=
      fun hi hv => aluImm_gives h (useX_runs hx ra) hi (by rw [sval_of_full ra.2, hv])
    have sltiu : Gives (.ssltiu x imm) s is sh x (if a < BitVec.ofInt 32 imm then 1 else 0) :=
      one (f := fun a => boolW (decide (a < low 32 imm))) rfl
        (ofNat_boolW (by rw [decide_eq_true_eq, low_eq_toNat, BitVec.lt_def]))
    refine ⟨one (f := fun a => addW 32 a (low 32 imm)) rfl (by rw [low_eq_toNat, ofNat_addW]),
      one (f := fun a => a &&& low 32 imm) rfl (by rw [low_eq_toNat, ofNat_and_toNat]),
      one (f := fun a => a ||| low 32 imm) rfl (by rw [low_eq_toNat, ofNat_or_toNat]),
      one (f := fun a => a ^^^ low 32 imm) rfl (by rw [low_eq_toNat, ofNat_xor_toNat]), sltiu, fun h0 h1 => ?_⟩
    have shift : ∀ {i f v}, exec i s = aluImm (useShift x imm) x f s → BitVec.ofNat 32 (f a.toNat) = v →
        Gives i s is sh x v := fun hi hv => aluImm_gives h (useShift_runs h0 h1 hx ra) hi (by rw [sval_of_full ra.2, hv])
    exact ⟨shift (f := fun a => shlW 32 a imm.toNat) rfl (ofNat_shlW a _),
      shift (f := fun a => shrW a imm.toNat) rfl (ofNat_shrW a _), shift (f := fun a => sraW 32 a imm.toNat) rfl (ofNat_sraW a _)⟩
  · have runs : (useX64 x).Runs env sh := useX64_runs ex (writable_of_reads hx ra) (writable_of_reads (by omega) ra1)
      (by simp [regRange_two, isFull_of_reads ra, isFull_of_reads ra1])
    exact aluImm64_gives (f := fun a => addW 64 a (low 64 imm)) h runs rfl
      (by rw [pair_of_full ra.2 ra1.2, low_eq_toNat, ofNat_addW])

/-! ## Branches, calls and loops (R116 to R118) -/

section
variable {s : State} {is : Issue} {sh : Shuttle} {env : Env} {i : Instr} {x : Nat} {off : Int} {a : Word}

/-- A conditional branch is taken, or the stream goes on at Next. -/
theorem condBranch_ends {p : Nat → Bool} {P : Prop} [Decidable P] (h : s.AtIssue is sh env) (ra : Reads env sh x a)
    (hi : exec i s = condBranch x off p s) (hp : p a.toNat = true ↔ P) :
    EndsAs i s (if P then sh.branchTo is (branchTarget is off) else sh.advance is) :=
  scalarReg_ends h (useTest_runs ra) hi (by rw [sval_of_full ra.2]; exact if_congr hp rfl rfl)

/-- The target of an offset lies in the section or beyond it (R117). -/
theorem branchTarget_bounds (is : Issue) (off : Int) :
    (0 ≤ (is.pc : Int) + off → (is.pc : Int) + off < 2 ^ 64 → (branchTarget is off : Int) = is.pc + off) ∧
      (-2 ^ 63 ≤ (is.pc : Int) + off → (is.pc : Int) + off < 0 → 2 ^ 63 ≤ branchTarget is off) := by
  unfold branchTarget low
  omega

/-- A loop goes on while its decremented counter is not 0 (R118). -/
theorem sloop_ends (h : s.AtIssue is sh env) (hx : 64 ≤ x) (ra : Reads env sh x a) :
    EndsAs (.sloop x off) s
      (if a = 1 then (sh.setSreg x (.full (a - 1))).advance is
        else (sh.setSreg x (.full (a - 1))).branchTo is (branchTarget is off)) := by
  have hv : BitVec.ofNat 32 (subW 32 a.toNat 1) = a - 1 := ofNat_subW a 1
  have hz : subW 32 a.toNat 1 ≠ 0 ↔ a ≠ 1 := by
    have ha := a.isLt
    rw [Ne, Ne, ← BitVec.toNat_inj, subW, show (1 : Word).toNat = 1 from rfl]
    omega
  refine scalarReg_ends h (useX_runs hx ra) rfl ?_
  simp only [sval_of_full ra.2, Shuttle.putS, fullOf_eq hv, bne_iff_ne, hz]
  by_cases e : a = 1
  · rw [if_neg (not_not.2 e), if_pos e]
  · rw [if_pos e, if_neg e]

end

/-- Settles O14: a branch tests its register as the rules say, a call links Next, and a loop decrements before it tests. -/
theorem branchesAndLoops : Obligations.BranchesAndLoops := by
  intro s is sh env x y off a b h
  refine ⟨branchTarget_bounds is off, scalarReg_ends h (noUse_runs env sh) rfl rfl, fun ra => ?_,
    fun wx => ⟨scalarReg_ends h (useNone_runs wx) rfl rfl, fun rb =>
      scalarReg_ends h (useY_runs wx rb) rfl (by rw [sval_of_full rb.2]; rfl)⟩,
    fun hx ra => ⟨sloop_ends h hx ra, fun ha => ?_⟩⟩
  · have zero : a.toNat = 0 ↔ a = 0 := BitVec.toNat_inj (y := 0)
    have negative : sext 32 a.toNat < 0 ↔ a.slt 0 = true := by rw [sext_toNat]; simp [BitVec.slt]
    refine ⟨condBranch_ends (p := fun v => v == 0) h ra rfl (by rw [beq_iff_eq, zero]), ?_,
      condBranch_ends (p := fun v => decide (sext 32 v < 0)) h ra rfl (by rw [decide_eq_true_eq, negative]), ?_,
      scalarReg_ends h (useTest_runs ra) rfl (by rw [sval_of_full ra.2])⟩
    · rw [← ite_not]
      exact condBranch_ends (p := fun v => v != 0) h ra rfl (by rw [bne_iff_ne, Ne, zero])
    · rw [← ite_not]
      exact condBranch_ends (p := fun v => decide (sext 32 v ≥ 0)) h ra rfl
        (by rw [decide_eq_true_eq, ge_iff_le, ← not_lt, negative])
  · have hloop := sloop_ends (off := off) h hx ra
    subst ha
    exact hloop

/-! ## Full/empty (R119) -/

/-- Settles O15: `sfet` tests sY without a wait, `swfull` waits for sX only, and `sempt` empties it. -/
theorem fullEmptyInstructions : Obligations.FullEmptyInstructions := by
  intro s is sh env x y v h
  refine ⟨fun wx hy hne => scalarReg_ends h (useSfet_runs wx hy hne) rfl ?_,
    fun ra => scalarReg_ends h (useTest_runs ra) rfl rfl, fun wx => scalarReg_ends h (useNone_runs wx) rfl rfl⟩
  rw [← fullOf_eq (ofNat_boolW (p := (sh.sreg y).present) Iff.rfl)]
  rfl

end Sys2Proof.Machine
end

section
/-!
PROOF. What the forms of the scalar stream that act on registers leave unchanged (R107 to R109, R116 to R119, R128, R130).
-/
namespace Sys2Proof.Machine

/-- Of a shuttle nothing changes but some registers, and where its stream goes on. -/
structure KeepsBut (dests : List Nat) (sh h : Shuttle) : Prop where
  others : ∀ n, n ∉ dests → h.sreg n = sh.sreg n
  rest : { h with sregs := sh.sregs, pc := sh.pc, branchFrom := sh.branchFrom } = sh

namespace KeepsBut
variable {dests : List Nat} {sh h : Shuttle}

theorem refl (dests : List Nat) (sh : Shuttle) : KeepsBut dests sh sh := ⟨fun _ _ => rfl, rfl⟩

theorem advance (k : KeepsBut dests sh h) (is : Issue) : KeepsBut dests sh (h.advance is) := ⟨k.others, k.rest⟩

theorem branchTo (k : KeepsBut dests sh h) (is : Issue) (target : Nat) : KeepsBut dests sh (h.branchTo is target) :=
  ⟨k.others, k.rest⟩

theorem setSreg (k : KeepsBut dests sh h) {x : Nat} (hx : x ∈ dests) (c : RegCell) : KeepsBut dests sh (h.setSreg x c) :=
  ⟨fun n hn => by rw [Shuttle.sreg_setSreg, if_neg fun (e : n = x) => hn (e ▸ hx), k.others n hn], k.rest⟩

theorem putOne (k : KeepsBut [x] sh h) (v : Nat) : KeepsBut [x] sh (h.putS x v 1) := k.setSreg (by simp) _

theorem putPair (k : KeepsBut [x, x + 1] sh h) (v : Nat) : KeepsBut [x, x + 1] sh (h.putS x v 2) :=
  (k.setSreg (by simp) _).setSreg (by simp) _

theorem id_eq (k : KeepsBut dests sh h) : h.id = sh.id := (congrArg Shuttle.id k.rest :)

end KeepsBut

/-- The instruction acts on its shuttle only, and of that on some registers and on where the stream goes on. -/
def ActsOn (dests : List Nat) (i : Instr) : Prop :=
  ∃ (u : ScalarUse) (f : Issue → Shuttle → Dev → Shuttle),
    (∀ s, exec i s = onIssue s fun is sh env d => scalarGo u is sh env d (d.setShuttle (f is sh d))) ∧
      ∀ is sh d, KeepsBut dests sh (f is sh d)

section
variable {i : Instr} {u : ScalarUse} {x y : Nat}

theorem scalarReg_actsOn {dests : List Nat} {f : Issue → Shuttle → Shuttle} (hi : ∀ s, exec i s = scalarReg u f s)
    (hf : ∀ is sh, KeepsBut dests sh (f is sh)) : ActsOn dests i := ⟨u, fun is sh _ => f is sh, hi, fun is sh _ => hf is sh⟩

/-- A form that puts a value into sX and goes on. -/
theorem putOne_actsOn {v : Shuttle → Nat}
    (hi : ∀ s, exec i s = scalarReg u (fun is sh => (sh.putS x (v sh) 1).advance is) s) : ActsOn [x] i :=
  scalarReg_actsOn hi fun is sh => ((KeepsBut.refl [x] sh).putOne _).advance is

/-- A form that puts a value into the pair at X and goes on. -/
theorem putPair_actsOn {v : Shuttle → Nat}
    (hi : ∀ s, exec i s = scalarReg u (fun is sh => (sh.putS x (v sh) 2).advance is) s) : ActsOn [x, x + 1] i :=
  scalarReg_actsOn hi fun is sh => ((KeepsBut.refl [x, x + 1] sh).putPair _).advance is

/-- A branch on a condition. -/
theorem branch_actsOn {off : Int} {p : Shuttle → Bool}
    (hi : ∀ s, exec i s = scalarReg u (fun is sh => if p sh then sh.branchTo is (branchTarget is off) else sh.advance is) s) :
    ActsOn [] i := by
  refine scalarReg_actsOn hi fun is sh => ?_
  split
  · exact (KeepsBut.refl [] sh).branchTo is _
  · exact (KeepsBut.refl [] sh).advance is

end

/-! ## The forms, by the operation that they are -/

theorem registerForms_actOn (x y : Nat) : ∀ i ∈ writesXreadsY x y, ActsOn [x] i := by
  simp only [writesXreadsY, twoRegisterForms, List.cons_append, List.nil_append, List.forall_mem_cons, List.not_mem_nil,
    false_implies, implies_true, and_true]
  and_intros <;> exact putOne_actsOn fun _ => rfl

theorem immediateForms_actOn (x : Nat) (imm : Int) :
    ∀ i ∈ writesX x imm ++ [.sshli x imm, .sshri x imm, .ssrai x imm], ActsOn [x] i := by
  simp only [writesX, List.cons_append, List.nil_append, List.forall_mem_cons, List.not_mem_nil,
    false_implies, implies_true, and_true]
  and_intros <;> exact putOne_actsOn fun _ => rfl

/-- The forms of a destination pair. -/
theorem pairDestination_actsOn (x y : Nat) (imm : Int) : ∀ i ∈ pairDestination x y imm, ActsOn [x, x + 1] i := by
  simp only [pairDestination, pairForms, List.cons_append, List.nil_append, List.forall_mem_cons, List.not_mem_nil,
    false_implies, implies_true, and_true]
  and_intros <;> exact putPair_actsOn fun _ => rfl

theorem conditionalForms_actOn (x : Nat) (imm : Int) :
    ∀ i ∈ ([.sbz x imm, .sbnz x imm, .sblz x imm, .sbgez x imm] : List Instr), ActsOn [] i := by
  simp only [List.forall_mem_cons, List.not_mem_nil, false_implies, implies_true, and_true]
  and_intros <;> exact branch_actsOn fun _ => rfl

theorem sloop_actsOn (x : Nat) (imm : Int) : ActsOn [x] (.sloop x imm) := by
  refine scalarReg_actsOn (fun _ => rfl) fun is sh => ?_
  dsimp only
  split
  · exact ((KeepsBut.refl [x] sh).putOne _).branchTo is _
  · exact ((KeepsBut.refl [x] sh).putOne _).advance is

/-- The forms of one destination. -/
theorem oneDestination_actsOn (x y csr : Nat) (imm : Int) : ∀ i ∈ oneDestination x y csr imm, ActsOn [x] i := by
  have put : ∀ (sh : Shuttle) v, KeepsBut [x] sh (sh.putS x v 1) := fun sh => (KeepsBut.refl [x] sh).putOne
  intro i hi
  have split : i ∈ writesXreadsY x y ∨ i ∈ writesX x imm ++ [.sshli x imm, .sshri x imm, .ssrai x imm] ∨
      i ∈ ([.scall x imm, .sloop x imm, .sjrL x y, .sfet x y, .sempt x, .scsrR x csr] : List Instr) := by
    simpa only [oneDestination, List.mem_append, List.mem_cons, List.not_mem_nil, or_false, or_assoc] using hi
  rcases split with hi | hi | hi
  · exact registerForms_actOn x y i hi
  · exact immediateForms_actOn x imm i hi
  · simp only [List.mem_cons, List.not_mem_nil, or_false] at hi
    rcases hi with rfl | rfl | rfl | rfl | rfl | rfl
    · exact scalarReg_actsOn (fun _ => rfl) fun is sh => (put sh _).branchTo is _
    · exact sloop_actsOn x imm
    · exact scalarReg_actsOn (fun _ => rfl) fun is sh => (put sh _).branchTo is _
    · exact scalarReg_actsOn (fun _ => rfl) fun is sh => (put sh _).advance is
    · exact scalarReg_actsOn (fun _ => rfl) fun is sh => ((KeepsBut.refl [x] sh).setSreg (by simp) _).advance is
    · exact ⟨useNone x, fun is sh d => (sh.putS x (d.csr sh csr) 1).advance is, fun _ => rfl,
        fun is sh d => (put sh _).advance is⟩

/-- The forms without a destination. -/
theorem noDestination_actsOn (x : Nat) (imm : Int) : ∀ i ∈ noDestination x imm, ActsOn [] i := by
  intro i hi
  have split : i ∈ ([.sbz x imm, .sbnz x imm, .sblz x imm, .sbgez x imm] : List Instr) ∨
      i ∈ ([.sbr imm, .sjr x] : List Instr) ∨ i ∈ ([.swfull x, .snop, .syield] : List Instr) := by
    simp only [noDestination, List.mem_cons, List.not_mem_nil, or_false] at hi ⊢
    tauto
  have keep : ∀ sh : Shuttle, KeepsBut [] sh sh := KeepsBut.refl []
  rcases split with hi | hi | hi
  · exact conditionalForms_actOn x imm i hi
  · simp only [List.mem_cons, List.not_mem_nil, or_false] at hi
    rcases hi with rfl | rfl
    · exact scalarReg_actsOn (fun _ => rfl) fun is sh => (keep sh).branchTo is _
    · exact scalarReg_actsOn (fun _ => rfl) fun is sh => (keep sh).branchTo is _
  · simp only [List.mem_cons, List.not_mem_nil, or_false] at hi
    rcases hi with rfl | rfl | rfl
    · exact scalarReg_actsOn (fun _ => rfl) fun is sh => (keep sh).advance is
    · exact scalarReg_actsOn (fun _ => rfl) fun is sh => (keep sh).advance is
    · exact scalarReg_actsOn (fun _ => rfl) fun is sh => (keep sh).advance is

theorem Dev.shuttle_id {d : Dev} {id : Nat} {sh : Shuttle} (h : d.shuttle id = some sh) : sh.id = id := by
  simpa using List.find?_some h

/-- Settles O9: each form ends its team, waits, or puts its shuttle back with the destinations and the pc changed. -/
theorem scalarFrame : Obligations.ScalarFrame := by
  intro s t is sh env x y csr imm i dests h hi ht
  have acts : ActsOn dests i := by
    rcases hi with ⟨hi, rfl⟩ | ⟨hi, rfl⟩ | ⟨hi, rfl⟩
    · exact oneDestination_actsOn x y csr imm i hi
    · exact pairDestination_actsOn x y imm i hi
    · exact noDestination_actsOn x imm i hi
  obtain ⟨u, f, hf, keeps⟩ := acts
  have run := (hf s).trans (onIssue_eq h _)
  obtain ⟨-, hsh, -⟩ := h
  rcases scalarGo_cases u is sh env s.dev (s.dev.setShuttle (f is sh s.dev)) with
    ⟨sub, -, go⟩ | ⟨-, -, go⟩ | ⟨-, -, -, go⟩ | ⟨-, -, -, go⟩
  · exact .inl ⟨sub, by rw [EndsTeam, run, go, scalarTrapOf_illegal]⟩
  · obtain rfl : s = t := Host.Outcome.next.inj (by rw [← ht, run, go])
    exact .inr (.inr ⟨sh, hsh, fun _ _ => rfl, rfl, fun _ _ => rfl, rfl, rfl, fun _ => rfl⟩)
  · exact .inr (.inl (by rw [EndsByPoison, run, go, scalarTrapOf_poison]))
  · obtain rfl : s.setShuttle (f is sh s.dev) = t := Host.Outcome.next.inj (by rw [← ht, run, go]; rfl)
    have k := keeps is sh s.dev
    refine .inr (.inr ⟨f is sh s.dev, Dev.shuttle_setShuttle hsh k.id_eq, k.others, k.rest, fun id hid => ?_, rfl, rfl,
      fun _ => rfl⟩)
    exact Dev.shuttle_setShuttle_other (by rw [k.id_eq, Dev.shuttle_id hsh]; exact hid.symm)

end Sys2Proof.Machine
end

section
/-!
PROOF. The system state of the scalar stream (R19, R123, R128 to R131), its stores (R111, R113, R289) and its breakpoint (R126).
-/
namespace Sys2Proof.Machine

section
variable {s : State} {is : Issue} {sh : Shuttle} {env : Env} {i : Instr} {u : ScalarUse} {x k : Nat} {v : Word}

/-- An operation of the scalar stream that may go on. -/
theorem scalarGo_next {done : Issue → Shuttle → Env → Dev → Dev} (h : s.AtIssue is sh env) (hu : u.Runs env sh) :
    (onIssue s fun is sh env d => scalarGo u is sh env d (done is sh env d)) = .next (s.withDev (done is sh env s.dev)) := by
  rw [onIssue_eq h, scalarGo_done hu.legal hu.ready hu.whole]

/-! ## FMT and the CSRs (R19, R128, R129) -/

theorem ssetfmt_goes (h : s.AtIssue is sh env) (rx : Reads env sh x v) :
    execSsetfmt x s = .next (s.withDev
      (if 2 ^ 24 ≤ v.toNat then s.dev.scalarTrapOf is sh env 0x10 1
        else s.dev.setShuttle { sh.advance is with fmt := v.toNat })) := by
  rw [← sval_of_full rx.2]
  exact scalarGo_next h (useTest_runs rx)

theorem csrRead_gives (h : s.AtIssue is sh env) (wx : Writable env sh x) {csr : Nat}
    (hv : BitVec.ofNat 32 (s.dev.csr sh csr) = v) : Gives (.scsrR x csr) s is sh x v := by
  rw [← hv]
  exact (scalarGo_next h (useNone_runs wx) : execScsrR x csr s = _)

theorem seedLow_write (h : s.AtIssue is sh env) (rx : Reads env sh x v) :
    EndsAs (.scsrW x 0) s { sh.advance is with seed := sh.seed / 2 ^ 32 * 2 ^ 32 + v.toNat } := by
  rw [← sval_of_full rx.2]
  exact (scalarGo_next h (useTest_runs rx) : execScsrW x 0 s = _)

theorem seedHigh_write (h : s.AtIssue is sh env) (rx : Reads env sh x v) :
    EndsAs (.scsrW x 1) s { sh.advance is with seed := sh.seed % 2 ^ 32 + v.toNat * 2 ^ 32 } := by
  rw [← sval_of_full rx.2]
  exact (scalarGo_next h (useTest_runs rx) : execScsrW x 1 s = _)

theorem mapWrite_goes (h : s.AtIssue is sh env) (rx : Reads env sh x v) (k : Nat) :
    execScsrW x (16 + k) s = .next (s.withDev
      (if 2 ^ 24 ≤ v.toNat then s.dev.scalarTrapOf is sh env 0x10 1
        else if sh.blocks.isEmpty then (s.dev.setTw2 env.team.cores k v.toNat).setShuttle (sh.advance is)
        else s.dev)) := by
  have h0 : (16 + k == 0) = false := by simp
  have h1 : (16 + k == 1) = false := beq_false_of_ne (by omega)
  rw [← sval_of_full rx.2]
  have run : execScsrW x (16 + k) s = _ := scalarGo_next h (useTest_runs rx)
  simpa only [h0, h1, Nat.add_sub_cancel_left, Bool.false_eq_true, if_false] using run

/-- A map written on cores: the entries of no other core and of no other map change. -/
theorem tw2Map_setTw2 (d : Dev) (cores : List Nat) {k j : Nat} (v c : Nat) (hk : k < 8) (hj : j < 8) :
    (d.setTw2 cores k v).tw2Map c j = if c ∈ cores ∧ j = k then v else d.tw2Map c j := by
  unfold Dev.setTw2 Dev.tw2Map
  dsimp only
  induction cores generalizing d with
  | nil => simp
  | cons a cores ih =>
    have h := ih { d with tw2m := putK tw2Reset d.tw2m (a * 8 + k) v }
    have key : c * 8 + j = a * 8 + k ↔ c = a ∧ j = k := by omega
    rw [List.foldl_cons, h, getK_putK]
    simp only [key, List.mem_cons]
    by_cases hjk : j = k
    · by_cases hca : c = a
      · simp [hjk, hca]
      · simp [hca]
    · simp [hjk]

/-! ## The cycle counter (R131) -/

theorem scyc_runs (ex : x % 2 = 0) (wx : Writable env sh x) (wx1 : Writable env sh (x + 1)) :
    ScalarUse.Runs { dests := [x], names := regRange x 2, aligned := [(x, 2)], writes := regRange x 2 } env sh :=
  ScalarUse.runs_of_full
    (ScalarUse.illegal_none rfl rfl rfl rfl (by simpa using wx.1) (by simp [regRange_two, wx.2.1, wx1.2.1]) (by simp [ex]))
    (by simp) (by simp [regRange_two, wx.2.2, wx1.2.2])

end

/-- Settles O16: each reads or writes its one piece of system state and goes on. -/
theorem systemRegisters : Obligations.SystemRegisters := by
  refine ⟨fun s is sh env x k v h => ⟨scalarReg_ends h (noUse_runs env sh) rfl rfl,
    scalarReg_ends h (noUse_runs env sh) rfl rfl,
    fun rx => ⟨fun hv => ?_, fun hv => ?_, seedLow_write h rx, seedHigh_write h rx, fun _ hv => ?_, fun _ hv hb => ?_,
      fun hk hv hb => ?_⟩, fun wx => ⟨?_, csrRead_gives h wx rfl, csrRead_gives h wx rfl, fun _ => ?_⟩⟩,
    fun s is sh env x h ex wx wx1 => ?_⟩
  · exact (ssetfmt_goes h rx).trans (by rw [if_neg (by omega)]; rfl)
  · exact (ssetfmt_goes h rx).trans (by rw [if_pos hv, scalarTrapOf_illegal])
  · exact (mapWrite_goes h rx k).trans (by rw [if_pos hv, scalarTrapOf_illegal])
  · exact (mapWrite_goes h rx k).trans (by rw [if_neg (by omega), if_neg (by simpa using hb)])
  · exact ⟨s.dev.setTw2 env.team.cores k v.toNat,
      (mapWrite_goes h rx k).trans (by rw [if_neg (by omega), if_pos (by rw [hb]; rfl)]), rfl,
      fun c j hj => tw2Map_setTw2 _ _ _ _ hk hj⟩
  · exact csrRead_gives h wx (BitVec.eq_of_toNat_eq (by simp [Dev.csr]))
  · have h0 : (16 + k == 0) = false := by simp
    have h1 : (16 + k == 1) = false := beq_false_of_ne (by omega)
    have h32 : (16 + k == 32) = false := beq_false_of_ne (by omega)
    refine csrRead_gives h wx ?_
    simp only [Dev.csr, h0, h1, h32, Nat.add_sub_cancel_left, Bool.false_eq_true, if_false]
  · exact ⟨{ s.dev with cycles := putK 0 s.dev.cycles sh.core _ },
      (scalarGo_next h (scyc_runs ex wx wx1) : execScyc x s = _), rfl, fun k => getK_putK 0 s.dev.cycles sh.core _ k⟩

/-! ## Stores (R111, R113, R289) -/

section
variable {s : State} {is : Issue} {sh : Shuttle} {env : Env}

/-- What a store of k registers uses. -/
def storeUse (k x y : Nat) : ScalarUse :=
  { names := regRange y 2 ++ regRange x k, aligned := (y, 2) :: alignedRegs x k, reads := regRange y 2 ++ regRange x k }

/-- A property of the pair at Y and of the registers from X on. -/
theorem forall_pair_range {P : Nat → Prop} {k x y : Nat} (h0 : P y) (h1 : P (y + 1)) (hx : ∀ r, x ≤ r → r < x + k → P r) :
    ∀ r ∈ regRange y 2 ++ regRange x k, P r := by
  intro r hr
  rcases List.mem_append.1 hr with hr | hr
  · simp only [regRange_two, List.mem_cons, List.not_mem_nil, or_false] at hr
    rcases hr with rfl | rfl
    · exact h0
    · exact h1
  · exact hx r (mem_regRange.1 hr).1 (mem_regRange.1 hr).2

theorem storeUse_runs {k x y : Nat} {lo hi : Word} (hx : x % k = 0) (hy : y % 2 = 0) (hlo : Reads env sh y lo)
    (hhi : Reads env sh (y + 1) hi) (hr : ReadsAll env sh x k) : (storeUse k x y).Runs env sh := by
  refine ScalarUse.runs_of_full (ScalarUse.illegal_none rfl rfl rfl rfl (by simp [storeUse])
    (forall_pair_range hlo.1 hhi.1 fun r h1 h2 => (hr r h1 h2).1) fun p hp => ?_)
    (forall_pair_range (isFull_of_reads hlo) (isFull_of_reads hhi) fun r h1 h2 => (hr r h1 h2).2) (by simp [storeUse])
  rcases List.mem_cons.1 hp with rfl | hp
  · exact hy
  · unfold alignedRegs at hp
    split at hp
    · rw [List.mem_singleton.1 hp]
      exact hx
    · cases hp

/-- A store that may issue. -/
theorem scalarStore_issues (h : s.AtIssue is sh env) {k ord x y : Nat} {off : Int} {lo hi : Word} (hy : y % 2 = 0)
    (hlo : Reads env sh y lo) (hhi : Reads env sh (y + 1) hi) (hx : x % k = 0) (hr : ReadsAll env sh x k) :
    scalarStore k ord x y off s = .next (s.withDev (s.dev.scalarAccess is sh env
      (newScalarAccess .store (wordAddress lo hi off) (4 * k) (sh.svals x k) ord .none []) false fun s => s.advance is)) := by
  obtain ⟨legal, ready, whole⟩ := storeUse_runs hx hy hlo hhi hr
  rw [← scalarAddr_eq hlo.2 hhi.2, scalarStore, onIssue_eq h]
  exact congrArg (fun d => Host.Outcome.next (s.withDev d)) (scalarGo_done legal ready whole)

/-- The four stores are one operation at three sizes and two orders. -/
theorem exec_stores (x y : Nat) (off : Int) (s : State) :
    ∀ i ∈ [(Instr.sst x y off, 1, 0), (.sst64 x y off, 2, 0), (.sst128 x y off, 4, 0), (.sstrel x y off, 1, 2)],
      exec i.1 s = scalarStore i.2.1 i.2.2 x y off s := by
  simp only [List.forall_mem_cons]
  exact ⟨rfl, rfl, rfl, rfl, fun _ hm => nomatch hm⟩

end

/-- Settles O28: a store that may issue makes one access, with the values of its registers. -/
theorem scalarStores : Obligations.ScalarStores := by
  intro s is sh env x y off lo hi h hy hlo hhi i hi' hx hr
  have run := (exec_stores x y off s i hi').trans (scalarStore_issues h hy hlo hhi hx hr)
  refine ⟨fun hb => ⟨_, by rw [run, scalarAccess_bad hb, addressTrap_eq]⟩, fun hb => ?_⟩
  let a := newScalarAccess .store (wordAddress lo hi off) (4 * i.2.1) (sh.svals x i.2.1) i.2.2 .none []
  obtain ⟨exposes, he⟩ := scalarAccess_plain (s := s) (is := is) (sh := sh) (env := env) (acc := a)
    (after := fun s => s.advance is) hb
  let st := (reach env.launch.fn env.team a.va a.size).status
  exact ⟨(sh.issueAccess is s.dev.nextId a st exposes).advance is, a.issued is s.dev.nextId sh.fmt st, by rw [run, he], rfl,
    rfl, rfl, rfl, rfl, rfl, rfl, rfl, rfl, rfl, rfl, rfl⟩

/-! ## Breakpoints (R126, R415, R416) -/

theorem writeReserved_besideMemory (d : Dev) (fn pa : Nat) (bs : List Byte) :
    (d.writeReserved fn pa bs).besideMemory = d.besideMemory := by
  unfold Dev.writeReserved
  split
  · exact homeWrite_besideMemory _ _ _ _
  · rfl

theorem writeReserved_func (d : Dev) (fn pa : Nat) (bs : List Byte) (fn' : Nat) :
    (d.writeReserved fn pa bs).func fn' = d.func fn' :=
  (congrArg (fun d : Dev => d.func fn') (writeReserved_besideMemory d fn pa bs) :)

theorem writeReserved_shuttle (d : Dev) (fn pa : Nat) (bs : List Byte) (id : Nat) :
    (d.writeReserved fn pa bs).shuttle id = d.shuttle id :=
  (congrArg (fun d : Dev => d.shuttle id) (writeReserved_besideMemory d fn pa bs) :)

/-- An entry is what it was but for being posted, at an index. -/
def SameEntry (g : FaultEntry → FaultEntry) : Prop := ∀ e, { g e with posted := e.posted, ring := e.ring } = e

/-- Posting one entry of the fault queue marks entries as posted and changes nothing else of them, and no shuttle. -/
theorem flushFaults_one (d : Dev) (fn : Nat) :
    ∃ g, SameEntry g ∧ ((d.flushFaults fn 1).func fn).faults = (d.func fn).faults.map g ∧
      ∀ id, (d.flushFaults fn 1).shuttle id = d.shuttle id := by
  have none : ∃ g, SameEntry g ∧ (d.func fn).faults = (d.func fn).faults.map g ∧ ∀ id, d.shuttle id = d.shuttle id :=
    ⟨id, fun _ => rfl, (List.map_id _).symm, fun _ => rfl⟩
  unfold Dev.flushFaults
  dsimp only
  split
  · exact none
  · next e _ =>
    split
    · exact none
    · refine ⟨fun x => if x.id == e.id then { x with posted := true, ring := some (d.func fn).fqt } else x, fun x => ?_, ?_,
        fun id => ?_⟩
      · dsimp only
        split
        · rfl
        · rfl
      · unfold Dev.flushFaults
        rw [writeReserved_func, Dev.func_setFunc_self]
      · unfold Dev.flushFaults
        rw [writeReserved_shuttle]
        rfl

/-- A breakpoint posts an entry of its own, behind the others, with the next ID; no shuttle changes. -/
theorem postFault_breakpoint (d : Dev) (fn : Nat) (e : FaultEntry) (hk : e.kind = 3) :
    ∃ g, SameEntry g ∧
      ((d.postFault fn e).1.func fn).faults =
        ((d.func fn).faults ++ [{ e with
          kind := 3, teamId := d.ownerTeam e, id := (d.func fn).nextFault, joined := 0, posted := false, resolved := false,
          ring := none }]).map g ∧
      ∀ id, (d.postFault fn e).1.shuttle id = d.shuttle id := by
  have alone : (d.func fn).faults.find? (fun x => false) = none := List.find?_eq_none.2 fun _ _ => Bool.false_ne_true
  unfold Dev.postFault
  simp only [hk, bne_self_eq_false, Bool.false_and, alone, beq_self_eq_true, if_true]
  obtain ⟨g, same, faults, shuttles⟩ := flushFaults_one (d.setFunc fn { d.func fn with
    faults := (d.func fn).faults ++ [{ e with
      kind := 3, teamId := d.ownerTeam e, id := (d.func fn).nextFault, joined := 0, posted := false, resolved := false,
      ring := none }],
    nextFault := (d.func fn).nextFault + 1 }) fn
  rw [Dev.func_setFunc_self] at faults
  exact ⟨g, same, faults, shuttles⟩

/-- The shuttle that a breakpoint stops. -/
def Shuttle.broke (sh : Shuttle) (is : Issue) : Shuttle :=
  { ((sh.advance is).takeOver 1010 1).putS 1010 is.next 1 with stopped := true }

/-- The entry of a breakpoint before it is posted. -/
def breakpointEntry (is : Issue) (sh : Shuttle) (env : Env) : FaultEntry :=
  { id := 0, kind := 3, stage := 0, access := 0, ctx := env.launch.ctx, unitLo := 0, unitSize := 0, addr := is.next
    team := env.team.num, joined := 0, posted := false, resolved := false, owner := .shuttle sh.id }

theorem sbrk_goes {s : State} {is : Issue} {sh : Shuttle} {env : Env} (h : s.AtIssue is sh env) :
    execSbrk s = .next (s.withDev
      (if (s.dev.func env.launch.fn).dbgen % 2 == 0 || !ringOk (s.dev.func env.launch.fn).fqs then
        s.dev.setShuttle (sh.advance is)
       else ((s.dev.setShuttle (sh.broke is)).postFault env.launch.fn (breakpointEntry is sh env)).1)) :=
  scalarGo_next h (noUse_runs env sh)

theorem Shuttle.sreg_broke (sh : Shuttle) (is : Issue) (n : Nat) :
    (sh.broke is).sreg n = if n = 1010 then fullOf is.next else sh.sreg n :=
  Shuttle.sreg_setSreg _ _ _ _

/-- Settles O18: with debug on and a fault queue, a breakpoint stops its shuttle and posts one entry; else it only goes on. -/
theorem breakpoint : Obligations.Breakpoint := by
  intro s is sh env h
  refine ⟨fun hg => ?_, fun _ hq => ?_, fun hg hq => ?_⟩
  · exact (sbrk_goes h).trans (by rw [hg]; rfl)
  · exact (sbrk_goes h).trans (by rw [hq, Bool.not_false, Bool.or_true]; rfl)
  · have hsh : s.dev.shuttle is.sh = some sh := h.2.1
    obtain ⟨g, same, faults, shuttles⟩ := postFault_breakpoint (s.dev.setShuttle (sh.broke is)) env.launch.fn
      (breakpointEntry is sh env) rfl
    have unchanged : ∀ {α} (p : FaultEntry → α), (∀ e, p { g e with posted := e.posted, ring := e.ring } = p (g e)) →
        ∀ e, p (g e) = p e := fun p hp e => (hp e).symm.trans (congrArg p (same e))
    rw [List.map_append, List.map_singleton] at faults
    refine ⟨_, sh.broke is, (sbrk_goes h).trans (by rw [hg, hq]; rfl),
      (shuttles _).trans (Dev.shuttle_setShuttle hsh rfl), rfl, rfl, sh.sreg_broke is 1010,
      fun n hn => (sh.sreg_broke is n).trans (if_neg hn), ?_, fun k hk => ?_, ?_⟩
    · rw [faults, List.length_append, List.length_map]
      rfl
    · rw [faults, List.getElem?_append_left (by rw [List.length_map]; exact hk), List.getElem?_map, Option.map_map]
      exact congrArg (fun p => Option.map p _) (funext (unchanged FaultEntry.id fun _ => rfl))
    · exact ⟨_, by rw [faults, List.getLast?_concat], unchanged FaultEntry.id (fun _ => rfl) _,
        unchanged FaultEntry.kind (fun _ => rfl) _, unchanged FaultEntry.owner (fun _ => rfl) _,
        unchanged FaultEntry.addr (fun _ => rfl) _, unchanged FaultEntry.team (fun _ => rfl) _,
        unchanged FaultEntry.ctx (fun _ => rfl) _, unchanged FaultEntry.resolved (fun _ => rfl) _⟩

end Sys2Proof.Machine
end

section
/-!
PROOF. Every step has an effect (spec/95): an event answers a next state in every state, and a stream's instruction does with a
shuttle at issue, which the fetch of its stream supplies.
-/
namespace Sys2Proof.Machine

theorem goes_next (s : State) : Goes (.next s) := ⟨s, rfl⟩

theorem goes_ite {c : Prop} [Decidable c] {a b : Outcome} (ha : Goes a) (hb : Goes b) : Goes (if c then a else b) := by
  split
  · exact ha
  · exact hb

theorem goes_waitFor (s : State) (i : Instr) : Goes (waitFor s i) := ⟨_, rfl⟩

/-! ## Instructions of the streams -/

section
variable {s : State} {is : Issue} {sh : Shuttle} {env : Env} (h : s.AtIssue is sh env)
include h

theorem onIssue_goes (f : Issue → Shuttle → Env → Dev → Dev) : Goes (onIssue s f) := ⟨_, onIssue_eq h f⟩

theorem scalarReg_goes {u : ScalarUse} {f : Issue → Shuttle → Shuttle} : Goes (scalarReg u f s) := onIssue_goes h _

theorem scalarLoad_goes {k x y : Nat} {off : Int} : Goes (scalarLoad k x y off s) := onIssue_goes h _

theorem scalarStore_goes {k ord x y : Nat} {off : Int} : Goes (scalarStore k ord x y off s) := onIssue_goes h _

theorem laneFetched_goes {opc : Nat} {w : LaneWord} {sub1 : Env → Bool}
    {run : LaneCtx → LaneRun → Dev → Shuttle → Entry → LaneStep} : Goes (laneFetched opc w sub1 run s) := onIssue_goes h _

theorem laneWord_goes {opc : Nat} {w : LaneWord} {run : LaneCtx → LaneRun → Dev → Shuttle → Entry → LaneStep} :
    Goes (laneWord opc w run s) := laneFetched_goes h

theorem laneValue_goes {opc : Nat} {w : LaneWord} {f : LaneCtx → LaneRun → WordFn} : Goes (laneValue opc w f s) :=
  laneWord_goes h

theorem laneArith_goes {opc : Nat} {w : LaneWord} {g : LaneArg → Nat × Nat} : Goes (laneArith opc w g s) := laneValue_goes h

theorem boundary_goes {creg : Option Nat} {id : Nat} : Goes (boundary creg id s) := onIssue_goes h _

theorem collective_goes {x y k : Nat} {reads : List Nat} {coll : Shuttle → Nat × Nat × Int} {fill : Shuttle → Nat} :
    Goes (collective x y k reads coll fill s) := onIssue_goes h _

theorem tileMove_goes {x y tile sreg : Nat} {own : Bool} {bad : Nat → Bool} {kind : Nat → Nat → MatKind}
    {draw : Shuttle → Env → List Nat × Shuttle} :
    Goes (tileMove x y tile sreg own bad kind draw s) := onIssue_goes h _

theorem sbankChange_goes {geom : Bool} {x y e : Nat} {mode : Shuttle → Option (Option (Nat × Nat))} :
    Goes (sbankChange geom x y e mode s) := onIssue_goes h _

theorem execSatom_goes (x y f ord aop t z : Nat) : Goes (execSatom x y f ord aop t z s) := by
  unfold execSatom
  exact onIssue_goes h _

/-- The word after `sxt` is one of the forms that it may stand before, or the prefix is illegal. -/
theorem execSxt_goes (hi body : Nat) : Goes (execSxt hi body s) := by
  unfold execSxt
  dsimp only
  split
  case h_12 | h_13 | h_14 => exact scalarLoad_goes h
  case h_15 | h_16 | h_17 | h_19 => exact scalarStore_goes h
  case h_18 => exact onIssue_goes h _
  case h_20 => exact goes_ite (scalarReg_goes h) (onIssue_goes h _)
  case h_27 => exact goes_ite (onIssue_goes h _) (goes_ite (onIssue_goes h _) (onIssue_goes h _))
  case h_28 => exact onIssue_goes h _
  all_goals exact scalarReg_goes h

end

/-! ## Events -/

section
variable {s : State}

theorem fabricEnd_goes (i : Instr) (r : Inbound) : Goes (fabricEnd s i r) := by
  cases r with
  | done d bs => exact goes_next _
  | refused d => exact goes_next _
  | waits => exact goes_waitFor _ _

theorem onUpWait_goes (i : Instr) (f : Dev → Option Dev) : Goes (onUpWait s i f) := by
  unfold onUpWait
  refine goes_ite (goes_next _) ?_
  cases f s.dev with
  | some d => exact goes_next _
  | none => exact goes_waitFor _ _

theorem onDev_goes (fn : Nat) (f : Dev → Dev) : Goes (onDev s fn f) := ⟨_, rfl⟩

theorem execBloadLoad_goes (fn addr : Nat) : Goes (execBloadLoad fn addr s) := by
  unfold execBloadLoad
  refine goes_ite (goes_next _) ?_
  cases s.dev.loadFrom fn addr with
  | some d => exact goes_next _
  | none => exact ⟨_, rfl⟩

theorem execBloadUnload_goes (fn addr : Nat) : Goes (execBloadUnload fn addr s) :=
  goes_ite (goes_next _) (goes_ite ⟨_, rfl⟩ (goes_next _))

theorem execHostBar2Access_goes (fn off size : Nat) (write : Bool) (data : List Byte) :
    Goes (execHostBar2Access fn off size write data s) :=
  goes_ite (goes_next _) (goes_ite (goes_next _) (goes_ite (goes_waitFor _ _) (goes_ite (goes_next _) (goes_next _))))

theorem execFlitParityError_goes (agent : FlitAgent) (die : Nat) : Goes (execFlitParityError agent die s) := by
  unfold execFlitParityError
  refine goes_ite (goes_next _) ?_
  cases s.flitCheck agent die with
  | some t => exact goes_next _
  | none => exact goes_waitFor _ _

theorem execSpdmRequest_goes (r : SpdmRequest) : Goes (execSpdmRequest r s) := by
  refine goes_ite (goes_next _) ?_
  cases r <;> exact goes_next _

/-! ### Register writes -/

/-- A word of a function's space is written: some words start what they name. -/
theorem writeSpace_goes (fn off v : Nat) : Goes (s.writeSpace fn off v) :=
  goes_ite (goes_ite (onDev_goes _ _) (goes_ite (onDev_goes _ _) (goes_next _)))
    (goes_ite (goes_ite (execBloadLoad_goes _ _) (goes_ite (execBloadUnload_goes _ _) (goes_next _)))
      (goes_ite (goes_ite ⟨_, rfl⟩ (goes_ite (onUpWait_goes _ _) (goes_next _))) (onDev_goes _ _)))

theorem writeRegWord_goes (addr v : Nat) : Goes (s.writeRegWord addr v) :=
  goes_ite (writeSpace_goes _ _ _) (goes_ite ⟨_, rfl⟩ (goes_next _))

theorem writeReg_goes (addr size v : Nat) : Goes (s.writeReg addr size v) :=
  goes_ite (writeRegWord_goes _ _) (writeRegWord_goes _ _)

theorem execRegisterWrite_goes (addr v : Nat) : Goes (execRegisterWrite addr v s) :=
  goes_ite (writeReg_goes _ _ _) (writeReg_goes _ _ _)

/-! ### Accesses of the harts -/

theorem hartRegister_goes (r : HartAccess) : Goes (s.hartRegister r) :=
  goes_ite (goes_next _) (goes_ite (writeReg_goes _ _ _) (goes_next _))

theorem hartReach_goes (r : HartAccess) (va : Nat) (i : Instr) : Goes (s.hartReach r va i) := by
  unfold State.hartReach
  dsimp only
  refine goes_ite (goes_ite (hartRegister_goes r) (goes_next _)) ?_
  split
  · exact goes_next _
  · exact goes_waitFor _ _
  · refine goes_ite (goes_next _) ?_
    split
    · exact goes_next _
    · exact goes_waitFor _ _
    · exact goes_next _

theorem hartSplit_goes (r : HartAccess) (b n : Nat) (i : Instr) : Goes (s.hartSplit r b n i) := by
  unfold State.hartSplit
  dsimp only
  split
  · exact goes_next _
  · exact goes_next _
  · exact goes_ite (goes_next _) (goes_next _)
  · exact goes_waitFor _ _

theorem hartData_goes (h : Hart) (r : HartAccess) : Goes (s.hartData h r) := by
  unfold State.hartData
  dsimp only
  refine goes_ite (goes_next _) ?_
  split
  · split
    · exact goes_next _
    · exact goes_next _
    · exact goes_waitFor _ _
    · exact hartReach_goes _ _ _
  · split
    · exact goes_next _
    · exact goes_next _
    · exact goes_next _
    · exact goes_next _
    · exact hartSplit_goes _ _ _ _
    · exact goes_waitFor _ _

theorem execHartMemoryAccess_goes (r : HartAccess) : Goes (execHartMemoryAccess r s) := by
  unfold execHartMemoryAccess
  split
  · exact goes_next _
  · refine goes_ite (goes_next _) ?_
    split
    · exact hartData_goes _ _
    · exact goes_next _
    · exact goes_next _
    · exact goes_waitFor _ _

end

/-! ## Every instruction -/

/-- An event goes on in every state, and a stream's instruction with a shuttle at issue. -/
def Executes (i : Instr) : Prop :=
  (∀ s, Goes (exec i s)) ∨ (ofStream i = true ∧ ∀ {s is sh env}, State.AtIssue s is sh env → Goes (exec i s))

/-- The instructions by the operation that each is; an event that is not named is a next state as it stands. -/
theorem executes (i : Instr) : Executes i := by
  have stream : ∀ {i : Instr}, ofStream i = true → (∀ {s is sh env}, State.AtIssue s is sh env → Goes (exec i s)) →
      Executes i := fun hs hg => .inr ⟨hs, hg⟩
  cases i
  case smov | sadd | ssub | sand | sor | sxor | sshl | sshr | ssra | smul | smulh | smulhu | sdiv | sdivu | srem
    | sremu | smin | smax | sminu | smaxu | sslt | ssltu | sseq | snot | sclz | spopc | sbrev | sneg | smov64 | sadd64
    | ssub64 | sshl64 | sshr64 | ssra64 | smul64 | sli | saddi | sandi | sori | sxori | sshli | sshri | ssrai | ssltiu
    | sli64 | saddi64 | sbr | scall | sjr | sjrL | sloop | sfet | swfull | sempt | syield | snop | sbz | sbnz | sblz
    | sbgez =>
    exact stream rfl fun h => scalarReg_goes h
  case add | sub | mul | mulh | mad | and | or | xor | lop3 | shl | shr | sra | min | max | abs | neg | clz | popc
    | brev | bfe | bfi | sel | cmp | div | rem | addsat | subsat | dp2 | dp4 | shrr | mov | movi | plop | fadd | fsub
    | fmul | fma | fmin | fmax | fneg | fabs | fcmp | fclass | frnd | frcp | frsq | fsqrt | fdiv | fexp2 | flog2
    | fsinpi | fcospi | ftanh | fsigm | fcsgn | cvt | pack | unpk | tw2d =>
    exact stream rfl fun h => laneArith_goes h
  case sld x y off => exact stream rfl fun h => (scalarLoad_goes h : Goes (execSld x y off _))
  case sld64 x y off => exact stream rfl fun h => (scalarLoad_goes h : Goes (execSld64 x y off _))
  case sld128 x y off => exact stream rfl fun h => (scalarLoad_goes h : Goes (execSld128 x y off _))
  case sst x y off => exact stream rfl fun h => (scalarStore_goes h : Goes (execSst x y off _))
  case sst64 x y off => exact stream rfl fun h => (scalarStore_goes h : Goes (execSst64 x y off _))
  case sst128 x y off => exact stream rfl fun h => (scalarStore_goes h : Goes (execSst128 x y off _))
  case sstrel x y off => exact stream rfl fun h => (scalarStore_goes h : Goes (execSstrel x y off _))
  case sxt hi body => exact stream rfl fun h => (execSxt_goes h hi body)
  case sldacq x y off => exact stream rfl fun h => (onIssue_goes h _ : Goes (execSldacq x y off _))
  case satom x y f ord aop t z => exact stream rfl fun h => execSatom_goes h x y f ord aop t z
  case sidx x k => exact stream rfl fun h => (onIssue_goes h _ : Goes (execSidx x k _))
  case smapq x sel => exact stream rfl fun h => (onIssue_goes h _ : Goes (execSmapq x sel _))
  case srgnb k => exact stream rfl fun h => (onIssue_goes h _ : Goes (execSrgnb k _))
  case srgne k => exact stream rfl fun h => (onIssue_goes h _ : Goes (execSrgne k _))
  case sbar k id => exact stream rfl fun h => (onIssue_goes h _ : Goes (execSbar k id _))
  case sfenceSc k => exact stream rfl fun h => (onIssue_goes h _ : Goes (execSfenceSc k _))
  case sfenceAcqrel => exact stream rfl fun h => (onIssue_goes h _ : Goes (execSfenceAcqrel _))
  case sfenceRel => exact stream rfl fun h => (onIssue_goes h _ : Goes (execSfenceRel _))
  case sfenceAcq => exact stream rfl fun h => (onIssue_goes h _ : Goes (execSfenceAcq _))
  case lrun x y n entry => exact stream rfl fun h => (onIssue_goes h _ : Goes (execLrun x y n entry _))
  case lsync => exact stream rfl fun h => (onIssue_goes h _ : Goes (execLsync _))
  case sshare x y f => exact stream rfl fun h => (onIssue_goes h _ : Goes (execSshare x y f _))
  case spawn x y n target => exact stream rfl fun h => (onIssue_goes h _ : Goes (execSpawn x y n target _))
  case selct x k => exact stream rfl fun h => (onIssue_goes h _ : Goes (execSelct x k _))
  case ssetfmt x => exact stream rfl fun h => (onIssue_goes h _ : Goes (execSsetfmt x _))
  case scpy x y restart r => exact stream rfl fun h => (onIssue_goes h _ : Goes (execScpy x y restart r _))
  case swaitc x y => exact stream rfl fun h => (onIssue_goes h _ : Goes (execSwaitc x y _))
  case ssig x y op ord loc d sreg => exact stream rfl fun h => (onIssue_goes h _ : Goes (execSsig x y op ord loc d sreg _))
  case sthd x y n => exact stream rfl fun h => (onIssue_goes h _ : Goes (execSthd x y n _))
  case smma x y sreg own zero pair tile =>
    exact stream rfl fun h => (onIssue_goes h _ : Goes (execSmma x y sreg own zero pair tile _))
  case smacq own tile => exact stream rfl fun h => (onIssue_goes h _ : Goes (execSmacq own tile _))
  case smrel own tile => exact stream rfl fun h => (onIssue_goes h _ : Goes (execSmrel own tile _))
  case sscan x y c first last => exact stream rfl fun h => (onIssue_goes h _ : Goes (execSscan x y c first last _))
  case sscw x c => exact stream rfl fun h => (onIssue_goes h _ : Goes (execSscw x c _))
  case sacc x y q => exact stream rfl fun h => (onIssue_goes h _ : Goes (execSacc x y q _))
  case sbankTake x y fifo e => exact stream rfl fun h => (onIssue_goes h _ : Goes (execSbankTake x y fifo e _))
  case slaunch x y => exact stream rfl fun h => (onIssue_goes h _ : Goes (execSlaunch x y _))
  case sarm x y tag count => exact stream rfl fun h => (onIssue_goes h _ : Goes (execSarm x y tag count _))
  case strap code => exact stream rfl fun h => (onIssue_goes h _ : Goes (execStrap code _))
  case strapRet => exact stream rfl fun h => (onIssue_goes h _ : Goes (execStrapRet _))
  case sbrk => exact stream rfl fun h => (onIssue_goes h _ : Goes (execSbrk _))
  case sexit => exact stream rfl fun h => (onIssue_goes h _ : Goes (execSexit _))
  case scsrR x csr => exact stream rfl fun h => (onIssue_goes h _ : Goes (execScsrR x csr _))
  case scsrW x csr => exact stream rfl fun h => (onIssue_goes h _ : Goes (execScsrW x csr _))
  case scyc x => exact stream rfl fun h => (onIssue_goes h _ : Goes (execScyc x _))
  case lend w => exact stream rfl fun h => (onIssue_goes h _ : Goes (execLend w _))
  case unassignedOpcode sub => exact stream rfl fun h => (onIssue_goes h _ : Goes (execUnassignedOpcode sub _))
  case sirb id => exact stream rfl fun h => (boundary_goes h : Goes (execSirb id _))
  case sirc x id => exact stream rfl fun h => (boundary_goes h : Goes (execSirc x id _))
  case scoll x y k op => exact stream rfl fun h => (collective_goes h : Goes (execScoll x y k op _))
  case sprfx x y k op => exact stream rfl fun h => (collective_goes h : Goes (execSprfx x y k op _))
  case sslide x y k width fill d => exact stream rfl fun h => (collective_goes h : Goes (execSslide x y k width fill d _))
  case sbcast x y k rank => exact stream rfl fun h => (collective_goes h : Goes (execSbcast x y k rank _))
  case smld x y tile sreg e bf own => exact stream rfl fun h => (tileMove_goes h : Goes (execSmld x y tile sreg e bf own _))
  case smst x y tile sreg e own => exact stream rfl fun h => (tileMove_goes h : Goes (execSmst x y tile sreg e own _))
  case sbankScr x e => exact stream rfl fun h => (sbankChange_goes h : Goes (execSbankScr x e _))
  case sbankFifo x y e => exact stream rfl fun h => (sbankChange_goes h : Goes (execSbankFifo x y e _))
  case sbankRel x e => exact stream rfl fun h => (sbankChange_goes h : Goes (execSbankRel x e _))
  case pf w => exact stream rfl fun h => (laneValue_goes h : Goes (execPf w _))
  case cln w => exact stream rfl fun h => (laneValue_goes h : Goes (execCln w _))
  case tabt w => exact stream rfl fun h => (laneValue_goes h : Goes (execTabt w _))
  case tsts w => exact stream rfl fun h => (laneValue_goes h : Goes (execTsts w _))
  case bra w => exact stream rfl fun h => (laneValue_goes h : Goes (execBra w _))
  case brr w => exact stream rfl fun h => (laneValue_goes h : Goes (execBrr w _))
  case lcall w => exact stream rfl fun h => (laneValue_goes h : Goes (execLcall w _))
  case lidx w => exact stream rfl fun h => (laneValue_goes h : Goes (execLidx w _))
  case lvote w => exact stream rfl fun h => (laneValue_goes h : Goes (execLvote w _))
  case lfmt w => exact stream rfl fun h => (laneValue_goes h : Goes (execLfmt w _))
  case rdflg w => exact stream rfl fun h => (laneValue_goes h : Goes (execRdflg w _))
  case clrflg w => exact stream rfl fun h => (laneValue_goes h : Goes (execClrflg w _))
  case lnop w => exact stream rfl fun h => (laneValue_goes h : Goes (execLnop w _))
  case ltrap w => exact stream rfl fun h => (laneValue_goes h : Goes (execLtrap w _))
  case bperm w => exact stream rfl fun h => (laneValue_goes h : Goes (execBperm w _))
  case ld w => exact stream rfl fun h => (laneWord_goes h : Goes (execLd w _))
  case st w => exact stream rfl fun h => (laneWord_goes h : Goes (execSt w _))
  case atom w => exact stream rfl fun h => (laneWord_goes h : Goes (execAtom w _))
  case red w => exact stream rfl fun h => (laneWord_goes h : Goes (execRed w _))
  case tbeg w => exact stream rfl fun h => (laneWord_goes h : Goes (execTbeg w _))
  case tend w => exact stream rfl fun h => (laneWord_goes h : Goes (execTend w _))
  case xissue w => exact stream rfl fun h => (laneWord_goes h : Goes (execXissue w _))
  case accrd w => exact stream rfl fun h => (laneWord_goes h : Goes (execAccrd w _))
  case accwr w => exact stream rfl fun h => (laneWord_goes h : Goes (execAccwr w _))
  case lshb w => exact stream rfl fun h => (laneFetched_goes h : Goes (execLshb w _))
  case mailboxMessage dom src tag payload => exact .inl fun _ => goes_ite (goes_next _) (fabricEnd_goes _ _)
  case inboundFabricRequest r => exact .inl fun _ => goes_ite (goes_next _) (fabricEnd_goes _ _)
  case hostBar2Access fn off size write data => exact .inl fun _ => execHostBar2Access_goes fn off size write data
  case bloadLoad fn addr => exact .inl fun _ => execBloadLoad_goes fn addr
  case bloadUnload fn addr => exact .inl fun _ => execBloadUnload_goes fn addr
  case fqresUnrecoverable fn id => exact .inl fun _ => (onUpWait_goes _ _ : Goes (execFqresUnrecoverable fn id _))
  case ualinkErrorCompletion sender addr => exact .inl fun _ => (onUpWait_goes _ _ : Goes (execUalinkErrorCompletion sender addr _))
  case flitParityError agent die => exact .inl fun _ => execFlitParityError_goes agent die
  case hartMemoryAccess r => exact .inl fun _ => execHartMemoryAccess_goes r
  case registerWrite addr v => exact .inl fun _ => execRegisterWrite_goes addr v
  case spdmRequest r => exact .inl fun _ => execSpdmRequest_goes r
  all_goals exact .inl fun _ => ⟨_, rfl⟩

/-! ## Steps -/

theorem goes_endIssue {o : Outcome} (h : Goes o) : Goes (endIssue o) := by
  obtain ⟨t, rfl⟩ := h
  exact goes_next _

/-- A stream that issues has its shuttle, with what that runs in. -/
theorem atIssue_of_issuer {s : State} {id : Nat} {sh : Shuttle} {env : Env} (h : s.dev.issuer id = some (sh, env)) {is : Issue}
    (his : is.sh = sh.id) : (s.issuing is).AtIssue is sh env := by
  unfold Dev.issuer at h
  split at h
  · cases h
  · next x hx =>
    split at h
    · cases h
    · next e he =>
      split at h
      · cases h
        exact ⟨rfl, by rw [his, Dev.shuttle_id hx]; exact hx, he⟩
      · cases h

/-- The instruction that a scalar stream issues is its shuttle's. -/
theorem fetchScalar_sh (sh : Shuttle) (scode : List Nat) : (fetchScalar sh scode).1.sh = sh.id := by
  cases hw : scode[sh.pc]? with
  | none =>
    obtain ⟨is, his, -, hf, -⟩ := fetchScalar_beyond hw
    rw [hf, his]
  | some w =>
    rw [fetchScalar_word hw]
    rfl

theorem fetchTurn_atIssue {s : State} {id : Nat} {lane : Bool} {is : Issue} {i : Instr}
    (h : s.dev.fetchTurn id lane = some (is, i)) : ∃ sh env, (s.issuing is).AtIssue is sh env := by
  unfold Dev.fetchTurn at h
  split at h
  · cases h
  · next sh env hi =>
    split at h
    · refine ⟨sh, env, atIssue_of_issuer hi ?_⟩
      rw [← fetchScalar_sh sh env.bolt.scode, Option.some.inj h]
    · split at h
      · cases h
      · obtain ⟨e, -, he⟩ := Option.map_eq_some_iff.1 h
        refine ⟨sh, env, atIssue_of_issuer hi ?_⟩
        rw [fetchLane_eq] at he
        exact (congrArg (fun p : Issue × Instr => p.1.sh) he.symm :)

theorem stepStream_goes (s : State) (id : Nat) (lane : Bool) : Goes (stepStream s id lane) := by
  unfold stepStream
  split
  · exact goes_next _
  · next is i hf =>
    refine goes_endIssue ?_
    obtain ⟨sh, env, hat⟩ := fetchTurn_atIssue hf
    obtain hgoes | ⟨-, hgoes⟩ := executes i
    · exact hgoes _
    · exact hgoes hat

theorem stepTurn_goes (t : Turn) (s : State) : Goes (stepTurn t s) := by
  refine goes_ite (goes_next _) ?_
  cases t with
  | scalar id => exact stepStream_goes s id false
  | lane id => exact stepStream_goes s id true
  | event i =>
    by_cases hi : ofStream i = true
    · exact (congrArg Goes (if_pos hi)).mpr (goes_next _)
    · refine (congrArg Goes (if_neg hi)).mpr (goes_endIssue ?_)
      obtain hgoes | ⟨hs, -⟩ := executes i
      · exact hgoes _
      · exact absurd hs hi
  | outside x => exact ⟨_, rfl⟩

/-- Settles O7: the turn that comes next goes on, whatever it is. -/
theorem stepNeverStops : Obligations.StepNeverStops := by
  intro s
  unfold State.Safe step
  split
  · exact goes_next _
  · exact stepTurn_goes _ _

end Sys2Proof.Machine
end

section
/-!
PROOF. Writes of the privileged registers (spec/12 R252, R253, R264; spec/18 R401 to R404; spec/20 R414 to R419, R457; spec/22
R436, R446): where they are ignored, the space that software writes them in, and the changes that take effect one after another.
-/
namespace Sys2Proof.Machine

variable {s : State} {fn v : Nat}

/-! ## Present functions of a device that runs (R449, R453, R457) -/

theorem onUp_up (h : s.up = true) (f : Dev → Dev) : onUp s f = .next (s.withDev (f s.dev)) := by
  rw [onUp, if_pos h]

theorem onDev_served (h : s.Serves fn) (f : Dev → Dev) : onDev s fn f = .next (s.withDev (f s.dev)) := by
  rw [onDev, onUp_up h.1, if_pos h.2]

theorem onDev_unserved (h : ¬ s.Serves fn) (f : Dev → Dev) : onDev s fn f = .next s := by
  rw [onDev, onUp]
  split
  · next hu => rw [if_neg fun hp => h ⟨hu, hp⟩]
  · rfl

/-- A write that a condition makes ignored. -/
theorem onDev_ignored (h : s.Serves fn) {f : Dev → Dev} (hf : f s.dev = s.dev) : onDev s fn f = .next s := by
  rw [onDev_served h, hf]

/-- A write that sets registers of the function. -/
theorem onDev_sets (h : s.Serves fn) {f : Dev → Dev} {g : Func} (hf : f s.dev = s.dev.setFunc fn g) :
    onDev s fn f = .next (s.withDev (s.dev.setFunc fn g)) := by
  rw [onDev_served h, hf]

theorem lt_of_present {d : Dev} (h : d.present fn = true) : fn < 48 := by
  simp only [Dev.present, Bool.and_eq_true, decide_eq_true_eq] at h
  exact h.1.1

/-! ## The writes that are steps of their own -/

theorem exec_l2bmWrite : exec (.l2bmWrite fn v) s = onDev s fn fun d => d.writeL2bm fn v := rfl
theorem exec_hseedWrite (k : Nat) :
    exec (.hseedWrite fn k v) s = onDev s fn fun d => if k < 64 then d.writeHseed fn k v else d := rfl
theorem exec_tinvWrite : exec (.tinvWrite fn v) s = onDev s fn fun d => d.writeTinv fn v := rfl
theorem exec_memShareWrite (size : Bool) :
    exec (.memShareWrite fn size v) s = onDev s fn fun d => d.writeShare fn size v := rfl
theorem exec_fdomWrite : exec (.fdomWrite fn v) s = onDev s fn fun d => d.writeFdom fn v := rfl
theorem exec_errsWrite : exec (.errsWrite fn v) s = onDev s fn fun d => d.writeErrs fn v := rfl
theorem exec_fqsWrite : exec (.fqsWrite fn v) s = onDev s fn fun d => d.writeFqs fn v := rfl
theorem exec_bcmdRefill : exec (.bcmdRefill fn) s = onDev s fn fun d => d.refill fn := rfl
theorem exec_keyctlLoad (slot : Nat) :
    exec (.keyctlLoad fn slot) s =
      onDev s fn fun d => if slot < 32 then d.changeKey fn slot (.loaded (d.func fn).keydata) else d := rfl
theorem exec_keyctlDraw (slot : Nat) :
    exec (.keyctlDraw fn slot) s = onDev s fn fun d => if slot < 32 then d.drawKey fn slot else d := rfl

/-- The writes for an absent function, or while the device does not run. -/
theorem unserved_waits (h : ¬ s.Serves fn) (k : Nat) (size : Bool) :
    ∀ i ∈ [Instr.l2bmWrite fn v, .hseedWrite fn k v, .tinvWrite fn v, .memShareWrite fn size v, .fdomWrite fn v,
      .errsWrite fn v, .fqsWrite fn v, .keyctlLoad fn k, .keyctlDraw fn k, .bcmdRefill fn], Waits i s := by
  have waits : ∀ {i f}, exec i s = onDev s fn f → Waits i s := fun hi => hi.trans (onDev_unserved h _)
  simp only [List.forall_mem_cons, List.not_mem_nil, false_implies, implies_true, and_true]
  exact ⟨waits exec_l2bmWrite, waits (exec_hseedWrite k), waits exec_tinvWrite, waits (exec_memShareWrite size),
    waits exec_fdomWrite, waits exec_errsWrite, waits exec_fqsWrite, waits (exec_keyctlLoad k), waits (exec_keyctlDraw k),
    waits exec_bcmdRefill⟩

/-! ## The register space (R418) -/

/-- A write of an aligned word of a function's space, outside the 32-bit registers of PLB. -/
theorem execRegisterWrite_space {off : Nat} (hf : fn < 48) (h8 : off % 8 = 0) (ho : off < 0x1000)
    (hp : off < 0x0D8 ∨ 0x0F8 ≤ off) (s : State) :
    execRegisterWrite (0x3E0000000 + 0x1000 * fn + off) v s = s.writeSpace fn off (v % 2 ^ 64) := by
  have haddr : (0x3E0000000 + 0x1000 * fn + off) / 8 * 8 = 0x3E0000000 + 0x1000 * fn + off := by omega
  have hmod : (0x3E0000000 + 0x1000 * fn + off) % 0x1000 = off := by omega
  have hspace : (0x3E0000000 + 0x1000 * fn + off - spaceBase) / 0x1000 = fn := by unfold spaceBase; omega
  have hoff : (0x3E0000000 + 0x1000 * fn + off - spaceBase) % 0x1000 = off := by unfold spaceBase; omega
  have hin : (decide (spaceBase ≤ 0x3E0000000 + 0x1000 * fn + off) &&
      decide (0x3E0000000 + 0x1000 * fn + off < spaceBase + 0x1000 * Config.numFuncs)) = true := by
    rw [Bool.and_eq_true, decide_eq_true_eq, decide_eq_true_eq]
    unfold spaceBase Config.numFuncs
    omega
  have hplb : (decide (0x0D8 ≤ off) && decide (off < 0x0F8)) = false := by
    simp only [Bool.and_eq_false_iff, decide_eq_false_iff_not]
    omega
  unfold execRegisterWrite
  simp only [hmod, Bool.and_assoc, hplb, Bool.and_false]
  simp only [Bool.false_eq_true, if_false, State.writeReg, ge_iff_le, le_refl, if_true, haddr, State.writeRegWord, hin, hspace,
    hoff]

/-- The same for a value of 64 bits. -/
theorem registerWrite_word {off : Nat} (hf : fn < 48) (h8 : off % 8 = 0) (ho : off < 0x1000)
    (hp : off < 0x0D8 ∨ 0x0F8 ≤ off) (hv : v < 2 ^ 64) (s : State) :
    exec (.registerWrite (0x3E0000000 + 0x1000 * fn + off) v) s = s.writeSpace fn off v :=
  (execRegisterWrite_space hf h8 ho hp s).trans (by rw [Nat.mod_eq_of_lt hv])

/-! ## The conditions of the writes -/

theorem writeL2bm_ignored (d : Dev) (h : v / 2 ^ (8 * bits (d.part (fn / 4)).pdesc 55 52) ≠ 0) : d.writeL2bm fn v = d :=
  if_pos (bne_iff_ne.2 h)

theorem writeL2bm_sets (d : Dev) (h : v / 2 ^ (8 * bits (d.part (fn / 4)).pdesc 55 52) = 0) :
    d.writeL2bm fn v = d.setFunc fn { d.func fn with remap := (d.func fn).remap ++ [.l2bm v] } :=
  if_neg fun hc => bne_iff_ne.1 hc h

theorem tinvReserved_iff :
    tinvReserved v = true ↔ 2 ^ 56 ≤ v ∨ bits v 5 3 ≠ 0 ∨ v % 4 = 3 ∨ (v % 4 = 1 ∧ bit v 2 = true) := by
  simp only [tinvReserved, Bool.or_eq_true, Bool.and_eq_true, decide_eq_true_eq, bne_iff_ne, beq_iff_eq, ge_iff_le, or_assoc]

theorem writeTinv_reserved (d : Dev) (h : tinvReserved v = true) : d.writeTinv fn v = d := if_pos h

theorem writeTinv_sets (d : Dev) (h : tinvReserved v ≠ true) :
    d.writeTinv fn v = d.setFunc fn { d.func fn with tinv := (d.func fn).tinv ++ [v] } := if_neg h

/-- Whether another function has a domain. -/
theorem otherDomain_iff (d : Dev) :
    ((List.range Config.numFuncs).any fun g => g != fn && (d.func g).fdom == v) = true ↔
      ∃ g, g < 48 ∧ g ≠ fn ∧ (d.func g).fdom = v := by
  simp only [List.any_eq_true, List.mem_range, Config.numFuncs, Bool.and_eq_true, bne_iff_ne, beq_iff_eq]

theorem writeFdom_ignored (d : Dev) (hv : v < 2 ^ 16) (h : ∃ g, g < 48 ∧ g ≠ fn ∧ (d.func g).fdom = v) (h0 : v ≠ 0) :
    d.writeFdom fn v = d := by
  rw [Dev.writeFdom, Nat.mod_eq_of_lt hv]
  exact if_pos (by rw [(otherDomain_iff d).2 h, bne_iff_ne.2 h0]; rfl)

theorem writeFdom_sets (d : Dev) (hv : v < 2 ^ 16) (h : ∀ g, g < 48 → g ≠ fn → v ≠ 0 → (d.func g).fdom ≠ v) :
    d.writeFdom fn v = d.setFunc fn { d.func fn with fdom := v } := by
  rw [Dev.writeFdom, Nat.mod_eq_of_lt hv]
  refine if_neg fun hc => ?_
  obtain ⟨h0, ho⟩ := Bool.and_eq_true_iff.1 hc
  obtain ⟨g, hg, hne, he⟩ := (otherDomain_iff d).1 ho
  exact h g hg hne (bne_iff_ne.1 h0) he

theorem writeShare_eq (d : Dev) (size : Bool) :
    d.writeShare fn size v =
      let base := if size then (d.func fn).memb else v
      let n := if size then v else (d.func fn).mems
      if v % 2 ^ 30 ≠ 0 ∨ 2 ^ 64 ≤ v ∨ d.shareClash fn base n = true then d
      else d.setFunc fn { d.func fn with memb := base, mems := n } := by
  unfold Dev.writeShare
  simp only [Bool.or_eq_true, bne_iff_ne, decide_eq_true_eq, ge_iff_le, or_assoc]

theorem writeErrs_sets (d : Dev) (hv : v < 2 ^ 64) :
    d.writeErrs fn v = d.setFunc fn { d.func fn with errs := v, errh := 0, errt := 0 } := by
  rw [Dev.writeErrs, Nat.mod_eq_of_lt hv]

/-- With no fault entry a write of FQS empties the ring and posts nothing. -/
theorem writeFqs_sets (d : Dev) (hv : v < 2 ^ 64) (h : (d.func fn).faults = []) :
    d.writeFqs fn v = d.setFunc fn { d.func fn with fqs := v, fqh := 0, fqt := 0 } := by
  unfold Dev.writeFqs
  simp only [Func.forgetRing, h, List.map_nil, List.length_nil, Nat.mod_eq_of_lt hv]
  rw [Dev.flushFaults, ← h]

/-! ## Changes that take effect one after another -/

theorem l2RemapComplete_eq (s : State) (fn : Nat) :
    exec (.l2RemapComplete fn) s = .next (s.withDev (s.dev.setFunc fn (s.dev.func fn).applyRemap)) := rfl

theorem applyRemap_l2bm {f : Func} {w : Nat} {cs : List RemapChange} (h : f.remap = .l2bm w :: cs) :
    f.applyRemap = { f with remap := cs, l2bm := w } := by simp only [Func.applyRemap, h]

theorem applyRemap_hseed {f : Func} {k w : Nat} {cs : List RemapChange} (h : f.remap = .hseed k w :: cs) :
    f.applyRemap = { f with remap := cs, hseed := putK 0 f.hseed k w } := by simp only [Func.applyRemap, h]

theorem completeTinv_waits {d : Dev} {w : Nat} {ws : List Nat} (h : (d.func fn).tinv = w :: ws)
    (hw : d.tinvWaits fn w = true) : d.completeTinv fn = d := by
  simp only [Dev.completeTinv, h, hw, if_true]

theorem completeTinv_done {d : Dev} {w : Nat} {ws : List Nat} (h : (d.func fn).tinv = w :: ws)
    (hw : d.tinvWaits fn w = false) :
    d.completeTinv fn =
      { d with tlb := d.tlb.filter fun t => !(t.fn == fn && tinvNames w t.ctx) }.setFunc fn { d.func fn with tinv := ws } := by
  simp only [Dev.completeTinv, h, hw, Bool.false_eq_true, if_false]

/-- The translations that an invalidation leaves. -/
theorem mem_uninvalidated (tlb : List TlbEntry) (w : Nat) (e : TlbEntry) :
    e ∈ tlb.filter (fun t => !(t.fn == fn && tinvNames w t.ctx)) ↔
      e ∈ tlb ∧ ¬ (e.fn = fn ∧ (w % 4 = 2 ∨ bit w 2 = true ∨ bits w 11 6 = e.ctx)) := by
  simp only [List.mem_filter, Bool.not_eq_true', ← Bool.not_eq_true, Bool.and_eq_true, beq_iff_eq, tinvNames, Bool.or_eq_true,
    or_assoc]

theorem completeKey_eq {d : Dev} {slot : Nat} {key : Key} {cs : List (Nat × Key)} (h : (d.func fn).keyChange = (slot, key) :: cs) :
    d.completeKey fn = { d with l1 := d.l1.filter fun c => c.keyid != slot }.setFunc fn
      { d.func fn with keyChange := cs, keys := (slot, key) :: (d.func fn).keys.filter fun x => x.1 != slot } := by
  simp only [Dev.completeKey, h]

/-- A slot that has taken a new key. -/
theorem keyAt_replaced (f : Func) (fn slot j : Nat) (key : Key) (cs : List (Nat × Key)) :
    { f with keyChange := cs, keys := (slot, key) :: f.keys.filter fun x => x.1 != slot }.keyAt fn j =
      if j = slot then key else f.keyAt fn j := by
  unfold Func.keyAt
  dsimp only
  by_cases h : j = slot
  · rw [if_pos h, List.find?_cons_of_pos (by simp [h])]
  · have hfind : (f.keys.filter fun x => x.1 != slot).find? (fun k => k.1 == j) = f.keys.find? fun k => k.1 == j := by
      rw [List.find?_filter]
      congr 1
      funext k
      by_cases hk : k.1 = j
      · simp [hk, h]
      · simp [hk]
    rw [if_neg h, List.find?_cons_of_neg (by simpa using Ne.symm h), hfind]

/-! ## Partitions (R417) -/

theorem pdescWrite_eq {p : Nat} (h : s.up = true) (hp : p < 12) (ext : Bool) (v : Nat) :
    exec (.pdescWrite p ext v) s = .next (s.withDev (s.dev.writePdesc p ext v)) :=
  (onUp_up h _).trans (by rw [if_pos (by simpa [Config.numParts] using hp)])

theorem writePdesc_busy {d : Dev} {p : Nat} (hv : bit (d.part p).pdesc 63 = true) (hb : d.partBusy p = true) (ext : Bool)
    (v : Nat) : d.writePdesc p ext v = d := by
  simp only [Dev.writePdesc, pdValid, hv, hb, Bool.and_self, if_true]

/-- A partition whose descriptor may change. -/
theorem writePdesc_free {d : Dev} {p : Nat} (h : bit (d.part p).pdesc 63 = false ∨ d.partBusy p = false) (ext : Bool) (v : Nat) :
    d.writePdesc p ext v =
      if ext then if v ≥ 2 ^ 24 || bits v 19 16 != 0 then d else d.setPart p { d.part p with pdescx := v }
      else if v ≥ 2 ^ 64 || bits v 62 60 != 0 || bits v 49 48 != 0 || (bit v 63 && !d.pdescOk p v) then d
      else (d.resetMaps (validSlices (d.part p).pdesc ++ validSlices v)).setPart p
        { d.part p with pdesc := v, running := none, used := 0, last := none } := by
  have free : (pdValid (d.part p).pdesc && d.partBusy p) = false := by
    rw [Bool.and_eq_false_iff]
    exact h
  simp only [Dev.writePdesc, free, Bool.false_eq_true, if_false]
  rfl

theorem writePdescx_sets {d : Dev} {p : Nat} (h : bit (d.part p).pdesc 63 = false ∨ d.partBusy p = false) (hv : v < 2 ^ 24)
    (hz : bits v 19 16 = 0) : d.writePdesc p true v = d.setPart p { d.part p with pdescx := v } := by
  have ok : (decide (v ≥ 2 ^ 24) || bits v 19 16 != 0) = false := by
    rw [hz, decide_eq_false (by omega)]
    rfl
  rw [writePdesc_free h, if_pos rfl, ok]
  rfl

theorem writePdesc_sets {d : Dev} {p : Nat} (h : bit (d.part p).pdesc 63 = false ∨ d.partBusy p = false) (hv : v < 2 ^ 64)
    (hz1 : bits v 62 60 = 0) (hz2 : bits v 49 48 = 0) (hok : bit v 63 = false ∨ d.pdescOk p v = true) :
    d.writePdesc p false v = (d.resetMaps (validSlices (d.part p).pdesc ++ validSlices v)).setPart p
      { d.part p with pdesc := v, running := none, used := 0, last := none } := by
  have ok : (decide (v ≥ 2 ^ 64) || bits v 62 60 != 0 || bits v 49 48 != 0 || (bit v 63 && !d.pdescOk p v)) = false := by
    have hset : (bit v 63 && !d.pdescOk p v) = false := by
      rcases hok with hok | hok
      · rw [hok, Bool.false_and]
      · rw [hok, Bool.not_true, Bool.and_false]
    rw [hz1, hz2, hset, decide_eq_false (by omega)]
    rfl
  rw [writePdesc_free h, ok]
  rfl

theorem writePdesc_refused {d : Dev} {p : Nat} (h : bit (d.part p).pdesc 63 = false ∨ d.partBusy p = false)
    (hv : bit v 63 = true) (hok : d.pdescOk p v = false) : d.writePdesc p false v = d := by
  rw [writePdesc_free h, hv, hok, Bool.not_false, Bool.and_self, Bool.or_true]
  rfl

theorem getK_filter_kept {α : Type} (d : α) (m : List (Nat × α)) (p : Nat × α → Bool) (k : Nat)
    (h : ∀ v, p (k, v) = true) : getK d (m.filter p) k = getK d m k := by
  induction m with
  | nil => rfl
  | cons x m ih =>
    obtain ⟨k', v⟩ := x
    by_cases hk : k' = k
    · subst hk
      simp [List.filter_cons_of_pos (h v), getK]
    · by_cases hp : p (k', v) = true
      · simp [List.filter_cons_of_pos hp, getK, hk, ih]
      · simp [List.filter_cons_of_neg hp, getK, hk, ih]

/-- The maps of the cores of some slices are as at reset; no other map changes. -/
theorem tw2Map_resetMaps (d : Dev) (slices : List Nat) (core : Nat) {k : Nat} (hk : k < 8) :
    (d.resetMaps slices).tw2Map core k = if core / 12 ∈ slices then 0x00423C30 else d.tw2Map core k := by
  have hslice : (core * 8 + k) / 8 / Config.coresPerCluster / 3 = core / 12 := by
    unfold Config.coresPerCluster
    omega
  by_cases h : core / 12 ∈ slices
  · rw [if_pos h]
    exact getK_filter _ _ _ _ fun v => by simp [hslice, h]
  · rw [if_neg h]
    exact getK_filter_kept _ _ _ _ fun v => by simp [hslice, h]

/-! ## The bolt loader (R401 to R403) -/

theorem meet_besideCaches (d : Dev) (fn ctx va : Nat) (k : AccKind) :
    (d.meet fn ctx va k).1.besideCaches = d.besideCaches := by
  have htr := translate_besideCaches d fn ctx va k.reads k.writes
  unfold Dev.meet
  split
  · next heq =>
    rw [heq] at htr
    split <;> exact htr
  · next heq =>
    rw [heq] at htr
    split <;> exact htr

theorem hubRead_besideCaches (d : Dev) (fn ctx va n : Nat) : (d.hubRead fn ctx va n).1.besideCaches = d.besideCaches := by
  have hloc : (d.hubLoc fn ctx va n .load).1.besideCaches = d.besideCaches := by
    have hmeet := meet_besideCaches d fn ctx va .load
    unfold Dev.hubLoc
    split
    · rfl
    · split
      · next heq => rwa [heq] at hmeet
      · next heq => rwa [heq] at hmeet
  unfold Dev.hubRead
  split
  · next heq => rwa [heq] at hloc
  · next heq => rwa [heq] at hloc

/-- Reading an image changes nothing but caches. -/
theorem imageRead_besideCaches (fn n : Nat) (va : Nat) (d : Dev) :
    (Dev.imageRead fn va n d).1.besideCaches = d.besideCaches := by
  induction n generalizing va d with
  | zero => rfl
  | succ n ih =>
    have hread := hubRead_besideCaches d fn 0 va 16
    unfold Dev.imageRead
    split
    · rfl
    · split
      · next heq => rwa [heq] at hread
      · next d' w heq =>
        rw [heq] at hread
        have hrest := ih (va + 16) d'
        split
        · next heq' =>
          rw [heq'] at hrest
          exact hrest.trans hread
        · exact hrest.trans hread

theorem imageRead_func {n : Nat} {d d' : Dev} {r : ImageRead} (h : Dev.imageRead fn v n d = (d', r)) (g : Nat) :
    d'.func g = d.func g := by
  have hb := imageRead_besideCaches fn n v d
  rw [h] at hb
  exact (congrArg (fun d : Dev => d.func g) hb :)

theorem setBlstat_eq {d d' : Dev} (h : d'.func fn = d.func fn) (n : Nat) :
    d'.setBlstat fn n = d'.setFunc fn { d.func fn with blstat := n } := by rw [Dev.setBlstat, h]

theorem bloadLoad_done (hs : s.Serves fn) {d : Dev} (h : s.dev.loadFrom fn v = some d) :
    exec (.bloadLoad fn v) s = .next (s.withDev d) := by
  have hr : execBloadLoad fn v s = .next (s.withDev d) := by
    rw [execBloadLoad, hs.1, hs.2, h]
    rfl
  exact hr

theorem bloadUnload_waits (hs : s.Serves fn) (h : ∃ b ∈ (s.dev.func fn).bolts, b.addr = v ∧ s.dev.boltUsed fn b = true) :
    exec (.bloadUnload fn v) s = boltWaits s fn (.bloadUnload fn v) := by
  obtain ⟨b, hb, ha, hu⟩ := h
  have used : ((s.dev.func fn).bolts.any fun b => b.addr == v && s.dev.boltUsed fn b) = true :=
    List.any_eq_true.2 ⟨b, hb, by rw [hu, Bool.and_true, beq_iff_eq, ha]⟩
  have hr : execBloadUnload fn v s = boltWaits s fn (.bloadUnload fn v) := by
    rw [execBloadUnload, hs.1, hs.2]
    exact if_pos used
  exact hr

theorem bloadUnload_done (hs : s.Serves fn) (h : ∀ b ∈ (s.dev.func fn).bolts, b.addr = v → s.dev.boltUsed fn b = false) :
    SetsFunc (.bloadUnload fn v) s fn
      { s.dev.func fn with blstat := 0, bolts := (s.dev.func fn).bolts.filter fun b => b.addr != v } := by
  have used : ¬ ((s.dev.func fn).bolts.any fun b => b.addr == v && s.dev.boltUsed fn b) = true := by
    rw [Bool.not_eq_true, List.any_eq_false]
    intro b hb hc
    obtain ⟨ha, hu⟩ := Bool.and_eq_true_iff.1 hc
    rw [h b hb (beq_iff_eq.1 ha)] at hu
    cases hu
  have hr : execBloadUnload fn v s = .next (s.withDev (s.dev.setFunc fn { s.dev.func fn with
      blstat := 0, bolts := (s.dev.func fn).bolts.filter fun b => b.addr != v })) := by
    rw [execBloadUnload, hs.1, hs.2]
    exact if_neg used
  exact hr

/-- A load whose header cannot be read. -/
theorem loadFrom_headerFaults {d d1 : Dev} (h : Dev.imageRead fn v 8 d = (d1, .faults)) :
    d.loadFrom fn v = some (d1.setFunc fn { d.func fn with blstat := 6 * 2 ^ 16 }) := by
  rw [Dev.loadFrom, h, ← setBlstat_eq (imageRead_func h fn)]

theorem loadFrom_badHeader {d d1 : Dev} {hdr : List Byte} (h : Dev.imageRead fn v 8 d = (d1, .bytes hdr))
    (hh : boltHeaderOk hdr = false) : d.loadFrom fn v = some (d1.setFunc fn { d.func fn with blstat := 2 ^ 16 }) := by
  rw [Dev.loadFrom, h, ← setBlstat_eq (imageRead_func h fn)]
  simp only [hh, Bool.not_false, if_true]

/-- A load whose image has been read. -/
theorem loadFrom_image {d d1 d2 : Dev} {hdr bs : List Byte} (h : Dev.imageRead fn v 8 d = (d1, .bytes hdr))
    (hh : boltHeaderOk hdr = true) (h2 : Dev.imageRead fn v ((boltSize hdr + 15) / 16) d1 = (d2, .bytes bs)) :
    d.loadFrom fn v = d2.loadBolt fn v (bs.take (boltSize hdr)) := by
  rw [Dev.loadFrom, h]
  simp only [hh, Bool.not_true, Bool.false_eq_true, if_false, h2]

theorem loadBolt_refused {d : Dev} {img : List Byte} {r : Nat} (h : d.boltCheck fn img = some r) :
    d.loadBolt fn v img = some (d.setBlstat fn (r * 2 ^ 16)) := by
  rw [Dev.loadBolt, h]

theorem loadBolt_unpatched {d : Dev} {img : List Byte} (h : d.boltCheck fn img = none) (hp : patchRecords img = []) :
    d.loadBolt fn v img = some (d.setFunc fn { d.func fn with
      att := attAfter (d.func fn).att img, attn := (d.func fn).attn + 5, blstat := boltNests img
      bolts := ((d.func fn).bolts.filter fun b => b.addr != v) ++ [boltOf v img] }) := by
  rw [Dev.loadBolt, h]
  simp only [hp]
  rfl


/-! ## The obligation -/

/-- The registers of the space that a write sets whole. -/
theorem unserved_space (h : ¬ s.Serves fn) (hf : fn < 48) :
    ∀ off ∈ [0x050, 0x068, 0x0B0, 0x0B8, 0xA08, 0xA10, 0xA18],
      Waits (.registerWrite (0x3E0000000 + 0x1000 * fn + off) v) s := by
  have word : ∀ {off}, off % 8 = 0 → off < 0x1000 → off < 0x0D8 ∨ 0x0F8 ≤ off →
      s.writeSpace fn off (v % 2 ^ 64) = onDev s fn (fun d => d.writeWord fn off (v % 2 ^ 64)) →
      Waits (.registerWrite (0x3E0000000 + 0x1000 * fn + off) v) s := fun h8 ho hp hw =>
    (execRegisterWrite_space hf h8 ho hp s).trans (hw.trans (onDev_unserved h _))
  simp only [List.forall_mem_cons, List.not_mem_nil, false_implies, implies_true, and_true]
  and_intros <;> exact word (by decide) (by decide) (by decide) rfl

/-- The registers of the space whose writes are steps of their own. -/
theorem space_steps (hs : s.Serves fn) (hv : v < 2 ^ 64) :
    ∀ p ∈ [(0x010, Instr.tinvWrite fn v), (0x018, .memShareWrite fn false v), (0x020, .memShareWrite fn true v),
      (0x108, .fqsWrite fn v), (0x130, .errsWrite fn v), (0xA00, .fdomWrite fn v)],
      exec (.registerWrite (0x3E0000000 + 0x1000 * fn + p.1) v) s = exec p.2 s := by
  have word : ∀ {off} {i : Instr}, off % 8 = 0 → off < 0x1000 → off < 0x0D8 ∨ 0x0F8 ≤ off →
      s.writeSpace fn off v = exec i s → exec (.registerWrite (0x3E0000000 + 0x1000 * fn + off) v) s = exec i s :=
    fun h8 ho hp hw => (registerWrite_word (lt_of_present hs.2) h8 ho hp hv s).trans hw
  simp only [List.forall_mem_cons, List.not_mem_nil, false_implies, implies_true, and_true]
  and_intros <;> exact word (by decide) (by decide) (by decide) rfl

/-- A register of the space that a write sets. -/
theorem space_sets (hs : s.Serves fn) (hv : v < 2 ^ 64) {off : Nat} {g : Func} (h8 : off % 8 = 0) (ho : off < 0x1000)
    (hp : off < 0x0D8 ∨ 0x0F8 ≤ off) (hw : s.writeSpace fn off v = onDev s fn fun d => d.writeWord fn off v)
    (hg : s.dev.writeWord fn off v = s.dev.setFunc fn g) :
    SetsFunc (.registerWrite (0x3E0000000 + 0x1000 * fn + off) v) s fn g :=
  (registerWrite_word (lt_of_present hs.2) h8 ho hp hv s).trans (hw.trans (onDev_sets hs hg))

/-- A drawn key waits for its change, under the next number. -/
theorem keyctlDraw_sets (hs : s.Serves fn) {slot : Nat} (hslot : slot < 32) :
    exec (.keyctlDraw fn slot) s = .next (s.withDev ({ s.dev with nextId := s.dev.nextId + 1 }.setFunc fn
      { s.dev.func fn with keyChange := (s.dev.func fn).keyChange ++ [(slot, Key.drawn s.dev.nextId fn slot)] })) :=
  (exec_keyctlDraw slot).trans ((onDev_served hs _).trans (by rw [if_pos hslot]; rfl))

/-- Settles O57: each write against its condition, and each change that completes, by the lemmas above. -/
theorem registerEvents : Obligations.RegisterEvents := by
  intro s fn v d f at_ sets
  refine ⟨fun k size h => unserved_waits h k size, fun off hoff h hf => unserved_space h hf off hoff, fun hs => ?_,
    fun w cs h => ?_, fun k w cs h => ?_, fun w ws h => ⟨fun hw => ?_, fun hw => ?_⟩, fun slot key cs h => ?_,
    fun p ext hup => ?_, fun hs => ?_⟩
  · have ignored : ∀ {i w}, exec i s = onDev s fn w → w d = d → Waits i s := fun hi hw => hi.trans (onDev_ignored hs hw)
    have set : ∀ {i w g}, exec i s = onDev s fn w → w d = d.setFunc fn g → SetsFunc i s fn g :=
      fun hi hw => hi.trans (onDev_sets hs hw)
    refine ⟨fun h => ignored exec_l2bmWrite (writeL2bm_ignored _ h), fun h => set exec_l2bmWrite (writeL2bm_sets _ h),
      fun k hk => set (exec_hseedWrite k) (if_pos hk),
      ⟨fun h => ignored exec_tinvWrite (writeTinv_reserved _ (tinvReserved_iff.2 h)),
        fun h => set exec_tinvWrite (writeTinv_sets _ fun hc => h (tinvReserved_iff.1 hc))⟩,
      fun size => ⟨fun h => ignored (exec_memShareWrite size) ((writeShare_eq _ size).trans (if_pos h)), fun h1 h2 h3 =>
        set (exec_memShareWrite size) ((writeShare_eq _ size).trans (if_neg ?_))⟩,
      fun hv => ⟨fun ⟨g, hg, hne, he, h0⟩ => ignored exec_fdomWrite (writeFdom_ignored _ hv ⟨g, hg, hne, he⟩ h0),
        fun h => set exec_fdomWrite (writeFdom_sets _ hv h)⟩,
      fun hv => ⟨set exec_errsWrite (writeErrs_sets _ hv), fun h => set exec_fqsWrite (writeFqs_sets _ hv h), space_steps hs hv,
        fun hodd => ?_, ?_, ?_, ?_, ?_, ?_⟩,
      fun slot hslot => ⟨set (exec_keyctlLoad slot) (if_pos hslot), _, keyctlDraw_sets hs hslot, rfl⟩⟩
    · rintro (hc | hc | hc)
      · exact hc h1
      · omega
      · exact Bool.false_ne_true (h3.symm.trans hc)
    · exact (registerWrite_word (lt_of_present hs.2) (by decide) (by decide) (by decide) hv s).trans
        (congrArg (onDev s fn) (funext fun d => if_pos (beq_iff_eq.2 hodd)))
    · exact space_sets hs hv (by decide) (by decide) (by decide) rfl rfl
    · exact space_sets hs hv (by decide) (by decide) (by decide) rfl rfl
    · exact space_sets hs hv (by decide) (by decide) (by decide) rfl rfl
    · exact space_sets hs hv (by decide) (by decide) (by decide) rfl rfl
    · exact space_sets hs hv (by decide) (by decide) (by decide) rfl rfl
  · exact (l2RemapComplete_eq s fn).trans (by rw [applyRemap_l2bm h])
  · refine ⟨_, (l2RemapComplete_eq s fn).trans (by rw [applyRemap_hseed h]), ?_, ?_, fun j => ?_⟩
    · rw [Dev.func_setFunc_self]
    · rw [Dev.func_setFunc_self]
    · rw [Dev.func_setFunc_self]
      exact getK_putK _ _ _ _ _
  · exact congrArg (fun d => Host.Outcome.next (s.withDev d)) (completeTinv_waits h hw)
  · refine ⟨_, congrArg (fun d => Host.Outcome.next (s.withDev d)) (completeTinv_done h hw), Dev.func_setFunc_self _ _ _,
      mem_uninvalidated _ _⟩
  · refine ⟨_, congrArg (fun d => Host.Outcome.next (s.withDev d)) (completeKey_eq h), ?_, fun j => ?_⟩
    · rw [Dev.func_setFunc_self]
    · rw [Dev.func_setFunc_self]
      exact keyAt_replaced f fn slot j key cs
  · refine ⟨fun hp hv hb => ?_, fun hp hfree => ⟨fun hv hz => ?_, fun hv hz1 hz2 hok => ?_, fun hv hok => ?_⟩⟩
    · exact (pdescWrite_eq hup hp ext v).trans (by rw [writePdesc_busy hv hb])
    · exact (pdescWrite_eq hup hp true v).trans (by rw [writePdescx_sets hfree hv hz])
    · have run := (pdescWrite_eq hup hp false v).trans (by rw [writePdesc_sets hfree hv hz1 hz2 hok])
      refine ⟨_, run, ?_, fun q hq => ?_, rfl, fun _ => rfl, fun core k hk => tw2Map_resetMaps d _ core hk⟩
      · exact (Dev.part_setPart _ p _ p).trans (if_pos rfl)
      · exact (Dev.part_setPart _ p _ q).trans (if_neg hq)
    · exact (pdescWrite_eq hup hp false v).trans (by rw [writePdesc_refused hfree hv hok])
  · refine ⟨fun d1 h => ?_, fun d1 hdr h => ⟨fun hh => ?_, fun d2 bs hh h2 => ⟨fun r hr => ?_, fun hr hp => ?_⟩⟩,
      fun h => ?_, bloadUnload_done hs⟩
    · exact bloadLoad_done hs (loadFrom_headerFaults h)
    · exact bloadLoad_done hs (loadFrom_badHeader h hh)
    · exact bloadLoad_done hs ((loadFrom_image h hh h2).trans
        (by rw [loadBolt_refused hr, setBlstat_eq ((imageRead_func h2 fn).trans (imageRead_func h fn))]))
    · exact bloadLoad_done hs ((loadFrom_image h hh h2).trans
        (by rw [loadBolt_unpatched hr hp, (imageRead_func h2 fn).trans (imageRead_func h fn)]))
    · exact bloadUnload_waits hs h

end Sys2Proof.Machine
end

section
/-!
PROOF. A refutation of the claim about `sexit`: the last shuttle of a launch that a machine check has ended.
-/
namespace Sys2Proof.Machine

/-- A shuttle without lane work. -/
def idleShuttle : Shuttle := { soloShuttle with blocks := [], running := false, frontier := [] }

/-- A launch that a machine check has ended (R435), with its one team placed and a run left. -/
def checkedLaunch : Launch := { soloLaunch with runLeft := 1, nextTeam := 1, checked := true }

/-- Its only team, and the only shuttle of that. -/
def checkedState : State :=
  let s := soloState [soloTeam 0] idleShuttle
  { s with dev := { s.dev with launches := [checkedLaunch] } }

/-- Refutes O41: the claim has a launch run again while it has runs left, and does not say that no machine check has ended it. This
one has a run left, and completes with its last shuttle. -/
theorem not_shuttleExit : ¬ Obligations.ShuttleExit := by
  unfold Obligations.ShuttleExit
  intro hall
  let env : Env := { soloEnv with launch := checkedLaunch }
  obtain ⟨-, -, -, hexit⟩ := hall checkedState soloIssue idleShuttle env ⟨rfl, rfl, rfl⟩ rfl
  obtain ⟨-, -, hover⟩ := hexit rfl (by decide)
  obtain ⟨t, ht, hagain, -⟩ := hover (by decide) (by decide) (by decide) (by decide)
  obtain ⟨-, l, hl, -⟩ := hagain (by decide)
  obtain ⟨u, hu, hnone⟩ : ∃ u, exec .sexit checkedState = .next u ∧ u.dev.launches = [] := ⟨_, rfl, by decide⟩
  obtain rfl : t = u := Host.Outcome.next.inj (ht.symm.trans hu)
  rw [hnone] at hl
  exact List.not_mem_nil hl

end Sys2Proof.Machine
end

section
/-!
PROOF. The reset state (spec/18 R389, R404; spec/20 R417, R419; spec/22 R436, R449, R453).
-/
namespace Sys2Proof.Machine

/-- The invariants hold at reset. -/
theorem reset_invariants :
    State.reset.Quiet ∧ State.reset.MemLegal ∧ State.reset.PowerLegal ∧ State.reset.ComplexLegal := by
  unfold State.Quiet State.MemLegal State.PowerLegal State.ComplexLegal
  decide

/-- Settles O8: the maps of reset list nothing, so that every register reads as its reset value. -/
theorem resetState : Obligations.ResetState := by
  obtain ⟨quiet, mem, power, complex⟩ := reset_invariants
  refine ⟨quiet, mem, power, complex, rfl, rfl, rfl, rfl, rfl, rfl, fun _ _ => rfl, fun _ => ⟨rfl, rfl⟩, fun fn => ?_, by decide,
    rfl, rfl, rfl⟩
  refine ⟨rfl, rfl, rfl, rfl, rfl, rfl, rfl, rfl, rfl, rfl, rfl, rfl, rfl, rfl, rfl, rfl, rfl, rfl, rfl, ?_, fun _ => rfl⟩
  exact fun q hq => by simpa [Dev.func, State.reset, Dev.reset, getK, Func.reset] using hq

end Sys2Proof.Machine
end
